-- ==== Sys2Proof/Word.lean ====
section
/-! DEFINITION. The widths the spec numbers: a byte, a word of 32 bits (R6) and a register of 64 bits. -/

namespace Sys2Proof

/-- One byte of a memory or a packet. -/
abbrev Byte := BitVec 8

/-- A word is 32 bits (R6). -/
abbrev Word := BitVec 32

/-- A 64-bit register, as the status page and the mailboxes hold them. -/
abbrev Dword := BitVec 64

end Sys2Proof
end

