-- ==== Sys2Proof/Syntax.lean ====
section
/-! DEFINITION. The commands of the block: one constructor for each row of spec/opcode_table.json, with the operands
the row's rule names. A host command (its row is a function of Table 10-11) names the queue whose next admitted packet it
starts: its parameters stand in that packet (R273). An event that happens to the panel from outside or from a timer (an
error found, a voltage measured, a test's result) carries what was found as operands. -/

namespace Sys2Proof

/-- The three scratchpad memories of a core (Table 05-1). -/
inductive MemKind where
  | W | A | P
deriving DecidableEq, Repr

/-- What a wait limit is measured on (R66): the descriptor at the head of issue, or an issued task by its issue number. -/
inductive WaitRef where
  | head
  | task (id : Nat)
deriving DecidableEq, Repr

/-- A link of the bulk-data network (Table 06-2). -/
inductive LinkRef where
  /-- Crossing n = 4 × edge + s of a tile (Table 06-13). -/
  | crossing (tile n : Nat)
  /-- In-die mesh link or spur of a die, between the routers of two cores (R159). -/
  | inDie (tile site a b : Nat)
  /-- Vertical port V0 to V3 of a die. -/
  | vertical (tile site v : Nat)
  /-- Base-mesh link of a tile, between two of its routers (R160). -/
  | baseMesh (tile a b : Nat)
  /-- Control port or star of a die (R182). -/
  | ctrlDie (tile site : Nat)
  /-- The control link that leaves a tile over an edge, 1 N to 4 W (R182). -/
  | ctrlTile (tile code : Nat)
  /-- The UCIe link of a host die (R259). -/
  | ucie (host : Nat)
deriving DecidableEq, Repr

/-- Where a control message comes from (R183, R328): the k-th message in flight, or a curator's heartbeat. -/
inductive CtrlRef where
  | inFlight (k : Nat)
  | heartbeat (tile : Nat)
deriving DecidableEq, Repr

/-- A receiver of synchronisation lanes (R185, R186): a die's port, the tile's end of a site's link, or the tile's end of the link
over an edge, 1 N to 4 W. -/
inductive SyncRef where
  | diePort (tile site : Nat)
  | site (tile site : Nat)
  | inter (tile code : Nat)
deriving DecidableEq, Repr

/-- Who made a memory read that met an error (R247). -/
inductive MemReader where
  | task (p id : Nat)
  | command (q : Nat)
  | host (h hart : Nat)
deriving DecidableEq, Repr

/-- The three kinds of host access (R261). -/
inductive AccessKind where
  | load | store | fetch
deriving DecidableEq, Repr

/-- Who writes a register (R7, R180, R296, R372). -/
inductive Agent where
  | host (h hart : Nat)
  | curator (tile : Nat)
  | firstStage
deriving DecidableEq, Repr

/-- A register that has no row of its own: one in the host address map, or one that only curators or boot code write. -/
inductive RegRef where
  | mapped (addr size : Nat)
  | niVcw (tile : Nat)
  | niRte (tile dest : Nat)
  | charter (offset : Nat)
deriving DecidableEq, Repr

/-- Why a base tile fences a die (R339). -/
inductive FenceCause where
  | lossOfLock | lossOfFraming | dieReset | dieFault
deriving DecidableEq, Repr

/-- Errors of a device read or write (Table 09-3): corrected by link or inline ECC, uncorrectable but clean on the second read,
or uncorrectable twice. -/
inductive ReadError where
  | corrected (count : Nat)
  | transient
  | lasting
deriving DecidableEq, Repr

/-- A known-answer run (R319): passed, passed on its second run, or failed twice. -/
inductive KatResult where
  | pass | second | fail
deriving DecidableEq, Repr

/-- What training found (R250, R378). -/
structure TrainingResult where
  /-- Every item went through full training. -/
  full : Bool
  /-- Tile crossings (tile, n) that failed full training. -/
  crossings : List (Nat × Nat)
  /-- Dies (tile, site) one of whose ports failed. -/
  dies : List (Nat × Nat)
  /-- Devices with a channel that failed the verification of its saved settings (R250). -/
  reverified : List Nat
  /-- Devices with a channel at 8,533 MT/s. -/
  slow : List Nat
  /-- Devices with a channel that failed at both rates. -/
  failed : List Nat
  /-- Host dies whose UCIe link failed. -/
  ucie : List Nat
deriving DecidableEq, Repr

/-- A tile's request for a load increase (R422); `check` marks a reset check or an accession's known-answer run. -/
structure SlewDemand where
  tile : Nat
  watts : Nat
  check : Bool
deriving DecidableEq, Repr

/-- A histogram monitor (R449). -/
inductive MonRef where
  | core (l m : Nat)
  | tile (t m : Nat)
deriving DecidableEq, Repr

/-- A tile's levels for one congestion interval (R458): 16 routers × 8 ports, then 13 sites × 4 vertical ports. -/
structure TileLevels where
  tile : Nat
  routers : List Nat
  dies : List Nat
deriving DecidableEq, Repr

/-- What FLASH_ACCESS writes in phase TEST (R370, R472). -/
inductive FlashWrite where
  /-- Copy `b` (false A, true B) of the image type `kind` (Table 16-4). -/
  | image (kind : Nat) (b : Bool) (bytes : List Byte)
  | charter (slot : Nat) (bytes : List Byte)
deriving DecidableEq, Repr

/-- A flow of the edge fabric (R487). -/
structure FlowKey where
  srcId : Nat
  srcSrv : Bool
  dstId : Nat
  dstSrv : Bool
  fpart : Nat
  vc : Nat
deriving DecidableEq, Repr

/-- A fabric frame: the fields of the transport header (Table 22-1), its addressing, and its data bytes. -/
structure Frame where
  /-- The destination address decodes to this panel identifier (R484). -/
  macPanel : Nat
  /-- Bad FCS or an uncorrectable FEC codeword (R486). -/
  bad : Bool
  /-- A PAUSE or priority flow-control frame (R483). -/
  pause : Bool
  ver : Nat
  reservedSet : Bool
  type : Nat
  kind : Nat
  flow : FlowKey
  pgen : Nat
  part : Nat
  tag : Nat
  srcRank : Nat
  dstRank : Nat
  seq : Nat
  ack : Nat
  epoch : Nat
  srcLcore : Nat
  dstLcore : Nat
  data : List Byte
deriving DecidableEq, Repr

/-- A command of the block, by its row of the opcode table. -/
inductive Instr where
  /-- MMA (R91): Matrix descriptor C := A × B with A stored M × K and B stored K × N, issued to the engines. -/
  | mma (p : Nat)
  /-- MMA_AT (R91): As MMA, with A stored K × M. -/
  | mmaAt (p : Nat)
  /-- MMA_BT (R91): As MMA, with B stored N × K. -/
  | mmaBt (p : Nat)
  /-- MMA_ACC (R91): C := P + A × B, starting from the PS96 values held in P. -/
  | mmaAcc (p : Nat)
  /-- MMA_ACC_AT (R91): As MMA_ACC, with A stored K × M. -/
  | mmaAccAt (p : Nat)
  /-- MMA_ACC_BT (R91): As MMA_ACC, with B stored N × K. -/
  | mmaAccBt (p : Nat)
  /-- MMA_KSPLIT (R92): MMA over K split into equal ranges whose partials are folded in ascending order. -/
  | mmaKsplit (p : Nat)
  /-- MMA_KSPLIT_BT (R92): As MMA_KSPLIT, with B stored N × K. -/
  | mmaKsplitBt (p : Nat)
  /-- VEC_MAP (R95): Applies an elementwise microprogram of 1 to 16 steps to COUNT elements. -/
  | vecMap (p : Nat)
  /-- VEC_REDUCE (R98): Reduces each row to one output element (SUM, SUMSQ, MAX, MIN or MAXABS). -/
  | vecReduce (p : Nat)
  /-- VEC_SCAN (R99): Prefix sum or linear recurrence along each row, with PS96 state. -/
  | vecScan (p : Nat)
  /-- VEC_SOFTMAX (R100): Computes a softmax along each row in the fixed order given. -/
  | vecSoftmax (p : Nat)
  /-- VEC_NORM (R101): Layer or RMS normalisation along each row, with optional gamma and beta. -/
  | vecNorm (p : Nat)
  /-- VEC_CONVERT (R102): Converts elements from FMT_IN to FMT_OUT, MX formats included. -/
  | vecConvert (p : Nat)
  /-- GATHER (R105): Copies the table rows named by an index list into the output. -/
  | gather (p : Nat)
  /-- GATHER_SUM (R105): Per index segment, sum, mean or maximum of the named table rows. -/
  | gatherSum (p : Nat)
  /-- SCATTER (R105): Copies source rows to the table rows named by an index list. -/
  | scatter (p : Nat)
  /-- SCATTER_ADD (R105): Adds source rows into the PS96 table rows named by an index list. -/
  | scatterAdd (p : Nat)
  /-- DMA_COPY (R109): Copies rows within the core's own scratchpad. -/
  | dmaCopy (p : Nat)
  /-- STREAM_IN (R110): Reads rows from LPDDR5X into scratchpad, alone or as one member of a shared stream. -/
  | streamIn (p : Nat)
  /-- SHARED_STREAM_FETCH_START (R110): The shared-stream fetch begins once MEMBERS members have issued. -/
  | sharedStreamFetchStart (part : Nat) (share : Nat)
  /-- STREAM_OUT (R109): Writes rows from scratchpad to LPDDR5X and commits when the last row is acknowledged. -/
  | streamOut (p : Nat)
  /-- FABRIC_IN (R491): Transfers rows from an edge-fabric endpoint's object into scratchpad. -/
  | fabricIn (p : Nat)
  /-- FABRIC_OUT (R491): Transfers rows from scratchpad to an edge-fabric endpoint's object. -/
  | fabricOut (p : Nat)
  /-- SEND (R113): Announces a message to a peer rank; its data moves once the matching RECV has issued. -/
  | send (p : Nat)
  /-- RECV (R114): Receives the message matched by source rank and tag into the local region. -/
  | recv (p : Nat)
  /-- PUT (R115): Writes bytes into a remote window slot, carrying the window generation. -/
  | put (p : Nat)
  /-- WINDOW_WAIT (R116): Waits until the slot's DONE count reaches COUNT, subtracts COUNT and commits. -/
  | windowWait (p : Nat)
  /-- REDUCE (R230): Reduction over a barrier group along the fixed tree, delivered to the root rank. -/
  | reduce (p : Nat)
  /-- ALLREDUCE (R230): Reduction over a barrier group, delivered to every member. -/
  | allreduce (p : Nat)
  /-- BROADCAST (R232): Sends bytes from the root rank to every member through the replicators. -/
  | broadcast (p : Nat)
  /-- BARRIER (R224): Toggles the member's arrive phase on the group's synchronisation lanes. -/
  | barrier (p : Nat)
  /-- WAIT_FLAG (R123): Waits for its flags and commits in its issue cycle. -/
  | waitFlag (p : Nat)
  /-- SET_FLAG (R123): Commits one CORE cycle after issue, setting the flags in SETSET. -/
  | setFlag (p : Nat)
  /-- CLEAR_FLAG (R123): Commits one cycle after issue and clears the flags in CLEARSET. -/
  | clearFlag (p : Nat)
  /-- LOOP (R123): Counted backward branch decided by the descriptor's start count. -/
  | loop (p : Nat)
  /-- BRANCH_COUNT (R123): Branches to TARGET when the start count modulo PERIOD equals PHASE. -/
  | branchCount (p : Nat)
  /-- END (R74): Enters ENDING and commits, as the core's commit point, once every earlier task has committed. -/
  | endRun (p : Nat)
  /-- FINGERPRINT_MARK (R125): Feeds a marker into the named channels and latches their values into the mark registers. -/
  | fingerprintMark (p : Nat)
  /-- FINGERPRINT_CLEAR (R125): Returns the named enabled channels to their initial values. -/
  | fingerprintClear (p : Nat)
  /-- FINGERPRINT_STORE (R125): Writes the mark registers of the named channels to scratchpad. -/
  | fingerprintStore (p : Nat)
  /-- HANDLE_BIND (R127): Binds a handle name to a region, or falls back to FALLBACK when NO_RESOURCE. -/
  | handleBind (p : Nat)
  /-- HANDLE_FREE (R128): Unbinds a handle once every earlier descriptor that references it has committed. -/
  | handleFree (p : Nat)
  /-- BASE_BOUND_SET (R129): Sets the base and bound registers of one memory kind. -/
  | baseBoundSet (p : Nat)
  /-- DESCRIPTOR_FETCH (R62): A descriptor enters the fetch buffer and is checked against R61 and R62. -/
  | descriptorFetch (p : Nat)
  /-- REFUSED_DESCRIPTOR_COMMIT (R62): A descriptor that failed its fetch checks commits at the head of issue with BAD_OPCODE or BAD_PARAM, and the core enters STOPPING. -/
  | refusedDescriptorCommit (p : Nat)
  /-- TASK_COMMIT (R64): A finished task commits: flags are set, the log entry is written and the window entry is freed. -/
  | taskCommit (p : Nat) (id : Nat)
  /-- TILE_DISPATCH (R67): The next output tile or KSPLIT work item is dispatched to the lowest-numbered free online engine. -/
  | tileDispatch (p : Nat)
  /-- ENGINE_TILE_DONE (R67): An engine finishes a tile, converts it and writes its output rows. -/
  | engineTileDone (p : Nat) (e : Nat)
  /-- ENGINE_TILE_ERROR (R68): An engine detects an error in a running tile, discards it and retries it on another engine. -/
  | engineTileError (p : Nat) (e : Nat)
  /-- ENGINE_KAT_TILE_DONE (R321): A held engine's known-answer tile ends: it returns to dispatch or is taken offline. -/
  | engineKatTileDone (p : Nat) (e : Nat) (pass : Bool)
  /-- ENGINE_OFFLINE (R68): The curator takes an engine offline, and its undispatched work returns to the pool with ENGINE_MOVED. -/
  | engineOffline (p : Nat) (e : Nat)
  /-- TASK_FAULT_DETECT (R320): A unit detects a residue or parity error in a task, which is re-executed once or becomes LASTING_FAULT. -/
  | taskFaultDetect (p : Nat) (id : Nat)
  /-- WAIT_LIMIT_EXPIRY (R66): A waiting descriptor or operation exceeds the wait limit, and a further limit begins. -/
  | waitLimitExpiry (p : Nat) (who : WaitRef)
  /-- WAIT_FURTHER_LIMIT_EXPIRY (R66): The further wait limit expires, and the operation completes with TIMEOUT. -/
  | waitFurtherLimitExpiry (p : Nat) (who : WaitRef)
  /-- CORE_RUN_START (R72): A RUN reaches an IDLE core, which loads its run registers, clears flags and start counts and enters RUNNING. -/
  | coreRunStart (p : Nat)
  /-- CORE_ABORT (R75): An abort reaches a core before its commit point; the core discards work and returns to IDLE. -/
  | coreAbort (p : Nat)
  /-- STEP_BOUNDARY (R313): At the core's next IDLE a step mark loads the new step, clears start counts and latches the fingerprint channels. -/
  | stepBoundary (p : Nat)
  /-- STREAMED_LIST_REFETCH (R57): The fetch of a STREAMED list's descriptors arrives from the reading-room cache. -/
  | streamedListRefetch (p : Nat)
  /-- SPD_CORRECTED_WRITEBACK (R135): A corrected SECDED codeword is written back in a free write slot of the bank. -/
  | spdCorrectedWriteback (p : Nat) (kind : MemKind) (word : Nat) (superseded : Bool)
  /-- SPD_UNCORRECTABLE_READ (R136): An uncorrectable scratchpad read is retried once, then becomes ECC_UNCORRECTABLE with a fault record. -/
  | spdUncorrectableRead (p : Nat) (who : Option Nat) (kind : MemKind) (word : Nat) (clean : Bool)
  /-- PATROL_SCRUB_READ (R138): The patrol scrubber reads a row in an unclaimed read slot. -/
  | patrolScrubRead (p : Nat) (corrected : Bool) (failing : Option Nat)
  /-- COALESCING_BUFFER_CLOSE (R140): A narrow accessor's buffer closes on 16 accesses, its eighth cycle or a forced close, and presents one row access. -/
  | coalescingBufferClose (p : Nat) (write : Bool)
  /-- ARBITRATION_STARVATION_PRIORITY (R143): A request passed over for 23 cycles takes absolute priority for its bank. -/
  | arbitrationStarvationPriority (p : Nat) (kind : MemKind) (bank : Nat) (stream : Nat)
  /-- APERTURE_READ (R152): Host read through the scratchpad aperture of a logical core. -/
  | apertureRead (h : Nat) (hart : Nat) (addr : Nat) (size : Nat)
  /-- APERTURE_WRITE (R152): Host write through the scratchpad aperture of a logical core. -/
  | apertureWrite (h : Nat) (hart : Nat) (addr : Nat) (size : Nat) (data : BitVec 512)
  /-- PACKET_ROUTE (R166): A router takes a packet and forwards it by its ROUTE and segment. -/
  | packetRoute (id : Nat)
  /-- PACKET_DELIVER (R333): An NI or unit takes a delivered packet, discarding it if its PGEN is stale. -/
  | packetDeliver (id : Nat)
  /-- FLIT_CRC_FAIL (R173): A receiver finds a flit CRC failure and asks for a replay. -/
  | flitCrcFail (link : LinkRef)
  /-- FLIT_REPLAY_RESULT (R173): A replayed flit arrives: correct is transient, failing is a lasting link error. -/
  | flitReplayResult (link : LinkRef) (ok : Bool) (group : Option Nat)
  /-- LANE_GROUP_RETRAIN_DONE (R174): Retraining of a lane group ends, returning it with its spare wire or failing the link. -/
  | laneGroupRetrainDone (tile : Nat) (n : Nat) (ok : Bool)
  /-- REQUEST_REPLY_TIMEOUT (R176): A request unanswered for 100 µs is re-issued once, then completes with TIMEOUT. -/
  | requestReplyTimeout (id : Nat)
  /-- PACKET_LIFETIME_EXPIRY (R177): A packet aged 48 units is discarded and counted in LIFETIME. -/
  | packetLifetimeExpiry (id : Nat)
  /-- DRAIN_HOLD (R178): The curator sends HOLD to every tile of the scope, and injection stops. -/
  | drainHold (id : Nat)
  /-- DRAIN_TABLE_WRITE (R178): At 50 µs into a drain the curator writes the new route and catalogue entries. -/
  | drainTableWrite (id : Nat)
  /-- DRAIN_RELEASE (R178): The curator clears HOLD once all entries are written, and injection resumes. -/
  | drainRelease (id : Nat)
  /-- CONTROL_MESSAGE (R183): A CMD or CFG control message reaches a hub, core or unit. -/
  | controlMessage (m : CtrlRef)
  /-- BROADCAST_TREE_MESSAGE (R184): A panel-wide broadcast is copied down the tree and acknowledged by each hub. -/
  | broadcastTreeMessage (words : List Dword) (failing : List Nat)
  /-- SYNC_SAMPLE_ERROR (R186): An error on synchronisation lanes keeps the previous values; two in a row are lasting. -/
  | syncSampleError (link : SyncRef)
  /-- BROADCAST_BEAT (R190): A replicator sends a beat on a die's broadcast bus, resending once on a CRC failure. -/
  | broadcastBeat (tile : Nat) (stream : Nat) (site : Nat) (ok : Bool)
  /-- REPLICATOR_ROW (R189): A replicator takes a stream row from its slice, root NI or another tile. -/
  | replicatorRow (tile : Nat) (stream : Nat)
  /-- MSG_ANNOUNCE (R113): A SEND announcement reaches the peer NI and is held until matched. -/
  | msgAnnounce (id : Nat)
  /-- MSG_PULL (R113): The receiver's request for message data reaches the sender. -/
  | msgPull (id : Nat)
  /-- MSG_DATA (R114): Message data reaches the receiver and is written. -/
  | msgData (id : Nat)
  /-- MSG_DONE (R114): The receiver's last-byte notice commits the SEND. -/
  | msgDone (id : Nat)
  /-- NACK (R163): A refusal carrying a status reaches the requester, which completes the operation with it. -/
  | nack (id : Nat)
  /-- WINDOW_OPEN (R209): Opens a window slot on a handle and returns its generation. -/
  | windowOpen (q : Nat)
  /-- WINDOW_CLOSE (R210): Basic close: stops admission and waits up to 20 µs for transfers before cutting them. -/
  | windowClose (q : Nat)
  /-- WINDOW_CLOSE_EXPERT (R211): Expert close: cuts every admitted transfer at once. -/
  | windowCloseExpert (q : Nat)
  /-- WINDOW_CLOSE_WAIT_EXPIRY (R210): The 20 µs close wait expires; remaining transfers are cut and the generation advances. -/
  | windowCloseWaitExpiry (l : Nat) (slot : Nat)
  /-- WINDOW_GEN_ADVANCE (R206): A held generation advance takes effect 16 ns after the previous one. -/
  | windowGenAdvance (l : Nat) (slot : Nat)
  /-- PUT_DATA (R213): A window-write packet arrives; a first packet is admitted or refused, later ones are written. -/
  | putData (id : Nat)
  /-- PUT_ACK (R215): A window-write outcome reaches the sender and completes or re-sends the PUT. -/
  | putAck (id : Nat)
  /-- PUT_RESEND_TIMER (R213): After a NO_RESOURCE refusal the sender re-sends the transfer 1 µs later. -/
  | putResendTimer (p : Nat) (id : Nat)
  /-- WINDOW_TRANSFER_SILENCE (R216): An admitted transfer that receives no packet for 100 µs is cut. -/
  | windowTransferSilence (l : Nat) (src : Nat) (tag : Nat)
  /-- CATALOGUE_READ (R204): Basic form: copies a catalogue section after any catalogue drain releases. -/
  | catalogueRead (q : Nat)
  /-- CATALOGUE_READ_EXPERT (R204): Expert form: copies a catalogue section at once. -/
  | catalogueReadExpert (q : Nat)
  /-- BARRIER_GROUP_CREATE (R219): Creates a barrier group over consecutive ranks of a program slot. -/
  | barrierGroupCreate (q : Nat)
  /-- BARRIER_GROUP_DESTROY (R220): Basic form: waits for started collectives on the group, then removes it. -/
  | barrierGroupDestroy (q : Nat)
  /-- BARRIER_GROUP_DESTROY_EXPERT (R220): Expert form: aborts uncommitted collectives on the group, then removes it. -/
  | barrierGroupDestroyExpert (q : Nat)
  /-- BARRIER_RELEASE (R224): A release phase reaches a member equal to its arrive phase, and its BARRIER commits. -/
  | barrierRelease (p : Nat) (group : Nat)
  /-- RED_PART (R228): A reduction unit takes a contribution and combines it once both children are present. -/
  | redPart (id : Nat)
  /-- RED_RESULT (R230): A reduction result reaches a member, which writes it and commits. -/
  | redResult (id : Nat)
  /-- FAST_REDUCTION_COMBINE (R233): In fast mode a unit adds each contribution in arrival order. -/
  | fastReductionCombine (id : Nat)
  /-- SLICE_READ (R239): A home slice serves a read, fetching missing sectors from the device. -/
  | sliceRead (h : Nat) (hart : Nat) (addr : Nat) (size : Nat)
  /-- SLICE_WRITE (R239): A home slice merges a write, evicting and writing back dirty sectors as needed. -/
  | sliceWrite (h : Nat) (hart : Nat) (addr : Nat) (size : Nat) (data : BitVec 512)
  /-- LPDDR_UNCORRECTABLE_READ (R247): An uncorrectable LPDDR5X read is retried once, then becomes ECC_UNCORRECTABLE. -/
  | lpddrUncorrectableRead (addr : Nat) (who : MemReader) (error : ReadError)
  /-- DEVICE_PREDICTIVE_TRIGGER (R248): CE_COUNT exceeds the hourly limit, and predictive device replacement starts. -/
  | devicePredictiveTrigger (dev : Nat)
  /-- DEVICE_COPY_DONE (R248): The copy to the spare ends, and the drain switches service to it. -/
  | deviceCopyDone (spare : Nat) (poisoned : List Nat)
  /-- DEVICE_LASTING_FAULT (R248): A device's lasting fault or UE_COUNT of 8 leads to a reset with the spare poisoned, or to exhaustion. -/
  | deviceLastingFault (dev : Nat)
  /-- WCK_TRACKING (R251): Every 50 ms a channel runs WCK-to-DQ tracking and applies corrections. -/
  | wckTracking (dev : Nat) (channel : Nat) (ok : Bool)
  /-- DEVICE_TEMPERATURE_REPORT (R246): A device temperature report sets the refresh rate. -/
  | deviceTemperatureReport (dev : Nat) (temp : Nat)
  /-- ECS_RESULT_READ (R244): Hourly, the curator reads each device's error-check-and-scrub result. -/
  | ecsResultRead (dev : Nat) (corrected : Nat)
  /-- DBL_SQ_TAIL (R266): Host writes a queue's tail, making slots fetchable. -/
  | dblSqTail (h : Nat) (hart : Nat) (q : Nat) (tail : BitVec 32)
  /-- DBL_CQ_HEAD (R267): Host moves the completion-ring head, releasing held records. -/
  | dblCqHead (h : Nat) (hart : Nat) (q : Nat) (head : BitVec 32)
  /-- COMMAND_FETCH (R274): The command unit fetches a whole packet and admits or refuses it. -/
  | commandFetch (q : Nat)
  /-- COMPLETION_RECORD_WRITE (R275): A completion record is written into the CQ, with an MSI when DOORBELL is set. -/
  | completionRecordWrite (q : Nat)
  /-- CONTEXT_LOAD_DONE (R270): A spilled queue context finishes loading and becomes resident. -/
  | contextLoadDone (u : Nat) (q : Nat)
  /-- SPILL_WRITE_ACK (R270): A spilled context's write is acknowledged, freeing a buffer entry for pending doorbells. -/
  | spillWriteAck (u : Nat) (q : Nat)
  /-- UCIE_MODULE_FAIL (R259): An unrepairable UCIe module is taken out of service. -/
  | ucieModuleFail (h : Nat)
  /-- UCIE_LINK_DOWN_TIMEOUT (R259): A UCIe link that stays down for 10 ms loses its host die. -/
  | ucieLinkDownTimeout (h : Nat)
  /-- UNPOPULATED_ACCESS (R261): An access to an unpopulated address faults a load or fetch, or records a store in PST_UNPOP. -/
  | unpopulatedAccess (h : Nat) (hart : Nat) (addr : Nat) (kind : AccessKind)
  /-- REGISTER_WRITE (R7): A write to a register that has no row of its own (RW, W1C or RO). -/
  | registerWrite (agent : Agent) (reg : RegRef) (value : BitVec 64)
  /-- ECHO (R288): Returns its parameters in the result words. -/
  | echo (q : Nat)
  /-- ECHO_EXPERT (R288): Returns its parameters and the panel time. -/
  | echoExpert (q : Nat)
  /-- QUEUE_CREATE (R280): Defines a queue as DISABLED. -/
  | queueCreate (q : Nat)
  /-- QUEUE_DESTROY (R283): Disables the queue as basic QUEUE_DISABLE does, then frees it. -/
  | queueDestroy (q : Nat)
  /-- QUEUE_DESTROY_EXPERT (R283): Aborts the queue's in-flight work, then frees it. -/
  | queueDestroyExpert (q : Nat)
  /-- QUEUE_ENABLE (R282): Enables a DISABLED queue, or adopts a HELD queue of a lost host die. -/
  | queueEnable (q : Nat)
  /-- QUEUE_DISABLE (R283): Basic disable: waits for admitted commands, then completes with DISABLED. -/
  | queueDisable (q : Nat)
  /-- QUEUE_DISABLE_EXPERT (R291): Expert disable: aborts admitted commands, and turns a wait in progress into an abort. -/
  | queueDisableExpert (q : Nat)
  /-- PROGRAM_LOAD (R55): Validates and installs a task list and rank map in a program slot of every core of the rank set. -/
  | programLoad (q : Nat) (commit : Bool)
  /-- RUN (R285): Admits or refuses as a whole the start of a task list on a partition's rank set. -/
  | run (q : Nat)
  /-- ABORT (R293): Aborts the oldest admitted command with TAG, or completes ABORT_LATE. -/
  | abort (q : Nat)
  /-- STEP_MARK (R287): Advances each core's step number at its next IDLE. -/
  | stepMark (q : Nat)
  /-- STEP_MARK_EXPERT (R287): Sets each core's step number to STEP at its next IDLE. -/
  | stepMarkExpert (q : Nat)
  /-- MEM_COPY (R289): Copies bytes in ascending address order. -/
  | memCopy (q : Nat) (i blocks : Option Nat)
  /-- MEM_COPY_EXPERT (R289): Copies bytes without cache allocation. -/
  | memCopyExpert (q : Nat) (i blocks : Option Nat)
  /-- MEM_FILL (R289): Fills bytes with an 8-byte pattern. -/
  | memFill (q : Nat) (i blocks : Option Nat)
  /-- MEM_FILL_EXPERT (R289): Fills bytes without cache allocation. -/
  | memFillExpert (q : Nat) (i blocks : Option Nat)
  /-- MBX_TH_PUSH (R295): A host store pushes a word into a PEER mailbox's TH queue, replacing the newest on a full queue. -/
  | mbxThPush (h : Nat) (hart : Nat) (m : Nat) (word : BitVec 64)
  /-- MBX_TH_POP (R296): The owner's load pops the oldest TH entry. -/
  | mbxThPop (h : Nat) (hart : Nat) (m : Nat)
  /-- MBX_TP_PUSH (R296): The owner pushes a console input word into TP. -/
  | mbxTpPush (h : Nat) (hart : Nat) (m : Nat) (word : BitVec 64)
  /-- MBX_RING (R296): A store sets doorbell bits in MBX_DBELL. -/
  | mbxRing (h : Nat) (hart : Nat) (m : Nat) (bits : BitVec 32)
  /-- MBX_MASK (R297): A write of the doorbell mask, sending an MSI when it unmasks a set bit. -/
  | mbxMask (h : Nat) (hart : Nat) (m : Nat) (mask : BitVec 32)
  /-- MBX_MSI (R296): A write of the MSI target, ignored whole when EN = 1 with IID = 0. -/
  | mbxMsi (h : Nat) (hart : Nat) (m : Nat) (value : BitVec 32)
  /-- HEARTBEAT_POST (R299): Every 1 ms the lead writes MBX_HBEAT and toggles HEARTBEAT. -/
  | heartbeatPost
  /-- CONSOLE_OUTPUT (R295): The lead curator pushes held console output into TH while there is room. -/
  | consoleOutput (m : Nat) (words : List (BitVec 64))
  /-- CONSOLE_POP (R300): At least once per millisecond the lead pops each CONSOLE mailbox's TP queue. -/
  | consolePop
  /-- FINGERPRINT_FEED (R311): A channel takes in a task's output stream once earlier feeds are complete. -/
  | fingerprintFeed (p : Nat) (id : Nat) (words : Nat)
  /-- FINGERPRINT_CONFIGURE (R314): Sets the configuration of the named disabled channels. -/
  | fingerprintConfigure (q : Nat)
  /-- FINGERPRINT_ENABLE (R314): Resumes the named channels from their frozen registers. -/
  | fingerprintEnable (q : Nat)
  /-- FINGERPRINT_DISABLE (R315): Basic disable: lets a feed in progress finish, then takes no new feed. -/
  | fingerprintDisable (q : Nat)
  /-- FINGERPRINT_DISABLE_EXPERT (R315): Expert disable: cuts a feed in progress and sets STOPPED_MIDSTREAM. -/
  | fingerprintDisableExpert (q : Nat)
  /-- FINGERPRINT_READ (R317): Writes fingerprint records per rank and returns their DIGEST. -/
  | fingerprintRead (q : Nat)
  /-- CRC_CONTEXT_SET (R308): Sets a queue CRC context's running value and byte count. -/
  | crcContextSet (q : Nat)
  /-- CRC_CONTEXT_GET (R308): Reads a queue CRC context's check value and byte count. -/
  | crcContextGet (q : Nat)
  /-- FAULT_LOG_READ_RECORDS (R326): Copies fault records with SEQ ≥ FIRST, optionally waiting for one. -/
  | faultLogReadRecords (q : Nat)
  /-- FAULT_LOG_READ_COUNTERS (R327): Expert form: copies transient counter entries. -/
  | faultLogReadCounters (q : Nat)
  /-- PARTITION_RESET (R347): Command that starts or joins a reset of a partition and completes at IN_SERVICE. -/
  | partitionReset (q : Nat)
  /-- PARTITION_RESET_START (R336): The lead decides a reset: PGEN advances, injection stops and cores are aborted. -/
  | partitionResetStart (part : Nat)
  /-- PARTITION_RESET_RELEASE (R336): The reset check ends and the partition goes to ACCESSIONING or IN_SERVICE. -/
  | partitionResetRelease (part : Nat) (failing second : List Nat)
  /-- ACCESSION_COMPLETE (R340): A spare passes its tests and is written into the catalogue in a drain. -/
  | accessionComplete (part : Nat) (l : Nat) (second : Bool)
  /-- ACCESSION_KAT_FAIL (R340): A spare fails its known-answer run, is deaccessioned, and the next spare is tried. -/
  | accessionKatFail (part : Nat) (l : Nat) (word : Nat)
  /-- ACCESSION_RETEST (R341): Runs the known-answer run on a DEACCESSIONED core or stack. -/
  | accessionRetest (q : Nat) (failing second : List Nat)
  /-- ACCESSION_PLACE (R341): Expert form: accessions a named SPARE core into a logical core. -/
  | accessionPlace (q : Nat) (run : KatResult)
  /-- ESCALATION_POLICY_READ (R346): Basic form: reads the escalation limits. -/
  | escalationPolicyRead (q : Nat)
  /-- ESCALATION_POLICY_SET (R346): Expert form: writes the selected limit groups, then reads. -/
  | escalationPolicySet (q : Nat)
  /-- PROVENANCE_READ (R351): Copies provenance entries from BF0 (basic) or BF1 (expert). -/
  | provenanceRead (q : Nat)
  /-- TRANSIENT_SUMMARY (R349): Each hour, one summary entry is written per unit with transient errors. -/
  | transientSummary
  /-- CURATOR_SILENCE (R328): No heartbeat from a curator for 10 ms; the lead restarts it. -/
  | curatorSilence (tile : Nat)
  /-- CURATOR_RESTART_TIMEOUT (R328): A restarted curator that does not post within 200 ms is a lasting tile fault. -/
  | curatorRestartTimeout (tile : Nat)
  /-- LEAD_TAKEOVER (R329): The deputy misses the lead's heartbeat for 10 ms and takes the lead. -/
  | leadTakeover
  /-- DIE_FENCE (R339): A base tile fences a die on loss of lock, framing, reset or a lasting die fault. -/
  | dieFence (tile : Nat) (site : Nat) (cause : FenceCause)
  /-- HOLD_LIMIT_EXPIRY (R348): A HELD partition's HOLD_LIMIT expires, and it is reset. -/
  | holdLimitExpiry (part : Nat)
  /-- SPD_WORD_REWRITE_CHECK (R322): At the core's IDLE the curator rewrites a failing word and reads it back. -/
  | spdWordRewriteCheck (p : Nat) (kind : MemKind) (word : Nat) (clean : Bool)
  /-- STRAGGLER_STAGING (R359): A cap makes a straggler, and the curator stages and tests a spare. -/
  | stragglerStaging (p : Nat) (run : KatResult)
  /-- PANEL_RST_N_ASSERT (R367): Asserting PANEL_RST_N resets the panel and releases the service contacts. -/
  | panelRstNAssert
  /-- PANEL_RST_N_RELEASE (R369): Release of PANEL_RST_N starts the STRAP phase and the start sequence. -/
  | panelRstNRelease
  /-- STRAP_LATCH (R368): At 20 µs the straps are latched and PH leaves STRAP. -/
  | strapLatch (straps : BitVec 44)
  /-- FIRST_STAGE_VERIFY (R370): The lead mask ROM reads and verifies the first stage from boot flash. -/
  | firstStageVerify
  /-- DEPUTY_START_TAKEOVER (R371): No charter broadcast within 0.5 s, so the deputy mask ROM takes the lead. -/
  | deputyStartTakeover
  /-- CHARTER_SEAL (R375): The first stage selects, checks, writes and seals a charter. -/
  | charterSeal
  /-- LINK_TRAINING_DONE (R378): Training of links, devices and UCIe ends, on saved settings or full training. -/
  | linkTrainingDone (r : TrainingResult)
  /-- STACK_WAVE (R379): A wave of up to 256 core domains is switched on, 50 µs after the last. -/
  | stackWave
  /-- MICROCODE_BROADCAST (R380): Microcode is broadcast to powered cores and hash-checked. -/
  | microcodeBroadcast (failing : List Nat)
  /-- LPDDR_INITIALISE (R500): After a rise of PWR_GOOD every device in use is written with zeros. -/
  | lpddrInitialise
  /-- LINK_BER_CHECK_DONE (R381): The link error-rate check ends, respare and retrain once on errors. -/
  | linkBerCheckDone (failing : List LinkRef)
  /-- START_KAT_DONE (R381): Start known-answer runs end, and failing cores are deaccessioned. -/
  | startKatDone (failing second : List Nat)
  /-- CATALOGUE_BUILD (R383): The curators build the catalogue and set CAT_VERSION to 1. -/
  | catalogueBuild (failing : List Nat)
  /-- HOST_RELEASE (R384): Host images are placed, admin queues defined and harts released. -/
  | hostRelease (ucieDown : BitVec 4)
  /-- ATTEST (R398): Writes a signed quote with the measurements and nonce. -/
  | attest (q : Nat)
  /-- FW_STAGE (R399): Verifies an image and writes it to the inactive copy or a charter slot. -/
  | fwStage (q : Nat)
  /-- FW_COMMIT (R400): Makes the staged copy active by one counter-record write. -/
  | fwCommit (q : Nat)
  /-- CHARTER_READ (R377): Copies the sealed charter or, in expert form, a stored image. -/
  | charterRead (q : Nat)
  /-- REFCLK_LOSS (R403): A lost reference makes every selector switch to the other, or hold over. -/
  | refclkLoss (alt : Bool)
  /-- REFCLK_PRIMARY_RETURN (R403): After 1 s of valid primary, the selectors return to it. -/
  | refclkPrimaryReturn
  /-- PLL_LOSS_OF_LOCK (R407): A die PLL loses lock and signals its tile, which fences the die. -/
  | pllLossOfLock (tile : Nat) (site : Nat)
  /-- MARGIN_SAMPLE (R411): A margin sample at or below THR_STRETCH stretches ENG cycles. -/
  | marginSample (p : Nat) (code : Nat)
  /-- MARGIN_STRETCH_END (R411): After 64 cycles above THR_STRETCH the stretch ends. -/
  | marginStretchEnd (p : Nat)
  /-- MARGIN_WINDOW (R411): Each 100 µs the curator takes the lowest code and may cap the domain. -/
  | marginWindow (p : Nat)
  /-- REGULATOR_SETTLED (R409): The regulator reports settled, and the curator requests the step-up's divider change. -/
  | regulatorSettled (p : Nat)
  /-- STEP_SET_POLICY (R413): Sets the partition's step policy. -/
  | stepSetPolicy (q : Nat)
  /-- STEP_SET_READ (R413): Copies CLK_DOM records. -/
  | stepSetRead (q : Nat)
  /-- STEP_SET_FIX (R413): Expert: fixes a domain's TARGET, or returns it to the set step. -/
  | stepSetFix (q : Nat)
  /-- STEP_SET_THRESHOLDS (R413): Expert: writes margin thresholds. -/
  | stepSetThresholds (q : Nat)
  /-- SAG_DETECT (R416): Input below 43 V for 5 µs: domains stretch and go to F5. -/
  | sagDetect (mv : Nat)
  /-- SAG_END (R416): After 1 ms at 44 V or more, SAG clears. -/
  | sagEnd
  /-- SAG_LIMIT_EXPIRY (R416): A sag lasting 10 ms starts the power-fail response. -/
  | sagLimitExpiry
  /-- HIGH_INPUT (R414): Input above 57 V for 100 µs starts the power-fail response. -/
  | highInput
  /-- INPUT_LOCKOUT (R414): Input below 34 V or above 60 V stops every converter. -/
  | inputLockout
  /-- PFW_N_ASSERT (R418): Accepted PFW_N (or PWR_GOOD falling) runs the power-fail response. -/
  | pfwNAssert
  /-- PFW_RECOVERY (R419): After 100 ms of PFW_N high the reset partitions continue their resets. -/
  | pfwRecovery
  /-- SLEW_GRANT (R422): Every 100 µs the lead grants load increases within the slew limit. -/
  | slewGrant (demand : List SlewDemand)
  /-- SLEW_LIMIT (R425): Basic form: reads the slew limit. -/
  | slewLimit (q : Nat)
  /-- SLEW_LIMIT_EXPERT (R425): Expert form: sets the slew limit. -/
  | slewLimitExpert (q : Nat)
  /-- POWER_CAP_DIVISION (R435): Every 1 ms the lead divides the panel cap among tiles. -/
  | powerCapDivision (demand : List Nat)
  /-- POWER_CAP_STEP_CHANGE (R435): Withholding above 10 % of a 10 ms window lowers a partition's power-cap step. -/
  | powerCapStepChange (part : Nat) (lower : Bool)
  /-- POWER_POLICY_PANEL_CAP (R436): Sets the panel cap. -/
  | powerPolicyPanelCap (q : Nat)
  /-- POWER_POLICY_READ (R436): Copies PWR_DOM records. -/
  | powerPolicyRead (q : Nat)
  /-- POWER_POLICY_TILE_CAP (R436): Expert: sets or removes a tile cap. -/
  | powerPolicyTileCap (q : Nat)
  /-- POWER_POLICY_STAGING (R436): Expert: sets STAGE_THR and STAGE_PAUSE. -/
  | powerPolicyStaging (q : Nat)
  /-- CONVERTER_PHASE_FAULT (R427): A converter phase is taken out of service and the tile rating falls. -/
  | converterPhaseFault (tile : Nat) (phase : Nat)
  /-- BREAKER_TRIP (R428): A converter breaker or input eFuse trips, and the tile goes dark. -/
  | breakerTrip (tile : Nat) (efuse : Bool)
  /-- REGULATOR_PHASE_FAULT (R430): A core-regulator phase is lost, capping the domain or taking it dark. -/
  | regulatorPhaseFault (p : Nat) (phase : Nat)
  /-- HEADER_STAGE (R433): A header-switch stage closes, or pauses if the converter is above STAGE_THR. -/
  | headerStage (p : Nat) (output : Nat)
  /-- STAGE_PAUSE_RECHECK (R433): Every 10 µs a paused staging rechecks the converter output. -/
  | stagePauseRecheck (p : Nat) (output : Nat)
  /-- STAGE_PAUSE_LIMIT (R433): A pause reaching STAGE_PAUSE closes the remaining stages and counts PAUSES. -/
  | stagePauseLimit (p : Nat)
  /-- SENSOR_SAMPLE (R441): Every 100 µs junction sensors are sampled and thresholds evaluated. -/
  | sensorSample (tile : Nat) (sensor : Nat) (reading : Int)
  /-- THERMAL_CAP_WINDOW (R443): Each 10 ms window with a tile at T_CAP lowers the partition's thermal cap. -/
  | thermalCapWindow (part : Nat)
  /-- THERMAL_CAP_RECOVERY (R444): After each second with all tiles at or below 95 °C the thermal cap rises a step. -/
  | thermalCapRecovery (part : Nat)
  /-- THERMAL_WARN_CLEAR (R444): After 10 s with all tiles at or below 90 °C the warning clears. -/
  | thermalWarnClear
  /-- FLOW_REQUEST_UPDATE (R442): Every 100 ms the lead sets the flow request. -/
  | flowRequestUpdate (watts : Nat)
  /-- KEEP_WARM_EVALUATE (R446): Every 10 ms each curator compares the coldest sensor with KW_TARGET. -/
  | keepWarmEvaluate (tile : Nat) (load : Nat)
  /-- KEEP_WARM_READ (R447): Reads the keep-warm settings. -/
  | keepWarmRead (q : Nat)
  /-- KEEP_WARM_WRITE (R447): Writes ENABLE, and TARGET in the expert form. -/
  | keepWarmWrite (q : Nat)
  /-- MONITOR_SAMPLE (R450): A monitor takes a sample into its bins, or counts it in DROPPED. -/
  | monitorSample (mon : MonRef) (v : BitVec 32) (excess : Bool)
  /-- MONITOR_CONFIG_PRESET (R455): Applies a preset to the named monitors. -/
  | monitorConfigPreset (q : Nat)
  /-- MONITOR_CONFIG_CLEAR (R455): Empties the named monitors. -/
  | monitorConfigClear (q : Nat)
  /-- MONITOR_CONFIG_SET (R455): Expert: configures one monitor. -/
  | monitorConfigSet (q : Nat)
  /-- MONITOR_READ (R456): Copies monitor, link or window records. -/
  | monitorRead (q : Nat)
  /-- CONGESTION_INTERVAL_END (R459): At each interval end curators send their levels and the lead assembles the map. -/
  | congestionIntervalEnd (levels : List TileLevels)
  /-- CONGESTION_MAP_READ (R461): Copies the latest complete congestion map, optionally setting its settings. -/
  | congestionMapRead (q : Nat)
  /-- TEST_PHASE_EMERGENCY (R471): In TEST, PFW_N or T_SHUT opens stack switches and ends flash writes. -/
  | testPhaseEmergency
  /-- EXTEST (R472): TAP instruction EXTEST. -/
  | extest (bits : BitVec 48)
  /-- SAMPLE_PRELOAD (R472): TAP instruction SAMPLE/PRELOAD. -/
  | samplePreload (bits : BitVec 48)
  /-- IDCODE (R472): TAP instruction IDCODE. -/
  | idcode
  /-- DIE_SELECT (R472): TAP instruction placing a die's TAP in series. -/
  | dieSelect (die : Nat)
  /-- DIE_STANDALONE (R472): TAP instruction putting the selected die in its own test mode. -/
  | dieStandalone
  /-- LOOPBACK (R472): TAP instruction looping a die-to-die port back. -/
  | loopback (port : Nat)
  /-- STACK_POWER (R472): TAP instruction switching a compute stack on or off. -/
  | stackPower (on : Bool) (tile : Nat) (site : Nat)
  /-- FLASH_ACCESS (R472): TAP instruction writing boot flash. -/
  | flashAccess (die : Nat) (write : FlashWrite)
  /-- BYPASS (R472): TAP instruction BYPASS. -/
  | bypass (code : Nat)
  /-- ENTDAA (R473): I3C dynamic address assignment. -/
  | entdaa (addr : BitVec 7)
  /-- SETDASA (R473): I3C dynamic address from static address 0x5A. -/
  | setdasa (target : BitVec 7) (addr : BitVec 7)
  /-- RSTDAA (R473): I3C reset of the dynamic address. -/
  | rstdaa
  /-- GETPID (R473): I3C read of the provisional ID. -/
  | getpid
  /-- GETBCR (R473): I3C read of the bus characteristics register. -/
  | getbcr
  /-- GETDCR (R473): I3C read of the device characteristics register. -/
  | getdcr
  /-- GETSTATUS (R473): I3C read of status. -/
  | getstatus
  /-- ENEC (R473): I3C enable of events such as IBIs. -/
  | enec (bits : BitVec 8)
  /-- DISEC (R473): I3C disable of events. -/
  | disec (bits : BitVec 8)
  /-- I3C_PRIVATE_WRITE (R473): One-byte private write selecting a register index. -/
  | i3cPrivateWrite (index : BitVec 8)
  /-- I3C_PRIVATE_READ (R473): Private read of 8 bytes of the indexed register, then the index advances. -/
  | i3cPrivateRead
  /-- I3C_HOT_JOIN (R473): After entry into RUN without a dynamic address the target sends Hot-Join once. -/
  | i3cHotJoin
  /-- I3C_IBI (R473): An in-band interrupt on a change of fault, service or thermal outputs. -/
  | i3cIbi
  /-- FABRIC_DATA_FRAME (R487): A DATA frame is received and delivered in SEQ order or discarded. -/
  | fabricDataFrame (port : Nat) (f : Frame)
  /-- FABRIC_ACK_FRAME (R487): An ACK frame releases acknowledged frames of a flow. -/
  | fabricAckFrame (port : Nat) (f : Frame)
  /-- FABRIC_ACK_TIMER (R487): Within 10 µs of a delivery the receiver sends an ACK. -/
  | fabricAckTimer (flow : FlowKey)
  /-- FABRIC_RETRANSMIT_TIMER (R487): 50 µs without acknowledgement retransmits from the oldest frame. -/
  | fabricRetransmitTimer (flow : FlowKey)
  /-- FABRIC_REQUEST_TIMEOUT (R489): A cross-panel request unanswered for 1 ms is re-issued once. -/
  | fabricRequestTimeout (id : Nat)
  /-- PORT_CONFIG_ENABLE (R494): Trains the named ports. -/
  | portConfigEnable (q : Nat)
  /-- PORT_CONFIG_DISABLE (R495): Basic disable of ports with a 50 µs drain of queued frames. -/
  | portConfigDisable (q : Nat)
  /-- PORT_CONFIG_DISABLE_EXPERT (R495): Expert disable dropping queued frames at once. -/
  | portConfigDisableExpert (q : Nat)
  /-- PORT_CONFIG_READ (R494): Reads PST_PORTn of the named ports. -/
  | portConfigRead (q : Nat)
  /-- PORT_CONFIG_SET (R494): Expert: sets framing, MAXDATA, SER threshold and lane mode. -/
  | portConfigSet (q : Nat)
  /-- PORT_CONFIG_ENDPOINT (R494): Expert: writes an endpoint table entry. -/
  | portConfigEndpoint (q : Nat)
  /-- PORT_DISABLE_DRAIN_EXPIRY (R495): At 50 µs remaining queued frames are dropped and retransmitted elsewhere. -/
  | portDisableDrainExpiry (port : Nat)
  /-- EDGE_PORT_DIE_FAULT (R496): An edge-port die's lasting fault makes both its ports LOST. -/
  | edgePortDieFault (die : Nat)
  /-- ROUTE_UPDATE_PORTSET (R493): TARGET 0: writes one PORTSET and moves flows after a drain. -/
  | routeUpdatePortset (q : Nat)
  /-- ROUTE_UPDATE_PANEL_ROUTE (R181): Expert TARGET 1: overrides a panel route entry after a drain. -/
  | routeUpdatePanelRoute (q : Nat)
  /-- ROUTE_UPDATE_SHARES (R181): Expert TARGET 2: sets virtual-channel minimum shares. -/
  | routeUpdateShares (q : Nat)
  /-- PWR_GOOD_RISE (R366): PWR_GOOD rises: the tile converters start, the tile rails come up within 4 ms and PH is driven to STRAP. -/
  | pwrGoodRise
  /-- PFW_N_DEASSERT (R419): PFW_N goes high after a power-fail response, starting the 100 ms wait before recovery. -/
  | pfwNDeassert
  /-- PORT_TRAINING_DONE (R494): Training of a fabric port ends with the port UP or failed, after ENABLE or the automatic training after host release. -/
  | portTrainingDone (port : Nat) (up : Bool)
  /-- PORT_LINK_DOWN (R493): A fabric port that was UP loses its link, changing n so that flows move to other ports after a drain. -/
  | portLinkDown (port : Nat)
  /-- FLOW_EPOCH_ADVANCE (R488): A held epoch advance of a fabric flow takes effect 1 ms after the previous advance. -/
  | flowEpochAdvance (flow : FlowKey)
  /-- TAP_TEST_LOGIC_RESET (R472): TRST_N asserted in TEST puts the panel TAP in test-logic reset with IDCODE selected. -/
  | tapTestLogicReset
deriving DecidableEq, Repr

end Sys2Proof
end

