-- ==== Sys2Proof/Config.lean ====
section
/-! DEFINITION. What one panel fixes or the spec leaves open. An `opaque` constant has no body: nothing in Lean can
evaluate it, so every statement about it holds for every value. -/

namespace Sys2Proof

/-- The approximated functions of the vector unit (R48). -/
inductive ApproxFn where
  | exp | log | rcp | rsqrt | tanh | logistic
deriving DecidableEq, Repr

namespace Config

/-- Which of the FP32 values within 2 units in the last place a microcode release gives for an approximated function of an
operand (R48, R79): its number among them, counted round (log 4, DESIGN CHOICE). -/
opaque approxUlps : Nat → ApproxFn → Word → Nat

/-- An unspecified byte after an abort (R75, R109), a fresh one for each index (log 5, DESIGN CHOICE). -/
opaque freeByte : Nat → Byte

/-- Order of arrivals in fast reduction is the order of the commands; this is the order among the packets one
step makes present together (R233, log 6, DESIGN CHOICE). -/
opaque freeNat : Nat → Nat

/-- Packet places beyond two that an input port holds for each virtual channel and buffer set (R170). -/
opaque extraPlaces : Nat

/-- The check bits of one direction of a synchronisation link, for its lanes (R185; the code is not stated). -/
opaque syncCheck : BitVec 64 → BitVec 8

/-- Does the HSS signature (third argument) over the message (second) verify under the public key (first)? The scheme
is RFC 8554's; the spec gives its sizes only (log 7, DESIGN CHOICE). -/
opaque hssVerifies : List Byte → List Byte → List Byte → Bool

/-- SHA-256 of the vendor root's public key, in mask ROM (R391). -/
opaque vendorRootHash : List Byte

/-- Byte `i` of the boot salt of boot number `boot` (R396). -/
opaque saltByte : Nat → Nat → Byte

/-- Byte `i` of the identity public key (R389, 56 bytes). -/
opaque identityPubByte : Nat → Byte

/-- Byte `i` of the attestation tree's public key of boot number `boot` (R397, 56 bytes). -/
opaque attPubByte : Nat → Nat → Byte

/-- Byte `i` of the identity signature with a leaf over a message (R396, 2,828 bytes). -/
opaque identitySigByte : Nat → List Byte → Nat → Byte

/-- Byte `i` of the attestation signature of a boot with a leaf over a body (R397, 2,508 bytes). -/
opaque attSigByte : Nat → Nat → List Byte → Nat → Byte

/-- Does the PUF wrapping of the device secret unwrap in this tile, 0 or 15 (R388)? -/
opaque pufUnwraps : Nat → Bool

/-- The vendor's manufacturer identity in IDCODE bits [11:1] (R472). -/
opaque jtagVendor : BitVec 11

/-- The panel revision in IDCODE bits [31:28] (R472). -/
opaque panelRevision : BitVec 4

/-- The vendor's MIPI manufacturer identity (R473). -/
opaque mipiVendor : BitVec 15

/-- The I3C bus characteristics register, which the spec names and gives no value (R473, log 8, PRESUMED). -/
opaque i3cBcr : Byte

/-- The I3C device characteristics register, likewise (R473, log 8, PRESUMED). -/
opaque i3cDcr : Byte

/-- The level a boundary-scan cell captures from a contact the tray drives (R472, log 8, PRESUMED). -/
opaque contactLevel : Nat → Bool

/-- Reply bits of a die's own TAP (R472), by die and position (log 8, PRESUMED). -/
opaque dieTap : Nat → Nat → Bool

/-- Byte `i` of the owner's signature under the factory charter, written into slot 0 at manufacture (R374, log 7, DESIGN CHOICE). -/
opaque factorySigByte : Nat → Byte

/-- The 4 check bytes of a 64-byte block under the inline code, whose polynomial the spec does not give (R245; log 77, DESIGN
CHOICE). -/
opaque checkBytes : List Byte → BitVec 32

/-- The identity mode registers of LPDDR5X device `d` (R250), which the spec does not give. -/
opaque deviceIdentity : Nat → Nat

/-- The bytes of the host-die boot ROM (R257), which the spec does not list. -/
opaque bootRom : Nat → Byte

end Config

end Sys2Proof
end

