-- ==== Sys2Proof/Machine/State.lean ====
section
/-! DEFINITION. The state of the panel: plain data. A table keyed by number is a list of (key, value) pairs in one
canonical form (keys strictly rising, no entry equal to what an absent key reads as); the operations on it are in
Machine/Ops.lean. Every field's docstring cites the rule that names it; reset values that no rule gives are in the
assumption log. -/

namespace Sys2Proof.Machine

/-- A sparse table: canonical list of (key, value). -/
abbrev Tbl (α : Type) := List (Nat × α)

/-- Byte memory in canonical form (unlisted bytes read as 0). -/
abbrev Mem := List Host.Cell

/-- Why the panel stops: it never does. No command of the table is left without an effect by the spec, so no meaning
raises a fault; the constructor names an access to a byte that exists nowhere, which no meaning makes (safe). -/
inductive Fault where
  /-- Reserved for an address outside every memory; raised by no meaning (safe). -/
  | noSuchAddress
deriving DecidableEq, Repr

/-- Why a command is refused. -/
inductive Refusal where
  /-- Raised only by an arm of Dispatch whose row has no meaning yet (safe: the model stops). -/
  | notModelled (mnemonic : String)
deriving DecidableEq, Repr

/-- Statuses of commands and tasks (Table 10-12). -/
inductive Status where
  | ok | okAfterRetry | badOpcode | badParam | notPermitted | noResource | aborted | abortLate | disabled
  | truncated | windowClosed | staleGeneration | dieLost | partitionReset | lastingFault | eccUncorrectable
  | katMismatch | timeout | powerFail | thermalLimit | outOfService
deriving DecidableEq, Repr

/-! ## Cores -/

/-- Sequencer states (Table 03-6). -/
inductive SeqState where
  | idle | running | ending | stopping | aborting | faulted | empty
deriving DecidableEq, Repr

/-- A range of words of one scratchpad memory, both ends included (R154). -/
structure Region where
  kind : MemKind
  first : Nat
  last : Nat
deriving DecidableEq, Repr

/-- A place in a scratchpad: the word an operand reference resolves to (R146, R149). -/
structure Loc where
  kind : MemKind
  word : Nat
deriving DecidableEq, Repr

/-- A whole work item of a matrix descriptor (R67, R92). -/
inductive WorkItem where
  | tile (t : Nat)
  | part (t q : Nat)
  | fold (t : Nat)
deriving DecidableEq, Repr

/-- What an engine is running: the task's issue number, the item, and which attempt (R68). -/
structure TileWork where
  task : Nat
  item : WorkItem
  attempt : Nat
deriving DecidableEq, Repr

/-- One engine of a core (R52, R68, R321). -/
structure Engine where
  online : Bool
  held : Bool
  work : Option TileWork
  /-- A step change waiting for the tile boundary (R70). -/
  req : Option Nat
  /-- The step the engine runs (Table 17-3). -/
  step : Nat
deriving DecidableEq, Repr

def Engine.init : Engine := { online := true, held := false, work := none, req := none, step := 3 }

/-- Feed of a task's output to a fingerprint channel (R311, R312). -/
inductive Feed where
  | none
  /-- Bytes taken so far of the task's stream, and the channel's register before the feed. -/
  | due (taken saved : Nat)
  | complete (saved : Nat)
deriving DecidableEq, Repr

/-- An issued, uncommitted descriptor (R64). -/
structure Task where
  id : Nat
  index : Nat
  opcode : Nat
  desc : BitVec 512
  inst : Nat
  /-- The unit has finished and the status is final. -/
  finished : Bool
  status : Status
  aflags : BitVec 6
  attempts : Nat
  race : Bool
  engineMoved : Bool
  engines : BitVec 8
  reads : List Region
  writes : List Region
  /-- Resolved operand places, in the order of the operand map's fields. -/
  locs : List Loc
  /-- Handle names the descriptor references (R128, R145). -/
  names : List Nat
  /-- Matrix work: items not yet dispatched, items dispatched again after an error, items written. -/
  undispatched : List WorkItem
  retryItems : List WorkItem
  written : List WorkItem
  feed : Feed
  /-- The stream the task feeds, in stored encoding (R310). -/
  stream : List Byte
  /-- A matched peer task (core, issue number) of a SEND or RECV, and whether its announcement or pull travelled on VC0. -/
  peer : Option (Nat × Nat)
  peerUrg : Bool
  /-- Bytes or elements moved so far. -/
  progress : Nat
  /-- A TRUNCATED message, a window transfer's outcome: the status to take when the transfer ends. -/
  pendingStatus : Option Status
  issuedAt : Nat
  /-- The first wait limit has expired (R66). -/
  further : Bool
  /-- Data sequence number of a collective (R222), arrive phase of a BARRIER. -/
  collSeq : Nat
  /-- The group whose collective the task takes part in, once it has passed its issue checks (R220, R222). -/
  coll : Option Nat
  /-- A unit has found an error in the task once (R320). -/
  refault : Bool
deriving DecidableEq, Repr

/-- A descriptor in the fetch buffer, with the outcome of the checks made as it entered (R62). -/
structure Fetched where
  index : Nat
  desc : BitVec 512
  refused : Option Status
deriving DecidableEq, Repr

/-- A program slot (R53, R55): the list's placement, place, count, and queue-class requirement. -/
structure Slot where
  streamed : Bool
  arow : Nat
  list : Nat
  count : Nat
  cls : Bool
deriving DecidableEq, Repr

/-- One handle-table entry (Table 05-4). INFLIGHT is counted from the window. -/
structure Handle where
  name : Nat
  kind : MemKind
  fmt : Nat
  scale : Option Nat
  base : Nat
  length : Nat
deriving DecidableEq, Repr

/-- A CRC configuration (Table 12-1) with the preset number it came from. -/
structure CrcCfg where
  preset : Nat
  width : Nat
  poly : Nat
  init : Nat
  xorout : Nat
  refin : Bool
  refout : Bool
deriving DecidableEq, Repr

/-- A fingerprint channel (R309). -/
structure FpChan where
  cfg : CrcCfg
  enabled : Bool
  reg : Nat
  mark : Nat
  latchValid : Bool
  latchValue : Nat
  latchStep : Nat
  latchStopped : Bool
  stopped : Bool
deriving DecidableEq, Repr

/-- A base and a bound register (R149). -/
structure BaseBound where
  base : Nat
  bound : Nat
deriving DecidableEq, Repr

/-- Narrow accessors (R139). -/
inductive Accessor where
  | vector | gather | dma | aperture
deriving DecidableEq, Repr

/-- A coalescing buffer (R140): its accessor and task, one row, the bytes written to it, and its word accesses. -/
structure CoBuf where
  accessor : Accessor
  task : Option Nat
  write : Bool
  kind : MemKind
  row : Nat
  bytes : List Host.Cell
  accesses : Nat
deriving DecidableEq, Repr

/-- A RUN as it reaches a core (R72, Table 10-15). -/
structure RunStart where
  cmd : Nat
  queue : Nat
  part : Nat
  slot : Nat
  rank : Nat
  seed : Nat
  step : Option Nat
  logRow : Nat
  logN : Nat
  logAll : Bool
  waitUs : Nat
  control : Bool
  fastOk : Bool
deriving DecidableEq, Repr

/-- What a core contributes to the RUN completion (R74). -/
structure CoreReport where
  rank : Nat
  stop : Option (Nat × Nat × Status)
  aborted : Bool
  retried : Bool
  aflags : BitVec 6
  race : Bool
  wrapped : Bool
  committed : Nat
deriving DecidableEq, Repr

def CoreReport.init : CoreReport :=
  { rank := 0, stop := none, aborted := false, retried := false, aflags := 0, race := false, wrapped := false,
    committed := 0 }

/-- A step mark on its way to a core (R77, R287): the new number, or one more. -/
structure StepMark where
  cmd : Nat
  set : Option Nat
deriving DecidableEq, Repr

/-- An announcement held by a receiving NI (R113). -/
structure Announce where
  src : Nat × Nat
  srcRank : Nat
  tag : Nat
  bytes : Nat
  /-- It travelled on VC0. -/
  urg : Bool
  /-- How many SENDs of this rank, peer and tag came before it in the RUN (R113). -/
  nth : Nat
deriving DecidableEq, Repr

/-- One physical core: its sequencer, engines, scratchpads, handle table, channels and network interface. -/
structure Core where
  seq : SeqState
  slots : Tbl Slot
  fetchBuf : List Fetched
  /-- The slot whose first descriptors PROGRAM_LOAD left in the buffer (R55). -/
  bufSlot : Option Nat
  window : List Task
  nextId : Nat
  flags : BitVec 16
  startCount : Tbl Nat
  run : Option RunStart
  arrival : Nat
  step : Nat
  nextIndex : Nat
  logPos : Nat
  report : CoreReport
  /-- When the descriptor at the head became next to issue, and whether its first limit has expired (R66). -/
  headSince : Nat
  headFurther : Bool
  /-- RUN starts, aborts and step marks delivered and not yet acted on (R183). -/
  pendingStart : Option RunStart
  /-- The RUN command whose abort has arrived and is not yet acted on (R75). -/
  abortReq : Option Nat
  marks : List StepMark
  engines : List Engine
  w : Mem
  a : Mem
  p : Mem
  /-- Words whose check bits fail until a whole-word write (R136). -/
  failing : List (MemKind × Nat)
  handles : Tbl Handle
  bbW : BaseBound
  bbA : BaseBound
  bbP : BaseBound
  ueCount : Nat
  ceCount : Nat
  races : Nat
  scrubLate : Bool
  apertureUe : Bool
  bufs : List CoBuf
  /-- Requests with absolute priority for their bank (R143): (memory, bank, write, stream). -/
  starved : List (MemKind × Nat × Bool × Nat)
  /-- The stream last granted absolute priority by a bank, from which its rotation goes on (R143). -/
  rotation : List (MemKind × Nat × Bool × Nat)
  scrubRow : Nat
  /-- When the patrol pass in progress began (R138). -/
  scrubStart : Option Nat
  fps : List FpChan
  announces : List Announce
  /-- SENDs to, and RECVs from, a (rank, tag) issued in this RUN (R113). -/
  sendSeq : List (Nat × Nat × Nat)
  recvSeq : List (Nat × Nat × Nat)
  microcode : Nat
  /-- Header-switch stages closed, 0–8, and since when staging has paused (R433). -/
  stages : Nat
  pausedSince : Option Nat
deriving DecidableEq, Repr

/-- CRC64_ECMA (Table 12-2). -/
def CrcCfg.ecma : CrcCfg :=
  { preset := 1, width := 64, poly := 0x42F0E1EBA9EA3693, init := 0, xorout := 0, refin := false, refout := false }

/-- A channel after panel reset, partition reset and accession (R309); an empty stream's check value under
CRC64_ECMA is 0. -/
def FpChan.init : FpChan :=
  { cfg := CrcCfg.ecma, enabled := true, reg := 0, mark := 0, latchValid := false, latchValue := 0, latchStep := 0,
    latchStopped := false, stopped := false }

/-- A core with nothing in it: EMPTY, scratchpads zero (R20, R137). -/
def Core.init : Core :=
  { seq := .empty, slots := [], fetchBuf := [], bufSlot := none, window := [], nextId := 0, flags := 0, startCount := [], run := none,
    arrival := 0, step := 0, nextIndex := 0, logPos := 0, report := CoreReport.init, headSince := 0,
    headFurther := false, pendingStart := none, abortReq := none, marks := [],
    engines := List.replicate 8 Engine.init, w := [], a := [], p := [], failing := [], handles := [],
    bbW := ⟨0, 0⟩, bbA := ⟨0, 0⟩, bbP := ⟨0, 0⟩, ueCount := 0, ceCount := 0, races := 0, scrubLate := false,
    apertureUe := false, bufs := [], starved := [], rotation := [], scrubRow := 0, scrubStart := none,
    fps := List.replicate 8 FpChan.init, announces := [], sendSeq := [], recvSeq := [], microcode := 0, stages := 0, pausedSince := none }

/-! ## Catalogue, windows, groups -/

/-- An NI_CAT entry (Table 07-3); the physical core is numbered (tile × 13 + site) × 18 + core (R198). -/
structure CatEntry where
  valid : Bool
  loan : Bool
  pcore : Nat
deriving DecidableEq, Repr

def CatEntry.init : CatEntry := { valid := false, loan := false, pcore := 0 }

/-- Physical core states (Table 07-4). -/
inductive PState where
  | inService | spare | testing | deaccessioned | dark
deriving DecidableEq, Repr

/-- A rank-map segment (Table 07-2). -/
structure RSeg where
  first : Nat
  panel : Nat
  pcount : Nat
  width : Nat
  x0 : Nat
  y0 : Nat
  count : Nat
deriving DecidableEq, Repr

/-- An admitted transfer into a window (R213). -/
structure Transfer where
  tag : Nat
  /-- Its packets travel on VC0. -/
  urg : Bool
  slot : Nat
  sender : Nat × Nat
  srank : Nat
  /-- Offset of the first byte, and length. -/
  base : Nat
  total : Nat
  written : Nat
  lastSeen : Nat
deriving DecidableEq, Repr

/-- A window slot of a logical core (Table 07-7), and the closes that wait on it. -/
structure Win where
  isOpen : Bool
  closing : Bool
  gen : Nat
  handle : Nat
  done : Nat
  /-- The closing commands (queue sequence numbers): the first, and an expert one that joined. -/
  closer : Option Nat
  expertCloser : Option Nat
  doneInWait : Nat
  cutByFirst : Nat
  cutByExpert : Nat
  /-- Panel time of the last generation advance, and whether one is held (R206). -/
  lastAdvance : Option Nat
  held : Bool
deriving DecidableEq, Repr

def Win.init : Win :=
  { isOpen := false, closing := false, gen := 1, handle := 0, done := 0, closer := none, expertCloser := none,
    doneInWait := 0, cutByFirst := 0, cutByExpert := 0, lastAdvance := none, held := false }

/-- The windows of one logical core (R205): slots, admitted transfers, NI_WINCNT, served transactions. The spec says that each
core has NI_WINCNT and not whether it moves at an accession; the model keeps it with the logical core's windows (log 70,
DESIGN CHOICE). -/
structure Windows where
  slots : Tbl Win
  transfers : List Transfer
  refused : Nat
  dropped : Nat
  /-- Transactions served, with the answer given (R176): (sender, status). -/
  served : List ((Nat × Nat) × Status)
deriving DecidableEq, Repr

def Windows.init : Windows := { slots := [], transfers := [], refused := 0, dropped := 0, served := [] }

/-- A barrier group (R218, R222, R224), keyed by 64 × partition + group. -/
structure Group where
  slot : Nat
  first : Nat
  members : List Nat
  rootTile : Nat
  expertRoot : Bool
  arrive : List Bool
  release : List Bool
  /-- The combined phase at the root hub (R224). -/
  phase : Bool
  /-- Data collectives issued by each member since the RUN start. -/
  seqs : List Nat
  closing : Option Nat
  /-- Collectives that a basic destroy waits for and that no abort has ended: (is a BARRIER, sequence number or phase) (R220). -/
  inFlight : List (Bool × Nat)
deriving DecidableEq, Repr

/-- One side of a reduction node: the packet's values, its flags and its signature (R228, R229). -/
structure RedVal where
  vals : List (BitVec 96)
  aflags : BitVec 6
  sig : BitVec 51
deriving DecidableEq, Repr

/-- What a reduction unit holds for (group, SEQ, NODE, ELEM) (R228). In fast mode `left` is the running value and
`taken` the contributions added. -/
structure RedNode where
  group : Nat
  seq : Nat
  node : Nat
  elem : Nat
  left : Option RedVal
  right : Option RedVal
  taken : Nat
  /-- Contributors to a fast unit so far: member indices, or tiles at the root tile (R233, R234). -/
  from_ : List Nat
  answered : Bool
deriving DecidableEq, Repr

/-- A stream of the broadcast bus (R110, R189, R232): its rows of 64 bytes, and how far each replicator, die and member has come. -/
structure BStream where
  id : Nat
  part : Nat
  vc : Nat
  /-- Member tasks: (core, issue number). -/
  members : List (Nat × Nat)
  /-- The descriptor of a shared STREAM_IN, whose rows are read from their home slices; none for BROADCAST. -/
  desc : Option (BitVec 512)
  /-- How many rows, and those that a replicator has taken from their source. -/
  count : Nat
  rows : Tbl (List Byte)
  /-- Rows the replicator of a tile has taken for its members. -/
  taken : Tbl Nat
  /-- Rows delivered to a die, keyed by 13 × tile + site. -/
  delivered : Tbl Nat
  /-- Rows a member has written to scratchpad; the rest of those delivered are in its receive buffer (R190). Keyed by core. -/
  written : Tbl Nat
  /-- Dies whose next beat failed once. -/
  resent : List Nat
  /-- The root task of a BROADCAST. -/
  root : Option (Nat × Nat)
  /-- The root's read failed after these rows (R232). -/
  failed : Bool
deriving DecidableEq, Repr

/-- Members of a shared stream gathering (R110): first member's fields and the members. -/
structure Gather where
  part : Nat
  share : Nat
  desc : BitVec 512
  members : List (Nat × Nat)
deriving DecidableEq, Repr

/-! ## Networks -/

/-- A router of the bulk-data network: base router r = 4 × by + bx of a tile (R160), or the router of a core, C16 and C17 with
their spur routers (R159). -/
inductive Node where
  | router (t r : Nat)
  | core (t d c : Nat)
deriving DecidableEq, Repr

/-- What waits for the answer to a request: a task (core, issue number), the task-list fetch of a core, access n of a host hart through
the aperture, or nothing. -/
inductive Asker where
  | task (p id : Nat)
  | fetch (p : Nat)
  | aperture (host hart n : Nat) (store : Bool)
  | nobody
deriving DecidableEq, Repr

/-- What a packet carries besides its header. The spec gives the PUT and reduction prefixes (Tables 07-10, 08-3); the
contents of the message kinds are the model's (log 9, DESIGN CHOICE). A task is named by (core, issue number). -/
inductive Body where
  | rdReq (who : Asker) (addr n : Nat) (alloc : Bool)
  | rdData (who : Asker) (addr : Nat) (bytes : List Byte)
  | wrReq (who : Asker) (addr : Nat) (alloc : Bool) (bytes : List Byte)
  | wrAck (who : Asker) (addr : Nat)
  /-- Row `row` of a stream, from replicator to replicator (R189). -/
  | bcData (stream row : Nat) (bytes : List Byte)
  /-- An access at an offset of a core's aperture window: a read, or a write of `data`. -/
  | aptReq (who : Asker) (offset size : Nat) (data : Option (BitVec 512))
  | aptData (who : Asker) (data : Option (BitVec 512))
  | announce (sender : Nat × Nat) (srcRank tag bytes nth : Nat)
  | pull (recv sender : Nat × Nat) (cap : Nat)
  | data (recv sender : Nat × Nat) (off : Nat) (bytes : List Byte) (last : Bool)
  | done (sender : Nat × Nat) (status : Status)
  | putData (sender : Nat × Nat) (l slot wgen offset total srank : Nat) (first last : Bool) (bytes : List Byte)
  /-- `srank` is the sender's rank. -/
  | putAck (sender : Nat × Nat) (status : Status) (srank : Nat)
  | redPart (group seq node elem member : Nat) (fromLeft : Bool) (v : RedVal) (mismatch : Bool)
  /-- `node` is the destination unit's node, 0 for a member. -/
  | redResult (group seq node member elem : Nat) (v : RedVal) (mismatch final : Bool)
  | nack (who : Asker) (status : Status)
  /-- A frame on its way to an edge port, for what waits for its answer; and a server's answer on its way to an NI (R490, R493). -/
  | toPort (f : Frame) (who : Asker)
  | fromServer (f : Frame)
deriving DecidableEq, Repr

/-- A packet in the panel: the header fields of Table 06-4, where it is, and its body. -/
structure Packet where
  id : Nat
  pgen : Nat
  part : Nat
  vc : Nat
  kind : Nat
  flits : Nat
  lastw : Nat
  tag : Nat
  route : BitVec 24
  urg : Bool
  bset : Bool
  dunit : Nat
  dst : Nat
  src : Nat
  sunit : Nat
  stamp : Nat
  /-- The router the packet is at (R164, R165), and the one it came from; none while it has not left the router of its NI or unit. -/
  place : Node
  prev : Option Node
  /-- Flits sent over the output that the packet waits for (R170). -/
  sent : Nat
  /-- Queued at its NI and not yet injected (R178). -/
  held : Bool
  /-- It has left its last router for its destination unit. -/
  ejected : Bool
  /-- Taken by its destination unit and not yet acted on. -/
  delivered : Bool
  /-- The last tile crossing's code, 0 before the first. -/
  lastHop : Nat
  /-- Issued again after a loss (R176). -/
  again : Bool
  body : Body
deriving DecidableEq, Repr

/-- The tile a packet is in. -/
def Packet.tile (k : Packet) : Nat :=
  match k.place with
  | .router t _ => t
  | .core t _ _ => t

/-- The arbiter of an output port (R170): flit slots given, modulo 64, and the input port that the first level served last. -/
structure Arb where
  slot : Nat
  last : Nat
deriving DecidableEq, Repr

def Arb.init : Arb := { slot := 0, last := 0 }

/-- A request that awaits its reply (R176, R489): what was sent, on the panel or over the fabric. A lost packet that no request covers
has 0 attempts. -/
structure Req where
  id : Nat
  who : Asker
  packets : List Packet
  frames : List Frame
  attempts : Nat
deriving DecidableEq, Repr

/-- An NI_RTE entry (Table 06-12). -/
structure Rte where
  valid : Bool
  override : Bool
  hops : Nat
  route : BitVec 24
deriving DecidableEq, Repr

def Rte.init : Rte := { valid := false, override := false, hops := 0, route := 0 }

/-- States of a crossing (Table 06-13). -/
inductive LinkState where
  | up | retraining | failed | none
deriving DecidableEq, Repr

/-- An NI_LINK record (Table 06-13) with the lane groups being retrained (R174). -/
structure NiLink where
  state : LinkState
  sparesUsed : List Nat
  retrains : Nat
  lost : Nat
  transient : Nat
  groups : List Nat
deriving DecidableEq, Repr

def NiLink.init : NiLink :=
  { state := .none, sparesUsed := [], retrains := 0, lost := 0, transient := 0, groups := [] }

/-- NI_DROP (Table 06-14). -/
structure NiDrop where
  lifetime : Nat
  staleGen : Nat
  kind : Nat
  vc0Over : Nat
deriving DecidableEq, Repr

/-- A change of route or catalogue entries that waits for, or is in, its drain (R178, R179, R200). -/
inductive DrainPhase where
  | decided | held | written
deriving DecidableEq, Repr

structure Drain where
  id : Nat
  /-- A link failure's own (R179). -/
  own : Bool
  scope : List Nat
  phase : DrainPhase
  /-- (16 × source tile + destination tile, entry) -/
  routes : List (Nat × Rte)
  /-- (logical core, entry) -/
  cats : List (Nat × CatEntry)
  /-- Copies that end with the drain (R248): spare, device, blocks that could not be copied. -/
  copies : List (Nat × Nat × List Nat)
  /-- Commands that complete, or copy, at the release. -/
  cmds : List Nat
  since : Nat
deriving DecidableEq, Repr

/-- A control message in flight (R183): of class CMD, but for the contents of a PROGRAM_LOAD, which are CFG. -/
inductive CtrlMsg where
  | runStart (p : Nat) (r : RunStart)
  | abort (p run : Nat)
  | stepMark (p : Nat) (m : StepMark)
  | program (p cmd : Nat)
deriving DecidableEq, Repr

/-- The last panel-wide broadcast (R184): its words, and the tiles whose hubs have acknowledged it to the root. -/
structure TreeMsg where
  words : List Dword
  acks : List Nat
deriving DecidableEq, Repr

/-- The lanes of a synchronisation link (R185): 64 arrive lanes toward the root, 64 release lanes away from it, the check bits of each
direction, and panel time. -/
structure SyncLanes where
  arrive : BitVec 64
  release : BitVec 64
  checkUp : BitVec 8
  checkDown : BitVec 8
  time : Nat
deriving DecidableEq, Repr

/-- Registers of one base tile's network (Tables 06-11 to 06-14). -/
structure TileNet where
  vc1Min : Nat
  vc2Min : Nat
  vc3Min : Nat
  rte : Tbl Rte
  links : Tbl NiLink
  drop : NiDrop
deriving DecidableEq, Repr

def TileNet.init : TileNet :=
  { vc1Min := 4, vc2Min := 4, vc3Min := 4, rte := [], links := [], drop := ⟨0, 0, 0, 0⟩ }

/-! ## LPDDR5X and caches -/

/-- Device states (Table 09-5). -/
inductive DevState where
  | inUse | spare | copying | failed | notMapped
deriving DecidableEq, Repr

/-- PST_DEVn (Table 09-5), the corrected count at the start of the hour (R248), and UE reads. -/
structure Device where
  state : DevState
  slow : Bool
  fullTrained : Bool
  serves : Option Nat
  refrate : Nat
  ue : Nat
  ce : Nat
  ceHourStart : Nat
  /-- A predictive trigger asks for a replacement (R248). -/
  wanted : Bool
  /-- A lasting fault has taken the device, and its replacement waits for a reset or for the spare's copy (R248, R249). -/
  down : Bool
  /-- Written entirely with poison from this block of the device on (R248, R249), but for the blocks rewritten since. -/
  poison : Option (Nat × List Nat)
deriving DecidableEq, Repr

def Device.init : Device :=
  { state := .notMapped, slow := false, fullTrained := false, serves := none, refrate := 0, ue := 0, ce := 0,
    ceHourStart := 0, wanted := false, down := false, poison := none }

/-- A 64-byte sector of a cache line: dirty, and its bytes (R238). -/
structure Sector where
  dirty : Bool
  bytes : List Byte
deriving DecidableEq, Repr

/-- A line of a slice, keyed by its 256-byte line number l (R237, R238). -/
structure CLine where
  line : Nat
  sectors : Tbl Sector
deriving DecidableEq, Repr

/-! ## Host side -/

/-- An MSI target (Table 11-2, MBX_MSI). -/
structure Msi where
  en : Bool
  slevel : Bool
  hart : Nat
  iid : Nat
deriving DecidableEq, Repr

def Msi.off : Msi := { en := false, slevel := false, hart := 0, iid := 0 }

/-- A queue CRC context (R305). -/
structure CrcCtx where
  cfg : CrcCfg
  reg : Nat
  bytes : Nat
deriving DecidableEq, Repr

/-- What a started command waits for. -/
inductive CmdWait where
  | none
  | run
  | step (left : List Nat)
  | queue (target : Nat) (destroy expert : Bool) (count : Nat)
  | window (l slot : Nat)
  | group (key : Nat)
  | drain (id : Nat)
  | reset (part : Nat)
  | faultLog (first : Nat)
  | feeds (count : Nat) (left : List (Nat × Nat))
  | stepSet (part : Nat)
  | ports (mask : BitVec 32)
  | portDrain (mask : BitVec 32) (dropped : Nat)
  /-- A change of the edge fabric waits for the drain of its flows (R493). -/
  | flows
  | map
  /-- An ABORT waits for what its RUN ends with; its record follows its target's (R293). -/
  | abort (target : Nat)
  /-- A MEM_COPY or MEM_FILL has moved its first `done` bytes (R289). -/
  | move (done : Nat)
  /-- A PROGRAM_LOAD validates its list (R55). -/
  | load
  /-- A FW_STAGE or FW_COMMIT writes flash: the verified image, and none for a commit (R399–R401). -/
  | flash (image : List Byte)
deriving DecidableEq, Repr

/-- An admitted, uncompleted command (R266): its packet, numbered as Table 10-9 numbers it. -/
structure Cmd where
  uid : Nat
  queue : Nat
  host : Nat
  fn : Nat
  expert : Bool
  tag : Word
  comp : Bool
  doorbell : Bool
  fenceBefore : Bool
  fenceAfter : Bool
  pkt : BitVec 1024
  started : Bool
  /-- The command passed R274; a refused packet has only its record. -/
  admitted : Bool
  /-- A read made for the command was clean on its second attempt (R247, R319). -/
  retried : Bool
  wait : CmdWait
  rungAt : Nat
deriving DecidableEq, Repr

/-- The record of a command that has ended, held until it is written: until then the command has not completed (R267, R273,
R275). One that is not to be written (COMP = 0) only takes its turn. -/
structure Rec where
  uid : Nat
  queue : Nat
  tag : Word
  status : Status
  attempts : Nat
  r0 : Nat
  r1 : Nat
  r2 : Nat
  r3 : Nat
  time : Nat
  doorbell : Bool
  rungAt : Nat
  admitted : Bool
  fenceAfter : Bool
  silent : Bool
  /-- The command whose record goes first: an aborted target's, on any queue (R293). -/
  follows : Option Nat
deriving DecidableEq, Repr

/-- Queue states (Table 10-6). -/
inductive QState where
  | free | disabled | enabled | disabling | held
deriving DecidableEq, Repr

/-- A queue (R264, R265, R269, R280). -/
structure Queue where
  state : QState
  owner : Nat
  admin : Bool
  control : Bool
  pinned : Bool
  ext : Bool
  sqBase : Nat
  sqLog : Nat
  cqBase : Nat
  cqLog : Nat
  msi : Msi
  sqHead : Nat
  tail : Nat
  cqHead : Nat
  cqTail : Nat
  phase : Bool
  rangeErr : Bool
  cqFull : Bool
  records : List Rec
  crc : Option CrcCtx
  /-- The command unit that holds the context; none when spilled. -/
  unit : Option Nat
  lastRung : Nat
  /-- Completed while a disable of the queue waits. -/
  doneInWait : Nat
deriving DecidableEq, Repr

def Queue.init : Queue :=
  { state := .free, owner := 0, admin := false, control := false, pinned := false, ext := false, sqBase := 0,
    sqLog := 0, cqBase := 0, cqLog := 0, msi := Msi.off, sqHead := 0, tail := 0, cqHead := 0, cqTail := 0,
    phase := true, rangeErr := false, cqFull := false, records := [], crc := none, unit := none, lastRung := 0,
    doneInWait := 0 }

/-- A command unit (R269, R270): pending doorbells in arrival order, loads in progress, spill-write buffer. -/
structure CmdUnit where
  pending : List Nat
  loading : List Nat
  spilling : List Nat
deriving DecidableEq, Repr

def CmdUnit.init : CmdUnit := { pending := [], loading := [], spilling := [] }

/-- Modes of a hart (R256). -/
inductive HartMode where
  | machine | supervisor | user
deriving DecidableEq, Repr

/-- What the spec gives a hart besides the instruction set it names (R256): its mode, the timer compare of Sstc, and the
identities that its two interrupt files enable. A hart's program is outside the block; no command writes these (log 10). -/
structure Hart where
  mode : HartMode
  timeCmp : Dword
  enabledM : List Nat
  enabledS : List Nat
deriving DecidableEq, Repr

/-- A hart as it leaves reset: machine mode, no timer set and nothing enabled (log 10, PRESUMED: the profiles' own). -/
def Hart.init : Hart :=
  { mode := .machine, timeCmp := 0xFFFFFFFFFFFFFFFF, enabledM := [], enabledS := [] }

/-- A host die (R256, R259, R272). -/
structure HostDie where
  released : Bool
  lost : Bool
  modules : Nat
  linkUp : Bool
  /-- Interrupt identities pending: (hart, supervisor level, identity). -/
  imsic : List (Nat × Bool × Nat)
  /-- PST_UNPOP: the hart and address of the first unpopulated store since it was last cleared. -/
  unpop : Option (Nat × Nat)
  /-- The newest fault record read (R325), and records overwritten that this die had not read (R326). -/
  faultRead : Nat
  faultLost : Nat
  /-- Harts whose mode, timer or interrupt enables are not as after reset (R256). -/
  harts : List (Nat × Hart)
deriving DecidableEq, Repr

def HostDie.init : HostDie :=
  { released := false, lost := false, modules := 8, linkUp := false, imsic := [], unpop := none, faultRead := 0,
    faultLost := 0, harts := [] }

/-- What the last host load returned: none is the load access fault of R261, or with `fetch` the instruction access fault. -/
structure LoadResult where
  host : Nat
  hart : Nat
  fetch : Bool
  data : Option (BitVec 512)
deriving DecidableEq, Repr

/-- A mailbox (Table 11-2). -/
structure Mailbox where
  th : List Dword
  tp : List Dword
  lostTh : Nat
  lostTp : Nat
  collTh : Bool
  collTp : Bool
  dbell : Word
  mask : Word
  msi : Msi
  hbeat : Dword
  /-- Console output the lead holds while TH is full (R295). -/
  console : List Dword
deriving DecidableEq, Repr

def Mailbox.init : Mailbox :=
  { th := [], tp := [], lostTh := 0, lostTp := 0, collTh := false, collTp := false, dbell := 0,
    mask := 0xFFFFFFFF, msi := Msi.off, hbeat := 0, console := [] }

/-- A RUN in flight (R286): its command, its cores by rank, and the reports so far. -/
structure RunRec where
  cmd : Nat
  part : Nat
  slot : Nat
  /-- (rank, physical core) -/
  cores : List (Nat × Nat)
  reports : List CoreReport
  nonrepro : Bool
  /-- The status set by a reset of the partition, a power fail or a thermal shutdown (R286). -/
  outcome : Option Status
deriving DecidableEq, Repr

/-! ## Faults, partitions, provenance -/

/-- Scopes of a fault record (Table 13-2). -/
inductive Scope where
  | core | die | tile | partition | device | link | hostDie | panel
deriving DecidableEq, Repr

/-- A fault record (Table 13-2). -/
structure FaultRec where
  time : Nat
  seq : Nat
  addr : Nat
  device : Option Nat
  channel : Nat
  memkind : Nat
  engine : Option Nat
  task : Nat
  index : Option Nat
  queue : Option Nat
  pgen : Nat
  status : Option Status
  pcore : Option Nat
  lcore : Option Nat
  part : Nat
  cls : Nat
  scope : Scope
  attempts : Nat
  detail : Nat
deriving DecidableEq, Repr

/-- Transient counters of a unit (Table 13-5), with the hour's start values (R349). -/
structure Transient where
  lasting : Nat
  timeout : Nat
  kat : Nat
  task : Nat
  ecc : Nat
  link : Nat
deriving DecidableEq, Repr

def Transient.init : Transient := { lasting := 0, timeout := 0, kat := 0, task := 0, ecc := 0, link := 0 }

/-- Partition states (Table 13-6). -/
inductive PartState where
  | undefined | inService | resetting | accessioning | held | withdrawn
deriving DecidableEq, Repr

/-- A logical core awaiting accession: the staged spare under test (R340). -/
structure Pending where
  lcore : Nat
  former : Nat
  spare : Option Nat
  /-- The core's whole stack is lost: its cores are placed in one drain. -/
  stack : Bool
  /-- The spare has passed its known-answer run. -/
  passed : Bool
deriving DecidableEq, Repr

/-- A partition (R330–R332, R342, R346, R348). -/
structure Part where
  state : PartState
  pgen : Nat
  resetsTotal : Nat
  /-- Panel times of the counted resets (R342). -/
  counted : List Nat
  decidedAt : Nat
  releasedAt : Nat
  accessions : Nat
  /-- Units to deaccession at the release: physical cores, and whether their whole stack. -/
  failedCores : List Nat
  failedStacks : List Nat
  failedDevices : List Nat
  pending : List Pending
  /-- A reset or a withdrawal is decided and not yet started: (counted by the panel, withdraw). -/
  decided : Option (Bool × Bool)
  holdAt : Nat
  auto : Bool
  hold : Bool
  holdLimit : Nat
  /-- Step policy, power-cap step, thermal-cap step (Table 17-4). -/
  policy : Nat
  powerCap : Nat
  thermalCap : Nat
  rmaps : Tbl (List RSeg)
  swaps : Nat
  deferred : Nat
  rebalance : Bool
  lastControl : Option Nat
  /-- Stragglers with a spare that has passed staging: (straggler, spare) (R359). -/
  staged : List (Nat × Nat)
deriving DecidableEq, Repr

def Part.init : Part :=
  { state := .undefined, pgen := 0, resetsTotal := 0, counted := [], decidedAt := 0, releasedAt := 0,
    accessions := 0, failedCores := [], failedStacks := [], failedDevices := [], pending := [], decided := none,
    holdAt := 0, auto := true, hold := false, holdLimit := 60, policy := 0, powerCap := 0, thermalCap := 0,
    rmaps := [], swaps := 0, deferred := 0, rebalance := false, lastControl := none,
    staged := [] }

/-- Panel-wide limits (Table 13-15). -/
structure Limits where
  ceLimit : Nat
  leadWindow : Nat
  resetWindow : Nat
  leadLimit : Nat
  withdrawLimit : Nat
  resetLimit : Nat
  exhaustWithdraws : Bool
deriving DecidableEq, Repr

/-- A provenance entry (Table 13-16); CHECK is formed as the entry is written and kept with it (R351). -/
structure Prov where
  number : Nat
  boot : Nat
  time : Nat
  type : Nat
  cls : Nat
  scope : Nat
  pcore : Nat
  lcore : Nat
  part : Nat
  device : Nat
  catVersion : Nat
  detail : Nat
  check : Nat
deriving DecidableEq, Repr

/-- A curator (R328). -/
inductive CurState where
  | off | posting | restarting | lost
deriving DecidableEq, Repr

structure Curator where
  state : CurState
  lastHeard : Nat
deriving DecidableEq, Repr

def Curator.init : Curator := { state := .off, lastHeard := 0 }

/-! ## Boot flash, charter, identity -/

/-- Copies A and B of an image, and which are marked invalid while staged (R399). -/
structure ImagePair where
  a : List Byte
  b : List Byte
  staged : Bool
deriving DecidableEq, Repr

/-- The counter record (Table 16-5). FLOOR, ACTIVE and PENDING are by image type. -/
structure Counter where
  seq : Nat
  boot : Nat
  idNext : Nat
  floor : Tbl Nat
  active : List Nat
  pending : Tbl Nat
deriving DecidableEq, Repr

def Counter.init : Counter := { seq := 0, boot := 0, idNext := 0, floor := [], active := [], pending := [] }

/-- A boot-flash die (R374, R395, R399). -/
structure Flash where
  alive : Bool
  images : Tbl ImagePair
  charters : Tbl (List Byte)
  stagedCharters : List Nat
  /-- The record in its replay-protected region, and the region's write counter, which never decreases (R395). -/
  record : Counter
  writes : Nat
deriving DecidableEq, Repr

def Flash.init : Flash :=
  { alive := true, images := [], charters := [], stagedCharters := [], record := Counter.init, writes := 0 }

/-- Charter fields (Tables 15-3 to 15-6), kept as the 64 registers of 8 bytes by register number. -/
abbrev Charter := Tbl Dword

/-- The start's progress through Table 15-1 and what its steps found. -/
inductive Stage where
  | off | inReset | strap | test | rom | firstStage | charter | trained | waved | microcode | berChecked
  | katDone | catalogue | released | stopped
deriving DecidableEq, Repr

structure Start where
  stage : Stage
  origin : Nat
  fromPower : Bool
  firstDie : Nat
  duration : Nat
  failedKat : Nat
  factory : Bool
  compactCharter : Bool
  slot : Nat
  fullTrained : Bool
  bf1Boot : Bool
  profile : Bool
  wave : Nat
deriving DecidableEq, Repr

/-- Latched straps (R368, Table 21-2). -/
structure Straps where
  panelId : Nat
  compact : Bool
  flashSel : Bool
  charterSel : Nat
  fullTrain : Bool
  testEn : Bool
  traySlot : Nat
  rsvd : Bool
deriving DecidableEq, Repr

/-- What the lead measured and signed (R394, R396, R397). -/
structure Ident where
  chain : List Byte
  stages : Nat
  hashes : List (List Byte)
  ownerHash : List Byte
  /-- The owner's public key of the certificate that the start verified (R393). -/
  ownerKey : List Byte
  cert : Option (Nat × List Byte)
  attLeaf : Nat
deriving DecidableEq, Repr

/-! ## Clocks, power, cooling, monitors, service, fabric -/

/-- CLK_DOM of a domain (Table 17-5), its stretch, the window's lowest code and the requested step. -/
structure ClkDom where
  thrStretch : Nat
  thrStep : Nat
  thrWarn : Nat
  margin : Nat
  stretches : Nat
  target : Nat
  regCap : Nat
  marginCap : Nat
  fixed : Bool
  stretching : Bool
  windowMin : Nat
  /-- A step-up waiting for the regulator to settle (R409). -/
  settling : Option Nat
deriving DecidableEq, Repr

def ClkDom.init : ClkDom :=
  { thrStretch := 3, thrStep := 8, thrWarn := 16, margin := 63, stretches := 0, target := 0, regCap := 7,
    marginCap := 7, fixed := false, stretching := false, windowMin := 63, settling := none }

/-- PWR_DOM of a domain (Table 18-8). -/
structure PwrDom where
  power : Nat
  vout : Nat
  phaseFails : Nat
  phasesOk : BitVec 4
deriving DecidableEq, Repr

def PwrDom.init : PwrDom := { power := 0, vout := 0, phaseFails := 0, phasesOk := 0xF }

/-- A tile's converter, limiter and status (Tables 18-3, 18-12). -/
structure TilePwr where
  pin : Nat
  budget : Nat
  phases : BitVec 8
  withheld : Nat
  pauses : Nat
  dark : Bool
  cap : Nat
  granted : Nat
  standing : Nat
  warming : Nat
  /-- The limiter holds the tile at its budget (R435). -/
  atBudget : Bool
deriving DecidableEq, Repr

def TilePwr.init : TilePwr :=
  { pin := 0, budget := 0, phases := 0xFF, withheld := 0, pauses := 0, dark := false, cap := 0, granted := 0,
    standing := 0, warming := 0, atBudget := false }

/-- Panel power state (Table 18-11, R416, R418, R422, R425, R433, R435). -/
structure Power where
  pwrGood : Bool
  pfwN : Bool
  vin : Nat
  pin : Nat
  sags : Nat
  trips : Nat
  pfwSeen : Bool
  pfw : Bool
  pfwSince : Nat
  pfwHighSince : Option Nat
  sag : Bool
  sagSince : Nat
  vmin : Nat
  atCap : Bool
  slew : Nat
  panelCap : Nat
  stageThr : Nat
  stagePause : Nat
  lastServed : Nat
  /-- Panel input power when the event began, and the commands its response completed (Table 18-4). -/
  eventPin : Nat
  failed : Nat
  /-- The wait after a power-fail warning is over: partitions continue their resets (R419). -/
  recovering : Bool
  /-- A POWER_FAIL entry or an orderly reset ended the last boot (R421). -/
  orderly : Bool
deriving DecidableEq, Repr

/-- Reference clocks (Table 17-1). -/
structure RefClk where
  switches : Nat
  holdover : Bool
  altOk : Bool
  priOk : Bool
  sel : Bool
deriving DecidableEq, Repr

/-- A junction sensor's last valid reading and consecutive readings at T_SHUT (R441, R445). -/
structure Sensor where
  reading : Option Nat
  /-- Its last reading was discarded (R441). -/
  bad : Bool
  shut : Nat
deriving DecidableEq, Repr

/-- A sensor that has not been sampled. -/
def Sensor.init : Sensor := { reading := none, bad := false, shut := 0 }

/-- Cooling state (Table 19-3, R442–R447). -/
structure Thermal where
  sensors : Tbl Sensor
  flow : Nat
  kwOn : Bool
  kwTarget : Nat
  kwLoad : Nat
  caps : Nat
  badSensor : Bool
  warn : Bool
  /-- Partitions a tile of which reached T_CAP in the present 10 ms window. -/
  hot : List Nat
deriving DecidableEq, Repr

/-- A histogram monitor (Table 20-7). -/
structure Monitor where
  source : Nat
  inst : Nat
  mode : Bool
  base : Nat
  width : Nat
  vcmask : Nat
  preset : Bool
  min : Nat
  max : Nat
  count : Nat
  sum : Nat
  bins : Tbl Nat
  start : Nat
  dropped : Nat
deriving DecidableEq, Repr

/-- Congestion map settings and the latest map (R459–R461). -/
structure CMap where
  interval : Nat
  vcsel : Nat
  peak : Bool
  nextInterval : Nat
  nextVcsel : Nat
  nextPeak : Bool
  seq : Nat
  time : Nat
  mapInterval : Nat
  mapVcsel : Nat
  mapPeak : Bool
  dark : BitVec 16
  drain : Bool
  drainSeen : Bool
  levels : List TileLevels
deriving DecidableEq, Repr

/-- Service contacts, TAP and I3C target (R463–R474). -/
structure Service where
  ph : Nat
  faultN : Bool
  heartbeat : Bool
  srCause : BitVec 8
  tapIr : Nat
  tapDie : Option Nat
  standalone : List Nat
  loopbacks : List (Nat × Nat)
  /-- Compute stacks STACK_POWER has switched on, and when the last request was taken. -/
  stacksOn : List Nat
  lastStack : Option Nat
  /-- What the scan shifted out last. -/
  tdo : List Bool
  pins : BitVec 48
  extest : Bool
  i3cAddr : Option (BitVec 7)
  i3cIndex : Nat
  i3cReply : List Byte
  i3cEvents : BitVec 8
  hotJoined : Bool
  ibi : Option Byte
  ibiState : BitVec 11
deriving DecidableEq, Repr

/-- States of a fabric port (Table 22-5). -/
inductive PortState where
  | down | training | up | draining | disabled | lost
deriving DecidableEq, Repr

/-- A fabric port (Table 22-5, R494). -/
structure Port where
  state : PortState
  lanes4 : Bool
  serDegraded : Bool
  serThr : Nat
  uncorr : Nat
  retx : Nat
  rxdrop : Nat
  drainSince : Nat
deriving DecidableEq, Repr

def Port.init : Port :=
  { state := .down, lanes4 := false, serDegraded := false, serThr := 0, uncorr := 0, retx := 0, rxdrop := 0,
    drainSince := 0 }

/-- The sender's side of a flow (R487, R488): at most 64 unacknowledged frames, and frames that wait for room. -/
structure TxFlow where
  key : FlowKey
  port : Option Nat
  epoch : Nat
  nextSeq : Nat
  unacked : List Frame
  waiting : List Frame
  tries : Nat
  lastAdvance : Option Nat
  heldAdvance : Bool
  /-- The flow moves or is re-framed: it injects nothing until its unacknowledged frames are acknowledged, or 50 µs have passed
  (`some true`; R493). -/
  move : Option Bool
deriving DecidableEq, Repr

/-- The receiver's side of a flow. -/
structure RxFlow where
  key : FlowKey
  epoch : Nat
  expect : Nat
  sinceAck : Nat
deriving DecidableEq, Repr

/-- An endpoint entry (Table 22-2). -/
abbrev Endpoint := BitVec 512

/-- A change of framing, of an endpoint entry or of a PORTSET that waits for the drain of its flows (R493, R494). -/
inductive FabChange where
  | portset (group : Nat) (mask : BitVec 32)
  | framing (etherType maxData encap : Nat)
  | entry (i : Nat) (e : Endpoint)
deriving DecidableEq, Repr

/-- Edge-fabric state (R484–R497). -/
structure Fabric where
  ports : Tbl Port
  tx : List TxFlow
  rx : List RxFlow
  endpoints : Tbl Endpoint
  portsets : Tbl (BitVec 32)
  etherType : Nat
  encap : Nat
  maxData : Nat
  /-- ACK frames sent. -/
  acks : List Frame
  /-- Frames that edge ports hold during a drain of catalogue entries: port and frame (R200). -/
  held : List (Nat × Frame)
  /-- Changes that wait: command, flows, change. -/
  changes : List (Nat × List FlowKey × FabChange)
  /-- The frame that each port sent last, without preamble and FCS (R484–R486). -/
  sent : Tbl (List Byte)
deriving DecidableEq, Repr

/-! ## The panel -/

/-- The whole panel. -/
structure State where
  /-- The model's own queue of waiting commands, first in first out. -/
  pending : List Instr
  /-- The model's own counter for free values (log 5, DESIGN CHOICE). -/
  fresh : Nat
  /-- 1 = HXP-3072/1T (R3). -/
  order1T : Bool
  /-- Panel time in ns (R187). -/
  time : Nat
  /-- Cores by physical number (R198). -/
  cores : Tbl Core
  pstates : Tbl PState
  cat : Tbl CatEntry
  catVersion : Nat
  wins : Tbl Windows
  groups : Tbl Group
  nodes : List RedNode
  streams : List BStream
  gathers : List Gather
  packets : List Packet
  reqs : List Req
  nextId : Nat
  drains : List Drain
  ctrl : List CtrlMsg
  tiles : Tbl TileNet
  /-- Links with a replay asked for (R173). -/
  replays : List LinkRef
  /-- Arbiters of output ports, by output (R170). -/
  arbs : Tbl Arb
  /-- The stream whose beat a die's channel carried last, by die, 13 × tile + site (R189). -/
  lastBeat : Tbl Nat
  tree : TreeMsg
  /-- Receivers that found an error in a sample, when, and the lane values of the sample before, which they keep (R186). -/
  syncErr : List (SyncRef × Nat × SyncLanes)
  fenced : List Nat
  /-- LPDDR5X contents by host address. -/
  mem : Mem
  /-- 64-byte blocks that read as uncorrectable: poisoned (true), or failing (false). -/
  bad : Tbl Bool
  slices : Tbl (List CLine)
  devices : Tbl Device
  hosts : Tbl HostDie
  loads : List LoadResult
  queues : Tbl Queue
  units : Tbl CmdUnit
  spills : Nat
  cmds : List Cmd
  nextCmd : Nat
  runs : List RunRec
  mailboxes : Tbl Mailbox
  hbSeq : Nat
  hbValid : Bool
  faults : List FaultRec
  faultSeq : Nat
  transients : Tbl Transient
  hourly : Tbl Transient
  parts : Tbl Part
  limits : Limits
  leadFails : List Nat
  provBF0 : List Prov
  provBF1 : List Prov
  provNext : Nat
  /-- The collection record (R349): retired physical cores, and (spare, replaced) devices. -/
  retired : List Nat
  replaced : List (Nat × Nat)
  curators : Tbl Curator
  lead : Nat
  hasDeputy : Bool
  straps : Straps
  charter : Charter
  sealed : Bool
  start : Start
  hostsReleased : Bool
  catReady : Bool
  firmware : Nat
  microcode : Nat
  bf0 : Flash
  bf1 : Flash
  counter : Counter
  /-- The training cache of boot flash (R378): for each device, what its saved settings belong to; none before a first start. -/
  trainCache : Option (Tbl (Nat × Option Nat))
  ident : Ident
  refclk : RefClk
  clk : Tbl ClkDom
  pwr : Tbl PwrDom
  tpwr : Tbl TilePwr
  /-- A base tile's own regulator phases lost (R431). -/
  tileReg : Tbl Nat
  power : Power
  thermal : Thermal
  monitors : Tbl Monitor
  coreMonitors : Tbl Monitor
  cmap : CMap
  service : Service
  rstN : Bool
  fabric : Fabric
deriving DecidableEq, Repr

/-- The panel with PANEL_RST_N asserted for the first time: every register at its reset value, every memory empty, no
command waiting. Values that no rule gives are in the assumption log (2, 3, 13, 14; DESIGN CHOICE). -/
def State.reset : State :=
  { pending := [], fresh := 0, order1T := false, time := 0, cores := [], pstates := [], cat := [], catVersion := 0,
    wins := [], groups := [], nodes := [], streams := [], gathers := [], packets := [], reqs := [], nextId := 0,
    drains := [], ctrl := [], tiles := [], replays := [], arbs := [], lastBeat := [],
    tree := { words := [], acks := [] }, syncErr := [], fenced := [], mem := [], bad := [],
    slices := [], devices := [], hosts := [], loads := [], queues := [], units := [], spills := 0, cmds := [],
    nextCmd := 0, runs := [], mailboxes := [], hbSeq := 0, hbValid := false, faults := [], faultSeq := 1,
    transients := [], hourly := [], parts := [],
    limits := { ceLimit := 4096, leadWindow := 60, resetWindow := 10, leadLimit := 2, withdrawLimit := 2,
                resetLimit := 3, exhaustWithdraws := false },
    leadFails := [], provBF0 := [], provBF1 := [], provNext := 0, retired := [], replaced := [], curators := [],
    lead := 0, hasDeputy := true,
    straps := { panelId := 0, compact := false, flashSel := false, charterSel := 0, fullTrain := false,
                testEn := false, traySlot := 0, rsvd := false },
    charter := [], sealed := false,
    start := { stage := .inReset, origin := 0, fromPower := true, firstDie := 0, duration := 0, failedKat := 0,
               factory := false, compactCharter := false, slot := 0, fullTrained := false, bf1Boot := false,
               profile := false, wave := 0 },
    hostsReleased := false, catReady := false, firmware := 0, microcode := 0,
    bf0 := Flash.init,
    bf1 := Flash.init,
    counter := Counter.init,
    trainCache := none,
    ident := { chain := [], stages := 0, hashes := [], ownerHash := [], ownerKey := [], cert := none, attLeaf := 0 },
    refclk := { switches := 0, holdover := false, altOk := false, priOk := false, sel := false },
    clk := [], pwr := [], tpwr := [], tileReg := [],
    power := { pwrGood := true, pfwN := true, vin := 0, pin := 0, sags := 0, trips := 0, pfwSeen := false,
               pfw := false, pfwSince := 0, pfwHighSince := none, sag := false, sagSince := 0, vmin := 0,
               atCap := false, slew := 2000, panelCap := 46000, stageThr := 90, stagePause := 2000, lastServed := 15,
               eventPin := 0, failed := 0, recovering := false, orderly := true },
    thermal := { sensors := [], flow := 66, kwOn := true, kwTarget := 45, kwLoad := 0, caps := 0,
                 badSensor := false, warn := false, hot := [] },
    monitors := [], coreMonitors := [],
    cmap := { interval := 10, vcsel := 4, peak := false, nextInterval := 10, nextVcsel := 4, nextPeak := false,
              seq := 0, time := 0, mapInterval := 10, mapVcsel := 4, mapPeak := false, dark := 0, drain := false,
              drainSeen := false, levels := [] },
    service := { ph := 0, faultN := true, heartbeat := false, srCause := 0, tapIr := 2, tapDie := none,
                 standalone := [], loopbacks := [], stacksOn := [], lastStack := none, tdo := [], pins := 0,
                 extest := false, i3cAddr := none, i3cIndex := 0, i3cReply := [], i3cEvents := 9,
                 hotJoined := false, ibi := none, ibiState := 7 },
    rstN := false,
    fabric := { ports := [], tx := [], rx := [], endpoints := [], portsets := [], etherType := 0x88B5, encap := 0,
                maxData := 1024, acks := [], held := [], changes := [], sent := [] } }

end Sys2Proof.Machine
end

