-- ==== Sys2Proof/Machine/Ops.lean ====
section
/-! DEFINITION. The operations on tables, byte memories and bit fields, and one read and one write operation for each
table of State. A write keeps the canonical form of its table. -/

namespace Sys2Proof.Machine

/-- What a meaning answers. -/
abbrev Out := Host.Outcome State Fault Refusal

/-! ## Tables -/

/-- Read key `k`; an absent key reads as `d`. -/
def tblGet {α : Type} (d : α) : Tbl α → Nat → α
  | [], _ => d
  | (k', v) :: t, k => if k' = k then v else tblGet d t k

/-- Look a key up. -/
def tblLook {α : Type} : Tbl α → Nat → Option α
  | [], _ => none
  | (k', v) :: t, k => if k' = k then some v else tblLook t k

/-- Put an entry at its place in the rising order of keys. -/
def tblPut {α : Type} : Tbl α → Nat → α → Tbl α
  | [], k, v => [(k, v)]
  | (k', v') :: t, k, v =>
    if k < k' then (k, v) :: (k', v') :: t
    else if k = k' then (k, v) :: t
    else (k', v') :: tblPut t k v

/-- Remove a key. -/
def tblDel {α : Type} (t : Tbl α) (k : Nat) : Tbl α := t.filter (fun e => e.1 ≠ k)

/-- Write key `k`; writing what an absent key reads as removes the entry. -/
def tblSet {α : Type} [DecidableEq α] (d : α) (t : Tbl α) (k : Nat) (v : α) : Tbl α :=
  if v = d then tblDel t k else tblPut t k v

def tblMod {α : Type} [DecidableEq α] (d : α) (t : Tbl α) (k : Nat) (f : α → α) : Tbl α :=
  tblSet d t k (f (tblGet d t k))

/-- Keys strictly rising. -/
def tblSorted {α : Type} : Tbl α → Bool
  | [] => true
  | (k, _) :: t => t.all (fun e => decide (k < e.1)) && tblSorted t

/-- The canonical form: keys strictly rising and no entry equal to what an absent key reads as. -/
def tblWf {α : Type} [DecidableEq α] (d : α) (t : Tbl α) : Bool := tblSorted t && t.all (fun e => decide (e.2 ≠ d))

/-! ## Byte memories -/

/-- The canonical form of a byte memory. -/
def memWf (m : Mem) : Bool := tblWf (0 : Byte) m

/-- One byte; an unlisted byte reads as 0. -/
def memByte (m : Mem) (a : Nat) : Byte := tblGet 0 m a

def memSetByte (m : Mem) (a : Nat) (b : Byte) : Mem := tblSet 0 m a b

/-- n bytes from address a on. -/
def memRead (m : Mem) (a : Nat) : Nat → List Byte
  | 0 => []
  | n + 1 => memByte m a :: memRead m (a + 1) n

/-- Bytes stored from address a on. -/
def memWrite (m : Mem) (a : Nat) : List Byte → Mem
  | [] => m
  | b :: bs => memWrite (memSetByte m a b) (a + 1) bs

/-- Little-endian number of bytes (R5). -/
def leNat : List Byte → Nat
  | [] => 0
  | b :: bs => b.toNat + 256 * leNat bs

/-- The n bytes of a number, least significant first (R5). -/
def leBytes : Nat → Nat → List Byte
  | 0, _ => []
  | n + 1, v => BitVec.ofNat 8 v :: leBytes n (v / 256)

def memNat (m : Mem) (a n : Nat) : Nat := leNat (memRead m a n)

/-! ## Bit fields -/

/-- Bits [hi:lo] of a number. -/
def bits (x hi lo : Nat) : Nat := x / 2 ^ lo % 2 ^ (hi - lo + 1)

def bit (x i : Nat) : Bool := x / 2 ^ i % 2 = 1

/-- A flag as a number, at bit i. -/
def flagAt (b : Bool) (i : Nat) : Nat := if b then 2 ^ i else 0

/-- Bits [hi:lo] of a vector. -/
def fld {w : Nat} (x : BitVec w) (hi lo : Nat) : Nat := bits x.toNat hi lo

/-- A counter that saturates at the largest value of its width. -/
def satAdd (w a b : Nat) : Nat := min (a + b) (2 ^ w - 1)

def satInc (w a : Nat) : Nat := satAdd w a 1

def ceilDiv (a b : Nat) : Nat := (a + b - 1) / b

/-- Numbers 0 to n − 1 that satisfy a condition. -/
def upTo (n : Nat) (p : Nat → Bool) : List Nat := (List.range n).filter p

/-- Apply an update for each element, in order. -/
def each {α σ : Type} (l : List α) (f : α → σ → σ) (s : σ) : σ := l.foldl (fun s a => f a s) s

/-- Replace the entry at a position of a list. -/
def modAt {α : Type} (l : List α) (i : Nat) (f : α → α) : List α := l.mapIdx fun j x => if j = i then f x else x

/-- Replace every element that satisfies a condition. -/
def modIf {α : Type} (p : α → Bool) (f : α → α) (l : List α) : List α := l.map fun x => if p x then f x else x

/-! ## The tables of State -/

/-- Physical core p (R198). -/
def coreAt (s : State) (k : Nat) : Core := tblGet Core.init s.cores k

def setCore (s : State) (k : Nat) (v : Core) : State := { s with cores := tblSet Core.init s.cores k v }

def modCore (s : State) (k : Nat) (f : Core → Core) : State := setCore s k (f (coreAt s k))

/-- State of physical core p (Table 07-4); one that nothing has set is DARK. -/
def pstateAt (s : State) (k : Nat) : PState := tblGet PState.dark s.pstates k

def setPstate (s : State) (k : Nat) (v : PState) : State := { s with pstates := tblSet PState.dark s.pstates k v }

def modPstate (s : State) (k : Nat) (f : PState → PState) : State := setPstate s k (f (pstateAt s k))

/-- Catalogue entry of logical core l (Table 07-3). -/
def catAt (s : State) (k : Nat) : CatEntry := tblGet CatEntry.init s.cat k

def setCat (s : State) (k : Nat) (v : CatEntry) : State := { s with cat := tblSet CatEntry.init s.cat k v }

def modCat (s : State) (k : Nat) (f : CatEntry → CatEntry) : State := setCat s k (f (catAt s k))

/-- Windows of logical core l (R205). -/
def winsAt (s : State) (k : Nat) : Windows := tblGet Windows.init s.wins k

def setWins (s : State) (k : Nat) (v : Windows) : State := { s with wins := tblSet Windows.init s.wins k v }

def modWins (s : State) (k : Nat) (f : Windows → Windows) : State := setWins s k (f (winsAt s k))

/-- Network registers of a tile (R180). -/
def tileAt (s : State) (k : Nat) : TileNet := tblGet TileNet.init s.tiles k

def setTile (s : State) (k : Nat) (v : TileNet) : State := { s with tiles := tblSet TileNet.init s.tiles k v }

def modTile (s : State) (k : Nat) (f : TileNet → TileNet) : State := setTile s k (f (tileAt s k))

/-- LPDDR5X device d (Table 09-5). -/
def deviceAt (s : State) (k : Nat) : Device := tblGet Device.init s.devices k

def setDevice (s : State) (k : Nat) (v : Device) : State := { s with devices := tblSet Device.init s.devices k v }

def modDevice (s : State) (k : Nat) (f : Device → Device) : State := setDevice s k (f (deviceAt s k))

/-- Host die h. -/
def hostAt (s : State) (k : Nat) : HostDie := tblGet HostDie.init s.hosts k

def setHost (s : State) (k : Nat) (v : HostDie) : State := { s with hosts := tblSet HostDie.init s.hosts k v }

def modHost (s : State) (k : Nat) (f : HostDie → HostDie) : State := setHost s k (f (hostAt s k))

/-- Queue q (R264). -/
def queueAt (s : State) (k : Nat) : Queue := tblGet Queue.init s.queues k

def setQueue (s : State) (k : Nat) (v : Queue) : State := { s with queues := tblSet Queue.init s.queues k v }

def modQueue (s : State) (k : Nat) (f : Queue → Queue) : State := setQueue s k (f (queueAt s k))

/-- Command unit of host die u (R269). -/
def unitAt (s : State) (k : Nat) : CmdUnit := tblGet CmdUnit.init s.units k

def setUnit (s : State) (k : Nat) (v : CmdUnit) : State := { s with units := tblSet CmdUnit.init s.units k v }

def modUnit (s : State) (k : Nat) (f : CmdUnit → CmdUnit) : State := setUnit s k (f (unitAt s k))

/-- Mailbox m (Table 11-2). -/
def mailboxAt (s : State) (k : Nat) : Mailbox := tblGet Mailbox.init s.mailboxes k

def setMailbox (s : State) (k : Nat) (v : Mailbox) : State := { s with mailboxes := tblSet Mailbox.init s.mailboxes k v }

def modMailbox (s : State) (k : Nat) (f : Mailbox → Mailbox) : State := setMailbox s k (f (mailboxAt s k))

/-- Transient counters of unit u (Table 13-5). -/
def transientAt (s : State) (k : Nat) : Transient := tblGet Transient.init s.transients k

def setTransient (s : State) (k : Nat) (v : Transient) : State := { s with transients := tblSet Transient.init s.transients k v }

def modTransient (s : State) (k : Nat) (f : Transient → Transient) : State := setTransient s k (f (transientAt s k))

/-- Partition p (R330). -/
def partAt (s : State) (k : Nat) : Part := tblGet Part.init s.parts k

def setPart (s : State) (k : Nat) (v : Part) : State := { s with parts := tblSet Part.init s.parts k v }

def modPart (s : State) (k : Nat) (f : Part → Part) : State := setPart s k (f (partAt s k))

/-- Curator of a tile (R328). -/
def curatorAt (s : State) (k : Nat) : Curator := tblGet Curator.init s.curators k

def setCurator (s : State) (k : Nat) (v : Curator) : State := { s with curators := tblSet Curator.init s.curators k v }

def modCurator (s : State) (k : Nat) (f : Curator → Curator) : State := setCurator s k (f (curatorAt s k))

/-- CLK_DOM of physical core p (Table 17-5). -/
def clkAt (s : State) (k : Nat) : ClkDom := tblGet ClkDom.init s.clk k

def setClk (s : State) (k : Nat) (v : ClkDom) : State := { s with clk := tblSet ClkDom.init s.clk k v }

def modClk (s : State) (k : Nat) (f : ClkDom → ClkDom) : State := setClk s k (f (clkAt s k))

/-- PWR_DOM of physical core p (Table 18-8). -/
def pwrAt (s : State) (k : Nat) : PwrDom := tblGet PwrDom.init s.pwr k

def setPwr (s : State) (k : Nat) (v : PwrDom) : State := { s with pwr := tblSet PwrDom.init s.pwr k v }

def modPwr (s : State) (k : Nat) (f : PwrDom → PwrDom) : State := setPwr s k (f (pwrAt s k))

/-- Converter and limiter of a tile (R437). -/
def tpwrAt (s : State) (k : Nat) : TilePwr := tblGet TilePwr.init s.tpwr k

def setTpwr (s : State) (k : Nat) (v : TilePwr) : State := { s with tpwr := tblSet TilePwr.init s.tpwr k v }

def modTpwr (s : State) (k : Nat) (f : TilePwr → TilePwr) : State := setTpwr s k (f (tpwrAt s k))

/-- Fabric port n (Table 22-5). -/
def portAt (s : State) (k : Nat) : Port := tblGet Port.init s.fabric.ports k

def modPort (s : State) (k : Nat) (f : Port → Port) : State :=
  { s with fabric := { s.fabric with ports := tblMod Port.init s.fabric.ports k f } }

/-- The physical core that logical core l stands for (R196); none when VALID is 0. -/
def physOf (s : State) (l : Nat) : Option Nat :=
  let e := catAt s l
  if l < 3072 ∧ e.valid then some e.pcore else none

/-- The logical core that physical core p holds, the lowest where several entries name it (R196). -/
def logOf (s : State) (p : Nat) : Option Nat :=
  (s.cat.find? fun e => e.2.valid && e.2.pcore == p && decide (e.1 < 3072)).map (·.1)

/-- Tile, site and core of a physical number (R198). -/
def tileOf (p : Nat) : Nat := p / 234
def siteOf (p : Nat) : Nat := p / 18 % 13
def coreOf (p : Nat) : Nat := p % 18
def physNum (t d c : Nat) : Nat := (t * 13 + d) * 18 + c

/-- A free value's index is used once: the next state reads the next one (log 5, DESIGN CHOICE). -/
def bumpFresh (s : State) (n : Nat) : State := { s with fresh := s.fresh + n }

/-- n free bytes (log 5, DESIGN CHOICE). -/
def freeBytes (s : State) (n : Nat) : List Byte := (List.range n).map fun i => Config.freeByte (s.fresh + i)

end Sys2Proof.Machine
end

