-- ==== Sys2Proof/Machine/BootCert.lean ====
section
/-! DEFINITION. The boot certificate (R396): what the identity key signs, once in a start, at host release or when the start
stops. -/

namespace Sys2Proof.Machine

/-- The attestation tree's public key and the boot salt of this boot (R396). -/
def attPub (s : State) : List Byte := (List.range 56).map (Config.attPubByte s.counter.boot)
def bootSalt (s : State) : List Byte := (List.range 32).map (Config.saltByte s.counter.boot)

/-- The signed message: ATT_PUB, SALT, BOOT and the measurement chain as it stands. -/
def bootMessage (s : State) : List Byte := attPub s ++ bootSalt s ++ leBytes 4 s.counter.boot ++ s.ident.chain

/-- Sign with the leaf that this start took; a start without a leaf, or one that has signed, signs nothing. -/
def signBoot (s : State) : State :=
  match s.ident.cert with
  | some (leaf, []) =>
    let sig := (List.range 2828).map (Config.identitySigByte leaf (bootMessage s))
    { s with ident := { s.ident with cert := some (leaf, sig) } }
  | _ => s

end Sys2Proof.Machine
end

