-- ==== Sys2Proof/Machine/Crc.lean ====
section
/-! DEFINITION. The check-value engine (R302), its parameter block (Table 12-1), presets (Table 12-2) and channel states
(R309). -/

namespace Sys2Proof.Machine

/-- reflect(v, n): the low n bits of v in reverse order. -/
def reflect (v : Nat) : Nat → Nat
  | 0 => 0
  | n + 1 => (if bit v 0 then 2 ^ n else 0) + reflect (v / 2) n

/-- One bit of R302's inner loop. -/
def crcBit (c : CrcCfg) (reg : Nat) (b : Bool) : Nat :=
  let r := reg * 2 % 2 ^ c.width
  if (bit reg (c.width - 1)) != b then Nat.xor r c.poly else r

/-- One byte, least significant bit first when REFIN = 1. -/
def crcByte (c : CrcCfg) (reg : Nat) (b : Byte) : Nat :=
  (List.range 8).foldl (fun r i => crcBit c r (bit b.toNat (if c.refin then i else 7 - i))) reg

def crcRun (c : CrcCfg) (reg : Nat) (bs : List Byte) : Nat := bs.foldl (crcByte c) reg

/-- The check value of a register (R302). -/
def crcValue (c : CrcCfg) (reg : Nat) : Nat := Nat.xor (if c.refout then reflect reg c.width else reg) c.xorout

/-- The register that gives a check value: XOROUT and the output reflection undone (R308). -/
def crcUnvalue (c : CrcCfg) (v : Nat) : Nat := let r := Nat.xor v c.xorout; if c.refout then reflect r c.width else r

/-- Presets (Table 12-2). -/
def crcPreset (n : Nat) : Option CrcCfg :=
  if n = 0 then some { preset := 0, width := 32, poly := 0x1EDC6F41, init := 0xFFFFFFFF, xorout := 0xFFFFFFFF,
                       refin := true, refout := true }
  else if n = 1 then some CrcCfg.ecma
  else if n = 2 then some { preset := 2, width := 64, poly := 0x42F0E1EBA9EA3693, init := 0xFFFFFFFFFFFFFFFF,
                            xorout := 0xFFFFFFFFFFFFFFFF, refin := true, refout := true }
  else if n = 3 then some { preset := 3, width := 32, poly := 0x04C11DB7, init := 0xFFFFFFFF, xorout := 0xFFFFFFFF,
                            refin := true, refout := true }
  else none

/-- A parameter block as 256 bits; none is refused (R303). -/
def crcBlock (w : Nat) : Option CrcCfg :=
  let width := bits w 198 192
  let poly := bits w 63 0
  let init := bits w 127 64
  let xo := bits w 191 128
  if 1 ≤ width ∧ width ≤ 64 ∧ poly ≠ 0 ∧ poly < 2 ^ width ∧ init < 2 ^ width ∧ xo < 2 ^ width ∧ bits w 255 201 = 0 then
    some { preset := 0xFF, width := width, poly := poly, init := init, xorout := xo, refin := bit w 199,
           refout := bit w 200 }
  else none

/-- The parameter block of a configuration (Table 12-1). -/
def crcBlockOf (c : CrcCfg) : Nat :=
  flagAt c.refout 200 + flagAt c.refin 199 + c.width * 2 ^ 192 + c.xorout * 2 ^ 128 + c.init * 2 ^ 64 + c.poly

/-- A new queue context (R305). -/
def CrcCtx.new (c : CrcCfg) : CrcCtx := { cfg := c, reg := c.init, bytes := 0 }

/-- Bytes taken in by a context (R306). -/
def CrcCtx.take (x : CrcCtx) (bs : List Byte) : CrcCtx :=
  { x with reg := crcRun x.cfg x.reg bs, bytes := (x.bytes + bs.length) % 2 ^ 64 }

/-- The check value of an empty stream under a configuration (R309). -/
def crcEmpty (c : CrcCfg) : Nat := crcValue c c.init

/-- A channel's running check value. -/
def FpChan.value (f : FpChan) : Nat := crcValue f.cfg f.reg

/-- The step boundary of a channel (R313). -/
def FpChan.boundary (f : FpChan) (closed : Nat) : FpChan :=
  { f with latchValue := f.value, latchStep := closed, latchValid := true, latchStopped := f.stopped,
           reg := f.cfg.init, stopped := false }

/-- CONFIGURE (R309, R314). -/
def FpChan.configure (f : FpChan) (c : CrcCfg) : FpChan :=
  { f with cfg := c, reg := c.init, stopped := false }

end Sys2Proof.Machine
end

