-- ==== Sys2Proof/Machine/Layout.lean ====
section
/-! DEFINITION. Where things are: charter fields (Tables 15-2 to 15-6), partitions and their hosts, the home mapping
(R15), LPDDR5X regions and homes (R236, R237), the choice of a spare (R201), and routes (R167). -/

namespace Sys2Proof.Machine

/-- Codes of Table 10-12. -/
def Status.code : Status → Nat
  | .ok => 0x0000 | .okAfterRetry => 0x0001 | .badOpcode => 0x0101 | .badParam => 0x0102 | .notPermitted => 0x0103
  | .noResource => 0x0104 | .aborted => 0x0201 | .abortLate => 0x0202 | .disabled => 0x0203 | .truncated => 0x0204
  | .windowClosed => 0x0301 | .staleGeneration => 0x0302 | .dieLost => 0x0303 | .partitionReset => 0x0304
  | .lastingFault => 0x0401 | .eccUncorrectable => 0x0402 | .katMismatch => 0x0403 | .timeout => 0x0404
  | .powerFail => 0x0501 | .thermalLimit => 0x0502 | .outOfService => 0x0601

def Status.good : Status → Bool
  | .ok => true
  | .okAfterRetry => true
  | _ => false

/-! ## Charter -/

/-- Register n of a charter, at offset 8 × n (Table 15-2). -/
def chtOf (c : Charter) (n : Nat) : Nat := (tblGet (0 : Dword) c n).toNat

def cht (s : State) (n : Nat) : Nat := chtOf s.charter n

/-- CHT_PARTn and CHT_HOSTh registers (Table 15-2). -/
def chtPart (s : State) (n : Nat) : Nat := if n < 16 then cht s (8 + n) else 0
def chtHost (s : State) (h r : Nat) : Nat := if h < 4 then cht s (32 + 8 * h + r) else 0

/-- A CHT_PARTn value's rectangle holds tile t (Table 15-4). -/
def partWordHas (w t : Nat) : Bool :=
  bit w 63 && decide (bits w 3 2 ≤ t % 4 ∧ t % 4 ≤ bits w 3 2 + bits w 11 10 ∧ bits w 1 0 ≤ t / 4 ∧
    t / 4 ≤ bits w 1 0 + bits w 9 8 ∧ t < 16)

def partDefined (s : State) (n : Nat) : Bool := bit (chtPart s n) 63

/-- Tiles of a partition in ascending number (R330). -/
def partTiles (s : State) (n : Nat) : List Nat := upTo 16 (partWordHas (chtPart s n))

def partOfTile (s : State) (t : Nat) : Option Nat := (List.range 16).find? fun n => partWordHas (chtPart s n) t

/-- Home tile, site and core of a logical core (R15). -/
def homeTile (l : Nat) : Nat := (l / 64 / 12) * 4 + (l % 64) / 16
def homeSite (l : Nat) : Nat := (l / 64 % 12 / 4) * 4 + l % 16 / 4
def homeCore (l : Nat) : Nat := (l / 64 % 4) * 4 + l % 4
/-- The logical core that the home mapping places on a home core (R15). -/
def homeOfCore (p : Nat) : Nat :=
  let x := 16 * (tileOf p % 4) + 4 * (siteOf p % 4) + coreOf p % 4
  let y := 12 * (tileOf p / 4) + 4 * (siteOf p / 4) + coreOf p / 4
  y * 64 + x

def homePhys (l : Nat) : Nat := physNum (homeTile l) (homeSite l) (homeCore l)

def partOfL (s : State) (l : Nat) : Option Nat := if l < 3072 then partOfTile s (homeTile l) else none
def partOfP (s : State) (p : Nat) : Option Nat := partOfTile s (tileOf p)

/-- Logical cores of a partition. -/
def lcoresOf (s : State) (n : Nat) : List Nat := upTo 3072 fun l => partWordHas (chtPart s n) (homeTile l)

/-- Physical cores of a partition's tiles. -/
def pcoresOf (s : State) (n : Nat) : List Nat := upTo 3744 fun p => partWordHas (chtPart s n) (tileOf p)

/-- Under reset wherever a command is answered with PARTITION_RESET (R331). -/
def PartState.underReset : PartState → Bool
  | .resetting => true
  | .accessioning => true
  | .held => true
  | _ => false

/-! ## Host dies -/

def hostPrimary (s : State) (n h : Nat) : Bool := bit (bits (chtPart s n) 55 52) h

def backupOf (s : State) (h : Nat) : Nat := bits (chtHost s h 0) 59 58

/-- Host die h stands in for h' : h' is lost and names h as backup (R272). -/
def standsFor (s : State) (h h' : Nat) : Bool := h == h' || ((hostAt s h').lost && backupOf s h' == h && h' != h)

/-- The charter assigns partition n to host die h, as primary or as adopting backup (R272, R274). -/
def serves (s : State) (h n : Nat) : Bool :=
  partDefined s n && (List.range 4).any fun h' => hostPrimary s n h' && standsFor s h h'

/-- Carve-out of host die h: base and end in bytes (Table 15-5). -/
def carveBase (s : State) (h : Nat) : Nat := bits (chtHost s h 0) 10 0 * 2 ^ 30
def carveEnd (s : State) (h : Nat) : Nat := carveBase s h + bits (chtHost s h 0) 42 32 * 2 ^ 30
def carveValid (s : State) (h : Nat) : Bool := bit (chtHost s h 0) 63

/-- A range of bytes lies in a carve-out that host die h may use. -/
def inCarve (s : State) (h a n : Nat) : Bool :=
  (List.range 4).any fun h' => standsFor s h h' && carveValid s h' && decide (carveBase s h' ≤ a ∧ a + n ≤ carveEnd s h')

/-- Queue ranges of host die h: (first, last, spill base) (Table 15-6). -/
def queueRanges (s : State) (h : Nat) : List (Nat × Nat × Nat) :=
  (List.range 4).filterMap fun r =>
    let w := chtHost s h (4 + r)
    if bit w 63 then some (bits w 15 0, bits w 31 16, bits w 59 32 * 2 ^ 20) else none

def inRanges (s : State) (h q : Nat) : Bool := (queueRanges s h).any fun r => decide (r.1 ≤ q ∧ q ≤ r.2.1)

/-- Admin queue of host die h (R264). -/
def adminQueue (s : State) (h : Nat) : Nat := bits (chtHost s h 4) 15 0

/-! ## LPDDR5X -/

/-- The tile of a device, and for a spare the two tiles of its switch (R18, Table 09-1). -/
def edgeTile (e k : Nat) : Nat :=
  if e = 0 then k else if e = 1 then 4 * k + 3 else if e = 2 then 12 + k else 4 * k

def deviceTile (d : Nat) : Nat :=
  let e := d / 17
  let p := d % 17
  edgeTile e (if p < 4 then 0 else if p < 8 then 1 else if p = 8 then 1 else if p < 13 then 2 else 3)

def isSpareDev (d : Nat) : Bool := d % 17 = 8 && d < 68

/-- The spare that can replace device d (R243). -/
def spareFor (d : Nat) : Option Nat :=
  let p := d % 17
  if d < 68 ∧ ((4 ≤ p ∧ p ≤ 7) ∨ (9 ≤ p ∧ p ≤ 12)) then some (d / 17 * 17 + 8) else none

/-- Base routers are numbered 4 × y + x (R160). The k-th device of a tile's run on an edge is on the k-th router along that edge,
in the edge's running order (R242). -/
def edgeRouter (e k : Nat) : Nat := if e = 0 then k else if e = 1 then 4 * k + 3 else if e = 2 then 12 + k else 4 * k

/-- The router of a numbered device (R242). -/
def deviceRouter (d : Nat) : Nat :=
  let p := d % 17
  edgeRouter (d / 17) (if p < 8 then p % 4 else (p - 9) % 4)

/-- The two spare controllers that a spare's channel switch reaches: (tile, router) (Table 09-1). -/
def spareControllers (d : Nat) : List (Nat × Nat) :=
  let e := d / 17
  [(edgeTile e 1, edgeRouter e 3), (edgeTile e 2, edgeRouter e 0)]

/-- The controller that the switch of a spare selects: the one in the tile of the device it serves, or neither (R242). -/
def spareSwitch (s : State) (d : Nat) : Option (Nat × Nat) :=
  (deviceAt s d).serves.bind fun o => (spareControllers d).find? fun c => c.1 == deviceTile o

/-- The partition a spare device is assigned to (Table 15-3). -/
def sparePart (s : State) (d : Nat) : Option Nat :=
  let e := bits (cht s 2) (8 * (d / 17) + 7) (8 * (d / 17))
  if isSpareDev d && bit e 7 then some (bits e 3 0) else none

/-- Devices of a partition in ascending number (R237). -/
def partDevices (s : State) (n : Nat) : List Nat :=
  upTo 68 fun d => !isSpareDev d && partWordHas (chtPart s n) (deviceTile d)

/-- Inline ECC (R245): the 4 KiB group of a channel unit, and its slot in the group; slot 15 holds the check bytes. -/
def eccPlace (unit : Nat) : Nat × Nat := (unit / 15, unit % 15)

/-- Raw byte of a channel at which a channel unit begins. -/
def eccRaw (unit : Nat) : Nat := 4096 * (eccPlace unit).1 + 256 * (eccPlace unit).2

/-- Slot 15 of a group whose 15 data slots hold `slots`: 4 check bytes for each 64-byte block, then 16 reserved bytes of zero
(R245). -/
def checkSlot (slots : List (List Byte)) : List Byte :=
  (slots.flatMap fun x => (List.range 4).flatMap fun i =>
    leBytes 4 (Config.checkBytes ((x.drop (64 * i)).take 64)).toNat) ++ leBytes 16 0

/-- Bytes of region for each device (R236). -/
def bytesPerDevice (s : State) : Nat := if s.order1T then 15 * 2 ^ 30 else 30 * 2 ^ 30

def regionSize (s : State) (n : Nat) : Nat := (partDevices s n).length * bytesPerDevice s

def regionBase (s : State) (n : Nat) : Nat := (List.range n).foldl (fun a i => a + regionSize s i) 0

/-- The partition whose region holds an address, and the offset (R236). -/
def regionOf (s : State) (a : Nat) : Option (Nat × Nat) :=
  ((List.range 16).find? fun n => decide (regionBase s n ≤ a ∧ a < regionBase s n + regionSize s n)).map
    fun n => (n, a - regionBase s n)

/-- The home of an address (R237): tile, router, 256-byte line number of the region, device. -/
structure Home where
  part : Nat
  tile : Nat
  router : Nat
  line : Nat
  localLine : Nat
  device : Nat
  channel : Nat
deriving DecidableEq, Repr

def homeOf (s : State) (a : Nat) : Option Home :=
  (regionOf s a).map fun (n, o) =>
    let ds := partDevices s n
    let ts := partTiles s n
    let l := o / 256
    let ch := l % (4 * ds.length)
    { part := n, tile := ts.getD (l % ts.length) 0, router := l / ts.length % 16, line := l,
      localLine := l / (16 * ts.length), device := ds.getD (ch % ds.length) 0, channel := ch / ds.length }

/-- Number of a 64-byte block within its device (R237). -/
def deviceBlock (s : State) (h : Home) (a : Nat) : Nat :=
  (h.line / (4 * (partDevices s h.part).length) * 4 + h.channel) * 4 + a / 64 % 4

/-- An address of LPDDR5X that is populated (R236, R344): inside a region and not homed on a dark tile. -/
def populated (s : State) (a : Nat) : Bool :=
  match homeOf s a with
  | some h => !(tpwrAt s h.tile).dark && decide (a ≤ (if s.order1T then 0x00EFFFFFFFFF else 0x01DFFFFFFFFF))
  | none => false

/-- Every byte of a range lies in the region of one partition that holds both ends. -/
def inRegion (s : State) (n a len : Nat) : Bool :=
  partDefined s n && decide (regionBase s n ≤ a ∧ a + len ≤ regionBase s n + regionSize s n)

/-- Every 64-byte block of a range is populated. -/
def rangePopulated (s : State) (a len : Nat) : Bool :=
  match regionOf s a, regionOf s (a + len - 1) with
  | some _, some _ =>
    (List.range 16).all fun t => !(tpwrAt s t).dark ||
      (List.range (min (ceilDiv (a % 64 + len) 64) 4096)).all fun i =>
        match homeOf s (a / 64 * 64 + 64 * i) with
        | some h => h.tile != t
        | none => false
  | _, _ => false

/-! ## Spares (R201) -/

def isSpare (s : State) (avoid : Nat → Bool) (p : Nat) : Bool := pstateAt s p == .spare && !avoid p

/-- Cores of a site, in ascending number. -/
def siteCores (t d : Nat) : List Nat := (List.range 18).map (physNum t d)

/-- The spare die of a tile: D12, unless another site holds more spares than its two spare positions and the most of all
(R14, R201; log 55, DEDUCED). -/
def spareSite (s : State) (t : Nat) : Nat :=
  let n (d : Nat) : Nat := ((siteCores t d).filter fun p => pstateAt s p == .spare).length
  let best := (List.range 13).foldl (fun b d => if n d ≤ n b then b else d) 12
  if 2 < n best then best else 12

/-- Tile distance in crossings. -/
def tileDist (a b : Nat) : Nat :=
  ((a % 4 - b % 4) + (b % 4 - a % 4)) + ((a / 4 - b / 4) + (b / 4 - a / 4))

/-- Spares of a tile's catalogue dies other than `own`, lowest site and core first (step 2). -/
def step2 (s : State) (t : Nat) (own : Option Nat) : List Nat :=
  ((List.range 13).filter fun d => d != spareSite s t && own != some d).flatMap (siteCores t)

/-- The order of candidates for the core that replaces `former` under logical core l (R201). -/
def spareOrder (s : State) (l former : Nat) (stack : Bool) : List Nat :=
  let t := tileOf former
  let d := siteOf former
  let s3 := physNum t (spareSite s t) (coreOf former) :: siteCores t (spareSite s t)
  let loans := match partOfL s l with
    | some n => if bit (chtPart s n) 59 then
        let ts := (partTiles s n).filter (· != t)
        let byDist := (List.range 7).flatMap fun k => ts.filter fun u => tileDist (homeTile l) u == k
        byDist.flatMap fun u => step2 s u none ++ siteCores u (spareSite s u)
      else []
    | none => []
  let own := siteCores t d
  let s2 := step2 s t (some d)
  if stack then s3 ++ s2 ++ loans else own ++ s2 ++ s3 ++ loans

/-- The spare chosen under R201; `avoid` names cores that are passed over. -/
def chooseSpare (s : State) (l former : Nat) (stack : Bool) (avoid : Nat → Bool) : Option Nat :=
  (spareOrder s l former stack).find? fun p => p != former && isSpare s avoid p

/-- The catalogue entry of a physical core under logical core l (R197). -/
def catEntry (l p : Nat) : CatEntry := { valid := true, loan := tileOf p != homeTile l, pcore := p }

/-- NI_CAT entry as stored (Table 07-3). -/
def catWord (e : CatEntry) : Nat :=
  flagAt e.valid 15 + flagAt e.loan 14 + tileOf e.pcore * 512 + siteOf e.pcore * 32 + coreOf e.pcore

/-! ## Routers (R159–R161) -/

/-- The core whose router stands for a core's in the mesh: the spur router of C16 links to C7's, that of C17 to C11's (R159). -/
def spurMate (c : Nat) : Nat := if c = 16 then 7 else if c = 17 then 11 else c

/-- The vertical port that serves a core (R159). -/
def corePort (c : Nat) : Nat := (if spurMate c % 4 < 2 then 0 else 1) + (if spurMate c / 4 < 2 then 0 else 2)

/-- The core at whose router a vertical port attaches (R159). -/
def portCore (v : Nat) : Nat := if v = 0 then 5 else if v = 1 then 6 else if v = 2 then 9 else 10

/-- One hop from router a towards b of a mesh four wide, X first and then Y (R164, R165). -/
def meshStep (a b : Nat) : Nat :=
  if a % 4 < b % 4 then a + 1 else if b % 4 < a % 4 then a - 1 else if a / 4 < b / 4 then a + 4 else a - 4

/-- One in-die hop from core c's router towards another core's (R164). -/
def dieStep (c e : Nat) : Nat :=
  if spurMate c ≠ c then spurMate c else if c = spurMate e then e else meshStep c (spurMate e)

/-- Two routers of a mesh four wide are neighbours. -/
def meshLinked (a b : Nat) : Bool := decide (a < 16 ∧ b < 16) && a != b && meshStep a b == b

/-- Two core routers of a die are linked: mesh neighbours, or a spur (R159). -/
def dieLinked (a b : Nat) : Bool := meshLinked a b || (a != b && decide (a < 18 ∧ b < 18) && (spurMate a == b || spurMate b == a))

/-- The base router of a site's four vertical ports (R160). -/
def siteRouter (d : Nat) : Nat := if d = 12 then 13 else d

/-- The tile that feeds an edge-port die (R17): dies 0–3 north, 4–7 east, 8–11 south, 12–15 west. -/
def edgeDieTile (die : Nat) : Nat := edgeTile (die / 4) (die % 4)

/-- The base router of an instance of a unit in tile t (R160, Table 06-5): reduction units and slices are at every router, the curator
at (0, 3), a fabric port on its edge, the UCIe bridge in the panel corner, the replicator at (2, 3). -/
def unitRouter (t unit inst : Nat) : Nat :=
  if unit = 3 then 12
  else if unit = 4 then edgeRouter (inst / 8) (inst % 2 + 1)
  else if unit = 5 then (if t = 3 then 3 else if t = 12 then 12 else if t = 15 then 15 else 0)
  else if unit = 6 then 14
  else inst % 16

/-- The tile of a host die (Table 01-2). -/
def hostTile (h : Nat) : Nat := if h = 0 then 0 else if h = 1 then 3 else if h = 2 then 12 else 15

/-! ## Routes -/

/-- The tile across an edge: 1 N, 2 E, 3 S, 4 W (Table 06-8). -/
def neighbour (t code : Nat) : Option Nat :=
  if code = 1 then (if 4 ≤ t then some (t - 4) else none)
  else if code = 2 then (if t % 4 < 3 then some (t + 1) else none)
  else if code = 3 then (if t < 12 then some (t + 4) else none)
  else if code = 4 then (if 0 < t % 4 then some (t - 1) else none)
  else none

def opposite (code : Nat) : Nat := if code = 1 then 3 else if code = 2 then 4 else if code = 3 then 1 else 2

/-- A tile link is failed when any of its segments is, in either direction (R175). -/
def linkFailed (s : State) (t code : Nat) : Bool :=
  let f (t e : Nat) : Bool := (List.range 4).any fun k => (tblGet NiLink.init (tileAt s t).links (4 * e + k)).state == .failed
  match neighbour t code with
  | some u => f t (code - 1) || f u (opposite code - 1)
  | none => true

/-- A tile that no packet can reach: a dark one. -/
def tileOut (s : State) (t : Nat) : Bool := (tpwrAt s t).dark

/-- A tile that routes avoid (R167, R181): dark, or of a withdrawn partition. -/
def tileGone (s : State) (t : Nat) : Bool :=
  tileOut s t || (match partOfTile s t with
    | some n => (partAt s n).state == .withdrawn
    | none => false)

/-- A route between two tiles may cross tile u: the lit tiles of a withdrawn partition only carry traffic to or from its own tiles,
which keep serving its region (R167, R344; log 11, DEDUCED). -/
def mayCross (s : State) (a b u : Nat) : Bool :=
  !tileGone s u || (!tileOut s u && (partOfTile s u == partOfTile s a || partOfTile s u == partOfTile s b))

/-- Tiles a route visits, from its source on; none when it leaves the array. -/
def routeTiles (t : Nat) : List Nat → Option (List Nat)
  | [] => some [t]
  | c :: cs => (neighbour t c).bind fun u => (routeTiles u cs).map (t :: ·)

/-- Every crossing is possible: no failed link, no tile that is barred. -/
def routeClear (s : State) (ok : Nat → Bool) (t : Nat) : List Nat → Bool
  | [] => true
  | c :: cs =>
    match neighbour t c with
    | some u => !linkFailed s t c && ok u && routeClear s ok u cs
    | none => false

/-- Buffer-set moves: N or W crossings that follow an S or E crossing (R167). -/
def setMoves : List Nat → Nat
  | a :: b :: cs => (if (a = 2 ∨ a = 3) ∧ (b = 1 ∨ b = 4) then 1 else 0) + setMoves (b :: cs)
  | _ => 0

def routeWord (cs : List Nat) : Nat := cs.foldr (fun c a => c + 8 * a) 0

/-- The default route (R167): N and W crossings first, then S and E, east-west first in each phase. -/
def defaultRoute (a b : Nat) : List Nat :=
  List.replicate (a % 4 - b % 4) 4 ++ List.replicate (a / 4 - b / 4) 1 ++
  List.replicate (b % 4 - a % 4) 2 ++ List.replicate (b / 4 - a / 4) 3

/-- Every route of exactly n crossings from a to b that is clear, in ascending order of hop codes. -/
def routesOf (s : State) (ok : Nat → Bool) (b : Nat) : Nat → Nat → List (List Nat)
  | 0, a => if a = b then [[]] else []
  | n + 1, a =>
    if n + 1 < tileDist a b then []
    else [1, 2, 3, 4].flatMap fun c =>
      match neighbour a c with
      | some u => if linkFailed s a c || !ok u then [] else (routesOf s ok b n u).map (c :: ·)
      | none => []

/-- The best detour (R167): fewest crossings, then fewest moves, then lowest hop codes. -/
def bestRoute (s : State) (ok : Nat → Bool) (a b : Nat) : Option (List Nat) :=
  (List.range 9).findSome? fun n =>
    let rs := (routesOf s ok b n a).filter fun r => setMoves r ≤ 1
    match rs.find? (fun r => setMoves r == 0) with
    | some r => some r
    | none => rs.head?

/-- The curators' entry for a pair of tiles (R167). -/
def curatorRoute (s : State) (a b : Nat) : Rte :=
  let mk (cs : List Nat) : Rte :=
    { valid := true, override := false, hops := cs.length, route := BitVec.ofNat 24 (routeWord cs) }
  if tileOut s a || tileOut s b then Rte.init
  else if routeClear s (mayCross s a b) a (defaultRoute a b) then mk (defaultRoute a b)
  else
    let inPart (t : Nat) : Bool := partOfTile s t == partOfTile s a && (partOfTile s a).isSome && mayCross s a b t
    match (if inPart b then bestRoute s inPart a b else none) with
    | some r => mk r
    | none => match bestRoute s (mayCross s a b) a b with
      | some r => mk r
      | none => Rte.init

def rteAt (s : State) (a b : Nat) : Rte := tblGet Rte.init (tileAt s a).rte b

/-- NI_RTE entry as stored (Table 06-12). -/
def rteWord (r : Rte) : Nat := flagAt r.valid 31 + flagAt r.override 30 + r.hops * 2 ^ 24 + r.route.toNat

/-- Hop codes of an entry. -/
def rteCodes (r : Rte) : List Nat := (List.range r.hops).map fun i => r.route.toNat / 8 ^ i % 8

/-- Entries that must change: the curators' route differs, or an override has become invalid (R167, R181). -/
def routeChanges (s : State) : List (Nat × Rte) :=
  (List.range 256).filterMap fun k =>
    let a := k / 16
    let b := k % 16
    let old := rteAt s a b
    if old.override && old.valid && routeClear s (mayCross s a b) a (rteCodes old) && !tileOut s a then none
    else
      let new := curatorRoute s a b
      if new = old then none else some (k, new)

/-- A partition two of whose tiles have no route (R167). -/
def noRoute (s : State) (n : Nat) : Bool :=
  (partTiles s n).any fun a => (partTiles s n).any fun b => !(curatorRoute s a b).valid

end Sys2Proof.Machine
end

