-- ==== Sys2Proof/Machine/Memory.lean ====
section
/-! DEFINITION. LPDDR5X through its home slices: reads, writes, allocation, eviction and write-back (R237–R241, R247). -/

namespace Sys2Proof.Machine

/-- Lines of the slice at a tile's router, most recently used first (R238). -/
def sliceLines (s : State) (t r : Nat) : List CLine := tblGet [] s.slices (16 * t + r)

def setSlice (s : State) (t r : Nat) (ls : List CLine) : State :=
  { s with slices := tblSet [] s.slices (16 * t + r) ls }

/-- The 64-byte sector of an address, when its home slice holds it. -/
def cached (s : State) (a : Nat) : Option Sector :=
  (homeOf s a).bind fun h =>
    ((sliceLines s h.tile h.router).find? fun c => c.line == h.line).bind fun c => tblLook c.sectors (a / 64 % 4)

/-- The 64 bytes at block address b, as its home slice serves them (R239). -/
def readBlock (s : State) (b : Nat) : List Byte :=
  match cached s b with
  | some x => x.bytes
  | none => memRead s.mem b 64

/-- Block addresses that a range of bytes touches. -/
def blocksOf (a n : Nat) : List Nat :=
  if n = 0 then [] else (List.range ((a + n - 1) / 64 - a / 64 + 1)).map fun i => (a / 64 + i) * 64

/-- Bytes of LPDDR5X from address a on. -/
def ldRead (s : State) (a n : Nat) : List Byte := (((blocksOf a n).flatMap (readBlock s)).drop (a % 64)).take n

/-- The block lies in the poisoned part of its device (R248). -/
def devicePoison (s : State) (b : Nat) : Bool :=
  match homeOf s b with
  | some h => match (deviceAt s h.device).poison with
    | some (k, l) => decide (k ≤ deviceBlock s h b) && !l.contains (b / 64)
    | none => false
  | none => false

/-- The device that serves a numbered device: the spare switched in for it, or itself (R243). -/
def servingDevice (s : State) (d : Nat) : Nat :=
  ((upTo 68 isSpareDev).find? fun sp => (deviceAt s sp).state == .inUse && (deviceAt s sp).serves == some d).getD d

/-- A lasting fault has taken the device that serves a numbered device, and nothing replaces it yet. -/
def deviceDead (s : State) (d : Nat) : Bool :=
  let x := deviceAt s (servingDevice s d)
  x.state == .failed || x.down

/-- The block's device is lost: nothing can be read from it (log 74, DESIGN CHOICE: the spec states only what follows for the
partition). -/
def onLostDevice (s : State) (b : Nat) : Bool :=
  match homeOf s b with
  | some h => deviceDead s h.device
  | none => false

/-- A block whose stored copy fails: poisoned, found uncorrectable, or on a lost device; a sector held in a slice is served from
there (R247). -/
def blockBad (s : State) (b : Nat) : Bool :=
  ((tblLook s.bad (b / 64)).isSome || devicePoison s b || onLostDevice s b) && (cached s b).isNone

/-- A write of the whole block ends its poison (R247, R248). -/
def clearBad (s : State) (h : Home) (b : Nat) : State :=
  let s := if devicePoison s b then
      modDevice s h.device fun d => { d with poison := d.poison.map fun x => (x.1, (b / 64) :: x.2) } else s
  { s with bad := tblDel s.bad (b / 64) }

/-- Every block of a range reads cleanly. -/
def ldOk (s : State) (a n : Nat) : Bool := (blocksOf a n).all fun b => !blockBad s b

/-- Write the dirty sectors of a line back to the device (R238). The line's host address is that of its region. -/
def writeBack (base : Nat) (m : Mem) (c : CLine) : Mem :=
  c.sectors.foldl (fun m e => if e.2.dirty then memWrite m (base + 256 * c.line + 64 * e.1) e.2.bytes else m) m

/-- A dirty sector written back is a write of its whole block, which ends its poison (R247). -/
def clearDirty (s : State) (base : Nat) (c : CLine) : State :=
  each (c.sectors.filter fun e => e.2.dirty) (fun e s =>
    let b := base + 256 * c.line + 64 * e.1
    match homeOf s b with
    | some h => clearBad s h b
    | none => s) s

/-- Put a sector at the front of its slice; the least recently used line of a full set is written back and dropped
(R238). -/
def putSector (s : State) (h : Home) (sec : Nat) (x : Sector) : State :=
  let ls := sliceLines s h.tile h.router
  let old : Tbl Sector := ((ls.find? fun c => c.line == h.line).map (·.sectors)).getD []
  let line : CLine := { line := h.line, sectors := tblPut old sec x }
  let rest := ls.filter fun c => c.line != h.line
  let n := 16 * (partTiles s h.part).length
  let set (c : CLine) : Nat := c.line / n % 1024
  let same := rest.filter fun c => set c == set line
  match (if same.length < 16 then none else same.getLast?) with
  | none => setSlice s h.tile h.router (line :: rest)
  | some v =>
    let s' := setSlice s h.tile h.router (line :: rest.filter fun c => c.line != v.line)
    clearDirty { s' with mem := writeBack (regionBase s h.part) s'.mem v } (regionBase s h.part) v

/-- The slice of a home holds its line. -/
def linePresent (s : State) (h : Home) : Bool := (sliceLines s h.tile h.router).any fun c => c.line == h.line

/-- A read's effect on its slice: missing sectors are allocated, unless the read bypasses and the slice does not hold the line
(R238, R240). -/
def ldTouch (s : State) (a n : Nat) (alloc : Bool) : State :=
  each (blocksOf a n) (fun b s =>
    match homeOf s b with
    | none => s
    | some h =>
      match cached s b with
      | some x => putSector s h (b / 64 % 4) x
      | none => if (alloc || linePresent s h) && !blockBad s b then putSector s h (b / 64 % 4) ⟨false, readBlock s b⟩ else s) s

/-- One block's part of a write (R239, R240, R247): merged in the slice or written to the device; a masked write to a
failing block is dropped. -/
def writeBlock (s : State) (b off : Nat) (bs : List Byte) (alloc : Bool) : State :=
  match homeOf s b with
  | none => s
  | some h =>
    if blockBad s b && bs.length < 64 then s
    else
      let old := readBlock s b
      let new := old.take off ++ bs ++ old.drop (off + bs.length)
      let s' := clearBad s h b
      if alloc || linePresent s h then putSector s' h (b / 64 % 4) ⟨true, new⟩
      else { s' with mem := memWrite s'.mem b new }

/-- Bytes written from address a on, block by block in ascending order. -/
def ldWrite (s : State) (a : Nat) (bs : List Byte) (alloc : Bool) : State :=
  each (blocksOf a bs.length) (fun b s =>
    let lo := if b ≤ a then a - b else 0
    let from_ := b + lo - a
    writeBlock s b lo ((bs.drop from_).take (64 - lo)) alloc) s

/-- A masked write to a failing block fails (R247). -/
def writeOk (s : State) (a n : Nat) : Bool :=
  (blocksOf a n).all fun b => !blockBad s b || decide (a ≤ b ∧ b + 64 ≤ a + n)

/-- Write back and clear every slice of a partition's tiles; lines of a lost device are discarded (R241). -/
def flushPart (s : State) (n : Nat) (lost : List Nat) : State :=
  each (partTiles s n) (fun t s => each (List.range 16) (fun r s =>
    let base := regionBase s n
    let keep := (sliceLines s t r).filter fun c =>
      match homeOf s (base + 256 * c.line) with
      | some h => !lost.contains h.device && !deviceDead s h.device
      | none => true
    let s' := setSlice s t r []
    each keep (fun c s => clearDirty s base c) { s' with mem := keep.foldl (writeBack base) s'.mem }) s) s

/-! ## What the slices hold -/

/-- No tile lies in two partitions (R375 rule 2). -/
def partsApart (s : State) : Bool :=
  (List.range 16).all fun t => (List.range 16).all fun n => (List.range 16).all fun m =>
    n == m || !(partWordHas (chtPart s n) t && partWordHas (chtPart s m) t)

/-- A sector of a line in slice k is 64 bytes of an address whose home is that slice and line (R237, R238), and a clean one
is the device's copy. -/
def sectorAtHome (s : State) (k line : Nat) (e : Nat × Sector) : Prop :=
  e.2.bytes.length = 64 ∧ ∃ b h, b % 64 = 0 ∧ b / 64 % 4 = e.1 ∧ homeOf s b = some h ∧ 16 * h.tile + h.router = k ∧
    h.line = line ∧ (e.2.dirty = false → e.2.bytes = memRead s.mem b 64)

/-- The lines of slice k: no line twice, no sector twice, every sector at its home. -/
def sliceOk (s : State) (k : Nat) (ls : List CLine) : Prop :=
  (ls.map (·.line)).Nodup ∧ ∀ c ∈ ls, tblSorted c.sectors = true ∧ ∀ e ∈ c.sectors, sectorAtHome s k c.line e

/-- Every slice holds lines of its own, and what it holds clean is what the device holds. -/
def slicesOk (s : State) : Prop := ∀ k, sliceOk s k (tblGet [] s.slices k)

/-- One byte of LPDDR5X, as its home slice serves it. -/
def ldByte (s : State) (a : Nat) : Byte := (readBlock s (a / 64 * 64)).getD (a % 64) 0

end Sys2Proof.Machine
end

