-- ==== Sys2Proof/Machine/MonOps.lean ====
section
/-! DEFINITION. The histogram monitors' presets, how a period begins, and how a sample is taken (R449–R454). Tile monitors are keyed 64 × tile + number,
core monitors 4 × logical core + number; a key that is absent reads as preset 0, empty, from panel time 0. -/

namespace Sys2Proof.Machine

/-- A monitor's configuration with nothing recorded (R449, R452). -/
def Monitor.made (source inst : Nat) (mode : Bool) (base width vcmask : Nat) : Monitor :=
  { source := source, inst := inst, mode := mode, base := base, width := width, vcmask := vcmask, preset := true,
    min := 0xFFFFFFFF, max := 0, count := 0, sum := 0, bins := [], start := 0, dropped := 0 }

def monOff : Monitor := Monitor.made 0 0 false 0 0 0

/-- Bin settings of Table 20-3, by source: QUEUE_LAT, HOP_LAT, NET_LAT, BARRIER and MEM_LAT are logarithmic from 16 ns. -/
def monSource (source inst : Nat) : Monitor :=
  if source = 0x05 then Monitor.made source inst false 0 2 0
  else if source = 0x07 then Monitor.made source inst false 1650 10 0
  else if source = 0x08 then Monitor.made source inst false 600 10 0
  else if source = 0x09 then Monitor.made source inst false 240 20 0
  else if source = 0x0A then Monitor.made source inst false 0 2 0
  else if source = 0x0B then Monitor.made source inst true 0 0 0
  else if source = 0 then monOff
  else Monitor.made source inst true 0 4 0

/-- The linear VC0 form of NET_LAT and HOP_LAT. -/
def monVc0 (source inst : Nat) : Monitor := Monitor.made source inst false 0 50 1

/-- Every instance of a source (R451). -/
def allInst : Nat := 0x10000

/-- The corner tiles, which hold the command units. -/
def isCorner (t : Nat) : Bool := t == 0 || t == 3 || t == 12 || t == 15

/-- Core monitor m under a preset (Table 20-2). -/
def corePreset (preset m : Nat) : Monitor :=
  if preset = 2 then
    (if m = 0 then monSource 0x08 0 else if m = 1 then monSource 0x09 0 else if m = 2 then monSource 0x0A 0
     else monSource 0x05 allInst)
  else if m = 0 then monSource 0x05 allInst
  else if m = 1 then (if preset = 1 then monVc0 0x03 allInst else monSource 0x03 allInst)
  else if m = 2 then monSource 0x04 allInst
  else monSource 0x0A 0

/-- Tile monitor m of tile t under a preset (Table 20-2). -/
def tilePreset (preset t m : Nat) : Monitor :=
  let queueLat := if isCorner t then monSource 0x01 allInst else monOff
  if preset = 2 then
    (if m < 16 then monSource 0x09 m else if m = 16 then monSource 0x07 0 else if m < 33 then monSource 0x0B (m - 17)
     else if m = 33 then queueLat else monOff)
  else if m < 16 then (if preset = 1 then monVc0 0x02 m else monSource 0x02 m)
  else if m < 32 then monSource 0x09 (m - 16)
  else if m < 48 then monSource 0x0B (m - 32)
  else if m = 48 then queueLat
  else if m = 49 then monSource 0x07 0
  else monOff

/-- A configuration with nothing recorded, its period beginning at a panel time (R452). -/
def Monitor.emptied (m : Monitor) (start : Nat) : Monitor :=
  { m with min := 0xFFFFFFFF, max := 0, count := 0, sum := 0, bins := [], start := start, dropped := 0 }

def coreMonAt (s : State) (k : Nat) : Monitor := tblGet (corePreset 0 (k % 4)) s.coreMonitors k
def tileMonAt (s : State) (k : Nat) : Monitor := tblGet (tilePreset 0 (k / 64) (k % 64)) s.monitors k

def setCoreMon (s : State) (k : Nat) (m : Monitor) : State :=
  { s with coreMonitors := tblSet (corePreset 0 (k % 4)) s.coreMonitors k m }

def setTileMon (s : State) (k : Nat) (m : Monitor) : State :=
  { s with monitors := tblSet (tilePreset 0 (k / 64) (k % 64)) s.monitors k m }

/-- The core monitors of a logical core take preset 0 and are empty, from now (R453). -/
def freshCoreMons (s : State) (l : Nat) : State :=
  each (List.range 4) (fun m s => setCoreMon s (4 * l + m) ((corePreset 0 m).emptied s.time)) s

/-! ## Samples (R449–R451) -/

/-- The bin of a sample (R450). -/
def binOf (m : Monitor) (v : Nat) : Nat :=
  let u := v - m.base
  if v < m.base then 0
  else if m.mode then (if u < 2 ^ m.width then 0 else min (Nat.log2 (u / 2 ^ m.width) + 1) 31)
  else min (u / m.width) 31

/-- A monitor takes a sample, or counts one more than it accepts in the cycle (R449, R450). -/
def Monitor.take (m : Monitor) (v : Nat) (excess : Bool) : Monitor :=
  if m.source = 0 then m
  else if excess then { m with dropped := satInc 32 m.dropped }
  else
    { m with min := Nat.min m.min v, max := Nat.max m.max v, count := (m.count + 1) % 2 ^ 64, sum := satAdd 64 m.sum v,
             bins := tblMod 0 m.bins (binOf m v) (satInc 32) }

/-- Monitors of a dark tile, and of a logical core that nothing holds, have stopped (R453, R196). -/
def coreMonLost (s : State) (l : Nat) : Bool :=
  match physOf s l with
  | some p => (tpwrAt s (tileOf p)).dark
  | none => true

/-- A monitor is set to a source, and to the instance the sample is of or to every instance. -/
def Monitor.wants (m : Monitor) (source : Nat) (inst : Option Nat) : Bool :=
  m.source == source && (match inst with
    | some i => m.inst == allInst || m.inst == i
    | none => true)

/-- A sample of a source reaches the core monitors of logical core l that are set to it. -/
def feedCoreMons (s : State) (l source : Nat) (inst : Option Nat) (v : Nat) : State :=
  if coreMonLost s l then s
  else each ((List.range 4).filter fun m => (coreMonAt s (4 * l + m)).wants source inst)
    (fun m s => setCoreMon s (4 * l + m) ((coreMonAt s (4 * l + m)).take v false)) s

/-- A sample of a source reaches the tile monitors of tile t that are set to it. -/
def feedTileMons (s : State) (t source : Nat) (inst : Option Nat) (v : Nat) : State :=
  if (tpwrAt s t).dark then s
  else each ((List.range 64).filter fun m => (tileMonAt s (64 * t + m)).wants source inst)
    (fun m s => setTileMon s (64 * t + m) ((tileMonAt s (64 * t + m)).take v false)) s

/-- QUEUE_LAT: from the doorbell that made the command's slot fetchable to its record, in ns. -/
def sampleQueue (s : State) (q : Queue) (r : Rec) : State :=
  match q.unit with
  | some h => feedTileMons s (hostTile h) 0x01 (some r.queue) (s.time - r.rungAt)
  | none => s

/-- BARRIER: from issue to commit, in ns. -/
def sampleBarrier (s : State) (p : Nat) (t : Task) : State :=
  if t.opcode = 0x63 then
    match logOf s p with
    | some l => feedCoreMons s l 0x04 (some (fld t.desc 69 64)) (s.time - t.issuedAt)
    | none => s
  else s

/-- MARGIN: the lowest code of a window. -/
def sampleMargin (s : State) (p code : Nat) : State :=
  match logOf s p with
  | some l => feedCoreMons s l 0x0A none code
  | none => s

end Sys2Proof.Machine
end

