-- ==== Sys2Proof/Machine/CmdOps.lean ====
section
/-! DEFINITION. Commands in flight: which one starts next (R266), completion and its record (R267, R275, R276), the MSI, and
the end of a queue's disable (R283, R290, R291). -/

namespace Sys2Proof.Machine

/-- Set an interrupt identity pending in host die h's file (R256). -/
def sendMsi (s : State) (h : Nat) (m : Msi) : State :=
  let e := (m.hart, m.slevel, m.iid)
  if m.en then modHost s h fun d => if d.imsic.contains e then d else { d with imsic := d.imsic ++ [e] } else s

/-- Ring entries of a size field. -/
def ringSize (log : Nat) : Nat := 2 ^ log

/-- The completion record (Tables 10-10 and R276). -/
def recBytes (q : Queue) (r : Rec) : List Byte :=
  let w := r.r3 % 2 ^ 32 * 2 ^ 224 + r.r2 % 2 ^ 32 * 2 ^ 192 + r.r1 % 2 ^ 32 * 2 ^ 160 + r.r0 % 2 ^ 32 * 2 ^ 128 +
    q.sqHead * 2 ^ 112 + r.time % 2 ^ 32 * 2 ^ 80 + r.queue * 2 ^ 64 + flagAt q.phase 51 + flagAt q.ext 50 +
    r.attempts * 2 ^ 48 + r.status.code * 2 ^ 32 + r.tag.toNat
  leBytes 32 w ++ (if q.ext then leBytes 32 r.time else [])

/-- The completion ring has no entry left to write (R267). -/
def cqFullNow (q : Queue) : Bool := (q.cqTail + 1) % ringSize q.cqLog == q.cqHead

/-- Records in front that are not written: a command without COMP completes when its record would have been written (R273). -/
def passSilent (q : Queue) : Queue :=
  if cqFullNow q then q else { q with records := q.records.dropWhile (·.silent) }

/-- A command whose record is not written yet. -/
def recordWaits (s : State) (uid : Nat) : Bool := s.queues.any fun e => e.2.records.any fun r => r.uid == uid

/-- The oldest record must follow another queue's (R293). -/
def mustFollow (s : State) (r : Rec) : Bool :=
  match r.follows with
  | some u => recordWaits s u
  | none => false

/-- Write the oldest completed record of queue n into its ring, sample its latency (R451) and send its MSI (R267, R275); nothing is
written while the ring is full. -/
def writeRecord (s : State) (n : Nat) : State :=
  let q := queueAt s n
  match q.records with
  | [] => s
  | r :: rest =>
    if q.state = .free ∨ mustFollow s r then s
    else if cqFullNow q then modQueue s n fun q => { q with cqFull := true }
    else
      let bs := recBytes q r
      let s := ldWrite s (q.cqBase + q.cqTail * bs.length) bs true
      let next := (q.cqTail + 1) % ringSize q.cqLog
      let q' := { q with records := rest, cqTail := next, phase := if next = 0 then !q.phase else q.phase }
      let s := setQueue s n (passSilent { q' with cqFull := cqFullNow q' })
      let s := sampleQueue s q r
      if r.doorbell && q.state != .held then sendMsi s q.owner q.msi else s

/-- Write records until none is left or the ring is full. -/
def writeRecords (s : State) (n : Nat) : Nat → State
  | 0 => s
  | k + 1 => writeRecords (writeRecord s n) n k

/-! ## Commands -/

def cmdOf (s : State) (uid : Nat) : Option Cmd := s.cmds.find? fun c => c.uid == uid

/-- Replace a command; its number stays. -/
def modCmd (s : State) (uid : Nat) (f : Cmd → Cmd) : State :=
  { s with cmds := modIf (fun c => c.uid == uid) (fun c => { f c with uid := c.uid }) s.cmds }

def queueCmds (s : State) (q : Nat) : List Cmd := s.cmds.filter fun c => c.queue == q

/-- The commands whose bytes a queue's CRC context takes in (R306). -/
def crcFn (fn : Nat) : Bool := fn == 0x0100 || fn == 0x0200 || fn == 0x0201

/-- A command of R306 is in flight on a queue that serialises them (R307). -/
def crcBusy (s : State) (q : Nat) : Bool :=
  (queueAt s q).crc.isSome && (queueCmds s q).any fun e => e.started && crcFn e.fn

/-- One command of R306 at a time, and the commands that set or read a context act between them (R307, R308). -/
def crcHolds (s : State) (c : Cmd) : Bool :=
  (crcFn c.fn && crcBusy s c.queue) || ((c.fn == 0x0402 || c.fn == 0x0403) && crcBusy s (fld c.pkt 79 64))

/-- The next command of a queue to start (R266): the first unstarted one in ring order, when the fence flags of Table 10-9
and R307 let it start. An earlier command whose record is not written has not completed (R273). -/
def nextStart (s : State) (q : Nat) : Option Cmd :=
  ((queueCmds s q).find? fun c => !c.started).bind fun c =>
    let before := (queueCmds s q).filter fun e => decide (e.uid < c.uid)
    let ended := (queueAt s q).records.filter fun r => decide (r.uid < c.uid)
    if (c.fenceBefore && !(before.isEmpty && ended.isEmpty)) || before.any (·.fenceAfter) || ended.any (·.fenceAfter) ||
      crcHolds s c then none else some c

/-- One command's completion: its record is written when COMP asks for one or the status is no success (R275). -/
def completeOne (s : State) (c : Cmd) (st : Status) (attempts r0 r1 r2 r3 : Nat) : State :=
  let s := { s with cmds := s.cmds.filter fun e => e.uid != c.uid }
  let retry := c.retried && st == .ok
  let r : Rec :=
    { uid := c.uid, queue := c.queue, tag := c.tag, status := if retry then .okAfterRetry else st,
      attempts := if c.retried then 2 else attempts, r0 := r0, r1 := r1, r2 := r2, r3 := r3, time := s.time,
      doorbell := c.doorbell, rungAt := c.rungAt, admitted := c.admitted, fenceAfter := c.fenceAfter,
      silent := !c.comp && st.good,
      follows := match c.wait with
        | .abort t => some t
        | _ => none }
  -- an expert disable of the queue counts the commands it aborted (R283)
  let tally (e : Cmd) : Cmd := match e.wait with
    | .queue t d true n => if t = c.queue ∧ st = .aborted then { e with wait := .queue t d true (n + 1) } else e
    | _ => e
  let s := { s with cmds := s.cmds.map tally }
  modQueue s c.queue fun q => passSilent { q with doneInWait := q.doneInWait + 1, records := q.records ++ [r] }

/-- Free a queue: every record that fits is written, the rest and the unfetched slots are discarded (R283). -/
def freeQueue (s : State) (n : Nat) : State :=
  let s := writeRecords s n (queueAt s n).records.length
  let s := setQueue s n Queue.init
  each (List.range 4) (fun u s => modUnit s u fun c =>
    { pending := c.pending.filter (· != n), loading := c.loading.filter (· != n),
      spilling := c.spilling.filter (· != n) }) s

/-- Slots between SQ_HEAD and TAIL. -/
def slotsWaiting (q : Queue) : Nat := (q.tail + ringSize q.sqLog - q.sqHead) % ringSize q.sqLog

/-- The oldest disable or destroy whose queue has no admitted command left. -/
def settled (s : State) : Option Cmd :=
  s.cmds.find? fun c => match c.wait with
    | .queue t _ _ _ => (queueCmds s t).isEmpty
    | _ => false

/-- End a disable or destroy (R283). -/
def endDisable (s : State) (c : Cmd) : State :=
  match c.wait with
  | .queue t destroy expert count =>
    let q := queueAt s t
    let n := if expert then count else q.doneInWait
    if destroy then
      let slots := if q.state = .free then 0 else slotsWaiting q
      let s := completeOne s c .ok 1 n slots 0 0
      if q.state = .free then s else freeQueue s t
    else
      let s := modQueue s t fun q => if q.state = .disabling then { q with state := .disabled } else q
      completeOne s c (if expert ∧ 0 < count then .aborted else .disabled) 1 n 0 0 0
  | _ => s

/-- Disables that can end do, in order (R290, R291). -/
def settle (s : State) : Nat → State
  | 0 => s
  | k + 1 =>
    match settled s with
    | some c => settle (endDisable s c) k
    | none => s

/-- A command completes; a command that has already completed is left alone. -/
def complete (s : State) (uid : Nat) (st : Status) (attempts r0 r1 r2 r3 : Nat) : State :=
  match cmdOf s uid with
  | some c => let s := completeOne s c st attempts r0 r1 r2 r3; settle s (s.cmds.length + 1)
  | none => s

/-- Completion on the first attempt. -/
def finish (s : State) (uid : Nat) (st : Status) (r0 r1 r2 r3 : Nat) : State := complete s uid st 1 r0 r1 r2 r3

/-- Completion without results: a refusal, or a status alone. Word 0 of PROGRAM_LOAD and RUN is all ones when it names nothing
(R284, R286). -/
def refuse (s : State) (uid : Nat) (st : Status) : State :=
  let names (c : Cmd) : Bool := c.uid == uid && (c.fn == 0x0100 || c.fn == 0x0101)
  complete s uid st 1 (if s.cmds.any names then 0xFFFFFFFF else 0) 0 0 0

/-- A command that has not passed its commit point, RUN apart: it has not started, or it is a load that validates, a copy or fill
that still moves, or a read of the fault log that waits for its first record (R292, R326). -/
def uncommitted (c : Cmd) : Bool :=
  !c.started || (match c.wait with
    | .faultLog _ => true
    | .load => true
    | .move _ => true
    | _ => false)

/-- A command ends short of its commit point: a copy or fill reports the bytes it wrote (R289, R293). -/
def stopCmd (s : State) (c : Cmd) (st : Status) : State :=
  match c.wait with
  | .move n => finish s c.uid st (n % 2 ^ 32) (n / 2 ^ 32 % 2 ^ 32) 0 0
  | _ => refuse s c.uid st

/-- Start the next command of queue q when it is one of the row's; otherwise the row finds nothing to do (log 1, DESIGN CHOICE). -/
def startAs (s : State) (q : Nat) (mine : Cmd → Bool) (run : Cmd → State → State) : State :=
  match nextStart s q with
  | some c => if mine c then run c (modCmd s c.uid fun c => { c with started := true }) else s
  | none => s

/-- The row's command is function `fn`, in the form `expert`. -/
def isFn (fn : Nat) (expert : Bool) (c : Cmd) : Bool := c.fn == fn && c.expert == expert

/-- The function in either form. -/
def isFnAny (fn : Nat) (c : Cmd) : Bool := c.fn == fn

/-- The first reason that applies (R274 step 6), or the effect. -/
def firstOf : List (Bool × Status) → Option Status
  | [] => none
  | (b, st) :: t => if b then some st else firstOf t

/-- A command's remaining checks, then its effect. -/
def checked (c : Cmd) (checks : List (Bool × Status)) (act : State → State) (s : State) : State :=
  match firstOf checks with
  | some st => refuse s c.uid st
  | none => act s

/-- The queue's owner is host die h, or a lost die that h backs up (R281, R308). -/
def ownsQueue (s : State) (h q : Nat) : Bool := let o := (queueAt s q).owner; o == h || standsFor s h o

def lowWord (n : Nat) : Nat := n % 2 ^ 32
def highWord (n : Nat) : Nat := n / 2 ^ 32 % 2 ^ 32

end Sys2Proof.Machine
end

