-- ==== Sys2Proof/Machine/FaultOps.lean ====
section
/-! DEFINITION. Fault records, transient counters and the provenance log (R323–R327, R349, R350). -/

namespace Sys2Proof.Machine

/-- Codes of SCOPE (Table 13-2). -/
def Scope.code : Scope → Nat
  | .core => 0 | .die => 1 | .tile => 2 | .partition => 3 | .device => 4 | .link => 5 | .hostDie => 6 | .panel => 7

/-- Codes of STATE (Table 13-6). -/
def PartState.code : PartState → Nat
  | .undefined => 0 | .inService => 1 | .resetting => 2 | .accessioning => 3 | .held => 4 | .withdrawn => 5

/-- A physical core as a 13-bit field: tile, site, core (Table 13-2). -/
def pcoreCode (p : Nat) : Nat := tileOf p * 512 + siteOf p * 32 + coreOf p

/-- A whole stack: core 0x1F. -/
def stackCode (t d : Nat) : Nat := t * 512 + d * 32 + 0x1F

/-- A record in which nothing applies. -/
def FaultRec.blank (cls : Nat) (scope : Scope) : FaultRec :=
  { time := 0, seq := 0, addr := 0, device := none, channel := 0, memkind := 0, engine := none, task := 0,
    index := none, queue := none, pgen := 0, status := none, pcore := none, lcore := none, part := 0, cls := cls,
    scope := scope, attempts := 1, detail := 0 }

/-- PART is meaningful (Table 13-2). -/
def FaultRec.names (s : State) (r : FaultRec) : Bool :=
  r.pcore.isSome || r.lcore.isSome ||
    (match r.device with
     | some d => (List.range 16).any fun n => (partDevices s n).contains d || sparePart s d == some n
     | none => false)

/-- A fault record as stored (Table 13-2). -/
def faultWord (r : FaultRec) : Nat :=
  r.time % 2 ^ 64 * 2 ^ 448 + r.seq % 2 ^ 32 * 2 ^ 416 + r.addr % 2 ^ 48 * 2 ^ 368 + r.device.getD 0x7F * 2 ^ 361 +
  r.channel % 4 * 2 ^ 359 + r.memkind % 8 * 2 ^ 356 + r.engine.getD 0xF * 2 ^ 352 + r.task % 2 ^ 16 * 2 ^ 336 +
  r.index.getD 0xFFFF * 2 ^ 320 + r.queue.getD 0xFFFF * 2 ^ 304 + r.pgen % 2 ^ 16 * 2 ^ 288 +
  (match r.status with
   | some st => st.code
   | none => 0) * 2 ^ 272 + r.pcore.getD 0 * 2 ^ 259 + r.lcore.getD 0 * 2 ^ 247 + flagAt r.lcore.isSome 246 +
  flagAt r.pcore.isSome 245 + r.part * 2 ^ 241 + r.cls * 2 ^ 233 + r.scope.code * 2 ^ 230 + r.attempts * 2 ^ 228 +
  r.detail % 2 ^ 64

/-- A record as host die h reads it (R325). -/
def faultWordFor (s : State) (h : Nat) (r : FaultRec) : Nat :=
  if r.names s && !serves s h r.part then
    r.time % 2 ^ 64 * 2 ^ 448 + r.seq % 2 ^ 32 * 2 ^ 416 + r.part * 2 ^ 241 + r.cls * 2 ^ 233 + r.scope.code * 2 ^ 230
  else faultWord r

/-- Section 0 of FAULT_LOG_READ (R326): copy, then complete; the copy meets a dark tile or a failing block as any copy does
(R247, R344). -/
def faultLogCopy (s : State) (c : Cmd) : State :=
  let first := fld c.pkt 127 96
  let dest := fld c.pkt 191 128
  let rs := (s.faults.filter fun r => decide (first ≤ r.seq)).take (fld c.pkt 95 80)
  if !rs.isEmpty && !rangePopulated s dest (64 * rs.length) then refuse s c.uid .dieLost
  else if !writeOk s dest (64 * rs.length) then refuse s c.uid .eccUncorrectable
  else
  let s := ldWrite s dest (rs.flatMap fun r => leBytes 64 (faultWordFor s c.host r)) true
  let next := match rs.getLast? with
    | some r => r.seq + 1
    | none => first
  let s := match rs.getLast? with
    | some r => modHost s c.host fun h => { h with faultRead := max h.faultRead r.seq }
    | none => s
  finish s c.uid .ok rs.length next (hostAt s c.host).faultLost 0

/-- Waiting reads whose record now exists (R326). -/
def wakeFaultReads (s : State) : State :=
  each s.cmds (fun c s => match c.wait with
    | .faultLog first => if s.faults.any fun r => decide (first ≤ r.seq) then faultLogCopy s c else s
    | _ => s) s

/-- A cause of SERVICE_REQ_N, latched until panel reset (R470, Table 21-5). -/
def raiseCause (s : State) (b : Nat) : State :=
  { s with service := { s.service with srCause := s.service.srCause ||| BitVec.ofNat 8 (2 ^ b) } }

/-- A tile of a valid partition is left without a SPARE core (Table 21-5, bit 3), once the catalogue is built. -/
def noteSpares (s : State) (t : Nat) : State :=
  if s.catReady && (partOfTile s t).isSome &&
      !((List.range 234).any fun k => pstateAt s (234 * t + k) == .spare) then raiseCause s 3
  else s

/-- The transient counters of a stack, and of a base tile (R327). -/
def stackUnit (t d : Nat) : Nat := t * 13 + d
def coreUnit (p : Nat) : Nat := p / 18
def tileUnit (t : Nat) : Nat := 208 + t

/-- Entries a boot-flash ring holds (R349). -/
def provRing : Nat := 1048576

/-- A provenance entry in which nothing applies. -/
def Prov.blank (type : Nat) : Prov :=
  { number := 0, boot := 0, time := 0, type := type, cls := 0, scope := 0, pcore := 0, lcore := 0, part := 0,
    device := 0x7F, catVersion := 0, detail := 0, check := 0 }

/-- An entry as stored (Table 13-16), CHECK left out. -/
def provWord (e : Prov) : Nat :=
  e.number % 2 ^ 64 * 2 ^ 448 + e.boot % 2 ^ 32 * 2 ^ 416 + e.time % 2 ^ 64 * 2 ^ 352 + e.type % 2 ^ 8 * 2 ^ 344 +
    e.cls % 2 ^ 8 * 2 ^ 336 + e.scope % 8 * 2 ^ 333 + e.pcore % 2 ^ 13 * 2 ^ 320 + e.lcore % 2 ^ 12 * 2 ^ 308 +
    e.part % 16 * 2 ^ 304 + e.device % 2 ^ 7 * 2 ^ 297 + e.catVersion % 2 ^ 32 * 2 ^ 256 + e.detail % 2 ^ 224 * 2 ^ 32

/-- CRC32C of bits [511:32] of an entry (Table 13-16). -/
def provCheck (e : Prov) : Nat :=
  let cfg := (crcPreset 0).getD CrcCfg.ecma
  crcValue cfg (crcRun cfg cfg.init ((leBytes 64 (provWord e)).drop 4))

/-- Write an entry to BF0 and BF1 (R349). -/
def addProv (s : State) (e : Prov) : State :=
  let e := { e with number := s.provNext, boot := s.counter.boot, time := s.time, catVersion := s.catVersion }
  let e := { e with check := provCheck e }
  let put (alive : Bool) (l : List Prov) : List Prov :=
    if alive then (l ++ [e]).drop (l.length + 1 - provRing) else l
  { s with provBF0 := put s.bf0.alive s.provBF0, provBF1 := put s.bf1.alive s.provBF1, provNext := s.provNext + 1 }

/-- Write a fault record (R323, R325). -/
def addFault (s : State) (r : FaultRec) : State :=
  let r := { r with time := s.time, seq := s.faultSeq, part := if r.names s then r.part else 0,
                    pgen := if r.names s then (partAt s r.part).pgen else 0 }
  let all := s.faults ++ [r]
  let s := each (all.take (all.length - 4096)) (fun o s =>
    each (List.range 4) (fun h s => modHost s h fun d =>
      if d.faultRead < o.seq then { d with faultLost := d.faultLost + 1 } else d) s) s
  wakeFaultReads { s with faults := all.drop (all.length - 4096), faultSeq := (s.faultSeq + 1) % 2 ^ 32 }

/-- A lasting fault: its record, the unit's LASTING counter and a provenance entry (R319, R327, R349). -/
def addLasting (s : State) (r : FaultRec) (unit : Option Nat) : State :=
  let seqd := { r with pgen := if r.names s then (partAt s r.part).pgen else 0 }
  let s := addFault s r
  let s := match unit with
    | some u => modTransient s u fun t => { t with lasting := satInc 32 t.lasting }
    | none => s
  addProv s { Prov.blank 0x01 with
    cls := r.cls, scope := r.scope.code, pcore := r.pcore.getD 0, lcore := r.lcore.getD 0, part := r.part,
    device := r.device.getD 0x7F,
    detail := bits (faultWord seqd) 415 304 + (match r.status with
      | some st => st.code
      | none => 0) * 2 ^ 112 }

/-- A record about physical core p: PCORE, LCORE and PART (Table 13-2). -/
def coreFault (s : State) (p cls : Nat) (scope : Scope) : FaultRec :=
  { FaultRec.blank cls scope with
    pcore := some (pcoreCode p), lcore := logOf s p, part := (partOfP s p).getD 0, attempts := 2 }

/-- A core's known-answer run has failed twice (R319, R340): the record's word index is the one given, or free where the row
gives none (log 6, DESIGN CHOICE). -/
def katFail (s : State) (p : Nat) (word : Option Nat) : State :=
  let w := word.getD (Config.freeNat s.fresh)
  addLasting (bumpFresh s 1) { coreFault s p 0x05 .core with status := some .katMismatch, detail := w } (some (coreUnit p))

/-- A core's known-answer run has passed on its second run: a transient error (R319, R327). -/
def katAgain (s : State) (p : Nat) : State := modTransient s (coreUnit p) fun t => { t with kat := satInc 32 t.kat }

/-- A record about a compute stack. -/
def stackFault (s : State) (t d cls : Nat) (scope : Scope) : FaultRec :=
  { FaultRec.blank cls scope with pcore := some (stackCode t d), part := (partOfTile s t).getD 0, attempts := 2 }

end Sys2Proof.Machine
end

