-- ==== Sys2Proof/Machine/Flags.lean ====
section
/-! DEFINITION. Number formats, PS96 and conversion (chapter 02), with the arithmetic flags each operation raises
(Table 02-7). A value is exact until it is rounded: an integer significand times a power of two. -/

namespace Sys2Proof.Machine

/-- Arithmetic flags of a task, numbered as Table 02-7. -/
abbrev AFlags := BitVec 6

def fInvalid : AFlags := 1
def fOverflow : AFlags := 2
def fSaturated : AFlags := 4
def fNanSeen : AFlags := 8
def fUnderflow : AFlags := 16
def fNonrepro : AFlags := 32

/-- A number: NaN, an infinity, or (−1)^neg × m × 2^e, zero keeping its sign. -/
inductive Val where
  | nan
  | inf (neg : Bool)
  | fin (neg : Bool) (m : Nat) (e : Int)
deriving DecidableEq, Repr

def Val.zero : Val := .fin false 0 0

/-- A value and the flags raised so far. -/
abbrev FVal := Val × AFlags

/-- The shape of a floating-point format (Table 02-2). `specials`: 0 none, 1 as E4M3 (NaN only), 2 as IEEE 754. -/
structure FltFmt where
  expBits : Nat
  manBits : Nat
  bias : Nat
  specials : Nat
deriving DecidableEq, Repr

/-- Element layouts of Table 02-2 by format code (Table 02-1). -/
def fltFmt : Nat → Option FltFmt
  | 0x01 => some ⟨4, 3, 7, 1⟩
  | 0x02 => some ⟨5, 2, 15, 2⟩
  | 0x03 => some ⟨4, 3, 7, 1⟩
  | 0x04 => some ⟨5, 2, 15, 2⟩
  | 0x05 => some ⟨3, 2, 3, 0⟩
  | 0x06 => some ⟨2, 3, 1, 0⟩
  | 0x07 => some ⟨2, 1, 1, 0⟩
  | 0x0B => some ⟨8, 7, 127, 2⟩
  | 0x0C => some ⟨5, 10, 15, 2⟩
  | 0x0D => some ⟨8, 23, 127, 2⟩
  | _ => none

/-- Bits of one element (R26, R27, R32); 0 for a reserved code. -/
def fmtWidth : Nat → Nat
  | 0x01 => 8 | 0x02 => 8 | 0x03 => 8 | 0x04 => 8 | 0x05 => 6 | 0x06 => 6 | 0x07 => 4 | 0x08 => 8 | 0x09 => 8
  | 0x0A => 4 | 0x0B => 16 | 0x0C => 16 | 0x0D => 32 | 0x0E => 96 | 0x0F => 32 | 0x10 => 8
  | _ => 0

/-- Assigned format codes (R26). -/
def fmtKnown (f : Nat) : Bool := decide (1 ≤ f ∧ f ≤ 0x10)

/-- The MX formats (Table 02-1). -/
def fmtMx (f : Nat) : Bool := decide (3 ≤ f ∧ f ≤ 8)

/-- Formats of at most 8 bits, which accumulate by blocks (R36). -/
def fmtNarrow (f : Nat) : Bool := decide (1 ≤ f ∧ f ≤ 0x0A)

/-- The number of a two's complement field of w bits. -/
def toSigned (w n : Nat) : Int := if n < 2 ^ (w - 1) then (n : Int) else (n : Int) - ((2 ^ w : Nat) : Int)

def valOfInt (n : Int) (e : Int) : Val := .fin (decide (n < 0)) n.natAbs e

/-- NAN_SEEN for a NaN, nothing otherwise (Table 02-7: read or produced). -/
def nanFlag : Val → AFlags
  | .nan => fNanSeen
  | _ => 0

/-- Decode a floating-point element (Table 02-2). -/
def decodeFlt (f : FltFmt) (raw : Nat) : Val :=
  let man : Nat := raw % 2 ^ f.manBits
  let ex : Nat := (raw / 2 ^ f.manBits) % 2 ^ f.expBits
  let neg := decide (raw / 2 ^ (f.manBits + f.expBits) % 2 = 1)
  let top := 2 ^ f.expBits - 1
  if f.specials = 2 ∧ ex = top then (if man = 0 then .inf neg else .nan)
  else if f.specials = 1 ∧ ex = top ∧ man = 2 ^ f.manBits - 1 then .nan
  else if ex = 0 then .fin neg man (1 - (f.bias : Int) - f.manBits)
  else .fin neg (2 ^ f.manBits + man) ((ex : Int) - f.bias - f.manBits)

/-- Decode PS96 (R30); a non-canonical value reads as NaN and sets INVALID. -/
def decodePs96 (raw : Nat) : FVal :=
  let sig : Nat := raw % 2 ^ 80
  let lead := decide (2 ^ 79 ≤ sig)
  let ex : Nat := (raw / 2 ^ 80) % 2 ^ 15
  let neg := decide (raw / 2 ^ 95 % 2 = 1)
  if ex = 0x7FFF then
    if lead then (if sig = 2 ^ 79 then (.inf neg, 0) else (.nan, fNanSeen)) else (.nan, fInvalid ||| fNanSeen)
  else if ex = 0 then (if lead then (.nan, fInvalid ||| fNanSeen) else (.fin neg sig (-16461), 0))
  else if lead then (.fin neg sig ((ex : Int) - 16462), 0) else (.nan, fInvalid ||| fNanSeen)

/-- Decode one stored element of format code `f`; an MX element without its block scale (R27, R30, R48). -/
def decodeElem (f raw : Nat) : FVal :=
  if f = 0x0E then decodePs96 raw
  else if f = 0x10 then (if raw = 0xFF then (.nan, fNanSeen) else (.fin false 1 ((raw : Int) - 127), 0))
  else if f = 0x08 then (valOfInt (toSigned 8 raw) (-6), 0)
  else match fltFmt f with
    | some ff => let v := decodeFlt ff raw; (v, nanFlag v)
    | none => (valOfInt (toSigned (fmtWidth f) raw) 0, 0)

/-! ## Exact arithmetic -/

def Val.neg : Val → Val
  | .nan => .nan
  | .inf n => .inf (!n)
  | .fin n m e => .fin (!n) m e

def Val.abs : Val → Val
  | .nan => .nan
  | .inf _ => .inf false
  | .fin _ m e => .fin false m e

def Val.isZero : Val → Bool
  | .fin _ m _ => m = 0
  | _ => false

def Val.isNan : Val → Bool
  | .nan => true
  | _ => false

/-- The signed significand of a finite value at the scale 2^e₀, e₀ ≤ e. -/
def scaledTo (e0 : Int) (neg : Bool) (m : Nat) (e : Int) : Int :=
  let x : Int := m * 2 ^ (e - e0).toNat
  if neg then -x else x

/-- Exact sum (R36, R40): ∞ − ∞ is invalid; an exact zero sum is +0 unless both addends are −0. -/
def addExact : Val → Val → FVal
  | .nan, _ => (.nan, fNanSeen)
  | _, .nan => (.nan, fNanSeen)
  | .inf a, .inf b => if a = b then (.inf a, 0) else (.nan, fInvalid ||| fNanSeen)
  | .inf a, _ => (.inf a, 0)
  | _, .inf b => (.inf b, 0)
  | .fin n1 m1 e1, .fin n2 m2 e2 =>
    if m1 = 0 ∧ m2 = 0 then (.fin (n1 && n2) 0 0, 0)
    else if m1 = 0 then (.fin n2 m2 e2, 0)
    else if m2 = 0 then (.fin n1 m1 e1, 0)
    else
      let e0 := min e1 e2
      (valOfInt (scaledTo e0 n1 m1 e1 + scaledTo e0 n2 m2 e2) e0, 0)

/-- Exact product (R36, R47): ∞ × 0 is invalid. -/
def mulExact : Val → Val → FVal
  | .nan, _ => (.nan, fNanSeen)
  | _, .nan => (.nan, fNanSeen)
  | .inf a, .inf b => (.inf (a != b), 0)
  | .inf a, .fin n m _ => if m = 0 then (.nan, fInvalid ||| fNanSeen) else (.inf (a != n), 0)
  | .fin n m _, .inf b => if m = 0 then (.nan, fInvalid ||| fNanSeen) else (.inf (n != b), 0)
  | .fin n1 m1 e1, .fin n2 m2 e2 => (.fin (n1 != n2) (m1 * m2) (e1 + e2), 0)

/-- Multiplication by 2^k, exact. -/
def Val.scale (k : Int) : Val → Val
  | .fin n m e => .fin n m (e + k)
  | v => v

/-- |v| < |w| for finite significands. -/
def magLt (m1 : Nat) (e1 : Int) (m2 : Nat) (e2 : Int) : Bool :=
  let e0 := min e1 e2
  decide (m1 * 2 ^ (e1 - e0).toNat < m2 * 2 ^ (e2 - e0).toNat)

/-- The order of R499, −0 below +0; false on NaN. -/
def Val.lt : Val → Val → Bool
  | .nan, _ => false
  | _, .nan => false
  | .inf a, .inf b => a && !b
  | .inf a, .fin _ _ _ => a
  | .fin _ _ _, .inf b => !b
  | .fin n1 m1 e1, .fin n2 m2 e2 =>
    match n1, n2 with
    | true, false => true
    | false, true => false
    | false, false => magLt m1 e1 m2 e2
    | true, true => magLt m2 e2 m1 e1

/-- Minimum and maximum of R499: a NaN operand gives NaN and NAN_SEEN. -/
def minV (a b : Val) : FVal :=
  if a.isNan || b.isNan then (.nan, fNanSeen) else if b.lt a then (b, 0) else (a, 0)

def maxV (a b : Val) : FVal :=
  if a.isNan || b.isNan then (.nan, fNanSeen) else if a.lt b then (b, 0) else (a, 0)

/-! ## Rounding -/

/-- How a value that is not on the grid goes (R42, R43): to nearest even, or by the random word r. -/
inductive Rounding where
  | nearest
  | stochastic (r : Nat)
deriving DecidableEq, Repr

/-- The integer n with n × 2^q the rounding of m × 2^e (R42, R43). -/
def roundInt (rm : Rounding) (m : Nat) (e q : Int) : Nat :=
  if q ≤ e then m * 2 ^ (e - q).toNat
  else
    let sh := (q - e).toNat
    let lo := m / 2 ^ sh
    let rem := m % 2 ^ sh
    match rm with
    | .nearest =>
      if 2 ^ sh < 2 * rem then lo + 1 else if 2 * rem = 2 ^ sh ∧ lo % 2 = 1 then lo + 1 else lo
    | .stochastic r => if 2 ^ 32 ≤ rem * 2 ^ 32 / 2 ^ sh + r then lo + 1 else lo

/-- Floor of log₂ of m × 2^e, m ≠ 0. -/
def exponentOf (m : Nat) (e : Int) : Int := (Nat.log2 m : Int) + e

/-- A finite value rounded to a grid of `prec` significant bits with smallest normal exponent `emin`: the significand, its
exponent, and whether UNDERFLOW is set (R47). -/
def roundFlt (rm : Rounding) (prec : Nat) (emin : Int) (m : Nat) (e : Int) : Nat × Int × Bool :=
  if m = 0 then (0, 0, false)
  else
    let q := max (exponentOf m e) emin - ((prec : Int) - 1)
    let n := roundInt rm m e q
    (n, q, decide (n < 2 ^ (prec - 1)))

/-- An exact value rounded to PS96 (R29, R37, R40, R47): 80 significant bits and a 15-bit exponent. A finite value beyond
the largest one gives the infinity of its sign, as IEEE 754 addition does; Table 02-7 names conversions and vector steps for
OVERFLOW, so this rounding sets none (log 63, DEDUCED). -/
def roundPs96 (v : FVal) : FVal :=
  match v with
  | (.fin n m e, f) =>
    let (k, q, u) := roundFlt .nearest 80 (-16382) m e
    if magLt (2 ^ 80 - 1) 16304 k q then (.inf n, f) else (.fin n k q, if u then f ||| fUnderflow else f)
  | r => r

/-- The addition rounded to PS96 (R37, R40, R47). -/
def addPs96 (a b : Val) : FVal := roundPs96 (addExact a b)

/-- Round to FP32 as a step of the vector unit (R48). -/
def stepRound (v : FVal) : FVal :=
  match v with
  | (.fin n m e, f) =>
    let (k, q, u) := roundFlt .nearest 24 (-126) m e
    if magLt (2 ^ 24 - 1) 104 k q then (.inf n, f ||| fOverflow)
    else (.fin n k q, if u then f ||| fUnderflow else f)
  | r => r

/-- Conversion of an operand to FP32 on load; the rounding raises no flag (R48). -/
def toFp32 (v : FVal) : FVal := ((stepRound (v.1, 0)).1, v.2)

/-- PS96 to FP32 with round-to-nearest-even between the steps of R100, R101 and R105. The rules say nothing of its flags; it
raises OVERFLOW and UNDERFLOW as a step of R48 does (log 64, DESIGN CHOICE). -/
def fp32 (v : FVal) : FVal := stepRound v

/-! ## Encoding and conversion -/

/-- Encode a value on the grid of a floating-point format (Table 02-2). -/
def encodeFlt (f : FltFmt) (neg : Bool) (n : Nat) (q : Int) : Nat :=
  let s := if neg then 2 ^ (f.manBits + f.expBits) else 0
  if n = 0 then s
  else
    let l := exponentOf n q
    let emin : Int := 1 - (f.bias : Int)
    if l < emin then s + roundInt .nearest n q (emin - f.manBits)
    else
      let sig := roundInt .nearest n q (l - f.manBits)
      s + (l + (f.bias : Int)).toNat * 2 ^ f.manBits + (sig - 2 ^ f.manBits)

/-- Encode PS96 (R29, R30), canonical. -/
def encodePs96 : Val → Nat
  | .nan => 0x7FFFC000 * 2 ^ 64
  | .inf n => (if n then 0xFFFF8000 else 0x7FFF8000) * 2 ^ 64
  | .fin n m e =>
    let s := if n then 2 ^ 95 else 0
    if m = 0 then s
    else
      let l := exponentOf m e
      if l < -16382 then s + roundInt .nearest m e (-16461)
      else s + (l + 16383).toNat * 2 ^ 80 + roundInt .nearest m e (l - 79)

/-- Largest finite magnitude of a format: significand and exponent (Table 02-2). -/
def maxFinite (f : FltFmt) : Nat × Int :=
  let top := 2 ^ f.expBits - 1
  let p := 2 ^ f.manBits
  if f.specials = 2 then (2 * p - 1, (top : Int) - 1 - f.bias - f.manBits)
  else if f.specials = 1 then (2 * p - 2, (top : Int) - f.bias - f.manBits)
  else (2 * p - 1, (top : Int) - f.bias - f.manBits)

/-- Canonical NaN of a floating-point format (R28); formats without NaN write +0. -/
def canonNan (f : FltFmt) : Nat :=
  if f.specials = 1 then 2 ^ (f.manBits + f.expBits) - 1
  else if f.specials = 2 then (2 ^ f.expBits - 1) * 2 ^ f.manBits + 2 ^ (f.manBits - 1)
  else 0

/-- Conversion to a floating-point format (R42, R43, R46, R47). -/
def convertFlt (f : FltFmt) (sat : Bool) (rm : Rounding) (v : Val) : Nat × AFlags :=
  let sgn (n : Bool) : Nat := if n then 2 ^ (f.manBits + f.expBits) else 0
  let big := maxFinite f
  let clamp (n : Bool) : Nat × AFlags := (encodeFlt f n big.1 big.2, fSaturated)
  let past (n : Bool) (wasInf : Bool) : Nat × AFlags :=
    if sat || f.specials == 0 then clamp n
    else if f.specials = 1 then (canonNan f, fOverflow ||| fNanSeen)
    else (sgn n + (2 ^ f.expBits - 1) * 2 ^ f.manBits, if wasInf then 0 else fOverflow)
  match v with
  | .nan => if f.specials = 0 then (0, fInvalid ||| fNanSeen) else (canonNan f, fNanSeen)
  | .inf n => past n true
  | .fin n m e =>
    let (k, q, u) := roundFlt rm (f.manBits + 1) (1 - (f.bias : Int)) m e
    if magLt big.1 big.2 k q then past n false
    else (encodeFlt f n k q, if u then fUnderflow else 0)

/-- Conversion to a two's complement integer of w bits with least significant bit 2^lsb (R46, R47). -/
def convertInt (w : Nat) (lsb : Int) (rm : Rounding) (v : Val) : Nat × AFlags :=
  let enc (n : Bool) (k : Nat) : Nat := if n then (2 ^ w - k) % 2 ^ w else k
  let top (n : Bool) : Nat := if n then 2 ^ (w - 1) else 2 ^ (w - 1) - 1
  match v with
  | .nan => (0, fInvalid ||| fNanSeen)
  | .inf n => (enc n (top n), fSaturated)
  | .fin n m e =>
    let k := roundInt rm m e lsb
    if top n < k then (enc n (top n), fSaturated)
    else (enc n k, if k = 0 ∧ m ≠ 0 then fUnderflow else 0)

/-- Conversion into E8M0 (R498, Table 02-9). -/
def convertE8M0 (rm : Rounding) (v : Val) : Nat × AFlags :=
  match v with
  | .nan => (0xFF, fNanSeen)
  | .inf _ => (0xFF, fInvalid ||| fNanSeen)
  | .fin n m e =>
    if n ∨ m = 0 then (0xFF, fInvalid ||| fNanSeen)
    else
      let l := exponentOf m e
      if l < -127 then (0, fUnderflow)
      else
        -- in [2^l, 2^(l+1)) the grid is {2^l, 2^(l+1)} and the spacing 2^l
        let up : Bool := match rm with
          | .nearest =>
            let tie := decide (m * 2 ^ (e - (l - 1)).toNat = 3 * 2 ^ (l - 1 - e).toNat)
            if tie then decide ((l + 127) % 2 = 1) else decide (roundInt .nearest m e l = 2)
          | .stochastic r => decide (2 ≤ roundInt (.stochastic r) m e l)
        let l' := if up then l + 1 else l
        if 127 < l' then (0xFE, fSaturated) else ((l' + 127).toNat, 0)

/-- Conversion of one element to a format that is not an MX format (R42–R47, R498). -/
def convert (f : Nat) (sat : Bool) (rm : Rounding) (v : Val) : Nat × AFlags :=
  if f = 0x0E then (encodePs96 v, nanFlag v)
  else if f = 0x10 then convertE8M0 rm v
  else match fltFmt f with
    | some ff => convertFlt ff sat rm v
    | none => convertInt (fmtWidth f) 0 rm v

/-- emax of R45 step 3. -/
def mxEmax : Nat → Int
  | 0x03 => 8 | 0x04 => 15 | 0x05 => 4 | 0x06 => 2 | 0x07 => 2 | _ => 0

/-- One element of an MX block at scale exponent e (R45 steps 4 and 5). -/
def convertMxElem (f : Nat) (e : Int) (rm : Rounding) (v : Val) : Nat × AFlags :=
  let w := v.scale (-e)
  if f = 0x08 then convertInt 8 (-6) rm w
  else match fltFmt f with
    | some ff => convertFlt ff true rm w
    | none => (0, 0)

/-- Largest magnitude of a block; none when an element is NaN or infinite (R45 steps 1 and 2). -/
def blockMax : List Val → Option (Nat × Int)
  | [] => some (0, 0)
  | .fin _ m e :: t => (blockMax t).map fun r => if magLt r.1 r.2 m e then (m, e) else r
  | _ :: _ => none

/-- Conversion of one block (R45): the scale byte, the elements, and the flags. -/
def convertBlock (f : Nat) (vs : List (Val × Rounding)) : Nat × List Nat × AFlags :=
  match blockMax (vs.map (·.1)) with
  | none => (0xFF, vs.map (fun _ => 0), fNanSeen)
  | some (m, e) =>
    if m = 0 then (0x7F, vs.map (fun _ => 0), 0)
    else
      let x := max (-127) (min 127 (exponentOf m e - mxEmax f))
      let rs := vs.map fun v => convertMxElem f x v.2 v.1
      ((x + 127).toNat, rs.map (·.1), rs.foldl (fun a r => a ||| r.2) 0)

/-! ## The random word of stochastic rounding -/

/-- The mixing function of R44. -/
def mix64 (z : BitVec 64) : BitVec 64 :=
  let z := (z ^^^ (z >>> 30)) * 0xBF58476D1CE4E5B9
  let z := (z ^^^ (z >>> 27)) * 0x94D049BB133111EB
  z ^^^ (z >>> 31)

/-- The random word r (R44). -/
def randomWord (seed rank step task inst elem : Nat) : Nat :=
  let w1 : BitVec 64 := (BitVec.ofNat 64 rank <<< 32) ||| BitVec.ofNat 64 (step % 2 ^ 32)
  let w2 : BitVec 64 := (BitVec.ofNat 64 (inst % 2 ^ 16) <<< 48) ||| (BitVec.ofNat 64 (task % 2 ^ 16) <<< 32) |||
    BitVec.ofNat 64 (elem % 2 ^ 32)
  let x := mix64 (mix64 (BitVec.ofNat 64 seed ^^^ w1) ^^^ w2)
  (x >>> 32).toNat

/-! ## Steps of the vector unit -/

/-- Result of a step that is exact: a subnormal result sets UNDERFLOW (R48). -/
def exactStep (v : FVal) : FVal :=
  match v with
  | (.fin n m e, f) =>
    if m ≠ 0 ∧ exponentOf m e < -126 then (.fin n m e, f ||| fUnderflow) else (.fin n m e, f)
  | r => r

def vAdd (a b : Val) : FVal := stepRound (addExact a b)
def vSub (a b : Val) : FVal := stepRound (addExact a b.neg)
def vMul (a b : Val) : FVal := stepRound (mulExact a b)

/-- Fused multiply-add, one rounding (R48). -/
def vFma (a b c : Val) : FVal :=
  let p := mulExact a b
  let r := addExact p.1 c
  stepRound (r.1, p.2 ||| r.2)

/-- Equality of values, −0 equal to +0. -/
def Val.eqv (a b : Val) : Bool :=
  match a, b with
  | .nan, _ => false
  | _, .nan => false
  | .inf x, .inf y => x == y
  | .fin n1 m1 e1, .fin n2 m2 e2 =>
    (m1 == 0 && m2 == 0) || (n1 == n2 && !magLt m1 e1 m2 e2 && !magLt m2 e2 m1 e1)
  | _, _ => false

def Val.one : Val := .fin false 1 0

/-- CMPGT and CMPEQ (R499). -/
def vCmp (gt : Bool) (a b : Val) : FVal :=
  let f := if a.isNan || b.isNan then fNanSeen else 0
  let r := if gt then b.lt a && !(a.eqv b) else a.eqv b
  (if r then Val.one else Val.zero, f)

/-- FLOOR and RINT (Table 04-8), exact. -/
def vRoundInt (rint : Bool) : Val → FVal
  | .nan => (.nan, fNanSeen)
  | .inf n => (.inf n, 0)
  | .fin n m e =>
    if rint then (.fin n (roundInt .nearest m e 0) 0, 0)
    else if 0 ≤ e then (.fin n m e, 0)
    else
      let sh := (-e).toNat
      let lo := m / 2 ^ sh
      (.fin n (if n ∧ m % 2 ^ sh ≠ 0 then lo + 1 else lo) 0, 0)

/-- FP32 encoding of a value on its grid. -/
def fp32Bits (v : Val) : Word := BitVec.ofNat 32 (convertFlt ⟨8, 23, 127, 2⟩ false .nearest v).1

/-- Decode an FP32 word. -/
def fp32Val (w : Word) : Val := decodeFlt ⟨8, 23, 127, 2⟩ w.toNat

/-! ### The approximated functions (R48)

The magnitude of the exact value is formed in fixed point with 1,024 bits after the point, truncated; the result lies within
2 units in the last place of it, and which of those values it is, is the microcode release's own (log 4, DESIGN CHOICE). -/

/-- 1 in fixed point. -/
def fixOne : Nat := 2 ^ 1024

/-- The terms of the exponential series from term i on. -/
def expTerms (x : Nat) : Nat → Nat → Nat → Nat
  | 0, _, _ => 0
  | k + 1, i, term => term + expTerms x k (i + 1) (term * x / fixOne / (i + 1))

/-- e to the power of a fixed-point number below 256. -/
def fixExp (x : Nat) : Nat := expTerms x 1400 0 fixOne

/-- The terms z^(2i + 1) ÷ (2i + 1) of the series of artanh, z² given. -/
def atanhTerms (z2 : Nat) : Nat → Nat → Nat → Nat
  | 0, _, _ => 0
  | k + 1, i, power => power / (2 * i + 1) + atanhTerms z2 k (i + 1) (power * z2 / fixOne)

/-- artanh of a fixed-point number of at most 1/3. -/
def fixAtanh (z : Nat) : Nat := atanhTerms (z * z / fixOne) 340 0 z

/-- The natural logarithm of m × 2^e in fixed point, signed: m = y × 2^l with y in [1, 2). -/
def fixLog (m : Nat) (e : Int) : Int :=
  let l := Nat.log2 m
  let y := 2 * fixAtanh ((m - 2 ^ l) * fixOne / (m + 2 ^ l))
  (y : Int) + ((l : Int) + e) * ((2 * fixAtanh (fixOne / 3) : Nat) : Int)

/-- The integer square root, bit by bit from bit k − 1 down. -/
def sqrtBits (n : Nat) : Nat → Nat → Nat
  | 0, r => r
  | k + 1, r => sqrtBits n k (if (r + 2 ^ k) * (r + 2 ^ k) ≤ n then r + 2 ^ k else r)

/-- m × 2^e in fixed point. -/
def fixOf (m : Nat) (e : Int) : Nat :=
  if -1024 ≤ e then m * 2 ^ (e + 1024).toNat else m / 2 ^ (-1024 - e).toNat

/-- The exact result for a finite operand, as sign and fixed-point magnitude. Past |a| = 128 the exponential overflows, or lies
below half the least subnormal. -/
def approxExact (fn : ApproxFn) (n : Bool) (m : Nat) (e : Int) : Bool × Nat :=
  let big := decide (fixOne * 128 ≤ fixOf m e)
  let x := if big then fixOne * 128 else fixOf m e
  match fn with
  | .exp => (false, if n then fixOne * fixOne / fixExp x else fixExp x)
  | .log => let v := fixLog m e; (decide (v < 0), v.natAbs)
  | .rcp => (n, if 0 ≤ e then fixOne / (m * 2 ^ e.toNat) else fixOne * 2 ^ (-e).toNat / m)
  | .rsqrt =>
    let r := if 0 ≤ e then fixOne * fixOne / (m * 2 ^ e.toNat) else fixOne * fixOne * 2 ^ (-e).toNat / m
    (false, sqrtBits r 1200 0)
  | .tanh => let y := fixExp (2 * (if big then fixOne * 64 else x)); (n, (y - fixOne) * fixOne / (y + fixOne))
  | .logistic => let y := fixExp x; (false, (if n then fixOne else y) * fixOne / (y + fixOne))

/-- The value the microcode release gives, within 2 units in the last place of the exact result (R48): a free choice among
the four grid values that near, among five where the exact result is on the grid (log 4, DESIGN CHOICE). A result beyond
the largest finite magnitude is an infinity with OVERFLOW; a zero or subnormal one of a nonzero exact result sets
UNDERFLOW. -/
def approxStep (release : Nat) (fn : ApproxFn) (a : Val) (n : Bool) (x : Nat) : FVal :=
  let q := max (exponentOf x (-1024)) (-126) - 23
  let sh := (q + 1024).toNat
  let onGrid := x % 2 ^ sh = 0
  let k := Config.approxUlps release fn (fp32Bits a)
  let d : Int := if onGrid then (k % 5 : Nat) - 2 else (k % 4 : Nat) - 1
  let r := ((x / 2 ^ sh : Nat) : Int) + d
  let v : Val := if r = 0 then .fin n 0 0 else .fin (n != decide (r < 0)) r.natAbs q
  let y := stepRound (v, 0)
  if x = 0 then (y.1, 0) else if r = 0 then (y.1, fUnderflow) else y

/-- An approximated function of a microcode release (R48, R79): a NaN, an infinity, a zero and an invalid operand give what the
rule states, every other operand a value within the error the rule states. -/
def vApprox (release : Nat) (fn : ApproxFn) (a : Val) : FVal :=
  let invalid : FVal := (.nan, fInvalid ||| fNanSeen)
  match fn, a with
  | _, .nan => (.nan, fNanSeen)
  | .exp, .inf n => (if n then Val.zero else .inf false, 0)
  | .log, .inf n => if n then invalid else (.inf false, 0)
  | .rcp, .inf n => (.fin n 0 0, 0)
  | .rsqrt, .inf n => if n then invalid else (Val.zero, 0)
  | .tanh, .inf n => (.fin n 1 0, 0)
  | .logistic, .inf n => (if n then Val.zero else Val.one, 0)
  | fn, .fin n m e =>
    let zero : Bool := m == 0
    let pole : Bool := fn == .log || fn == .rcp || fn == .rsqrt
    if pole && zero then (.inf (fn == .log || n), 0)
    else if (fn == .log || fn == .rsqrt) && n then invalid
    else let r := approxExact fn n m e; approxStep release fn a r.1 r.2

end Sys2Proof.Machine
end

