-- ==== Sys2Proof/WellFormed.lean ====
section
/-! DEFINITION. Which commands name units that exist: the ranges of the operands (chapters 01, 05, 07, 10). A command
outside its ranges acts on nothing; the meanings do not rely on this check. -/

namespace Sys2Proof

/-- A tile crossing, die port or other link that exists (Table 06-2). -/
def LinkRef.wellFormed : LinkRef → Bool
  | .crossing t n => decide (t < 16 ∧ n < 16)
  | .inDie t d a b => decide (t < 16 ∧ d < 13 ∧ a < 18 ∧ b < 18)
  | .vertical t d v => decide (t < 16 ∧ d < 13 ∧ v < 4)
  | .baseMesh t a b => decide (t < 16 ∧ a < 16 ∧ b < 16)
  | .ctrlDie t d => decide (t < 16 ∧ d < 13)
  | .ctrlTile t c => decide (t < 16 ∧ 1 ≤ c ∧ c ≤ 4)
  | .ucie h => decide (h < 4)

/-- A receiver of synchronisation lanes is one of the panel. -/
def SyncRef.wellFormed : SyncRef → Bool
  | .diePort t d => decide (t < 16 ∧ d < 13)
  | .site t d => decide (t < 16 ∧ d < 13)
  | .inter t c => decide (t < 16 ∧ 1 ≤ c ∧ c ≤ 4)

/-- Words of a scratchpad memory (Table 05-1). -/
def MemKind.words : MemKind → Nat
  | .W => 2097152
  | .A => 3145728
  | .P => 1048576

/-- Rows of LPDDR5X accesses and apertures are 1 to 64 bytes, a power of two (R152). -/
def accessSize (n : Nat) : Bool := n == 1 || n == 2 || n == 4 || n == 8 || n == 16 || n == 32 || n == 64

/-- A console word's byte count, bits [63:56], is 0 to 7 (R300). -/
def consoleCountOk (w : BitVec 64) : Bool := decide (w.toNat / 2 ^ 56 ≤ 7)

/-- The operands lie in the ranges of the units they name. -/
def Instr.wellFormed : Instr → Bool
  | .mma p => decide (p < 3744)
  | .mmaAt p => decide (p < 3744)
  | .mmaBt p => decide (p < 3744)
  | .mmaAcc p => decide (p < 3744)
  | .mmaAccAt p => decide (p < 3744)
  | .mmaAccBt p => decide (p < 3744)
  | .mmaKsplit p => decide (p < 3744)
  | .mmaKsplitBt p => decide (p < 3744)
  | .vecMap p => decide (p < 3744)
  | .vecReduce p => decide (p < 3744)
  | .vecScan p => decide (p < 3744)
  | .vecSoftmax p => decide (p < 3744)
  | .vecNorm p => decide (p < 3744)
  | .vecConvert p => decide (p < 3744)
  | .gather p => decide (p < 3744)
  | .gatherSum p => decide (p < 3744)
  | .scatter p => decide (p < 3744)
  | .scatterAdd p => decide (p < 3744)
  | .dmaCopy p => decide (p < 3744)
  | .streamIn p => decide (p < 3744)
  | .sharedStreamFetchStart part share => decide (part < 16) && decide (share < 65536)
  | .streamOut p => decide (p < 3744)
  | .fabricIn p => decide (p < 3744)
  | .fabricOut p => decide (p < 3744)
  | .send p => decide (p < 3744)
  | .recv p => decide (p < 3744)
  | .put p => decide (p < 3744)
  | .windowWait p => decide (p < 3744)
  | .reduce p => decide (p < 3744)
  | .allreduce p => decide (p < 3744)
  | .broadcast p => decide (p < 3744)
  | .barrier p => decide (p < 3744)
  | .waitFlag p => decide (p < 3744)
  | .setFlag p => decide (p < 3744)
  | .clearFlag p => decide (p < 3744)
  | .loop p => decide (p < 3744)
  | .branchCount p => decide (p < 3744)
  | .endRun p => decide (p < 3744)
  | .fingerprintMark p => decide (p < 3744)
  | .fingerprintClear p => decide (p < 3744)
  | .fingerprintStore p => decide (p < 3744)
  | .handleBind p => decide (p < 3744)
  | .handleFree p => decide (p < 3744)
  | .baseBoundSet p => decide (p < 3744)
  | .descriptorFetch p => decide (p < 3744)
  | .refusedDescriptorCommit p => decide (p < 3744)
  | .taskCommit p _ => decide (p < 3744)
  | .tileDispatch p => decide (p < 3744)
  | .engineTileDone p e => decide (p < 3744) && decide (e < 8)
  | .engineTileError p e => decide (p < 3744) && decide (e < 8)
  | .engineKatTileDone p e _ => decide (p < 3744) && decide (e < 8)
  | .engineOffline p e => decide (p < 3744) && decide (e < 8)
  | .taskFaultDetect p _ => decide (p < 3744)
  | .waitLimitExpiry p _ => decide (p < 3744)
  | .waitFurtherLimitExpiry p _ => decide (p < 3744)
  | .coreRunStart p => decide (p < 3744)
  | .coreAbort p => decide (p < 3744)
  | .stepBoundary p => decide (p < 3744)
  | .streamedListRefetch p => decide (p < 3744)
  | .spdCorrectedWriteback p kind word _ => decide (p < 3744) && decide (word < kind.words)
  | .spdUncorrectableRead p _ kind word _ => decide (p < 3744) && decide (word < kind.words)
  | .patrolScrubRead p _ _ => decide (p < 3744)
  | .coalescingBufferClose p _ => decide (p < 3744)
  | .arbitrationStarvationPriority p _ bank stream => decide (p < 3744) && decide (bank < 96) && decide (stream < 41)
  | .apertureRead h hart _ size => decide (h < 4) && decide (hart < 32) && accessSize size
  | .apertureWrite h hart _ size _ => decide (h < 4) && decide (hart < 32) && accessSize size
  | .packetRoute _ => true
  | .packetDeliver _ => true
  | .flitCrcFail link => link.wellFormed
  | .flitReplayResult link _ _ => link.wellFormed
  | .laneGroupRetrainDone tile n _ => decide (tile < 16) && decide (n < 16)
  | .requestReplyTimeout _ => true
  | .packetLifetimeExpiry _ => true
  | .drainHold _ => true
  | .drainTableWrite _ => true
  | .drainRelease _ => true
  | .controlMessage _ => true
  | .broadcastTreeMessage words _ => decide (1 ≤ words.length ∧ words.length ≤ 32)
  | .syncSampleError link => link.wellFormed
  | .broadcastBeat tile _ site _ => decide (tile < 16) && decide (site < 13)
  | .replicatorRow tile _ => decide (tile < 16)
  | .msgAnnounce _ => true
  | .msgPull _ => true
  | .msgData _ => true
  | .msgDone _ => true
  | .nack _ => true
  | .windowOpen q => decide (q < 65536)
  | .windowClose q => decide (q < 65536)
  | .windowCloseExpert q => decide (q < 65536)
  | .windowCloseWaitExpiry l slot => decide (l < 3072) && decide (slot < 64)
  | .windowGenAdvance l slot => decide (l < 3072) && decide (slot < 64)
  | .putData _ => true
  | .putAck _ => true
  | .putResendTimer p _ => decide (p < 3744)
  | .windowTransferSilence l src tag => decide (l < 3072) && decide (src < 2 ^ 22) && decide (tag < 4096)
  | .catalogueRead q => decide (q < 65536)
  | .catalogueReadExpert q => decide (q < 65536)
  | .barrierGroupCreate q => decide (q < 65536)
  | .barrierGroupDestroy q => decide (q < 65536)
  | .barrierGroupDestroyExpert q => decide (q < 65536)
  | .barrierRelease p group => decide (p < 3744) && decide (group < 64)
  | .redPart _ => true
  | .redResult _ => true
  | .fastReductionCombine _ => true
  | .sliceRead h hart _ size => decide (h < 4) && decide (hart < 32) && accessSize size
  | .sliceWrite h hart _ size _ => decide (h < 4) && decide (hart < 32) && accessSize size
  | .lpddrUncorrectableRead _ _ _ => true
  | .devicePredictiveTrigger dev => decide (dev < 68)
  | .deviceCopyDone spare _ => decide (spare < 68)
  | .deviceLastingFault dev => decide (dev < 68)
  | .wckTracking dev channel _ => decide (dev < 68) && decide (channel < 4)
  | .deviceTemperatureReport dev _ => decide (dev < 68)
  | .ecsResultRead dev _ => decide (dev < 68)
  | .dblSqTail h hart q _ => decide (h < 4) && decide (hart < 32) && decide (q < 65536)
  | .dblCqHead h hart q _ => decide (h < 4) && decide (hart < 32) && decide (q < 65536)
  | .commandFetch q => decide (q < 65536)
  | .completionRecordWrite q => decide (q < 65536)
  | .contextLoadDone u q => decide (u < 4) && decide (q < 65536)
  | .spillWriteAck u q => decide (u < 4) && decide (q < 65536)
  | .ucieModuleFail h => decide (h < 4)
  | .ucieLinkDownTimeout h => decide (h < 4)
  | .unpopulatedAccess h hart _ _ => decide (h < 4) && decide (hart < 32)
  | .registerWrite _ _ _ => true
  | .echo q => decide (q < 65536)
  | .echoExpert q => decide (q < 65536)
  | .queueCreate q => decide (q < 65536)
  | .queueDestroy q => decide (q < 65536)
  | .queueDestroyExpert q => decide (q < 65536)
  | .queueEnable q => decide (q < 65536)
  | .queueDisable q => decide (q < 65536)
  | .queueDisableExpert q => decide (q < 65536)
  | .programLoad q _ => decide (q < 65536)
  | .run q => decide (q < 65536)
  | .abort q => decide (q < 65536)
  | .stepMark q => decide (q < 65536)
  | .stepMarkExpert q => decide (q < 65536)
  | .memCopy q _ _ => decide (q < 65536)
  | .memCopyExpert q _ _ => decide (q < 65536)
  | .memFill q _ _ => decide (q < 65536)
  | .memFillExpert q _ _ => decide (q < 65536)
  | .mbxThPush h hart m _ => decide (h < 4) && decide (hart < 32) && decide (m < 256)
  | .mbxThPop h hart m => decide (h < 4) && decide (hart < 32) && decide (m < 256)
  | .mbxTpPush h hart m _ => decide (h < 4) && decide (hart < 32) && decide (m < 256)
  | .mbxRing h hart m _ => decide (h < 4) && decide (hart < 32) && decide (m < 256)
  | .mbxMask h hart m _ => decide (h < 4) && decide (hart < 32) && decide (m < 256)
  | .mbxMsi h hart m _ => decide (h < 4) && decide (hart < 32) && decide (m < 256)
  | .heartbeatPost => true
  | .consoleOutput m words => decide (m < 256) && words.all consoleCountOk
  | .consolePop => true
  | .fingerprintFeed p _ _ => decide (p < 3744)
  | .fingerprintConfigure q => decide (q < 65536)
  | .fingerprintEnable q => decide (q < 65536)
  | .fingerprintDisable q => decide (q < 65536)
  | .fingerprintDisableExpert q => decide (q < 65536)
  | .fingerprintRead q => decide (q < 65536)
  | .crcContextSet q => decide (q < 65536)
  | .crcContextGet q => decide (q < 65536)
  | .faultLogReadRecords q => decide (q < 65536)
  | .faultLogReadCounters q => decide (q < 65536)
  | .partitionReset q => decide (q < 65536)
  | .partitionResetStart part => decide (part < 16)
  | .partitionResetRelease part _ _ => decide (part < 16)
  | .accessionComplete part l _ => decide (part < 16) && decide (l < 3072)
  | .accessionKatFail part l _ => decide (part < 16) && decide (l < 3072)
  | .accessionRetest q _ _ => decide (q < 65536)
  | .accessionPlace q _ => decide (q < 65536)
  | .escalationPolicyRead q => decide (q < 65536)
  | .escalationPolicySet q => decide (q < 65536)
  | .provenanceRead q => decide (q < 65536)
  | .transientSummary => true
  | .curatorSilence tile => decide (tile < 16)
  | .curatorRestartTimeout tile => decide (tile < 16)
  | .leadTakeover => true
  | .dieFence tile site _ => decide (tile < 16) && decide (site < 13)
  | .holdLimitExpiry part => decide (part < 16)
  | .spdWordRewriteCheck p kind word _ => decide (p < 3744) && decide (word < kind.words)
  | .stragglerStaging p _ => decide (p < 3744)
  | .panelRstNAssert => true
  | .panelRstNRelease => true
  | .strapLatch _ => true
  | .firstStageVerify => true
  | .deputyStartTakeover => true
  | .charterSeal => true
  | .linkTrainingDone _ => true
  | .stackWave => true
  | .microcodeBroadcast _ => true
  | .lpddrInitialise => true
  | .linkBerCheckDone _ => true
  | .startKatDone _ _ => true
  | .catalogueBuild _ => true
  | .hostRelease _ => true
  | .attest q => decide (q < 65536)
  | .fwStage q => decide (q < 65536)
  | .fwCommit q => decide (q < 65536)
  | .charterRead q => decide (q < 65536)
  | .refclkLoss _ => true
  | .refclkPrimaryReturn => true
  | .pllLossOfLock tile site => decide (tile < 16) && decide (site < 13)
  | .marginSample p code => decide (p < 3744) && decide (code < 64)
  | .marginStretchEnd p => decide (p < 3744)
  | .marginWindow p => decide (p < 3744)
  | .regulatorSettled p => decide (p < 3744)
  | .stepSetPolicy q => decide (q < 65536)
  | .stepSetRead q => decide (q < 65536)
  | .stepSetFix q => decide (q < 65536)
  | .stepSetThresholds q => decide (q < 65536)
  | .sagDetect _ => true
  | .sagEnd => true
  | .sagLimitExpiry => true
  | .highInput => true
  | .inputLockout => true
  | .pfwNAssert => true
  | .pfwRecovery => true
  | .slewGrant _ => true
  | .slewLimit q => decide (q < 65536)
  | .slewLimitExpert q => decide (q < 65536)
  | .powerCapDivision _ => true
  | .powerCapStepChange part _ => decide (part < 16)
  | .powerPolicyPanelCap q => decide (q < 65536)
  | .powerPolicyRead q => decide (q < 65536)
  | .powerPolicyTileCap q => decide (q < 65536)
  | .powerPolicyStaging q => decide (q < 65536)
  | .converterPhaseFault tile phase => decide (tile < 16) && decide (phase < 8)
  | .breakerTrip tile _ => decide (tile < 16)
  | .regulatorPhaseFault p phase => decide (p < 3760) && decide (phase < 4)
  | .headerStage p _ => decide (p < 3744)
  | .stagePauseRecheck p _ => decide (p < 3744)
  | .stagePauseLimit p => decide (p < 3744)
  | .sensorSample tile _ _ => decide (tile < 16)
  | .thermalCapWindow part => decide (part < 16)
  | .thermalCapRecovery part => decide (part < 16)
  | .thermalWarnClear => true
  | .flowRequestUpdate _ => true
  | .keepWarmEvaluate tile _ => decide (tile < 16)
  | .keepWarmRead q => decide (q < 65536)
  | .keepWarmWrite q => decide (q < 65536)
  | .monitorSample _ _ _ => true
  | .monitorConfigPreset q => decide (q < 65536)
  | .monitorConfigClear q => decide (q < 65536)
  | .monitorConfigSet q => decide (q < 65536)
  | .monitorRead q => decide (q < 65536)
  | .congestionIntervalEnd _ => true
  | .congestionMapRead q => decide (q < 65536)
  | .testPhaseEmergency => true
  | .extest _ => true
  | .samplePreload _ => true
  | .idcode => true
  | .dieSelect _ => true
  | .dieStandalone => true
  | .loopback _ => true
  | .stackPower _ tile site => decide (tile < 16) && decide (site < 13)
  | .flashAccess die _ => decide (die < 2)
  | .bypass code => decide (code < 256)
  | .entdaa _ => true
  | .setdasa _ _ => true
  | .rstdaa => true
  | .getpid => true
  | .getbcr => true
  | .getdcr => true
  | .getstatus => true
  | .enec _ => true
  | .disec _ => true
  | .i3cPrivateWrite _ => true
  | .i3cPrivateRead => true
  | .i3cHotJoin => true
  | .i3cIbi => true
  | .fabricDataFrame port _ => decide (port < 32)
  | .fabricAckFrame port _ => decide (port < 32)
  | .fabricAckTimer _ => true
  | .fabricRetransmitTimer _ => true
  | .fabricRequestTimeout _ => true
  | .portConfigEnable q => decide (q < 65536)
  | .portConfigDisable q => decide (q < 65536)
  | .portConfigDisableExpert q => decide (q < 65536)
  | .portConfigRead q => decide (q < 65536)
  | .portConfigSet q => decide (q < 65536)
  | .portConfigEndpoint q => decide (q < 65536)
  | .portDisableDrainExpiry port => decide (port < 32)
  | .edgePortDieFault die => decide (die < 16)
  | .routeUpdatePortset q => decide (q < 65536)
  | .routeUpdatePanelRoute q => decide (q < 65536)
  | .routeUpdateShares q => decide (q < 65536)
  | .pwrGoodRise => true
  | .pfwNDeassert => true
  | .portTrainingDone port _ => decide (port < 32)
  | .portLinkDown port => decide (port < 32)
  | .flowEpochAdvance _ => true
  | .tapTestLogicReset => true

end Sys2Proof
end

