-- ==== Sys2Proof/Machine/Operands.lean ====
section
/-! DEFINITION. The fields of a descriptor (chapters 03 and 04), the checks made when a list is loaded or fetched, and
the resolution of operand references at issue. -/

namespace Sys2Proof.Machine

/-- A descriptor, bit n of the manual being bit n of the vector (R58). -/
abbrev Desc := BitVec 512

def dOpcode (d : Desc) : Nat := fld d 7 0
def dWait (d : Desc) : Bool := fld d 8 8 = 1
def dSetOnDone (d : Desc) : Bool := fld d 9 9 = 1
def dFp (d : Desc) : Bool := fld d 10 10 = 1
def dPs96 (d : Desc) : Bool := fld d 11 11 = 1
def dSr (d : Desc) : Bool := fld d 12 12 = 1
def dSat (d : Desc) : Bool := fld d 13 13 = 1
def dTc (d : Desc) : Nat := fld d 15 14
def dWaitset (d : Desc) : BitVec 16 := BitVec.ofNat 16 (fld d 31 16)
def dSetset (d : Desc) : BitVec 16 := BitVec.ofNat 16 (fld d 47 32)
def dTask (d : Desc) : Nat := fld d 63 48

/-! ## Opcode properties (Tables 04-2, 04-3) -/

def opMatrix (o : Nat) : Bool := decide (0x10 ≤ o ∧ o ≤ 0x17)
def opKsplit (o : Nat) : Bool := o == 0x16 || o == 0x17
def opAcc (o : Nat) : Bool := o == 0x13 || o == 0x14 || o == 0x15
def opAT (o : Nat) : Bool := o == 0x11 || o == 0x14
def opBT (o : Nat) : Bool := o == 0x12 || o == 0x15 || o == 0x17

/-- Assigned opcodes (R87). -/
def opAssigned (o : Nat) : Bool :=
  opMatrix o || decide (0x20 ≤ o ∧ o ≤ 0x25) || decide (0x30 ≤ o ∧ o ≤ 0x33) || decide (0x40 ≤ o ∧ o ≤ 0x44) ||
  decide (0x50 ≤ o ∧ o ≤ 0x53) || decide (0x60 ≤ o ∧ o ≤ 0x63) || decide (0x70 ≤ o ∧ o ≤ 0x75) ||
  decide (0x80 ≤ o ∧ o ≤ 0x82) || decide (0x90 ≤ o ∧ o ≤ 0x92)

/-- Opcodes that generate network traffic (R88). -/
def opTraffic (o : Nat) : Bool :=
  decide (0x41 ≤ o ∧ o ≤ 0x44) || decide (0x50 ≤ o ∧ o ≤ 0x52) || decide (0x60 ≤ o ∧ o ≤ 0x62)

/-- Opcodes with a converted output (R88). -/
def opConverted (o : Nat) : Bool :=
  opMatrix o || decide (0x20 ≤ o ∧ o ≤ 0x25) || o == 0x31 || o == 0x60 || o == 0x61

/-- The fingerprint channel field (R88). -/
def dFpch (d : Desc) : Nat :=
  let o := dOpcode d
  if opMatrix o then fld d 410 408
  else if o = 0x20 then fld d 378 376
  else if o ≤ 0x25 then fld d 386 384
  else if o = 0x31 then fld d 370 368
  else fld d 250 248

/-- The output format in force (R42, R85): PS96 when PS96_OUT = 1. -/
def dFmtOut (d : Desc) : Nat :=
  let o := dOpcode d
  if dPs96 d then 0x0E
  else if opMatrix o then fld d 404 400
  else if o = 0x20 then fld d 356 352
  else if o ≤ 0x25 then fld d 332 328
  else if o = 0x31 then fld d 364 360
  else fld d 236 232

/-! ## References (Table 04-1) -/

def refBB (r : Nat) : Bool := bit r 31
def refName (r : Nat) : Nat := bits r 30 21
def refWoff (r : Nat) : Nat := if refBB r then bits r 21 0 else bits r 20 0
def kindOf (k : Nat) : MemKind := if k = 0 then .W else if k = 1 then .A else .P
def kindCode : MemKind → Nat
  | .W => 0 | .A => 1 | .P => 2

/-- Reserved bits and the reserved kind of a base/bound reference are refused at load (R62, R84). -/
def refFormOk (r : Nat) : Bool := !refBB r || (bits r 28 22 == 0 && bits r 30 29 != 3)

/-- Words that n elements of a format take (R32). -/
def rowWords (f n : Nat) : Nat := ceilDiv (n * fmtWidth f) 32

/-! ## Load checks (R61, R62, R86) -/

/-- Reserved bits of a descriptor, and fields its opcode does not use, by bit range (R62). -/
def reservedRanges (d : Desc) : List (Nat × Nat) :=
  let o := dOpcode d
  let fp : Bool := !dFp d
  if opMatrix o then
    [(511, 496), (415, 411), (407, 405), (399, 397), (391, 389), (287, 280)] ++
    (if opKsplit o then [] else [(495, 480)]) ++ (if opKsplit o || opAcc o then [] else [(447, 416)]) ++
    (if fmtMx (fld d 388 384) && refBB (fld d 95 64) then [] else [(191, 160)]) ++
    (if fmtMx (fld d 396 392) && refBB (fld d 127 96) then [] else [(223, 192)]) ++
    (if fmtMx (dFmtOut d) && refBB (fld d 159 128) then [] else [(479, 448)]) ++ (if fp then [(410, 408)] else [])
  else if o = 0x20 then
    let nin := fld d 375 372
    [(511, 384), (383, 379), (359, 357), (351, 349), (343, 341), (335, 333), (327, 325)] ++
    (if nin < 2 then [(127, 96), (335, 328)] else []) ++ (if nin < 3 then [(159, 128), (343, 336)] else []) ++
    (if nin < 4 then [(191, 160), (351, 344)] else []) ++ (if fld d 371 368 = 0 then [(319, 288)] else []) ++
    (if fp then [(378, 376)] else [])
  else if 0x21 ≤ o ∧ o ≤ 0x25 then
    let mode := fld d 351 344
    let aux : Bool := (o == 0x22 && mode != 0) || (o == 0x24 && bit mode 2) ||
      (o == 0x25 && fmtMx (fld d 324 320) && refBB (fld d 95 64))
    let aux2 : Bool := (o == 0x22 && mode == 2) || (o == 0x24 && bit mode 3) ||
      (o == 0x25 && fmtMx (dFmtOut d) && refBB (fld d 127 96))
    let fmtAux : Bool := (o == 0x22 && mode != 0) || (o == 0x24 && (bit mode 2 || bit mode 3))
    [(511, 392), (391, 387), (343, 341), (335, 333), (327, 325)] ++ (if o = 0x24 then [] else [(383, 352)]) ++
    (if aux then [] else [(159, 128)]) ++ (if aux2 then [] else [(191, 160)]) ++
    (if fmtAux then [] else [(340, 336)]) ++ (if fp then [(386, 384)] else [])
  else if 0x30 ≤ o ∧ o ≤ 0x33 then
    [(511, 416), (375, 371), (367, 365), (359, 357)] ++
    (if o = 0x31 then (if fp then [(370, 368)] else []) else [(415, 384), (383, 376), (159, 128), (370, 368)])
  else if 0x40 ≤ o ∧ o ≤ 0x44 then
    [(511, 376), (375, 369)] ++ (if o = 0x41 ∧ fld d 351 336 ≠ 0 then [] else [(367, 352)]) ++
    (if o = 0x41 then [] else [(351, 336)]) ++ (if o = 0x43 ∨ o = 0x44 then [] else [(335, 320)]) ++
    (if o = 0x40 then [(127, 64)] else [(191, 160)]) ++ (if o = 0x41 ∨ o = 0x42 then [] else [(368, 368)])
  else if 0x50 ≤ o ∧ o ≤ 0x53 then
    [(511, 248), (247, 244), (231, 230)] ++ (if o = 0x52 then [] else [(243, 232)]) ++
    (if o = 0x52 ∨ o = 0x53 then [] else [(229, 224), (223, 192)]) ++
    (if o = 0x50 ∨ o = 0x51 then [] else [(191, 160)]) ++ (if o = 0x53 then [(159, 128), (127, 96), (95, 64)] else [])
  else if 0x60 ≤ o ∧ o ≤ 0x63 then
    [(511, 256), (255, 251), (246, 243), (239, 237), (231, 229), (95, 70)] ++
    (if o = 0x63 then [(250, 96)] else if o = 0x62 then [(250, 224)]
     else (if o = 0x61 then [(223, 192)] else []) ++ (if fp then [(250, 248)] else []))
  else if 0x70 ≤ o ∧ o ≤ 0x75 then
    [(511, 176), (95, 80)] ++ (if o = 0x72 then [] else [(175, 160)]) ++ (if o = 0x74 then [] else [(159, 128)]) ++
    (if o = 0x73 ∨ o = 0x74 then [] else [(127, 96), (79, 64)])
  else if 0x80 ≤ o ∧ o ≤ 0x82 then
    [(511, 160), (95, 72)] ++ (if o = 0x82 then [] else [(159, 128)]) ++ (if o = 0x80 then [] else [(127, 96)])
  else
    [(511, 192), (174, 170), (95, 93), (87, 82), (79, 74)] ++
    (if o = 0x90 then (if fld d 175 175 = 1 then [] else [(169, 160)]) else [(191, 176), (175, 175), (169, 160), (92, 88)]) ++
    (if o = 0x91 then [(159, 128), (127, 96), (81, 80)] else []) ++ (if o = 0x92 then [(73, 64)] else [])

/-- The reference fields of a descriptor that has them. -/
def refFields (o : Nat) : List Nat :=
  if opMatrix o then [64, 96, 128, 160, 192, 416, 448]
  else if o = 0x20 then [64, 96, 128, 160, 192, 224]
  else if 0x21 ≤ o ∧ o ≤ 0x25 then [64, 96, 128, 160]
  else if 0x30 ≤ o ∧ o ≤ 0x33 then [64, 96, 128, 160]
  else if 0x40 ≤ o ∧ o ≤ 0x44 then [128, 160]
  else if 0x50 ≤ o ∧ o ≤ 0x52 then [96]
  else if 0x60 ≤ o ∧ o ≤ 0x62 then [96, 128]
  else if o = 0x82 then [128]
  else []

/-- Formats that pair as matrix operands (R35). -/
def fmtPair (a b : Nat) : Bool :=
  decide (1 ≤ a ∧ a ≤ 7 ∧ 1 ≤ b ∧ b ≤ 7) || decide (8 ≤ a ∧ a ≤ 10 ∧ 8 ≤ b ∧ b ≤ 10) ||
  ((a == 0x0B || a == 0x0C) && (b == 0x0B || b == 0x0C)) || (a == 0x0D && b == 0x0D)

/-- Load limits of the matrix family (Table 04-5). -/
def matrixOk (d : Desc) : Bool :=
  let o := dOpcode d
  let m := fld d 239 224; let n := fld d 255 240; let k := fld d 279 256
  let a := fld d 388 384; let b := fld d 396 392; let c := dFmtOut d
  let r := fld d 495 480
  let stride (rows elems f ld : Nat) : Bool := decide (rows ≤ 1 ∨ rowWords f elems ≤ ld)
  decide (1 ≤ m ∧ 1 ≤ n ∧ 1 ≤ k) && fmtPair a b &&
  (dPs96 d || (fmtKnown c && c != 0x0E && c != 0x10)) &&
  (!(fmtMx a || fmtMx b) || k % 32 == 0) && !(fmtMx a && opAT o) && (!fmtMx b || opBT o) &&
  (!fmtMx c || n % 32 == 0) &&
  (if opAT o then stride k m a (fld d 319 288) else stride m k a (fld d 319 288)) &&
  (if opBT o then stride n k b (fld d 351 320) else stride k n b (fld d 351 320)) &&
  stride m n c (fld d 383 352) &&
  (!opKsplit o || (decide (2 ≤ r ∧ r ≤ 64 ∧ k % r = 0 ∧ r * m * n * 3 ≤ 1048576) &&
    (!(fmtMx a || fmtMx b) || (k / r) % 32 == 0)))

/-- Load limits of VEC_MAP (R95). -/
def vecMapOk (d : Desc) : Bool :=
  let nin := fld d 375 372; let bc := fld d 371 368; let count := fld d 287 256; let period := fld d 319 288
  let fin (i : Nat) : Bool := decide (nin ≤ i) || (fun f => fmtKnown f && !fmtMx f) (fld d (324 + 8 * i) (320 + 8 * i))
  decide (1 ≤ nin ∧ nin ≤ 4 ∧ 1 ≤ count ∧ count ≤ 2 ^ 24 ∧ fld d 367 364 ≤ 11 ∧ bc / 2 ^ nin = 0) &&
  (bc == 0 || decide (1 ≤ period ∧ period ≤ count)) &&
  (dPs96 d || (fmtKnown (dFmtOut d) && !fmtMx (dFmtOut d))) && fin 0 && fin 1 && fin 2 && fin 3

/-- Load limits of the row opcodes (R97–R102). -/
def vecRowOk (d : Desc) : Bool :=
  let o := dOpcode d
  let mode := fld d 351 344
  let fi := fld d 324 320; let fo := dFmtOut d; let fa := fld d 340 336
  let rows := fld d 223 192; let len := fld d 255 224
  let auxFmt : Bool := !((o == 0x22 && mode != 0) || (o == 0x24 && (bit mode 2 || bit mode 3))) ||
    (fmtKnown fa && !fmtMx fa)
  decide (1 ≤ rows ∧ rows ≤ 2 ^ 24 ∧ 1 ≤ len ∧ len ≤ 2 ^ 24) && fmtKnown fi && fmtKnown fo && auxFmt &&
  (if o = 0x25 then (!(fmtMx fi || fmtMx fo) || len % 32 == 0) else !(fmtMx fi || fmtMx fo)) &&
  (if o = 0x21 then decide (mode ≤ 4) else if o = 0x22 then decide (mode ≤ 2)
   else if o = 0x24 then decide (mode ≤ 13 ∧ bits mode 1 0 ≤ 1) && (!bit mode 3 || (bit mode 2 && bits mode 1 0 == 0))
   else mode == 0)

/-- Load limits of the gather/scatter family (R104, R105). -/
def gatherOk (d : Desc) : Bool :=
  let o := dOpcode d
  let ft := fld d 356 352; let fo := fld d 364 360
  let ignored : Bool := o == 0x31 && dPs96 d
  decide (1 ≤ fld d 223 192 ∧ fld d 223 192 ≤ 2 ^ 24 ∧ 1 ≤ fld d 287 256 ∧ fld d 287 256 ≤ 65536) &&
  fmtKnown ft && !fmtMx ft && (ignored || (fmtKnown fo && !fmtMx fo && !(o == 0x31 && fo == 0x10))) &&
  (!(o == 0x30 || o == 0x32) || fo == ft) && (o != 0x33 || ft == 0x0E) && (o != 0x31 || decide (fld d 383 376 ≤ 2))

/-- Highest usable host address of the order code (Table 00-1). -/
def highestUsable (order1T : Bool) : Nat := if order1T then 0x00EFFFFFFFFF else 0x01DFFFFFFFFF

/-- Load limits of the DMA family (R108, R110, R111). -/
def dmaOk (order1T : Bool) (d : Desc) : Bool :=
  let o := dOpcode d
  let rows := fld d 223 192; let bpr := fld d 255 224; let rstr := fld d 287 256; let addr := fld d 127 64
  let members := fld d 367 352
  decide (1 ≤ rows ∧ rows ≤ 2 ^ 24 ∧ 1 ≤ bpr) &&
  (if o = 0x40 then bpr % 4 == 0 else bpr % 64 == 0 && rstr % 64 == 0 && addr % 64 == 0) &&
  (!(o == 0x41 || o == 0x42) || decide (addr < 2 ^ 48 ∧ addr + (rows - 1) * rstr + bpr - 1 ≤ highestUsable order1T)) &&
  (!(o == 0x41 && fld d 351 336 != 0) || decide (2 ≤ members ∧ members ≤ 4096))

/-- Load limits of the point-to-point family (Table 04-14). -/
def p2pOk (d : Desc) : Bool :=
  let o := dOpcode d
  let n := fld d 159 128
  if o = 0x53 then decide (1 ≤ fld d 223 192 ∧ fld d 223 192 ≤ 65535)
  else decide (n % 4 = 0 ∧ 4 ≤ n ∧ n ≤ 12 * 2 ^ 20) && (o != 0x52 || decide (1 ≤ fld d 243 232 ∧ fld d 223 192 % 4 = 0))

/-- Load limits of the collective family (Table 04-15). -/
def collOk (d : Desc) : Bool :=
  let o := dOpcode d
  let n := fld d 191 160; let fi := fld d 228 224
  if o = 0x63 then true
  else decide (1 ≤ n ∧ n ≤ 2 ^ 24) &&
    (if o = 0x62 then n % 4 == 0
     else (fi == 0x0E || fi == 0x0D || fi == 0x0C || fi == 0x0B || fi == 0x0F || fi == 0x09) &&
       decide (fld d 242 240 ≤ 2) && (dPs96 d || fmtKnown (fld d 236 232)))

/-- Load limits of the control, check and buffer families (R123, R124, R127, R129). -/
def sequencerOk (index count : Nat) (d : Desc) : Bool :=
  let o := dOpcode d
  let t := fld d 79 64; let n := fld d 127 96
  if o = 0x70 then dWait d
  else if o = 0x71 then dSetOnDone d
  else if o = 0x72 then fld d 175 160 != 0
  else if o = 0x73 then decide (1 ≤ n ∧ n ≤ 65536 ∧ t < index)
  else if o = 0x74 then decide (1 ≤ n ∧ n ≤ 65536 ∧ t < count ∧ t ≠ index ∧ fld d 159 128 < n)
  else if 0x80 ≤ o ∧ o ≤ 0x82 then fld d 71 64 != 0
  else if o = 0x90 then
    fmtKnown (fld d 92 88) && decide (fld d 81 80 ≤ 2 ∧ 1 ≤ fld d 159 128 ∧ fld d 159 128 ≤ 0x200000 ∧ fld d 191 176 < count)
  else if o = 0x92 then
    decide (fld d 81 80 ≤ 2 ∧ n < fld d 159 128 ∧ fld d 159 128 ≤ (kindOf (fld d 81 80)).words)
  else true

/-- The checks of R54, R61 and R62 on descriptor `index` of a list of `count`: none passes. -/
def loadCheck (order1T : Bool) (index count : Nat) (d : Desc) : Option Status :=
  let o := dOpcode d
  let bad : Option Status := some .badParam
  if !opAssigned o then some .badOpcode
  else if index + 1 = count ∧ o ≠ 0x75 then bad
  else if dWait d != decide (dWaitset d ≠ 0) ∨ dSetOnDone d != decide (dSetset d ≠ 0) then bad
  else if dTc d = 1 ∨ (¬ opTraffic o ∧ dTc d ≠ 0) ∨ (0x60 ≤ o ∧ o ≤ 0x62 ∧ dTc d = 3) then bad
  else if ¬ opConverted o ∧ fld d 13 10 ≠ 0 then bad
  else if (reservedRanges d).any (fun r => fld d r.1 r.2 != 0) then bad
  else if (refFields o).any (fun l => !refFormOk (fld d (l + 31) l)) then bad
  else
    let ok := if opMatrix o then matrixOk d else if o = 0x20 then vecMapOk d else if o ≤ 0x25 then vecRowOk d
      else if o ≤ 0x33 then gatherOk d else if o ≤ 0x44 then dmaOk order1T d else if o ≤ 0x53 then p2pOk d
      else if o ≤ 0x63 then collOk d else sequencerOk index count d
    if ok then none else bad

/-! ## Resolution at issue (R85, R146, R149) -/

/-- One operand of a descriptor. `link`: the region is the scale tensor of the handle that `ref` names (R31, R90). -/
structure Opnd where
  ref : Nat
  link : Bool
  fmt : Option Nat
  words : Nat
  read : Bool
  write : Bool
  kind : Option MemKind
deriving DecidableEq, Repr

/-- Extent of rows with a stride: the last row's end (R85). -/
def extent (rows stride rowW : Nat) : Nat := (rows - 1) * stride + rowW

/-- The scale operand of an element operand (R90): the named region in base/bound mode, the handle's link otherwise. -/
def scaleOpnd (elemRef scaleRef words : Nat) (write : Bool) : Opnd :=
  if refBB elemRef then ⟨scaleRef, false, none, words, !write, write, none⟩
  else ⟨elemRef, true, none, words, !write, write, none⟩

/-- The operands of a descriptor, in a fixed order for each opcode; a place the opcode does not use holds none. A table of no
rows, which the spec gives no extent, resolves one word, so that its reference is checked at all (log 65, DESIGN CHOICE).
Matrix: A, B, C, P, SA, SB, SC. VEC_MAP: in 0–3, out, program. Row opcodes: in, out, aux, aux2. Gather: table, index,
segment, out. DMA: local, source. Point-to-point: local. Collective: in, out. FINGERPRINT_STORE: out. -/
def operandsOf (d : Desc) (isRoot : Bool) : List (Option Opnd) :=
  let o := dOpcode d
  let rd (lo : Nat) (f : Option Nat) (w : Nat) : Option Opnd := some ⟨fld d (lo + 31) lo, false, f, w, true, false, none⟩
  let wr (lo : Nat) (f : Option Nat) (w : Nat) : Option Opnd := some ⟨fld d (lo + 31) lo, false, f, w, false, true, none⟩
  let opt (b : Bool) (x : Option Opnd) : Option Opnd := if b then x else none
  if opMatrix o then
    let m := fld d 239 224; let n := fld d 255 240; let k := fld d 279 256
    let a := fld d 388 384; let b := fld d 396 392; let c := dFmtOut d
    [rd 64 (some a) (if opAT o then extent k (fld d 319 288) (rowWords a m) else extent m (fld d 319 288) (rowWords a k)),
     rd 96 (some b) (if opBT o then extent n (fld d 351 320) (rowWords b k) else extent k (fld d 351 320) (rowWords b n)),
     wr 128 (some c) (extent m (fld d 383 352) (rowWords c n)),
     opt (opAcc o || opKsplit o) (some ⟨fld d 447 416, false, none,
       if opKsplit o then fld d 495 480 * m * n * 3 else m * n * 3, true, opKsplit o, some .P⟩),
     opt (fmtMx a) (some (scaleOpnd (fld d 95 64) (fld d 191 160) (m * ceilDiv k 128) false)),
     opt (fmtMx b) (some (scaleOpnd (fld d 127 96) (fld d 223 192) (n * ceilDiv k 128) false)),
     opt (fmtMx c) (some (scaleOpnd (fld d 159 128) (fld d 479 448) (m * ceilDiv n 128) true))]
  else if o = 0x20 then
    let nin := fld d 375 372; let count := fld d 287 256
    let inp (i : Nat) : Option Opnd :=
      let f := fld d (324 + 8 * i) (320 + 8 * i)
      let n := if bit (fld d 371 368) i then fld d 319 288 else count
      opt (decide (i < nin)) (rd (64 + 32 * i) (some f) (rowWords f n))
    [inp 0, inp 1, inp 2, inp 3, wr 192 (some (dFmtOut d)) (rowWords (dFmtOut d) count), rd 224 none 32]
  else if o ≤ 0x25 then
    let rows := fld d 223 192; let len := fld d 255 224; let ldi := fld d 287 256; let ldo := fld d 319 288
    let fi := fld d 324 320; let fo := dFmtOut d; let fa := fld d 340 336; let mode := fld d 351 344
    let outLen := if o = 0x21 then 1 else len
    let scales := rows * ceilDiv len 128
    [rd 64 (some fi) (extent rows ldi (rowWords fi len)), wr 96 (some fo) (extent rows ldo (rowWords fo outLen)),
     (if o = 0x22 then opt (mode != 0) (rd 128 (some fa) (extent rows ldi (rowWords fa len)))
      else if o = 0x24 then opt (bit mode 2) (rd 128 (some fa) (rowWords fa len))
      else if o = 0x25 then opt (fmtMx fi) (some (scaleOpnd (fld d 95 64) (fld d 159 128) scales false)) else none),
     (if o = 0x22 then opt (mode == 2) (some ⟨fld d 191 160, false, none, 3 * rows, true, true, some .P⟩)
      else if o = 0x24 then opt (bit mode 3) (rd 160 (some fa) (rowWords fa len))
      else if o = 0x25 then opt (fmtMx fo) (some (scaleOpnd (fld d 127 96) (fld d 191 160) scales true)) else none)]
  else if o ≤ 0x33 then
    let nidx := fld d 223 192; let nrows := fld d 255 224; let w := fld d 287 256; let nseg := fld d 415 384
    let ldt := fld d 319 288; let ldo := fld d 351 320; let ft := fld d 356 352
    let fo := if o = 0x31 then dFmtOut d else fld d 364 360
    let tw := if nrows = 0 then 1 else extent nrows ldt (rowWords ft w)
    let ow := if o = 0x31 then (if nseg = 0 then 1 else extent nseg ldo (rowWords fo w)) else extent nidx ldo (rowWords fo w)
    let tabW := o == 0x32 || o == 0x33
    [some ⟨fld d 95 64, false, some ft, tw, o != 0x32, tabW, if o = 0x33 then some .P else none⟩,
     rd 96 none nidx, opt (o == 0x31) (rd 128 none (nseg + 1)),
     some ⟨fld d 191 160, false, some fo, ow, tabW, !tabW, none⟩]
  else if o ≤ 0x44 then
    let rows := fld d 223 192; let rw := ceilDiv (fld d 255 224) 4
    let out := o == 0x42 || o == 0x44
    [some ⟨fld d 159 128, false, none, extent rows (fld d 319 288) rw, out, !out, none⟩,
     opt (o == 0x40) (rd 160 none (extent rows (fld d 287 256) rw))]
  else if o ≤ 0x52 then
    [some ⟨fld d 127 96, false, none, ceilDiv (fld d 159 128) 4, o != 0x51, o == 0x51, none⟩]
  else if o = 0x60 ∨ o = 0x61 then
    let n := fld d 191 160; let fi := fld d 228 224
    [rd 96 (some fi) (rowWords fi n),
     opt (o == 0x61 || isRoot) (wr 128 (some (dFmtOut d)) (rowWords (dFmtOut d) n))]
  else if o = 0x62 then
    [opt isRoot (rd 96 none (ceilDiv (fld d 191 160) 4)), opt (!isRoot) (wr 128 none (ceilDiv (fld d 191 160) 4))]
  else if o = 0x82 then
    [wr 128 none (2 * ((List.range 8).filter (fun c => bit (fld d 71 64) c)).length)]
  else []

/-- The handle a name is bound to (R145). -/
def handleOf (c : Core) (name : Nat) : Option Handle := (c.handles.find? fun e => e.2.name == name).map (·.2)

/-- Base and bound of a memory kind (R149). -/
def baseBound (c : Core) : MemKind → BaseBound
  | .W => c.bbW
  | .A => c.bbA
  | .P => c.bbP

/-- A resolved operand: the place of its first word, its last word, and the handle names it used. -/
structure Placed where
  loc : Loc
  last : Nat
  names : List Nat
deriving DecidableEq, Repr

/-- Resolve one operand; none is BAD_PARAM (R85). -/
def resolve (c : Core) (x : Opnd) : Option Placed :=
  let within (k : MemKind) (first limit : Nat) (names : List Nat) : Option Placed :=
    let last := first + x.words - 1
    if last < limit ∧ last < k.words ∧ (x.kind = none ∨ x.kind = some k) then some ⟨⟨k, first⟩, last, names⟩ else none
  if x.link then
    (handleOf c (refName x.ref)).bind fun h =>
      h.scale.bind fun sn => (handleOf c sn).bind fun sh =>
        within sh.kind sh.base (sh.base + sh.length) [refName x.ref, sn]
  else if refBB x.ref then
    let k := kindOf (bits x.ref 30 29)
    let b := baseBound c k
    within k (b.base + refWoff x.ref) b.bound []
  else
    (handleOf c (refName x.ref)).bind fun h =>
      if x.fmt = none ∨ x.fmt = some h.fmt then
        within h.kind (h.base + refWoff x.ref) (h.base + h.length) [refName x.ref]
      else none

/-- Two ranges of words share a word. -/
def Region.meets (a b : Region) : Bool := a.kind == b.kind && decide (a.first ≤ b.last ∧ b.first ≤ a.last)

/-- The outcome of resolution: places, ranges read and written, and names; none is BAD_PARAM. -/
structure Resolved where
  locs : List Loc
  reads : List Region
  writes : List Region
  names : List Nat
deriving DecidableEq, Repr

/-- In-place accumulate (R90): the one permitted overlap of an output with an input. -/
def inPlaceOk (d : Desc) (cLoc pLoc : Loc) : Bool :=
  opAcc (dOpcode d) && dPs96 d && cLoc == pLoc && fld d 383 352 == 3 * fld d 255 240 && fld d 255 240 % 16 == 0 &&
  pLoc.word % 16 == 0

/-- Handle names that a descriptor's operands reference (R128, R145), with the scale tensor of a handle where the operand uses
it. -/
def refNames (c : Core) (d : Desc) (isRoot : Bool) : List Nat :=
  (((if opAssigned (dOpcode d) then operandsOf d isRoot else []) : List (Option Opnd)).flatMap fun x => match x with
    | some o =>
      if !o.link && refBB o.ref then []
      else refName o.ref :: (if o.link then ((handleOf c (refName o.ref)).bind (·.scale)).toList else [])
    | none => []).eraseDups

/-- Resolve every operand of a descriptor and check that no output overlaps an input (R85). -/
def resolveAll (c : Core) (d : Desc) (isRoot : Bool) : Option Resolved :=
  let ops := operandsOf d isRoot
  let placed : List (Option (Option Placed)) := ops.map fun x => x.map (resolve c)
  if placed.any (fun x => x == some none) then none
  else
    let ps : List (Option Placed) := placed.map fun x => x.getD none
    let idx := (ops.zip ps).zipIdx
    let reg (p : Placed) : Region := ⟨p.loc.kind, p.loc.word, p.last⟩
    let clash := idx.any fun a => idx.any fun b =>
      match a, b with
      | ((some xa, some pa), i), ((some xb, some pb), j) =>
        i != j && xa.write && xb.read && (reg pa).meets (reg pb) &&
          !(opMatrix (dOpcode d) && i == 2 && j == 3 && inPlaceOk d pa.loc pb.loc)
      | _, _ => false
    if clash then none
    else
      let sel (f : Opnd → Bool) : List Region := idx.filterMap fun e =>
        match e.1 with
        | (some x, some p) => if f x then some (reg p) else none
        | _ => none
      some { locs := ps.map fun p => (p.map (·.loc)).getD ⟨.W, 0⟩, reads := sel (·.read), writes := sel (·.write),
             names := (ps.flatMap fun p => (p.map (·.names)).getD []).eraseDups }

/-! ## Scratchpad access -/

def spd (c : Core) : MemKind → Mem
  | .W => c.w
  | .A => c.a
  | .P => c.p

def setSpd (c : Core) (k : MemKind) (m : Mem) : Core :=
  match k with
  | .W => { c with w := m }
  | .A => { c with a := m }
  | .P => { c with p := m }

/-- Bytes from word w, byte b on. -/
def spdRead (c : Core) (k : MemKind) (w b n : Nat) : List Byte := memRead (spd c k) (4 * w + b) n

/-- Words with failing check bits are mended by a whole-word write (R136). -/
def mend (c : Core) (k : MemKind) (b n : Nat) : Core :=
  { c with failing := c.failing.filter fun f => !(f.1 == k && decide (b ≤ 4 * f.2 ∧ 4 * f.2 + 4 ≤ b + n)) }

/-- Store bytes from word w, byte b on; a partly written failing word stays unchanged (R136). -/
def spdWrite (c : Core) (k : MemKind) (w b : Nat) (bs : List Byte) : Core :=
  let a := 4 * w + b
  let c' := mend c k a bs.length
  let keep := c'.failing.filter fun f => f.1 == k && decide (4 * f.2 < a + bs.length ∧ a < 4 * f.2 + 4)
  let m := memWrite (spd c' k) a bs
  setSpd c' k (keep.foldl (fun m f => memWrite m (4 * f.2) (memRead (spd c' k) (4 * f.2) 4)) m)

/-- Element i of a packed row that begins at word w (R32). -/
def elemRaw (c : Core) (k : MemKind) (w f i : Nat) : Nat :=
  let wd := fmtWidth f
  let lo := i * wd / 8
  let sh := i * wd % 8
  leNat (spdRead c k w lo ((sh + wd + 7) / 8)) / 2 ^ sh % 2 ^ wd

/-- A packed row of raw elements from element `first` on; the other bits of a byte shared with a neighbour keep their
values (R32). -/
def putElems (c : Core) (k : MemKind) (w f first : Nat) (raws : List Nat) : Core :=
  let wd := fmtWidth f
  let lo := first * wd / 8
  let sh := first * wd % 8
  let nb := (sh + raws.length * wd + 7) / 8
  let old := leNat (spdRead c k w lo nb)
  let v := raws.foldr (fun r acc => r % 2 ^ wd + 2 ^ wd * acc) 0
  let hi := sh + raws.length * wd
  let new := old % 2 ^ sh + v * 2 ^ sh + old / 2 ^ hi * 2 ^ hi
  if nb = 0 then c else spdWrite c k w lo (leBytes nb new)

end Sys2Proof.Machine
end

