-- ==== Sys2Proof/Machine/SeqOps.lean ====
section
/-! DEFINITION. The sequencer of one core: fetch, issue, the race monitor, commit and its completion log, and the end of a
RUN on a core and on the panel (R53–R78, R154, R155, R286). -/

namespace Sys2Proof.Machine

/-! ## Rank maps (R194) -/

/-- A segment as stored (Table 07-2). -/
def segOf (w : Nat) : RSeg :=
  { first := bits w 127 96, panel := bits w 95 79, pcount := bits w 78 62, width := bits w 61 55, x0 := bits w 54 49,
    y0 := bits w 48 43, count := bits w 42 31 }

/-- The 16-byte entries of an array. -/
def entries16 (bs : List Byte) (n : Nat) : List Nat := (List.range n).map fun i => leNat ((bs.drop (16 * i)).take 16)

/-- The logical cores a rank map places on this panel, in rank order: (rank, logical core). Rank q of the panel's share
stands at column X0 + q mod WIDTH, row Y0 + q div WIDTH (R193). -/
def rmapCores (panelId : Nat) (segs : List RSeg) : List (Nat × Nat) :=
  segs.flatMap fun g =>
    if g.panel ≤ panelId ∧ panelId ≤ g.panel + g.pcount then
      (List.range g.count).map fun q =>
        (g.first + (panelId - g.panel) * g.count + q, (g.y0 + q / g.width) * 64 + g.x0 + q % g.width)
    else []

/-- Translation of a rank (R193): panel and logical core; none beyond the map's last rank. -/
def rankTarget (segs : List RSeg) (r : Nat) : Option (Nat × Nat) :=
  (segs.find? fun g => decide (g.first ≤ r ∧ r < g.first + g.count * (g.pcount + 1))).map fun g =>
    let o := r - g.first
    let q := o % g.count
    (g.panel + o / g.count, (g.y0 + q / g.width) * 64 + g.x0 + q % g.width)

/-- Ranks of a program slot on a partition. -/
def slotRanks (s : State) (n slot : Nat) : List (Nat × Nat) :=
  rmapCores s.straps.panelId (tblGet [] (partAt s n).rmaps slot)

/-! ## Tasks -/

def taskOf (c : Core) (id : Nat) : Option Task := c.window.find? fun t => t.id == id

def modTask (s : State) (p id : Nat) (f : Task → Task) : State :=
  modCore s p fun c => { c with window := modIf (fun t => t.id == id) f c.window }

/-- A task's unit has finished with it: its status and flags (R64). -/
def finishTask (s : State) (p id : Nat) (st : Status) (af : AFlags) : State :=
  modTask s p id fun t =>
    if t.finished then t else { t with finished := true, status := st, aflags := t.aflags ||| af }

/-- A task ends well, and feeds `stream` when its FP flag is set (R310). -/
def finishOk (s : State) (p id : Nat) (af : AFlags) (stream : List Byte) : State :=
  modTask s p id fun t =>
    if t.finished then t
    else { t with finished := true, status := (t.pendingStatus.getD .ok), aflags := t.aflags ||| af,
                  feed := if dFp t.desc then .due 0 0 else .none, stream := if dFp t.desc then stream else [] }

/-! ## The race monitor (R154, R155) -/

/-- A row holds a word of a recorded range. -/
def rowMeets (k : MemKind) (row : Nat) (r : Region) : Bool :=
  r.kind == k && decide (r.first / 16 ≤ row ∧ row ≤ r.last / 16)

/-- Races of one access with one task: each of its rows that holds a word of the task's ranges counts once (R155); a write meets
its reads and writes, a read its writes. -/
def racesWith (write : Bool) (a : Region) (t : Task) : Nat :=
  let l := if write then t.reads ++ t.writes else t.writes
  let l := l.filter fun r => r.kind == a.kind && decide (r.first / 16 ≤ a.last / 16 ∧ a.first / 16 ≤ r.last / 16)
  if l.isEmpty then 0
  else (upTo (a.last / 16 + 1 - a.first / 16) fun i => l.any (rowMeets a.kind (a.first / 16 + i))).length

/-- Compare the row accesses made for a task, or for an incoming PUT (none), with every other task in the window. -/
def raceCheck (c : Core) (self : Option Nat) (acc : List (Bool × Region)) : Core :=
  let hits (t : Task) : Nat := if self = some t.id then 0 else acc.foldl (fun k a => k + racesWith a.1 a.2 t) 0
  let total := c.window.foldl (fun k t => k + hits t) 0
  if total = 0 then c
  else { c with races := satAdd 32 c.races total,
                window := c.window.map fun t =>
                  if 0 < hits t ∨ self = some t.id then { t with race := true } else t }

/-- The accesses of a task that reads and writes each of its regions. -/
def regionAccesses (t : Task) : List (Bool × Region) := t.reads.map (false, ·) ++ t.writes.map (true, ·)

/-! ## Fetch (R55–R57, R62) -/

/-- Descriptor `index` of a slot's list as it stands now; none when it cannot be read. -/
def readDesc (s : State) (c : Core) (sl : Slot) (index : Nat) : Option (BitVec 512) :=
  if sl.streamed then
    let a := sl.list + 64 * index
    if ldOk s a 64 then some (BitVec.ofNat 512 (leNat (ldRead s a 64))) else none
  else
    let w := 16 * (sl.arow + index)
    if c.failing.any fun f => f.1 == .A && decide (w ≤ f.2 ∧ f.2 < w + 16) then none
    else some (BitVec.ofNat 512 (leNat (spdRead c .A w 0 64)))

/-- A descriptor enters the fetch buffer and is checked there (R62). -/
def fetchOne (s : State) (c : Core) (sl : Slot) (index : Nat) : Fetched :=
  match readDesc s c sl index with
  | some d => { index := index, desc := d, refused := loadCheck s.order1T index sl.count d }
  | none => { index := index, desc := 0, refused := some .eccUncorrectable }

/-- Up to n descriptors of a list from `index` on. -/
def fetchRange (s : State) (c : Core) (sl : Slot) (index n : Nat) : List Fetched :=
  (List.range (min n (sl.count - index))).map fun i => fetchOne s c sl (index + i)

/-- The slot of the RUN in progress. -/
def runSlot (c : Core) : Option Slot := c.run.bind fun r => tblLook c.slots r.slot

/-! ## Issue (R63, R72) -/

/-- The descriptor next to issue, when the buffer holds it. -/
def headOf (c : Core) : Option Fetched :=
  match c.fetchBuf with
  | f :: _ => if f.index = c.nextIndex then some f else none
  | [] => none

/-- Tasks of a family that its unit still works on. -/
def busyIn (c : Core) (lo hi : Nat) : Nat :=
  (c.window.filter fun t => decide (lo ≤ t.opcode ∧ t.opcode ≤ hi) && !t.finished).length

/-- The target unit can accept the descriptor (R63 condition 4, Table 03-1, R127, R128, R222). -/
def unitReady (c : Core) (d : Desc) : Bool :=
  let o := dOpcode d
  (!opMatrix o || c.engines.any (·.online)) &&
  (!decide (0x50 ≤ o ∧ o ≤ 0x6F) || decide (busyIn c 0x50 0x6F < 16)) &&
  (!decide (0x40 ≤ o ∧ o ≤ 0x4F) || decide (busyIn c 0x40 0x4F < 4)) &&
  !(c.window.any fun t => t.opcode == 0x90) &&
  (o != 0x63 || !(c.window.any fun t => t.opcode == 0x63 && fld t.desc 69 64 == fld d 69 64)) &&
  (!decide (0x60 ≤ o ∧ o ≤ 0x62) || decide ((c.window.filter fun t =>
    decide (0x60 ≤ t.opcode ∧ t.opcode ≤ 0x62) && fld t.desc 69 64 == fld d 69 64).length < 8)) &&
  (o != 0x91 || !(c.window.any fun t => t.names.contains (fld d 73 64)))

/-- Conditions 2 to 4 of R63 on the head of issue. -/
def canIssue (c : Core) (f : Fetched) : Bool :=
  c.seq == .running && f.refused.isNone && decide (dWaitset f.desc &&& c.flags = dWaitset f.desc) &&
  decide (c.window.length < 32) && unitReady c f.desc

/-- The executing core is the descriptor's root (R118). -/
def isRootRank (c : Core) (d : Desc) : Bool :=
  (dOpcode d == 0x60 || dOpcode d == 0x62) && (match c.run with
    | some r => r.rank == fld d 223 192
    | none => false)

/-- The window entry of a descriptor at its issue; its names are those its operands reference, whether or not its checks pass
(R128). -/
def newTask (c : Core) (f : Fetched) (now : Nat) : Task :=
  { id := c.nextId, index := f.index, opcode := dOpcode f.desc, desc := f.desc,
    inst := tblGet 0 c.startCount f.index, finished := false, status := .ok, aflags := 0,
    attempts := if c.headFurther then 2 else 1, race := false, engineMoved := false, engines := 0, reads := [],
    writes := [], locs := [], names := refNames c f.desc (isRootRank c f.desc), undispatched := [], retryItems := [], written := [], feed := .none,
    stream := [], peer := none, peerUrg := false, progress := 0, pendingStatus := none, issuedAt := now, further := false,
    collSeq := 0, coll := none, refault := false }

/-- The sequencer's part of an issue: the flags of WAITSET are cleared and the start is counted (R63, R72). -/
def issueHead (c : Core) (f : Fetched) (now : Nat) : Core :=
  { c with fetchBuf := c.fetchBuf.tail, flags := c.flags &&& ~~~(dWaitset f.desc),
           startCount := tblSet 0 c.startCount f.index ((tblGet 0 c.startCount f.index + 1) % 2 ^ 16),
           nextIndex := c.nextIndex + 1, nextId := c.nextId + 1, headSince := now, headFurther := false,
           window := c.window ++ [newTask c f now] }

/-- A region meets the rows of a loaded RESIDENT list (R56, R78). -/
def overList (c : Core) (r : Region) : Bool :=
  r.kind == .A && c.slots.any fun e => !e.2.streamed && decide (0 < e.2.count) &&
    decide (16 * e.2.arow ≤ r.last ∧ r.first < 16 * (e.2.arow + e.2.count))

/-- Checks that every opcode's issue makes, in this order (log 20, DEDUCED): the traffic class (R59), the operands (R85), the output
over a loaded list (R56). -/
def issueChecks (c : Core) (d : Desc) (r : Option Resolved) : Option Status :=
  let control := match c.run with
    | some x => x.control
    | none => false
  if opTraffic (dOpcode d) && dTc d == 0 && !control then some .notPermitted
  else match r with
    | none => some .badParam
    | some x => if x.writes.any (overList c) then some .notPermitted else none

/-- Issue the head of core p when it is opcode `op` (R63). A check that fails finishes the task with its status; `more` gives
the opcode's own issue checks, and `unit` its execution. -/
def issueAs (s : State) (p op : Nat) (isRoot : Core → Desc → Bool) (more : Core → Desc → Option Status)
    (unit : State → Task → State) : State :=
  let c := coreAt s p
  match headOf c with
  | none => s
  | some f =>
    if dOpcode f.desc = op ∧ canIssue c f then
      let r := resolveAll c f.desc (isRoot c f.desc)
      let s := setCore s p (issueHead c f s.time)
      let s := if c.headFurther then
          modTransient s (coreUnit p) fun x => { x with timeout := satInc 32 x.timeout } else s
      match (issueChecks c f.desc r).or (more c f.desc) with
      | some st => finishTask s p c.nextId st 0
      | none =>
        let place (t : Task) : Task :=
          match r with
          | some x => { t with locs := x.locs, reads := x.reads, writes := x.writes }
          | none => t
        unit (modTask s p c.nextId place) (place (newTask c f s.time))
    else s

/-- Opcodes without a root. -/
def noRoot (_ : Core) (_ : Desc) : Bool := false

/-- Opcodes without further issue checks. -/
def noMore (_ : Core) (_ : Desc) : Option Status := none

/-- Continue issue at a descriptor index (R57, R123): entries of the buffer before it are dropped when it holds it. -/
def branchTo (c : Core) (target : Nat) : Core :=
  { c with nextIndex := target,
           fetchBuf := if c.fetchBuf.any (fun f => f.index == target)
             then c.fetchBuf.dropWhile (fun f => f.index != target) else c.fetchBuf }

/-! ## Commit (R64, R65, R73, R78) -/

/-- The completion entry (Table 03-7). -/
def logEntry (t : Task) (st : Status) (rep : Bool) (endTime : Nat) : List Byte :=
  leBytes 16 (dTask t.desc * 2 ^ 112 + t.index * 2 ^ 96 + st.code * 2 ^ 80 + t.aflags.toNat * 2 ^ 72 +
    t.attempts * 2 ^ 68 + flagAt t.race 67 + flagAt rep 66 + flagAt t.engineMoved 65 + 2 ^ 64 + t.inst * 2 ^ 48 +
    t.engines.toNat * 2 ^ 32 + min endTime 0xFFFFFFFF)

/-- The log mode asks for an entry (Table 03-8). -/
def wantsEntry (r : RunStart) (t : Task) (st : Status) (rep : Bool) : Bool :=
  r.logAll || st != .ok || t.aflags != 0 || t.race || rep || t.engineMoved || t.attempts == 2

/-- Append an entry to the completion log ring (R78). -/
def appendLog (c : Core) (r : RunStart) (bs : List Byte) : Core :=
  if r.logN = 0 then c
  else
    let c := { c with report := { c.report with wrapped := c.report.wrapped || decide (r.logN ≤ c.logPos) } }
    { spdWrite c .A (16 * r.logRow) (16 * (c.logPos % r.logN)) bs with logPos := c.logPos + 1 }

/-- CORE cycles since the RUN's arrival at the core. -/
def coreCycles (s : State) (c : Core) : Nat := (s.time - c.arrival) * 3 / 2

/-- The status a task commits with: a retry turns OK into OK_AFTER_RETRY (R66, R319). -/
def commitStatus (t : Task) : Status := if t.status = .ok ∧ t.attempts = 2 then .okAfterRetry else t.status

/-- A stopping status (R73). -/
def stops (t : Task) (st : Status) : Bool := !st.good && !(t.opcode == 0x90 && st == .noResource)

/-- Record a task: log entry and report (R64, R73, R74). -/
def recordTask (s : State) (c : Core) (t : Task) (st : Status) (rep : Bool) : Core :=
  match c.run with
  | none => c
  | some r =>
    let t := if (partAt s r.part).rebalance then { t with aflags := t.aflags ||| fNonrepro } else t
    let c := if wantsEntry r t st rep then appendLog c r (logEntry t st rep (coreCycles s c)) else c
    let stop := if stops t st then
        match c.report.stop with
        | some (i, k, x) => if t.index < i then some (t.index, dTask t.desc, st) else some (i, k, x)
        | none => some (t.index, dTask t.desc, st)
      else c.report.stop
    { c with report := { c.report with stop := stop, retried := c.report.retried || t.attempts == 2,
                                       aflags := c.report.aflags ||| t.aflags, race := c.report.race || t.race } }

/-- The completion of a RUN from its cores' reports (R286). -/
def runResult (r : RunRec) : Status × Nat × Nat × Nat × Nat × Nat :=
  let stopped := r.reports.filter fun x => x.stop.isSome
  let low := stopped.foldl (fun (b : Option CoreReport) x => match b with
    | some y => if x.rank < y.rank then some x else b
    | none => some x) none
  let retried := r.reports.any (·.retried)
  let aborts := (r.reports.filter (·.aborted)).length
  let st := if 0 < aborts then .aborted else match low.bind (·.stop) with
    | some (_, _, x) => x
    | none => if retried then .okAfterRetry else .ok
  let r1 := match low.bind (·.stop) with
    | some (i, k, _) => i * 2 ^ 16 + k
    | none => 0
  let af := (r.reports.foldl (fun (a : AFlags) x => a ||| x.aflags) (if r.nonrepro then fNonrepro else 0)).toNat
  let n := if 0 < aborts then aborts else stopped.length
  (st, if retried then 2 else 1, (low.map (·.rank)).getD 0xFFFFFFFF, r1,
   min (r.reports.foldl (fun k x => k + x.committed) 0) 0xFFFFFFFF,
   af + flagAt (r.reports.any (·.race)) 6 + flagAt (r.reports.any (·.wrapped)) 7 + min n 0xFFFF * 2 ^ 16)

/-- ABORTs of a RUN complete after it (R293). -/
def endAborts (s : State) (uid : Nat) (st : Status) : State :=
  each (s.cmds.filter fun c => c.wait == .abort uid)
    (fun c s => refuse s c.uid (if st = .aborted then .ok else .abortLate)) s

/-- RUNs whose every core has reported complete (R286). -/
def settleRuns (s : State) : State :=
  each (s.runs.filter fun r => decide (r.cores.length ≤ r.reports.length)) (fun r s =>
    let (own, att, r0, r1, r2, r3) := runResult r
    let st := r.outcome.getD own
    let s := complete { s with runs := s.runs.filter fun x => x.cmd != r.cmd } r.cmd st att r0 r1 r2 r3
    endAborts s r.cmd st) s

/-- FINGERPRINT_CONFIG disables whose feeds have all ended complete (R315). -/
def endFeeds (s : State) : State :=
  each s.cmds (fun c s => match c.wait with
    | .feeds n [] => finish s c.uid .disabled n 0 0 0
    | _ => s) s

/-- Feeds that a disable waits for have ended, having run to their end when `done` (R315). -/
def feedEnded (s : State) (gone : Nat × Nat → Bool) (done : Bool) : State :=
  let upd (c : Cmd) : Cmd := match c.wait with
    | .feeds n left =>
      let out := (left.filter gone).length
      { c with wait := .feeds (if done then n + out else n) (left.filter fun e => !gone e) }
    | _ => c
  endFeeds { s with cmds := s.cmds.map upd }

/-- A core returns to IDLE and its report joins the RUN's (R74, R75). -/
def coreDone (s : State) (p : Nat) (aborted : Bool) : State :=
  let c := coreAt s p
  match c.run with
  | none => modCore s p fun c => { c with seq := if c.seq = .faulted then .faulted else .idle }
  | some r =>
    let rep := { c.report with rank := r.rank, aborted := aborted }
    let s := setCore s p { c with seq := if c.seq = .faulted then .faulted else .idle, run := none, window := [],
                                  fetchBuf := [], bufSlot := none,
                                  abortReq := if c.abortReq = some r.cmd then none else c.abortReq }
    let s := feedEnded s (fun e => e.1 == p) false
    let reb := (partAt s r.part).rebalance
    let join (x : RunRec) : RunRec := { x with reports := x.reports ++ [rep], nonrepro := x.nonrepro || reb }
    settleRuns { s with runs := modIf (fun x => x.cmd == r.cmd) join s.runs }

/-- Commit a finished task (R64, R65): sets, then the clears of CLEAR_FLAG, the entry, and the window; a BARRIER is sampled (R451). -/
def commitTask (s : State) (p : Nat) (t : Task) : State :=
  let c := coreAt s p
  let st := commitStatus t
  let rep := dSetOnDone t.desc && decide (dSetset t.desc &&& c.flags ≠ 0)
  let flags := if dSetOnDone t.desc then c.flags ||| dSetset t.desc else c.flags
  let flags := if t.opcode = 0x72 then flags &&& ~~~(BitVec.ofNat 16 (fld t.desc 175 160)) else flags
  let c := recordTask s { c with flags := flags, window := c.window.filter fun x => x.id != t.id } t st rep
  let c := { c with report := { c.report with committed := satInc 32 c.report.committed } }
  let s := if t.refault && st.good then
      modTransient s (coreUnit p) fun x => { x with task := satInc 32 x.task } else s
  let c := if stops t st && (c.seq == .running || c.seq == .ending) then
      { c with seq := .stopping, fetchBuf := [] } else c
  let s := sampleBarrier (setCore s p c) p t
  if c.window.isEmpty && (c.seq == .stopping || (c.seq == .ending && t.opcode == 0x75)) then coreDone s p false else s

/-- Core p can commit: it is neither faulted nor without a RUN (R69). -/
def committing (c : Core) : Bool := c.seq == .running || c.seq == .ending || c.seq == .stopping

end Sys2Proof.Machine
end

