-- ==== Sys2Proof/Machine/Wire.lean ====
section
/-! DEFINITION. Frames of the edge fabric as a port sends them (R484–R486, Tables 22-1 and 22-2): addresses, encapsulation and the
transport header. -/

namespace Sys2Proof.Machine

/-- The panel's identifier. -/
def panelId (s : State) : Nat := s.straps.panelId

def endpointAt (s : State) (i : Nat) : Endpoint := tblGet 0 s.fabric.endpoints i

/-! ## Endpoint entries (Table 22-2) -/

def epIp (e : Endpoint) : Nat := fld e 511 384
def epMac (e : Endpoint) : Nat := fld e 383 336
def epUdp (e : Endpoint) : Nat := fld e 335 320
def epObject (e : Endpoint) : Nat := fld e 319 288
def epSize (e : Endpoint) : Nat := fld e 287 224
def epServer (e : Endpoint) : Nat := fld e 223 207
def endpointPart (e : Endpoint) : Nat := fld e 204 201
def epValid (e : Endpoint) : Bool := fld e 200 200 = 1

/-- The entry of a frame to a server: the first in force with its identifier, and with the object that its prefix names where it has
one (R491; log 90, DEDUCED). -/
def serverEntry (s : State) (f : Frame) : Endpoint :=
  let object := leNat ((f.data.drop 8).take 4)
  let named (e : Nat × Endpoint) : Bool := epValid e.2 && epServer e.2 == f.flow.dstId && (f.type != 0 || epObject e.2 == object)
  ((s.fabric.endpoints.find? named).map (·.2)).getD 0

/-- The endpoint entry that addresses a frame: the server's, or entry 0, the site's. -/
def frameEntry (s : State) (f : Frame) : Endpoint := if f.flow.dstSrv then serverEntry s f else endpointAt s 0

/-! ## Addresses (R484, R485) -/

/-- The MAC of a panel's port: 02-48-58-00-00-00 + 32 × PANEL_ID + port. -/
def macOf (panel port : Nat) : Nat := 0x024858000000 + 32 * panel + port

/-- The destination address: of the panel or the server in Ethernet mode, of the site's router otherwise. -/
def destMac (s : State) (port : Nat) (f : Frame) : Nat :=
  if s.fabric.encap ≠ 0 then epMac (endpointAt s 0)
  else if f.flow.dstSrv then epMac (serverEntry s f)
  else macOf f.flow.dstId port

/-- A panel's IP address: entry 0's plus PANEL_ID, in the low 32 bits. -/
def panelIp (s : State) (panel : Nat) : Nat :=
  let ip := epIp (endpointAt s 0)
  ip / 2 ^ 32 * 2 ^ 32 + (ip + panel) % 2 ^ 32

def destIp (s : State) (f : Frame) : Nat := if f.flow.dstSrv then epIp (serverEntry s f) else panelIp s f.flow.dstId

/-- The source port hashes class and port: 49,152 + VC × 32 + port. -/
def udpSource (port : Nat) (f : Frame) : Nat := 49152 + f.flow.vc * 32 + port

/-! ## Headers -/

/-- The n bytes of a number, most significant first. -/
def beBytes (n v : Nat) : List Byte := (leBytes n v).reverse

/-- The transport header (Table 22-1), least significant byte first. -/
def transportHeader (f : Frame) : List Byte :=
  leBytes 32 (f.ver * 2 ^ 252 + f.type * 2 ^ 250 + f.flow.vc * 2 ^ 248 + f.kind * 2 ^ 242 + f.flow.srcId * 2 ^ 225 +
    f.flow.dstId * 2 ^ 208 + flagAt f.flow.srcSrv 207 + flagAt f.flow.dstSrv 206 + f.data.length * 2 ^ 192 + f.pgen * 2 ^ 176 +
    f.part * 2 ^ 172 + f.tag * 2 ^ 160 + f.srcRank * 2 ^ 128 + f.dstRank * 2 ^ 96 + f.seq * 2 ^ 72 + f.ack * 2 ^ 48 +
    f.flow.fpart * 2 ^ 44 + f.epoch * 2 ^ 36 + f.srcLcore * 2 ^ 24 + f.dstLcore * 2 ^ 12)

/-- Sum of the 16-bit words of a header, most significant byte first, an odd last byte padded with zero (RFC 1071). -/
def wordSum : List Byte → Nat
  | a :: b :: l => a.toNat * 256 + b.toNat + wordSum l
  | [a] => a.toNat * 256
  | [] => 0

/-- The one's complement of the one's-complement sum. -/
def inetChecksum (l : List Byte) : Nat :=
  let fold (x : Nat) : Nat := x % 65536 + x / 65536
  65535 - fold (fold (wordSum l))

/-- The IPv4 header (RFC 791): DSCP 0, Don't Fragment, TTL 64, UDP. Its identification is 0 (log 90, DESIGN CHOICE). -/
def ipv4Header (src dst len : Nat) : List Byte :=
  let head (sum : Nat) : List Byte :=
    [0x45, 0] ++ beBytes 2 (20 + len) ++ beBytes 2 0 ++ beBytes 2 0x4000 ++ [64, 17] ++ beBytes 2 sum ++ beBytes 4 src ++
      beBytes 4 dst
  head (inetChecksum (head 0))

/-- The IPv6 header (RFC 8200): traffic class 0, hop limit 64, UDP. Its flow label is 0 (log 90, DESIGN CHOICE). -/
def ipv6Header (src dst len : Nat) : List Byte :=
  [0x60, 0, 0, 0] ++ beBytes 2 len ++ [17, 64] ++ beBytes 16 src ++ beBytes 16 dst

/-- A UDP datagram (RFC 768): the checksum is 0 for IPv4 and computed with the pseudo-header of RFC 8200 for IPv6. -/
def udpDatagram (v6 : Bool) (src dst sport dport : Nat) (body : List Byte) : List Byte :=
  let len := 8 + body.length
  let with_ (sum : Nat) : List Byte := beBytes 2 sport ++ beBytes 2 dport ++ beBytes 2 len ++ beBytes 2 sum ++ body
  let sum := inetChecksum (beBytes 16 src ++ beBytes 16 dst ++ beBytes 4 len ++ beBytes 4 17 ++ with_ 0)
  if v6 then with_ (if sum = 0 then 65535 else sum) else with_ 0

/-- The Ethernet payload of a frame in the present encapsulation (R485, R486). -/
def encapsulated (s : State) (port : Nat) (f : Frame) : List Byte :=
  let body := transportHeader f ++ f.data
  let src := panelIp s (panelId s)
  let dst := destIp s f
  let sport := udpSource port f
  let dport := epUdp (frameEntry s f)
  if s.fabric.encap = 1 then ipv4Header src dst (8 + body.length) ++ udpDatagram false src dst sport dport body
  else if s.fabric.encap = 2 then ipv6Header src dst (8 + body.length) ++ udpDatagram true src dst sport dport body
  else body

/-- EtherType: ETHERTYPE in Ethernet mode, the protocol's own in UDP modes. -/
def frameType (s : State) : Nat :=
  if s.fabric.encap = 1 then 0x0800 else if s.fabric.encap = 2 then 0x86DD else s.fabric.etherType

/-- The bytes of a frame as a port sends it, untagged, without preamble and FCS; a short one is padded to the least length of Ethernet. -/
def frameBytes (s : State) (port : Nat) (f : Frame) : List Byte :=
  let l := beBytes 6 (destMac s port f) ++ beBytes 6 (macOf (panelId s) port) ++ beBytes 2 (frameType s) ++ encapsulated s port f
  l ++ List.replicate (60 - l.length) 0

/-- A port sends a frame. -/
def transmit (s : State) (port : Nat) (f : Frame) : State :=
  { s with fabric := { s.fabric with sent := tblPut s.fabric.sent port (frameBytes s port f) } }

end Sys2Proof.Machine
end

