-- ==== Sys2Proof/Machine/NetOps.lean ====
section
/-! DEFINITION. Packets of the bulk-data network (R162–R168, R178), frames of the edge fabric (R484–R490, R493), and
window slots (R205–R217). A task is named (core, issue number); a task of another panel is named by the key of its logical core
and a number that holds its TAG, PGEN and PART (log 9, DESIGN CHOICE). -/

namespace Sys2Proof.Machine

/-! ## Names of tasks on other panels -/

def remoteCore (panel l : Nat) : Nat := 4096 * (panel + 1) + l
def remoteTask (tag pgen part : Nat) : Nat := tag + 4096 * (pgen + 65536 * part)
def isRemote (p : Nat) : Bool := decide (4096 ≤ p)

/-- The TAG of a transaction of a task (Table 06-4). -/
def taskTag (id : Nat) : Nat := id % 4096

/-! ## What waits for an answer -/

/-- The result of a hart's load; none is the access fault of R261. -/
def hostLoad (s : State) (h hart : Nat) (data : Option (BitVec 512)) : State :=
  { s with loads := s.loads.filter (fun r => !(r.host == h && r.hart == hart)) ++
      [{ host := h, hart := hart, fetch := false, data := data }] }

/-- A store to an unpopulated address is discarded; the first one since PST_UNPOP was cleared is held there (R261, R263). -/
def unpopStore (s : State) (h hart addr : Nat) : State :=
  modHost s h fun d => { d with unpop := d.unpop.or (some (hart, addr)) }

/-- The index that follows the fetch buffer's last descriptor; the next to issue when the buffer is empty. -/
def fetchNext (c : Core) : Nat :=
  match c.fetchBuf.getLast? with
  | some f => f.index + 1
  | none => c.nextIndex

/-- The buffer holds the next descriptor to issue, or nothing. -/
def bufferFits (c : Core) : Bool := c.fetchBuf.isEmpty || (headOf c).isSome

/-- The buffer is emptied after a branch out of it (R57). -/
def fitBuffer (c : Core) : Core := if bufferFits c then c else { c with fetchBuf := [] }

/-- A descriptor enters the buffer at its end. -/
def enterBuffer (c : Core) (f : Nat → Fetched) : Core :=
  let c := fitBuffer c
  { c with fetchBuf := c.fetchBuf ++ [f (fetchNext c)] }

/-- A fetch has failed: the descriptor enters the buffer refused, and the RUN stops with the fetch's status when it is next to issue
(R57, R73). -/
def fetchFails (s : State) (p : Nat) (st : Status) : State :=
  modCore s p fun c =>
    if c.seq = .running then enterBuffer c fun n => { index := n, desc := 0, refused := some st } else c

/-- A request ends with a status instead of its answer. A load through the aperture then gets no data, and a store is lost
(log 79, DESIGN CHOICE: the spec names no status of a host access). -/
def endAsker (s : State) (who : Asker) (st : Status) : State :=
  match who with
  | .task p id => if isRemote p then s else finishTask s p id st 0
  | .fetch p => fetchFails s p st
  | .aperture h hart _ store => if store then s else hostLoad s h hart none
  | .nobody => s

/-- The core whose NI a waiting operation belongs to. -/
def Asker.core : Asker → Option Nat
  | .task p _ => some p
  | .fetch p => some p
  | _ => none

/-- What waits at a packet's source for what the packet asks or brings. -/
def sourceAsker : Body → Asker
  | .rdReq w .. => w
  | .wrReq w .. => w
  | .aptReq w .. => w
  | .announce x .. => .task x.1 x.2
  | .pull r .. => .task r.1 r.2
  | .data _ x .. => .task x.1 x.2
  | .putData x .. => .task x.1 x.2
  | .toPort _ w => w
  | _ => .nobody

/-- The requester of a request packet. -/
def bodyAsker : Body → Option Asker
  | .rdReq w .. => some w
  | .wrReq w .. => some w
  | .aptReq w .. => some w
  | .announce x .. => some (.task x.1 x.2)
  | .pull r .. => some (.task r.1 r.2)
  | .putData x .. => some (.task x.1 x.2)
  | .toPort _ .nobody => none
  | .toPort _ w => some w
  | _ => none

/-- A request of another panel. -/
def Asker.far : Asker → Bool
  | .task p _ => isRemote p
  | _ => false

/-! ## Paths (R164–R166) -/

/-- The router of a packet's NI or unit. -/
def homeNode (unit place : Nat) : Node :=
  if unit = 0 then .core (place / 512) (place / 32 % 16) (place % 32)
  else .router (place / 512) (unitRouter (place / 512) unit (place % 512))

/-- The crossing segment of a packet's whole path (R165). -/
def segmentOf (k : Packet) : Nat := (k.src % 4 + k.dst % 4) % 4

/-- A packet's next router (R164–R166): in a die towards its core or the source core's vertical port; in a tile towards its segment of
the edge that ROUTE crosses next, or in the destination tile towards its unit or die; none at the last router. -/
def nextNode (k : Packet) : Option Node :=
  match k.place with
  | .core t d c =>
    let inside := k.dunit == 0 && k.dst / 512 == t && k.dst / 32 % 16 == d
    let goal := if inside then k.dst % 32 else portCore (corePort (k.src % 32))
    if c = goal then (if inside then none else some (.router t (siteRouter d))) else some (.core t d (dieStep c goal))
  | .router t r =>
    let code := k.route.toNat % 8
    if code = 0 then
      let site := k.dst / 32 % 16
      let goal := if k.dunit = 0 then siteRouter site else unitRouter t k.dunit (k.dst % 512)
      if r = goal then (if k.dunit = 0 then some (.core t site (portCore (corePort (k.dst % 32)))) else none)
      else some (.router t (meshStep r goal))
    else
      let goal := edgeRouter (code - 1) (segmentOf k)
      if r = goal then (neighbour t code).map fun u => .router u (edgeRouter (opposite code - 1) (segmentOf k))
      else some (.router t (meshStep r goal))

/-- The number of a router among all. -/
def Node.num : Node → Nat
  | .router t r => 16 * t + r
  | .core t d c => 256 + physNum t d c

/-- The output port that a packet waits for: its router and the next one, or at the last router its unit. -/
def outputOf (k : Packet) : Nat :=
  8192 * k.place.num + match nextNode k with
    | some n => 8 + n.num
    | none => k.dunit

/-- The input port a packet came in by: from a router, or from the NI or unit that injected it. -/
def inputOf (k : Packet) : Nat :=
  match k.prev with
  | some n => 8 + n.num
  | none => k.sunit

/-- A packet is in a router of the network. -/
def Packet.moving (k : Packet) : Bool := !k.held && !k.ejected && !k.delivered

/-- The control-loop level of arbitration (R170, R171). -/
def vc0Packet (k : Packet) : Bool := k.vc == 0 || k.urg

/-- Packets that wait for the output a packet waits for. -/
def atOutput (s : State) (k : Packet) : List Packet := s.packets.filter fun x => x.moving && outputOf x == outputOf k

/-- Count in NI_DROP of a tile (Table 06-14). -/
def countDrop (s : State) (t : Nat) (f : NiDrop → NiDrop) : State := modTile s t fun x => { x with drop := f x.drop }

/-- A control-loop packet that has come behind two others at one output is counted in VC0_OVER (R171). -/
def noteVc0 (s : State) (k : Packet) : State :=
  if vc0Packet k && decide (2 ≤ ((atOutput s k).filter fun x => x.id != k.id && vc0Packet x).length) then
    countDrop s k.tile fun d => { d with vc0Over := satInc 16 d.vc0Over }
  else s

/-! ## Injection -/

/-- Injection is held in a packet's tile by a drain (R178) or by a reset of the tile's partition (R336); an edge port, which serves every
partition, goes on for the others (log 92, DEDUCED). -/
def holdsPacket (s : State) (k : Packet) : Bool :=
  match partOfTile s k.tile with
  | some n => s.drains.any (fun d => d.phase != .decided && d.scope.contains n) ||
      ((partAt s n).state == .resetting && (k.sunit != 4 || k.part == n))
  | none => false

/-- FLITS and LASTW of a payload (R162). -/
def flitsOf (bytes : Nat) : Nat := ceilDiv bytes 64
def lastwOf (bytes : Nat) : Nat := if bytes = 0 then 0 else (bytes - 1) % 64 / 4

/-- The NI's route to a tile is in force (Table 06-12). -/
def routeValid (s : State) (a b : Nat) : Bool := (rteAt s a b).valid

/-- ROUTE and STAMP are taken at injection (R166, R177). -/
def launched (s : State) (k : Packet) : Packet :=
  { k with route := (rteAt s (k.src / 512) (k.dst / 512)).route, stamp := s.time / 1024 % 256, held := false }

/-- A packet enters its router. To a tile whose entry is not in force a request ends with DIE_LOST, and any other packet is lost
(Table 06-12). -/
def launch (s : State) (k : Packet) : State :=
  if routeValid s (k.src / 512) (k.dst / 512) then
    noteVc0 { s with packets := s.packets ++ [launched s k] } (launched s k)
  else match bodyAsker k.body with
    | some w => endAsker s w .dieLost
    | none => s

/-- Packets of a NI or unit on a virtual channel that its router's input port holds. -/
def injected (s : State) (k : Packet) : List Packet :=
  s.packets.filter fun x => x.moving && x.place == k.place && x.prev.isNone && x.sunit == k.sunit && x.vc == k.vc

/-- The router's input port has a packet place for the NI or unit (R170): two for the virtual channel and what the panel has beyond them, and
on VC1 a further one for URG packets (log 83, DESIGN CHOICE). -/
def injectRoom (s : State) (k : Packet) : Bool :=
  let l := injected s k
  let used := if k.urg || !l.any (·.urg) then l.length else l.length - 1
  decide (used < 2) || decide (used < 2 + Config.extraPlaces) || (k.vc == 1 && k.urg && !l.any (·.urg))

/-- An older packet of the same queue waits (R168). -/
def queueBehind (s : State) (k : Packet) : Bool :=
  s.packets.any fun x => x.held && decide (x.id < k.id) && x.place == k.place && x.sunit == k.sunit && x.vc == k.vc

/-- The router can take the packet from its NI or unit. -/
def canInject (s : State) (k : Packet) : Bool := !holdsPacket s k && !queueBehind s k && injectRoom s k

/-- A packet is queued at its NI or unit, and injected if its router can take it (log 91, DEDUCED). -/
def enqueue (s : State) (k : Packet) : State :=
  let s := { s with nextId := s.nextId + 1 }
  if canInject s k then launch s k else { s with packets := s.packets ++ [k] }

/-- A packet as its NI or unit forms it (R162). -/
def packet (s : State) (part vc kind sunit src dunit dst bytes : Nat) (urg : Bool) (tag : Nat) (body : Body) : Packet :=
  { id := s.nextId, pgen := (partAt s part).pgen, part := part, vc := vc, kind := kind, flits := flitsOf bytes,
    lastw := lastwOf bytes, tag := tag, route := 0, urg := urg, bset := false, dunit := dunit, dst := dst, src := src,
    sunit := sunit, stamp := 0, place := homeNode sunit src, prev := none, sent := 0, held := true, ejected := false,
    delivered := false, lastHop := 0, again := false, body := body }

/-- Form a packet and inject it. -/
def inject (s : State) (part vc kind sunit src dunit dst bytes : Nat) (urg : Bool) (tag : Nat) (body : Body) : State :=
  enqueue s (packet s part vc kind sunit src dunit dst bytes urg tag body)

/-- A reply to a packet, from the unit it reached: VC1, URG when the request travelled on VC0, the request's PART, PGEN and TAG
(R169, R333, Table 06-4). -/
def reply (s : State) (k : Packet) (kind bytes : Nat) (body : Body) : State :=
  enqueue s { packet s k.part 1 kind k.dunit k.dst k.sunit k.src bytes (k.vc == 0) k.tag body with pgen := k.pgen }

def packetOf (s : State) (id : Nat) : Option Packet := s.packets.find? fun k => k.id == id

def dropPacket (s : State) (id : Nat) : State := { s with packets := s.packets.filter fun k => k.id != id }

/-- A queued packet is injected if its router can take it. -/
def injectHeld (s : State) (id : Nat) : State :=
  match packetOf s id with
  | some k => if k.held && canInject s k then launch (dropPacket s id) k else s
  | none => s

/-- A packet that its destination unit holds and nothing has acted on. -/
def arrived (s : State) (id : Nat) : Option Packet := (packetOf s id).bind fun k => if k.delivered then some k else none

/-- The physical core a core packet is addressed to. -/
def dstCore (k : Packet) : Nat := physNum (k.dst / 512) (k.dst / 32 % 16) (k.dst % 32)

/-- The partition a core serves. -/
def corePart (s : State) (p : Nat) : Nat := (partOfP s p).getD 0

/-- A die is fenced (R339). -/
def dieFenced (s : State) (t d : Nat) : Bool := s.fenced.contains (stackUnit t d)

/-! ## Edge fabric -/

/-- Destination group of a flow (R493). -/
def flowGroup (k : FlowKey) : Nat := (if k.dstSrv then 256 else 0) + k.dstId / 512 % 256

def portset (s : State) (g : Nat) : BitVec 32 := tblGet 0xFFFFFFFF s.fabric.portsets g

def portUp (s : State) (n : Nat) : Bool := (portAt s n).state == .up

/-- The port of a flow (R493); none when no port of its PORTSET is UP. -/
def flowPort (s : State) (k : FlowKey) : Option Nat :=
  let up := upTo 32 fun n => bit (portset s (flowGroup k)).toNat n && portUp s n
  if up.isEmpty then none else up[(k.dstId + 5 * k.vc + 17 * k.fpart) % up.length]?

/-- The window of unacknowledged frames (R487). -/
def flowWindow : Nat := 64

def TxFlow.new (k : FlowKey) : TxFlow :=
  { key := k, port := none, epoch := 0, nextSeq := 0, unacked := [], waiting := [], tries := 0, lastAdvance := none,
    heldAdvance := false, move := none }

/-- Waiting frames take their numbers while fewer than 64 are unacknowledged; none does while an advance of the epoch is held
(R488), or while the flow moves (R493). -/
def TxFlow.refill (t : TxFlow) : TxFlow :=
  if t.heldAdvance || t.move.isSome then t
  else
    let room := flowWindow - t.unacked.length
    let now := (t.waiting.take room).mapIdx fun i f => { f with seq := (t.nextSeq + i) % 2 ^ 24, epoch := t.epoch }
    { t with unacked := t.unacked ++ now, waiting := t.waiting.drop room, nextSeq := (t.nextSeq + now.length) % 2 ^ 24 }

def txFlow (s : State) (k : FlowKey) : Option TxFlow := s.fabric.tx.find? fun t => t.key == k

def modTx (s : State) (k : FlowKey) (f : TxFlow → TxFlow) : State :=
  let tx := if (txFlow s k).isSome then s.fabric.tx else s.fabric.tx ++ [TxFlow.new k]
  { s with fabric := { s.fabric with tx := modIf (fun t => t.key == k) f tx } }

/-- The flow's port sends what is unacknowledged, the last frame last. -/
def sendLast (s : State) (k : FlowKey) : State :=
  match txFlow s k with
  | some t => match t.port, t.unacked.getLast? with
    | some n, some f => transmit s n f
    | _, _ => s
  | none => s

/-- Change a flow; its port sends the frames that have taken their numbers. -/
def pushTx (s : State) (k : FlowKey) (f : TxFlow → TxFlow) : State :=
  let before := ((txFlow s k).map (·.nextSeq)).getD 0
  let s := modTx s k f
  if ((txFlow s k).map (·.nextSeq)).getD 0 = before then s else sendLast s k

/-- A port gives a DATA frame to its flow (R487); what waits for its answer ends with TIMEOUT where no port can carry it (R495). -/
def sendFrame (s : State) (f : Frame) (who : Asker) : State :=
  match flowPort s f.flow with
  | none => endAsker s who .timeout
  | some n => pushTx s f.flow fun t =>
      { t with port := if t.move.isSome then t.port else some n, waiting := t.waiting ++ [f] }.refill

/-- The NI of core p sends a frame's contents to the port of its flow, over the routes of R167 (R493). -/
def toPort (s : State) (p : Nat) (f : Frame) (who : Asker) (urg : Bool) : State :=
  match flowPort s f.flow with
  | none => endAsker s who .timeout
  | some n => inject s (corePart s p) f.flow.vc f.kind 0 (pcoreCode p) 4 (edgeDieTile (n / 2) * 512 + n) f.data.length urg f.tag
      (.toPort f who)

/-- Kind, TAG and data of a body sent to another panel: the message contents are the model's (log 9, DESIGN CHOICE), the PUT_DATA prefix is
Table 07-10. -/
def bodyData : Body → Nat × Nat × List Byte
  | .announce x _ tag n nth => (0x05, taskTag x.2, leBytes 4 tag ++ leBytes 4 n ++ leBytes 4 nth)
  | .pull r x cap => (0x06, taskTag r.2, leBytes 4 (taskTag x.2) ++ leBytes 4 cap)
  | .data r _ off bs last => (0x07, taskTag r.2, leBytes 4 off ++ leBytes 4 (if last then 1 else 0) ++ bs)
  | .done x st => (0x08, taskTag x.2, leBytes 4 st.code)
  | .putData x _ slot wgen off total srank first last bs =>
    (0x09, taskTag x.2, leBytes 16 (off * 2 ^ 96 + total * 2 ^ 64 + wgen * 2 ^ 52 + slot * 2 ^ 46 + flagAt first 45 +
      flagAt last 44 + srank) ++ bs)
  | .putAck x st _ => (0x0A, taskTag x.2, leBytes 4 st.code)
  | .nack (.task _ id) st => (0x10, taskTag id, leBytes 4 st.code)
  | _ => (0, 0, [])

/-- The RANK that a task of core p names. -/
def taskRank (s : State) (p id : Nat) : Nat :=
  match taskOf (coreAt s p) id with
  | some t => fld t.desc 95 64
  | none => 0xFFFFFFFF

/-- The rank that a body is for (Table 22-1); none where the sender knows none (log 93, DEDUCED). -/
def bodyRank (s : State) (p : Nat) : Body → Nat
  | .announce x .. => taskRank s x.1 x.2
  | .pull r .. => taskRank s r.1 r.2
  | .data _ x .. => taskRank s x.1 x.2
  | .putData x .. => taskRank s x.1 x.2
  | .done x _ => match (coreAt s p).window.find? fun t => t.opcode == 0x51 && t.peer == some x with
    | some t => fld t.desc 95 64
    | none => 0xFFFFFFFF
  | .putAck _ _ r => r
  | _ => 0xFFFFFFFF

/-- Statuses by code (Table 10-12). -/
def statusOf (code : Nat) : Status :=
  ([Status.ok, .okAfterRetry, .badOpcode, .badParam, .notPermitted, .noResource, .aborted, .abortLate, .disabled, .truncated,
    .windowClosed, .staleGeneration, .dieLost, .partitionReset, .lastingFault, .eccUncorrectable, .katMismatch, .timeout,
    .powerFail, .thermalLimit].find? fun x => x.code == code).getD .outOfService

/-- The frame that carries a body from core p to a core of another panel (Table 22-1). A reply carries the PART, PGEN and TAG
of its request. -/
def bodyFrame (s : State) (p peer vc : Nat) (reply : Option Nat) (body : Body) : Frame :=
  let (kind, tag, data) := bodyData body
  let part := corePart s p
  let r : Nat := match (coreAt s p).run with
    | some x => x.rank
    | none => 0xFFFFFFFF
  { macPanel := peer / 4096 - 1, bad := false, pause := false, ver := 1, reservedSet := false, type := 0, kind := kind,
    flow := { srcId := panelId s, srcSrv := false, dstId := peer / 4096 - 1, dstSrv := false, fpart := part, vc := vc },
    pgen := match reply with
      | some t => t / 4096 % 65536
      | none => (partAt s part).pgen,
    part := match reply with
      | some t => t / 4096 / 65536
      | none => part,
    tag := match reply with
      | some t => t % 4096
      | none => tag,
    srcRank := r, dstRank := bodyRank s p body, seq := 0, ack := 0, epoch := 0, srcLcore := (logOf s p).getD 0,
    dstLcore := peer % 4096, data := data }

/-- Send a request body from core p to a core, here or on another panel. -/
def sendReq (s : State) (p peer vc kind bytes : Nat) (task : Nat × Nat) (body : Body) : State :=
  if isRemote peer then toPort s p (bodyFrame s p peer vc none body) (.task task.1 task.2) false
  else inject s (corePart s p) vc kind 0 (pcoreCode p) 0 (pcoreCode peer) bytes false (taskTag task.2) body

/-- Send a reply body to the core of task `peer` (VC1, URG on a reply to VC0; R169). -/
def sendReply (s : State) (p : Nat) (peer : Nat × Nat) (kind bytes : Nat) (urg : Bool) (body : Body) : State :=
  if isRemote peer.1 then toPort s p (bodyFrame s p peer.1 1 (some peer.2) body) .nobody urg
  else inject s (corePart s peer.1) 1 kind 0 (pcoreCode p) 0 (pcoreCode peer.1) bytes urg (taskTag peer.2) body

/-- A router, or a unit whose own injection is stopped, refuses a packet (R163, R333): the NACK carries the packet's PART, PGEN and
TAG to its source. No NACK answers a NACK (log 80, DESIGN CHOICE). -/
def nackPacket (s : State) (k : Packet) (st : Status) : State :=
  let who := sourceAsker k.body
  match k.body with
  | .nack .. => s
  | _ => match who with
    | .task p id =>
      if isRemote p then sendReply s (dstCore k) (p, id) 0x10 4 (k.vc == 0) (.nack who st) else reply s k 0x10 4 (.nack who st)
    | _ => reply s k 0x10 4 (.nack who st)

/-- Remember a request that has been sent until its reply (R176). -/
def addReq (s : State) (who : Asker) (packets : List Packet) (frames : List Frame) : State :=
  if packets.isEmpty && frames.isEmpty then s
  else { s with reqs := s.reqs ++ [{ id := s.nextId, who := who, packets := packets, frames := frames, attempts := 1 }],
                nextId := s.nextId + 1 }

/-- The outstanding requests of an operation. -/
def Req.isOf (r : Req) (who : Asker) : Bool := r.who == who && r.attempts != 0

/-- A request is withdrawn without an answer. -/
def dropReqs (s : State) (who : Asker) : State := { s with reqs := s.reqs.filter fun r => !r.isOf who }

/-- A task's request is answered; an answer to a re-issued request is a retry of the task (R176, R319, Table 13-5). -/
def endReqs (s : State) (who : Asker) : State :=
  let again := s.reqs.any fun r => r.isOf who && r.attempts == 2
  let s := dropReqs s who
  match again, who with
  | true, .task p id =>
    if isRemote p then s
    else modTransient (modTask s p id fun t => { t with attempts := 2 }) (coreUnit p) fun x =>
      { x with timeout := satInc 32 x.timeout }
  | true, .fetch p => modTransient s (coreUnit p) fun x => { x with timeout := satInc 32 x.timeout }
  | _, _ => s

/-- What has been queued or injected since packet number n. -/
def packetsFrom (s : State) (n : Nat) : List Packet := s.packets.filter fun k => decide (n ≤ k.id)

/-- Send a request packet and remember it. -/
def ask (s : State) (who : Asker) (part vc kind sunit src dunit dst bytes tag : Nat) (body : Body) : State :=
  let first := s.nextId
  let s := inject s part vc kind sunit src dunit dst bytes false tag body
  addReq s who (packetsFrom s first) []

/-- NIs and units resume injection with the packets that they hold; their routes are taken then (Table 06-12, R178). -/
def releaseHeld (s : State) : State := each (s.packets.map (·.id)) (fun id s => injectHeld s id) s

/-! ## Windows (R205–R217) -/

def winAt (s : State) (l slot : Nat) : Win := tblGet Win.init (winsAt s l).slots slot

def modWin (s : State) (l slot : Nat) (f : Win → Win) : State :=
  modWins s l fun w => { w with slots := tblMod Win.init w.slots slot f }

/-- Transfers admitted into a slot: its TOKENS. -/
def slotTransfers (s : State) (l slot : Nat) : List Transfer := (winsAt s l).transfers.filter fun t => t.slot == slot

/-- NI_WIN (Table 07-7). -/
def winWord (s : State) (l slot : Nat) : Nat :=
  let w := winAt s l slot
  flagAt w.isOpen 63 + flagAt w.closing 62 + w.gen * 2 ^ 50 + w.handle * 2 ^ 40 +
    (slotTransfers s l slot).length * 2 ^ 33 + w.done

/-- PUT_ACK from the owner of logical core l to a sender, URG for a PUT on VC0 (R169). -/
def putAck (s : State) (l : Nat) (sender : Nat × Nat) (srank : Nat) (urg : Bool) (st : Status) : State :=
  match physOf s l with
  | some p => sendReply s p sender 0x0A 4 urg (.putAck sender st srank)
  | none => s

/-- Cut every transfer of a slot (R215): each sender is told `st`. -/
def cutSlot (s : State) (l slot : Nat) (st : Status) : State :=
  let cut := slotTransfers s l slot
  let s := modWins s l fun w =>
    { w with transfers := w.transfers.filter fun t => t.slot != slot,
             served := (cut.map (fun t => (t.sender, st)) ++ w.served).take 64 }
  each cut (fun t s => putAck s l t.sender t.srank t.urg st) s

/-- What a task waited for has come. Within the further limit it carries ATTEMPTS = 2, and the wait counts as a transient
timeout of its stack (R66, R327). -/
def met (s : State) (p id : Nat) : State :=
  match taskOf (coreAt s p) id with
  | some t =>
    if t.further then
      modTransient (modTask s p id fun t => { t with attempts := 2, further := false }) (coreUnit p) fun x =>
        { x with timeout := satInc 32 x.timeout }
    else s
  | none => s

/-- WINDOW_WAITs of a slot are served in issue order, each once DONE reaches its COUNT (R116). -/
def serveWaits (s : State) (l slot : Nat) : State :=
  match physOf s l with
  | none => s
  | some p =>
    let waits := (coreAt s p).window.filter fun t => t.opcode == 0x53 && !t.finished && fld t.desc 229 224 == slot
    (waits.foldl (fun (x : State × Bool) t =>
      let n := fld t.desc 223 192
      if x.2 && decide (n ≤ (winAt x.1 l slot).done) then
        let s := modWin x.1 l slot fun w => { w with done := w.done - n }
        (finishOk (met s p t.id) p t.id 0 [], true)
      else (x.1, false)) (s, true)).1

/-- GEN after an advance (R206). -/
def nextGen (g : Nat) : Nat := if g = 0xFFF then 1 else g + 1

/-- The generation advances and the slot is closed: waits whose count is not met end with WINDOW_CLOSED (R217), and the closing
commands complete (R210, R211). -/
def advanceGen (s : State) (l slot : Nat) : State :=
  let w := winAt s l slot
  let s := modWin s l slot fun w =>
    { w with isOpen := false, closing := false, gen := nextGen w.gen, lastAdvance := some s.time, held := false,
             closer := none, expertCloser := none, doneInWait := 0, cutByFirst := 0, cutByExpert := 0 }
  let s := match physOf s l with
    | some p => each ((coreAt s p).window.filter fun t => t.opcode == 0x53 && fld t.desc 229 224 == slot)
        (fun t s => finishTask s p t.id .windowClosed 0) s
    | none => s
  let s := match w.closer with
    | some c => finish s c (if 0 < w.cutByFirst + w.cutByExpert then .truncated else .ok) w.gen w.doneInWait
        (w.cutByFirst + w.cutByExpert) 0
    | none => s
  match w.expertCloser with
  | some c => finish s c (if 0 < w.cutByExpert then .aborted else .ok) w.gen 0 w.cutByExpert 0
  | none => s

/-- A closing slot without transfers advances, no sooner than 16 ns after its last advance (R206). -/
def tryAdvance (s : State) (l slot : Nat) : State :=
  let w := winAt s l slot
  if w.closing && (slotTransfers s l slot).isEmpty then
    match w.lastAdvance with
    | some t => if s.time < t + 16 then modWin s l slot fun w => { w with held := true } else advanceGen s l slot
    | none => advanceGen s l slot
  else s

/-- Close every open or closing slot of a logical core at once (R202, R217); a close that waits for 16 ns is held. -/
def closeAll (s : State) (l : Nat) (st : Status) : State :=
  each (List.range 64) (fun slot s =>
    let w := winAt s l slot
    if w.isOpen || w.closing then
      let n := (slotTransfers s l slot).length
      let s := cutSlot s l slot st
      tryAdvance (modWin s l slot fun w => { w with closing := true, cutByFirst := w.cutByFirst + n }) l slot
    else s) s

/-! ## Barrier groups -/

def groupKey (part g : Nat) : Nat := 64 * part + g

def groupAt (s : State) (key : Nat) : Option Group := tblLook s.groups key

def modGroup (s : State) (key : Nat) (f : Group → Group) : State :=
  match tblLook s.groups key with
  | some g => { s with groups := tblPut s.groups key (f g) }
  | none => s

/-- Remove groups and what the reduction units hold for them (R221, R334). -/
def dropGroups (s : State) (p : Nat → Bool) : State :=
  { s with groups := s.groups.filter fun e => !p e.1, nodes := s.nodes.filter fun n => !p n.group }

/-- Core p is the member of index m. -/
def memberIndex (s : State) (g : Group) (p : Nat) : Option Nat :=
  (logOf s p).bind fun l => g.members.findIdx? (· == l)

end Sys2Proof.Machine
end

