-- ==== Sys2Proof/Machine/ClockOps.lean ====
section
/-! DEFINITION. Which step a core domain runs, and how a change reaches its engines (R70, R408–R410). -/

namespace Sys2Proof.Machine

/-- The step of a policy (Table 17-6). -/
def policyStep (policy : Nat) : Nat := if policy = 0 then 0 else if policy = 1 then 1 else 3

/-- The partition's set step: the slowest of policy, power cap and thermal cap (Table 17-4). -/
def setStep (p : Part) : Nat := max (policyStep p.policy) (max p.powerCap p.thermalCap)

/-- CAP of a domain: the slower of its caps, 7 for none (Table 17-4). -/
def capOf (d : ClkDom) : Nat :=
  if d.regCap = 7 then d.marginCap else if d.marginCap = 7 then d.regCap else max d.regCap d.marginCap

/-- CAP_CAUSE (Table 17-5). -/
def capCause (d : ClkDom) : Nat := (if d.regCap ≠ 7 then 1 else 0) + (if d.marginCap ≠ 7 then 2 else 0)

/-- The partition of a domain's tile. -/
def domainPart (s : State) (p : Nat) : Part :=
  match partOfP s p with
  | some n => partAt s n
  | none => Part.init

/-- TARGET of a domain: the partition's set step unless fixed (Table 17-4). -/
def targetOf (s : State) (p : Nat) : Nat := let d := clkAt s p; if d.fixed then d.target else setStep (domainPart s p)

/-- The step a domain is to run (R408); F5 during a sag or a power-fail response (R416, R418). -/
def domainStep (s : State) (p : Nat) : Nat :=
  let t := max (setStep (domainPart s p)) (targetOf s p)
  let c := capOf (clkAt s p)
  if s.power.sag || s.power.pfw then 5 else if c = 7 then t else max t c

/-- CURRENT: the slowest step an engine of the domain runs. -/
def currentStep (c : Core) : Nat := c.engines.foldl (fun a e => max a e.step) 0

/-- Ask every engine for a step: a free engine takes it at once, a running one at its next tile boundary, and a later request
replaces an earlier one (R70, R410). -/
def requestStep (s : State) (p st : Nat) : State :=
  modCore s p fun c => { c with engines := c.engines.map fun e =>
    if e.work.isSome then { e with req := some st } else { e with step := st, req := none } }

/-- A STEP_SET completes with its result words (R413); word 0 is `w0`. -/
def stepFinish (s : State) (uid n w0 : Nat) (replaced : Bool) : State :=
  finish s uid .ok w0 ((pcoresOf s n).filter fun p => capOf (clkAt s p) != 7).length
    ((pcoresOf s n).filter fun p => currentStep (coreAt s p) != targetOf s p).length (if replaced then 1 else 0)

/-- STEP_SETs that wait for a change of partition n complete (R413). -/
def endStepSets (s : State) (n : Nat) (replaced : Bool) : State :=
  each (s.cmds.filter fun c => c.wait == .stepSet n) (fun c s => stepFinish s c.uid n (setStep (partAt s n)) replaced) s

/-- STEP_SETs of partition n whose change every engine now runs (R413). -/
def settleSteps (s : State) (n : Nat) : State :=
  let doms := (lcoresOf s n).filterMap (physOf s)
  if s.cmds.any (fun c => c.wait == .stepSet n) &&
      doms.all (fun p => (coreAt s p).engines.all fun e => e.step == domainStep s p && e.req.isNone) then
    endStepSets s n false
  else s

/-- Bring a domain to the step it is to run: a step up waits for its regulator, a step down is requested at once and cancels
a waiting step up (R409, R410). -/
def retarget (s : State) (p : Nat) : State :=
  let t := targetOf s p
  let s := modClk s p fun d => { d with target := t }
  let want := domainStep s p
  let cur := currentStep (coreAt s p)
  let asked := ((coreAt s p).engines.filterMap (·.req)).foldl max cur
  if want < cur then modClk s p fun d => { d with settling := some want }
  else
    let s := modClk s p fun d => { d with settling := none }
    if want = cur ∧ asked = cur then s else requestStep s p want

/-- Every domain of a partition follows its set step. -/
def retargetPart (s : State) (n : Nat) : State :=
  settleSteps (each ((lcoresOf s n).filterMap (physOf s)) (fun p s => retarget s p) s) n

/-- A straggler: capped below the step set for its partition (R358, R408). -/
def capped (s : State) (p : Nat) : Bool :=
  let c := capOf (clkAt s p)
  c != 7 && decide (setStep (domainPart s p) < c)

/-- Physical cores of a partition's catalogue that are capped. -/
def cappedCores (s : State) (n : Nat) : List (Nat × Nat) :=
  (lcoresOf s n).filterMap fun l => (physOf s l).bind fun p => if capped s p then some (l, p) else none

/-- CLK_DOM (Table 17-5). -/
def clkWord (s : State) (p : Nat) : Nat :=
  let d := clkAt s p
  d.thrStretch * 2 ^ 50 + d.thrStep * 2 ^ 44 + d.thrWarn * 2 ^ 38 + d.margin * 2 ^ 32 + d.stretches * 2 ^ 16 +
    d.target * 2 ^ 13 + capOf d * 2 ^ 10 + currentStep (coreAt s p) * 2 ^ 7 + flagAt d.fixed 6 + capCause d * 16

end Sys2Proof.Machine
end

