-- ==== Sys2Proof/Machine/ResetOps.lean ====
section
/-! DEFINITION. Abort of a core (R75), partition reset and release (R334–R337), deaccession and accession (R338–R341),
withdrawal and the panel out of service (R342–R345), and the hold for debug (R348). -/

namespace Sys2Proof.Machine

/-! ## Abort of a core -/

/-- A region holds unspecified contents (R75): free bytes (log 5, DESIGN CHOICE). -/
def scramble (s : State) (p : Nat) (r : Region) : State :=
  let n := 4 * (r.last + 1 - r.first)
  bumpFresh (modCore s p fun c => spdWrite c r.kind r.first 0 (freeBytes s n)) n

/-- The LPDDR5X rows of a transfer: (address, bytes). -/
def dmaRows (d : Desc) : List (Nat × Nat) :=
  (List.range (fld d 223 192)).map fun r => (fld d 111 64 + r * fld d 287 256, fld d 255 224)

/-- The destination of an uncommitted STREAM_OUT holds unspecified bytes (R109). -/
def scrambleOut (s : State) (t : Task) : State :=
  if t.opcode = 0x42 then
    each (dmaRows t.desc) (fun r s => bumpFresh (ldWrite s r.1 (freeBytes s r.2) (fld t.desc 368 368 = 0)) r.2) s
  else s

/-- The channel register before a task's feed began (R312). -/
def unfeed (c : Core) (t : Task) : Core :=
  let put (v : Nat) : Core := { c with fps := modAt c.fps (dFpch t.desc) fun f => { f with reg := v } }
  match t.feed with
  | .none => c
  | .due taken v => if taken = 0 then c else put v
  | .complete v => put v

/-- What the reduction units and the network hold for a group's collectives (R221, R234). -/
def dropCollectives (s : State) (key : Nat) : State :=
  let ofGroup (k : Packet) : Bool := match k.body with
    | .redPart g .. => g == key
    | .redResult g .. => g == key
    | _ => false
  { s with nodes := s.nodes.filter fun n => n.group != key, packets := s.packets.filter fun k => !ofGroup k }

/-- A task's collective ends without a commit or a timeout: a destroy that waits does not count it (R220). -/
def leaveColl (s : State) (t : Task) : State :=
  match t.coll with
  | some key => modGroup s key fun g =>
      { g with inFlight := g.inFlight.filter fun e => e != (t.opcode == 0x63, t.collSeq) }
  | none => s

/-- The NI of a core cancels its outstanding operations (R75). -/
def cancelNet (s : State) (p : Nat) : State :=
  { s with reqs := s.reqs.filter fun r => r.who.core != some p,
           packets := s.packets.filter fun k => !(k.held && k.sunit == 0 && k.src == pcoreCode p),
           streams := (s.streams.map fun x => { x with members := x.members.filter fun m => m.1 != p }).filter
             fun x => !x.members.isEmpty,
           gathers := (s.gathers.map fun x => { x with members := x.members.filter fun m => m.1 != p }).filter
             fun x => !x.members.isEmpty }

/-- The RUN on core p, started or not. -/
def runOn (s : State) (p : Nat) : Option RunStart := let c := coreAt s p; c.run.or c.pendingStart

/-- An accepted abort (R75): uncommitted tasks record ABORTED, what they wrote is unspecified, and the core returns to IDLE. -/
def abortCore (s : State) (p : Nat) : State :=
  let c := coreAt s p
  match c.run with
  | none =>
    match c.pendingStart with
    | some r => coreDone (setCore s p { c with run := some r, pendingStart := none, report := CoreReport.init }) p true
    | none => s
  | some r =>
    let s := each c.window (fun t s => leaveColl s t) s
    let c := c.window.foldl (fun c t => recordTask s c t .aborted false) c
    let c := c.window.reverse.foldl unfeed c
    let stopped (e : Engine) : Engine := { e with work := none, step := e.req.getD e.step, req := none }
    let s := setCore s p { c with engines := c.engines.map stopped }
    let s := each c.window (fun t s => scrambleOut (each t.writes (fun g s => scramble s p g) s) t) s
    let s := each (s.groups.filter fun e => e.1 / 64 == r.part && e.2.slot == r.slot)
      (fun e s => dropCollectives s e.1) (cancelNet s p)
    coreDone s p true

/-! ## Commands and RUNs of a partition -/

/-- The partition that a command's parameters name, directly or through a core or window (R274 step 5); PROGRAM_LOAD names
it through its map (R194). -/
def cmdPart (s : State) (fn : Nat) (pkt : BitVec 1024) : Option Nat :=
  let ofP (code : Nat) : Option Nat := partOfTile s (code / 512)
  if fn = 0x0101 ∨ fn = 0x0103 ∨ fn = 0x0703 ∨ fn = 0x0400 ∨ fn = 0x0401 then some (fld pkt 71 68)
  else if fn = 0x0202 ∨ fn = 0x0203 then partOfL s (fld pkt 75 64)
  else if fn = 0x0A00 then (if fld pkt 71 64 = 3 then partOfL s (fld pkt 91 80) else none)
  else if fn = 0x0300 ∨ fn = 0x0301 then some (fld pkt 83 80)
  else if fn = 0x0701 ∨ fn = 0x0601 then some (fld pkt 67 64)
  else if fn = 0x0500 then some (fld pkt 87 84)
  else if fn = 0x0702 then (if fld pkt 111 104 = 1 then partOfL s (fld pkt 91 80) else ofP (fld pkt 76 64))
  else none

/-- A command other than RUN has passed its commit point (R292, R326). -/
def pastCommit (c : Cmd) : Bool := c.fn != 0x0101 && !uncommitted c

/-- The aperture windows that MEM_COPY and MEM_FILL address (R289). -/
def memWindows (fn : Nat) (pkt : BitVec 1024) : List Nat :=
  let ap (a : Nat) : List Nat :=
    if 0x500000000000 ≤ a ∧ a < 0x501800000000 then [(a - 0x500000000000) / 0x2000000] else []
  if fn = 0x0200 then ap (fld pkt 191 128) ++ ap (fld pkt 127 64)
  else if fn = 0x0201 then ap (fld pkt 191 128)
  else []

/-- The cores that the rank map of PROGRAM_LOAD places on this panel (R192, R284). -/
def mapCores (s : State) (pkt : BitVec 1024) : List Nat :=
  let n := fld pkt 326 320
  let bs := ldRead s (fld pkt 319 256) (16 * n)
  (rmapCores s.straps.panelId ((entries16 bs n).map segOf)).map (·.2)

/-- A command touches partition n: it names it or one of its cores, windows, barrier groups or channels, or the partition's part
of the aperture (R335). -/
def touchesPart (s : State) (fn : Nat) (pkt : BitVec 1024) (n : Nat) : Bool :=
  cmdPart s fn pkt == some n || ((memWindows fn pkt).any fun l => partOfL s l == some n) ||
    (fn == 0x0100 && (mapCores s pkt).any fun l => partOfL s l == some n)

/-- A status that only commands short of their commit points take (R418, R445). -/
def sparesCommitted (st : Status) : Bool := st == .powerFail || st == .thermalLimit

/-- Admitted commands of a partition complete with a status (R335); PARTITION_RESET and ESCALATION_POLICY touch none of its
parts. -/
def failCmds (s : State) (n : Nat) (st : Status) : State :=
  each (s.cmds.filter fun c => c.fn != 0x0101 && c.fn != 0x0701 && c.fn != 0x0703 &&
      !(sparesCommitted st && pastCommit c) && touchesPart s c.fn c.pkt n)
    (fun c s => stopCmd s c st) s

/-- End every RUN of a partition with a status (R286, R335), and RUNs not started. -/
def failRuns (s : State) (n : Nat) (st : Status) : State :=
  let mark (r : RunRec) : RunRec := if r.part = n ∧ r.outcome = none then { r with outcome := some st } else r
  let s := { s with runs := s.runs.map mark }
  let mine (p : Nat) : Bool := partOfP s p == some n
  -- control messages on their way to the partition's cores
  let s := each s.ctrl (fun m s => match m with
    | .runStart p r => if mine p then modCore s p fun c => { c with pendingStart := some r } else s
    | _ => s) s
  let keep (m : CtrlMsg) : Bool := match m with
    | .runStart p _ => !mine p
    | .abort p _ => !mine p
    | .stepMark p _ => !mine p
    | .program p _ => !mine p
  let s := { s with ctrl := s.ctrl.filter keep }
  let s := each (s.runs.filter fun r => r.part == n) (fun r s =>
    each r.cores (fun e s => if (runOn s e.2).isSome then abortCore s e.2 else s) s) s
  each (s.cmds.filter fun c => c.fn == 0x0101 && !c.started && cmdPart s c.fn c.pkt == some n)
    (fun c s => refuse s c.uid st) s

/-! ## Clearing a partition (Table 13-8) -/

/-- Generation after an advance (R332). -/
def nextPgen (g : Nat) : Nat := if g = 0xFFFF then 1 else g + 1

/-- A core after the reset of its partition: IDLE, or EMPTY for one that holds no logical core. Engines taken offline stay
offline (R68), and start at F3 (R410). -/
def clearedCore (s : State) (p : Nat) (c : Core) : Core :=
  { Core.init with nextId := c.nextId, seq := if pstateAt s p = .inService then .idle else .empty,
                   engines := c.engines.map fun e => { Engine.init with online := e.online },
                   microcode := if pstateAt s p = .inService then s.microcode else 0,
                   stages := if pstateAt s p = .inService then 8 else 0 }

/-- Domain settings after a partition reset or an accession (R411, R413). -/
def clearedClk (d : ClkDom) : ClkDom :=
  { ClkDom.init with margin := d.margin, stretches := d.stretches, regCap := d.regCap }

/-- A flow breaks or is reset: its frames are discarded and its epoch advances, at least 1 ms after the last advance
(R488, R490). -/
def breakFlow (s : State) (t : TxFlow) : TxFlow :=
  let hold := match t.lastAdvance with
    | some x => decide (s.time < x + 1000000)
    | none => false
  let t := { t with unacked := [], waiting := [], nextSeq := 0, tries := 0 }
  if hold then { t with heldAdvance := true }
  else { t with epoch := (t.epoch + 1) % 256, lastAdvance := some s.time, heldAdvance := false }

/-- A sender outside the partition of core p is told what its SEND ends with (R335). -/
def tellSender (s : State) (p : Nat) (x : Nat × Nat) (st : Status) : State :=
  let far := isRemote x.1
  if !far && partOfP s x.1 == partOfP s p then s
  else
    let n := if far then 0 else corePart s x.1
    let k := packet s n 2 5 0 (if far then 0 else pcoreCode x.1) 0 (pcoreCode p) 0 false (taskTag x.2) (.announce x 0 0 0 0)
    nackPacket s (if far then { k with pgen := 0 } else k) st

/-- The senders whose announcement stands with core p, or whose data it receives. -/
def sendersOf (c : Core) : List (Nat × Nat) :=
  c.announces.map (·.src) ++ (c.window.filter fun t => t.opcode == 0x51 && !t.finished).filterMap (·.peer)

/-- Every sender outside the partition is told (R335). -/
def tellOutside (s : State) (n : Nat) (st : Status) : State :=
  each (s.cores.filter fun e => partOfP s e.1 == some n) (fun e s =>
    each (sendersOf e.2) (fun x s => tellSender s e.1 x st) s) s

/-- Packets that units of the partition hold without having acted on them: requests from outside are refused (R335), the rest
is gone, and so is what the partition had delivered elsewhere (R333). -/
def dropDelivered (s : State) (n : Nat) (st : Status) : State :=
  let here (k : Packet) : Bool := k.delivered && partOfTile s k.tile == some n
  let outside (k : Packet) : Bool := match bodyAsker k.body with
    | some w => w.far || k.part != n
    | none => false
  let refused := s.packets.filter fun k => here k && outside k
  each refused (fun k s => nackPacket s k st)
    { s with packets := s.packets.filter fun k => !here k && !(k.delivered && k.part == n) }

/-- Run the reset steps up to 0.25 ms (Table 13-9, R344 step 1): the generation advances, RUNs and commands complete with
`st`, slices are written back, and everything of Table 13-8 is cleared. -/
def clearPart (s : State) (n : Nat) (st : Status) (lost : List Nat) : State :=
  let s := modPart s n fun p => { p with pgen := nextPgen p.pgen, state := .resetting }
  let s := tellOutside s n st
  let s := failCmds (failRuns s n st) n st
  let s := flushPart s n lost
  let tx := s.fabric.tx.map fun t => if t.key.fpart = n then breakFlow s t else t
  let s := { s with fabric := { s.fabric with tx := tx } }
  let s := dropDelivered s n st
  let s := each (lcoresOf s n) (fun l s => closeAll s l .partitionReset) s
  let mine (p : Nat) : Bool := partOfP s p == some n
  let s := dropGroups s (fun k => k / 64 == n)
  let s := { s with streams := s.streams.filter (fun x => x.part != n), gathers := s.gathers.filter (fun x => x.part != n),
                    reqs := s.reqs.filter (fun r => !(r.who.core.any mine)),
                    packets := s.packets.filter (fun k => !(k.held && k.part == n && partOfTile s k.tile == some n)) }
  let s := each (lcoresOf s n) (fun l s => freshCoreMons s l) s
  let s := each (pcoresOf s n) (fun p s => modClk (modCore s p (clearedCore s p)) p clearedClk) s
  modPart s n fun p => { p with rmaps := [] }

/-! ## Retiring units -/

/-- A core holds nothing: switched off (R20, R338). -/
def emptyCore (s : State) (p : Nat) : State :=
  modCore s p fun c => { Core.init with nextId := c.nextId, engines := c.engines.map fun e => { Engine.init with online := e.online } }

/-- Spares that a drain which has not written its entries would bring into a partition: of swaps, and of ACCESSION PLACE. -/
def placing (s : State) (n : Nat) : List Nat :=
  (s.drains.filter fun d => d.phase != .written).flatMap fun d =>
    (d.cats.filter fun e => partOfL s e.1 == some n).map fun e => e.2.pcore

/-- A lasting fault, a reset or a hold meets a straggler swap of the partition (R361), or a PLACE: it is abandoned before its
catalogue write, and the spares return to SPARE. -/
def abandonSwaps (s : State) (n : Nat) : State :=
  let l := ((partAt s n).staged.map (·.2) ++ placing s n).eraseDups
  let drop (d : Drain) : Drain := { d with cats := d.cats.filter fun e => !l.contains e.2.pcore }
  let s := each l (fun p s => emptyCore (setPstate s p .spare) p) s
  modPart { s with drains := s.drains.map drop } n fun p => { p with staged := [] }

/-- A core is retired: DEACCESSIONED, switched off and in the collection record (R338). -/
def dropCore (s : State) (p : Nat) : State :=
  let s := emptyCore (setPstate s p .deaccessioned) p
  { s with retired := if s.retired.contains p then s.retired else s.retired ++ [p] }

/-- Deaccession of one core that holds, or held until now, logical core l (R338). -/
def retireAs (s : State) (p l : Nat) : State :=
  addProv (noteSpares (dropCore s p) (tileOf p)) { Prov.blank 0x04 with pcore := pcoreCode p, part := (partOfP s p).getD 0, lcore := l }

/-- Deaccession of one core (R338). -/
def retireCore (s : State) (p : Nat) : State := retireAs s p ((logOf s p).getD 0)

/-- Deaccession of a compute stack, its spares with it (R201, R338). -/
def retireStack (s : State) (k : Nat) : State :=
  let t := k / 13
  let d := k % 13
  let s := each (siteCores t d) (fun p s => dropCore s p) s
  addProv (noteSpares s t) { Prov.blank 0x04 with scope := 1, pcore := stackCode t d, part := (partOfTile s t).getD 0 }

/-- Choose and switch on a spare for each pending logical core that has none; the number of those for which R201 finds
none. -/
def stageSpares (s : State) (n : Nat) : State × Nat :=
  let p := partAt s n
  p.pending.foldl (fun (x : State × Nat) (e : Pending) =>
    let (s, k) := x
    match e.spare with
    | some _ => (s, k)
    | none =>
      match chooseSpare s e.lcore e.former e.stack (fun _ => false) with
      | some c =>
        let pend (y : Pending) : Pending := if y.lcore = e.lcore then { y with spare := some c } else y
        (modPart (noteSpares (setPstate s c .testing) (tileOf c)) n fun p => { p with pending := p.pending.map pend }, k)
      | none => (s, k + 1)) (s, 0)

/-- PARTITION_RESET commands complete when the partition is IN_SERVICE again (R347). -/
def endResetCmds (s : State) (n : Nat) : State :=
  let p := partAt s n
  each (s.cmds.filter fun c => c.wait == .reset n) (fun c s =>
    finish s c.uid .ok p.pgen p.accessions s.catVersion ((p.releasedAt - p.decidedAt) / 1000)) s

/-! ## Lost devices (R248, R249) -/

/-- During a partition reset the switch of a lost device's spare is set, and the spare is written with poison: entirely, or where a
copy was in progress from the block it had reached. The spec does not say in which order a copy goes: here by ascending block
of the device, which is unit, channel, sector; how far it got is free (log 76, DESIGN CHOICE). -/
def replaceLost (s : State) (n d : Nat) : State :=
  match spareFor d with
  | none => modDevice s d fun x => { x with state := .failed, down := false }
  | some sp =>
    let x := deviceAt s sp
    let copied : Bool := x.state == .copying && x.serves == some d
    let from_ : Nat := if copied then Config.freeNat s.fresh else 0
    let s := bumpFresh (modDevice s d fun y => { y with state := .failed, down := false }) 1
    if copied || (x.state == .spare && sparePart s sp == some n) then
      modDevice (modDevice s sp fun y => { y with state := .copying, serves := some d }) d fun y =>
        { y with poison := some (from_, []) }
    else s

/-- At the reset's release the spares of lost devices are IN_USE, and the replacements are recorded (R249, R349). -/
def finishReplacements (s : State) (n : Nat) : State :=
  each (upTo 68 isSpareDev) (fun sp s => match (deviceAt s sp).serves with
    | some d =>
      if (deviceAt s sp).state = .copying ∧ (deviceAt s d).state = .failed ∧ (partDevices s n).contains d then
        let s := modDevice s sp fun y => { y with state := .inUse }
        let s := { s with replaced := s.replaced ++ [(sp, d)] }
        addProv (raiseCause s 2) { Prov.blank 0x05 with device := sp, part := n, detail := d + 128 }
      else s
    | none => s) s

/-! ## Drains (R178, R179, R200) -/

/-- The partition a device belongs to (R236, Table 15-3). -/
def devicePart (s : State) (d : Nat) : Option Nat :=
  if isSpareDev d then sparePart s d else if d < 68 then partOfTile s (deviceTile d) else none

/-- Partitions that have a tile whose entries change, own a logical core whose entry changes, or own a device whose copy ends. -/
def drainScope (s : State) (routes : List (Nat × Rte)) (cats : List (Nat × CatEntry)) (copies : List (Nat × Nat × List Nat)) :
    List Nat :=
  upTo 16 fun n => routes.any (fun r => partOfTile s (r.1 / 16) == some n) || cats.any (fun e => partOfL s e.1 == some n) ||
    copies.any fun c => devicePart s c.2.1 == some n

/-- A change is decided (R179): it joins a drain of the same scope that has not written its entries, but for a link failure, which
starts its own; `copies` of devices end with the drain, `cmds` complete at its release. -/
def addDrain (s : State) (own : Bool) (routes : List (Nat × Rte)) (cats : List (Nat × CatEntry))
    (copies : List (Nat × Nat × List Nat)) (cmds : List Nat) : State :=
  let scope := drainScope s routes cats copies
  let fits (d : Drain) : Bool := !own && d.scope == scope && d.phase != .written
  match s.drains.find? fits with
  | some d =>
    let join (x : Drain) : Drain :=
      if x.id = d.id then { x with routes := x.routes ++ routes, cats := x.cats ++ cats, copies := x.copies ++ copies,
                                   cmds := x.cmds ++ cmds } else x
    { s with drains := s.drains.map join }
  | none =>
    let d : Drain := { id := s.nextId, own := own, scope := scope, phase := .decided, routes := routes, cats := cats,
                       copies := copies, cmds := cmds, since := s.time }
    { s with drains := s.drains ++ [d], nextId := s.nextId + 1 }

/-- The provenance entry of an override that is written or replaced (R181, R349, Table 13-17). -/
def overrideEntry (s : State) (e : Nat × Rte) : Prov :=
  { Prov.blank 0x0A with part := (partOfTile s (e.1 / 16)).getD 0, detail := rteWord e.2 + e.1 / 16 * 2 ^ 32 + e.1 % 16 * 2 ^ 40 }

/-- The curators' routes have changed: a drain is to write them, and each override that they replace is recorded (R167, R178, R181). -/
def detour (s : State) (own : Bool) : State :=
  let ch := routeChanges s
  let gone := ch.filter fun e => let old := rteAt s (e.1 / 16) (e.1 % 16); old.override && old.valid
  let s := if ch.isEmpty then s else addDrain s own ch [] [] []
  each gone (fun e s => addProv s (overrideEntry s e)) s

/-! ## Escalation (R342–R345) -/

/-- A core is DARK (R344, R428). -/
def darkCore (s : State) (p : Nat) : State := noteSpares (emptyCore (setPstate s p .dark) p) (tileOf p)

/-- Functions the panel serves while FENCED (R274 step 4). -/
def fencedFn (fn : Nat) : Bool :=
  fn == 0x0001 || fn == 0x0700 || fn == 0x0704 || fn == 0x0800 || fn == 0x0A00 || fn == 0x0A01

/-- A start in progress stops where it stands (R385); the boot certificate is signed then (R396). -/
def stopStart (s : State) : State :=
  let done : Bool := match s.start.stage with
    | .off => true
    | .inReset => true
    | .strap => true
    | .test => true
    | .released => true
    | .stopped => true
    | _ => false
  if done then s else signBoot { s with start := { s.start with stage := .stopped, duration := 0xFFFFFFFF } }

/-- The panel leaves service (R345): RUNs and commands of its partitions complete with `runSt`, every other command with
`cmdSt`. -/
def leaveService (s : State) (cls : Nat) (runSt cmdSt : Status) : State :=
  if s.service.ph = 3 then s
  else
    let parts := upTo 16 fun n => partDefined s n && (partAt s n).state != .withdrawn
    let s := each parts (fun n s =>
      let s := finishReplacements (abandonSwaps (clearPart s n runSt []) n) n
      let s := each (pcoresOf s n) (fun p s => darkCore s p) s
      let s := modPart s n fun p => { p with state := .withdrawn, decided := none, pending := [] }
      each (s.cmds.filter fun c => c.wait == .reset n) (fun c s => refuse s c.uid .lastingFault) s) s
    let s := each (s.cmds.filter fun c => !fencedFn c.fn) (fun c s => stopCmd s c cmdSt) s
    let off (e : Nat × Core) : Nat × Core := (e.1, { e.2 with stages := 0 })
    let s := { s with cores := (s.cores.map off).filter fun e => e.2 != Core.init }
    let s := each (List.range 32) (fun n s => modPort s n fun q =>
      if q.state = .lost then q else { q with state := .disabled, lanes4 := false }) s
    let s := { s with service := { s.service with ph := 3, faultN := false } }
    addProv s { Prov.blank 0x08 with cls := cls, detail := cls }

/-- The panel goes out of service (R342, R345). -/
def outOfService (s : State) (cls : Nat) : State := leaveService s cls .partitionReset .outOfService

/-- Partitions withdrawn. -/
def withdrawnCount (s : State) : Nat := (upTo 16 fun n => (partAt s n).state == .withdrawn).length

/-- Withdrawal of a partition (R344), and the withdrawal limit (R342). -/
def withdrawPart (s : State) (n cls : Nat) : State :=
  if (partAt s n).state = .withdrawn then s
  else
    let s := finishReplacements (abandonSwaps (clearPart s n .partitionReset (partAt s n).failedDevices) n) n
    let s := each (pcoresOf s n) (fun p s => darkCore s p) s
    let s := modPart s n fun p =>
      { p with state := .withdrawn, decided := none, pending := [], failedCores := [], failedStacks := [],
               failedDevices := [] }
    let s := each (s.cmds.filter fun c => c.wait == .reset n) (fun c s => refuse s c.uid .lastingFault) s
    let s := detour (addProv (raiseCause s 4) { Prov.blank 0x07 with cls := cls, part := n }) false
    if s.limits.withdrawLimit ≤ withdrawnCount s then outOfService s cls else s

/-- Spare exhaustion (R201, R342). -/
def exhausted (s : State) (n p : Nat) : State :=
  let s := addLasting s { coreFault s p 0x0F .core with part := n, attempts := 1 } (some (coreUnit p))
  if s.limits.exhaustWithdraws then withdrawPart s n 0x0F else outOfService s 0x0F

/-- Counted resets within RESET_WINDOW. -/
def countedNow (s : State) (p : Part) : List Nat :=
  p.counted.filter fun t => decide (s.time < t + s.limits.resetWindow * 60000000000)

/-- Count a reset; true when it brings RESETS_WINDOW to RESET_LIMIT (R342). -/
def countReset (s : State) (n : Nat) : State × Bool :=
  let l := countedNow s (partAt s n) ++ [s.time]
  (modPart s n fun p => { p with counted := l }, decide (s.limits.resetLimit ≤ l.length))

/-- The hold for debug (R348): cores are aborted, their contents kept. -/
def holdPart (s : State) (n : Nat) : State :=
  let s := modPart s n fun p => { p with state := .held, holdAt := s.time }
  abandonSwaps (failCmds (failRuns s n .partitionReset) n .partitionReset) n

/-- The lead decides what a lasting fault that needs a reset leads to (R337, R342, Table 13-14). -/
def decidePart (s : State) (n cls : Nat) (withdraw : Bool) : State :=
  let p := partAt s n
  if p.state = .withdrawn ∨ p.state = .undefined then s
  else if withdraw then withdrawPart s n cls
  else if p.state = .resetting ∨ p.state = .held ∨ p.decided.isSome then s
  else if p.state = .accessioning then s
  else
    let (s, limit) := countReset s n
    if limit then withdrawPart s n cls
    else if p.hold then holdPart s n
    else modPart (abandonSwaps s n) n fun p => { p with decided := some (true, false), decidedAt := s.time }

/-- A spare under accession that has failed is taken back: another is chosen for its logical core. -/
def takeBack (s : State) (n : Nat) (cores : List Nat) : State :=
  let lost (e : Pending) : Bool := e.spare.any cores.contains
  let drop (d : Drain) : Drain := if d.phase = .written then d else { d with cats := d.cats.filter fun e => !cores.contains e.2.pcore }
  modPart { s with drains := s.drains.map drop } n fun p =>
    { p with pending := p.pending.map fun e => if lost e then { e with spare := none, passed := false } else e }

/-- A logical core of a unit that failed while its partition is ACCESSIONING joins the accession stage (R337). -/
def joinAccession (s : State) (n : Nat) (cores : List Nat) (dies : List Nat) : State :=
  if (partAt s n).state = .accessioning then
    let s := takeBack s n cores
    let hit := s.cat.filterMap fun e => if e.2.valid && cores.contains e.2.pcore then some (e.1, e.2.pcore) else none
    let s := each hit (fun e s => modCat s e.1 fun x => { x with valid := false }) s
    let s := if hit.isEmpty then s else { s with catVersion := (s.catVersion + 1) % 2 ^ 32 }
    let held (c : Nat) : Nat := ((hit.find? fun e => e.2 == c).map (·.1)).getD 0
    let s := if dies.isEmpty then each cores (fun p s => retireAs s p (held p)) s
      else each dies (fun k s => retireStack s k) s
    let s := modPart s n fun p =>
      { p with failedCores := p.failedCores.filter fun c => !cores.contains c,
               failedStacks := p.failedStacks.filter fun k => !dies.contains k, pending := p.pending ++ hit.map fun e =>
        { lcore := e.1, former := e.2, spare := none, stack := !dies.isEmpty, passed := false } }
    let (s, none_) := stageSpares s n
    if 0 < none_ then exhausted s n (cores.headD 0) else s
  else s

/-! ## Disposition (R338, R339) -/

/-- A lasting fault of a core (R69, R338): FAULTED, and its partition is reset; a core of a tile in no partition becomes
DARK. -/
def disposeCore (s : State) (p cls : Nat) : State :=
  match partOfP s p with
  | none => darkCore s p
  | some n =>
    let s := modCore s p fun c => { c with seq := .faulted }
    let s := modPart s n fun q => { q with failedCores := if q.failedCores.contains p then q.failedCores
                                                          else q.failedCores ++ [p] }
    joinAccession (decidePart s n cls false) n [p] []

/-- The ranks a task waits for lie on a die (R234, R339). -/
def waitsOnDie (s : State) (r : RunStart) (t : Task) (unit : Nat) : Bool :=
  let onDie (l : Nat) : Bool := match physOf s l with
    | some p => coreUnit p == unit
    | none => false
  if 0x50 ≤ t.opcode ∧ t.opcode ≤ 0x52 then
    match rankTarget (tblGet [] (partAt s r.part).rmaps r.slot) (fld t.desc 95 64) with
    | some (pan, l) => pan == panelId s && onDie l
    | none => false
  else if 0x60 ≤ t.opcode ∧ t.opcode ≤ 0x63 then
    match groupAt s (groupKey r.part (fld t.desc 69 64)) with
    | some g => g.members.any onDie
    | none => false
  else false

/-- A base tile fences a die (R339): its cores do nothing more, and tasks of other cores that wait on it end with
DIE_LOST. -/
def fenceDie (s : State) (t d : Nat) : State :=
  let u := stackUnit t d
  let s := if s.fenced.contains u then s else { s with fenced := s.fenced ++ [u] }
  let fault (c : Core) : Core := if c.seq = .empty then c else { c with seq := .faulted }
  let s := each (siteCores t d) (fun p s => modCore s p fault) s
  each (s.cores.filter fun e => coreUnit e.1 != u) (fun e s => match e.2.run with
    | some r => each (e.2.window.filter fun x => !x.finished && waitsOnDie s r x u)
        (fun x s => finishTask s e.1 x.id .dieLost 0) s
    | none => s) s

/-- A lasting fault of a compute stack (R338). -/
def disposeStack (s : State) (t d cls : Nat) : State :=
  match partOfTile s t with
  | none => each (siteCores t d) (fun p s => darkCore s p) s
  | some n =>
    let s := fenceDie s t d
    let u := stackUnit t d
    let s := modPart s n fun q => { q with failedStacks := if q.failedStacks.contains u then q.failedStacks
                                                           else q.failedStacks ++ [u] }
    joinAccession (decidePart s n cls false) n (siteCores t d) [u]

/-- A lasting fault of a base tile (R338): its partition is withdrawn; a tile in no partition becomes DARK. -/
def disposeTile (s : State) (t cls : Nat) : State :=
  match partOfTile s t with
  | none => each ((List.range 13).flatMap (siteCores t)) (fun p s => darkCore s p) s
  | some n => decidePart s n cls true

/-- A lasting fault of a stack's shared part: record, then disposition. -/
def stackFailed (s : State) (t d cls detail : Nat) : State :=
  disposeStack (addLasting s { stackFault s t d cls .die with detail := detail } (some (stackUnit t d))) t d cls

/-- A lasting fault of a base tile: record, then disposition. -/
def tileFailed (s : State) (t cls detail : Nat) : State :=
  disposeTile (addLasting s { FaultRec.blank cls .tile with
    part := (partOfTile s t).getD 0, pcore := some (stackCode t 0xF), attempts := 2, detail := detail }
    (some (tileUnit t))) t cls

/-! ## Reset and release -/

/-- Copies in progress of a partition's devices that still serve are abandoned by its reset; whether the trigger still holds is
asked again after it (R249). -/
def abandonCopies (s : State) (n : Nat) (lost : List Nat) : State :=
  each (upTo 68 isSpareDev) (fun sp s => match (deviceAt s sp).serves with
    | some d =>
      if (deviceAt s sp).state = .copying ∧ (partDevices s n).contains d ∧ !lost.contains d ∧ (deviceAt s d).state ≠ .failed then
        modDevice (modDevice s sp fun y => { y with state := .spare, serves := none }) d fun y => { y with wanted := false }
      else s
    | none => s) s

/-- Start of a partition reset (Table 13-9); its work in flight completes with a status. Devices that waited for a spare whose copy
is abandoned are replaced in this reset (R249). -/
def startResetAs (s : State) (n : Nat) (st : Status) : State :=
  let lost := (partAt s n).failedDevices
  let s := abandonCopies (abandonSwaps (clearPart s n st lost) n) n lost
  let waits := (partDevices s n).filter fun d => (deviceAt s d).down && !lost.contains d
  let s := each (lost ++ waits) (fun d s => replaceLost s n d) s
  modPart s n fun p =>
    { p with state := .resetting, decided := none, resetsTotal := satInc 16 p.resetsTotal, accessions := 0,
             failedDevices := [], pending := [] }

def startReset (s : State) (n : Nat) : State := startResetAs s n .partitionReset

/-- Rebalancing is permitted while a catalogue core stays capped (R363). -/
def markRebalance (s : State) (n : Nat) : State :=
  modPart s n fun p => { p with rebalance := p.rebalance || !(cappedCores s n).isEmpty }

/-- The partition admits work again (R336). -/
def inService (s : State) (n : Nat) : State :=
  endResetCmds (releaseHeld (modPart s n fun p => { p with state := .inService })) n

/-- Release of a reset (R336, R340, R362): failing units are deaccessioned, their entries lose VALID in one change, and
spares are staged. -/
def releasePart (s : State) (n : Nat) (failing second : List Nat) : State :=
  let s := each second (fun p s => katAgain s p) (finishReplacements s n)
  let s := each failing (fun p s => katFail s p none) s
  let p := partAt s n
  let cores := (p.failedCores ++ failing ++ (cappedCores s n).map (·.2)).eraseDups.filter
    fun c => !p.failedStacks.contains (coreUnit c)
  let gone (c : Nat) : Bool := cores.contains c || p.failedStacks.contains (coreUnit c)
  let hit := (lcoresOf s n).filterMap fun l => (physOf s l).bind fun c => if gone c then some (l, c) else none
  let held (c : Nat) : Nat := ((hit.find? fun e => e.2 == c).map (·.1)).getD 0
  let s := each hit (fun e s => modCat s e.1 fun x => { x with valid := false }) s
  let s := if hit.isEmpty then s else { s with catVersion := (s.catVersion + 1) % 2 ^ 32 }
  let s := each cores (fun c s => retireAs s c (held c)) s
  let s := each p.failedStacks (fun k s => retireStack s k) s
  let dead := p.failedStacks
  let counted := p.counted.contains p.decidedAt || (p.holdAt != 0 && p.counted.contains p.holdAt)
  let s := modPart s n fun p =>
    { p with failedCores := [], failedStacks := [], releasedAt := s.time, holdAt := 0,
             pending := if p.auto then p.pending ++ hit.map fun e =>
                 { lcore := e.1, former := e.2, spare := none, stack := dead.contains (coreUnit e.2),
                   passed := false }
               else [] }
  let s := addProv s { Prov.blank 0x06 with
    part := n, detail := p.pgen + flagAt counted 16 + (s.time - p.decidedAt) / 1000 % 2 ^ 32 * 2 ^ 32 }
  let s := markRebalance (retargetPart s n) n
  if (partAt s n).pending.isEmpty then inService s n
  else
    let (s, none_) := stageSpares (releaseHeld (modPart s n fun p => { p with state := .accessioning })) n
    if 0 < none_ then exhausted s n (((partAt s n).pending.map (·.former)).headD 0) else s

/-- A spare enters service under a logical core (R340 step 4): the catalogue entry, the core's empty state, its monitors, and
the provenance entry. The version is counted by the drain that this is part of. -/
def enterCore (s : State) (l former spare : Nat) : State :=
  let s := closeAll s l .aborted
  let s := setPstate (setCat s l (catEntry l spare)) spare .inService
  let s := modClk (modCore s spare (clearedCore s spare)) spare clearedClk
  let s := { freshCoreMons s l with retired := s.retired.filter (· != spare) }
  let s := addProv s { Prov.blank 0x03 with
    pcore := pcoreCode spare, lcore := l, part := (partOfL s l).getD 0,
    detail := pcoreCode former + flagAt (tileOf spare != homeTile l) 13 }
  retarget s spare

/-- Accessions made, and those that no longer wait; the partition admits work when none is left (R340). -/
def accessed (s : State) (n : Nat) (ls : List Nat) : State :=
  let done := ((partAt s n).pending.filter fun e => e.passed && ls.contains e.lcore).map (·.lcore)
  let s := modPart s n fun p =>
    { p with pending := p.pending.filter fun e => !done.contains e.lcore, accessions := p.accessions + done.length }
  if !done.isEmpty && (partAt s n).pending.isEmpty && (partAt s n).state == .accessioning then inService s n else s

end Sys2Proof.Machine
end

