-- ==== Sys2Proof/Machine/TaskOps.lean ====
section
/-! DEFINITION. What the units of a core share: the words an operation touches (R136, R154), the outcome of an uncorrectable
word, the values of elements, the rounding of one output element, and the output stream (R42–R44, R310). -/

namespace Sys2Proof.Machine

/-! ## Accesses -/

/-- One access: words of a region, read or written; `cut`: its last word is written in part. -/
structure Acc where
  write : Bool
  reg : Region
  cut : Bool
deriving DecidableEq, Repr

/-- Elements e0 to e0 + n − 1 of the row that begins at word `base`. -/
def elemAcc (write : Bool) (k : MemKind) (base f e0 n : Nat) : Acc :=
  let wd := fmtWidth f
  { write := write, reg := ⟨k, base + e0 * wd / 32, base + ((e0 + n) * wd - 1) / 32⟩,
    cut := write && (e0 + n) * wd % 32 != 0 }

/-- n words from word `base` on. -/
def wordAcc (write : Bool) (k : MemKind) (base n : Nat) : Acc := ⟨write, ⟨k, base, base + n - 1⟩, false⟩

/-- n bytes from word `base` on. -/
def byteAcc (write : Bool) (k : MemKind) (base n : Nat) : Acc :=
  ⟨write, ⟨k, base, base + (n - 1) / 4⟩, write && n % 4 != 0⟩

/-- Rows of n elements with a stride in words. -/
def rowsAcc (write : Bool) (l : Loc) (stride rows f n : Nat) : List Acc :=
  (List.range rows).map fun r => elemAcc write l.kind (l.word + r * stride) f 0 n

/-- The lowest of a list of words. -/
def lowestWord (l : List (MemKind × Nat)) : Option (MemKind × Nat) :=
  l.foldl (fun b f => match b with
    | some x => if f.2 < x.2 then some f else b
    | none => some f) none

/-- The first failing word that an access needs: any word of a read, a word written in part (R136, R141). -/
def accFail (c : Core) (write : Bool) (l : List Acc) : Option (MemKind × Nat) :=
  (l.filter fun a => a.write == write).findSome? fun a => lowestWord (c.failing.filter fun f =>
    f.1 == a.reg.kind && (if write then a.cut && f.2 == a.reg.last else decide (a.reg.first ≤ f.2 ∧ f.2 ≤ a.reg.last)))

/-! ## Row accesses (R139–R142)

A row accessor presents each row of an access; a narrow accessor collects word accesses in its 8 buffers of each direction, in
program order, and presents one row access as a buffer closes. The task's buffers close with the task's command: the eighth
cycle after their opening is not modelled (log 66, DESIGN CHOICE). -/

/-- Words of a region within one row. -/
def rowPieces (r : Region) : List Region :=
  (List.range (r.last / 16 + 1 - r.first / 16)).map fun i =>
    let row := r.first / 16 + i
    ⟨r.kind, max r.first (16 * row), min r.last (16 * row + 15)⟩

/-- Buffers open in a narrow accessor, oldest first, and the row accesses presented so far. -/
abbrev Coalescing := List (Bool × Region × Nat) × List (Bool × Region)

def sameRow (a b : Region) : Bool := a.kind == b.kind && a.first / 16 == b.first / 16

/-- The buffers that satisfy a condition close. -/
def closeWhere (p : Bool × Region × Nat → Bool) (x : Coalescing) : Coalescing :=
  (x.1.filter fun b => !p b, x.2 ++ (x.1.filter p).map fun b => (b.1, b.2.1))

/-- Word accesses to one row join their buffer or open one; an open buffer of the other direction closes first (R142), the oldest
when all 8 are open, and one that has taken in 16 accesses (R140). -/
def takePiece (write : Bool) (x : Coalescing) (r : Region) : Coalescing :=
  let x := closeWhere (fun b => b.1 != write && sameRow b.2.1 r) x
  let mine (b : Bool × Region × Nat) : Bool := b.1 == write && sameRow b.2.1 r
  let n := r.last + 1 - r.first
  let x : Coalescing := if x.1.any mine then
      (x.1.map fun b => if mine b then
        (b.1, ⟨r.kind, min b.2.1.first r.first, max b.2.1.last r.last⟩, b.2.2 + n) else b, x.2)
    else
      let open_ := x.1.filter fun b => b.1 == write
      let x := if 8 ≤ open_.length then closeWhere (fun b => open_.head? == some b) x else x
      (x.1 ++ [(write, r, n)], x.2)
  closeWhere (fun b => decide (16 ≤ b.2.2)) x

/-- The row accesses that a narrow accessor presents for a list of accesses. -/
def coalesced (l : List Acc) : List (Bool × Region) :=
  let x := l.foldl (fun x a => (rowPieces a.reg).foldl (takePiece a.write) x) (([], []) : Coalescing)
  (closeWhere (fun _ => true) x).2

/-- A DMA segment that covers one whole row-aligned row goes past the small path (R139). -/
def wholeRow (r : Region) : Bool := r.first % 16 == 0 && r.last == r.first + 15

/-- The accesses of an opcode's unit as the banks see them. -/
def presented (o : Nat) (l : List Acc) : List (Bool × Region) :=
  if 0x20 ≤ o ∧ o ≤ 0x33 then coalesced l
  else if 0x40 ≤ o ∧ o ≤ 0x44 then
    let cut := l.flatMap fun a => (rowPieces a.reg).map fun r => { a with reg := r }
    ((cut.filter fun a => wholeRow a.reg).map fun a => (a.write, a.reg)) ++ coalesced (cut.filter fun a => !wholeRow a.reg)
  else l.map fun a => (a.write, a.reg)

/-! ## Errors of a task -/

/-- Code of MEMKIND (Table 13-2). -/
def memCode (k : MemKind) : Nat := kindCode k + 1

/-- The queue of the RUN on a core. -/
def runQueue (c : Core) : Option Nat := c.run.map (·.queue)

/-- A record about a task of core p (Table 13-2). -/
def taskRec (s : State) (p : Nat) (t : Task) (cls : Nat) (st : Status) : FaultRec :=
  { coreFault s p cls .core with
    task := dTask t.desc, index := some t.index, queue := runQueue (coreAt s p), status := some st }

/-- The record and the count of a lasting uncorrectable word (R136, R153). -/
def addSpdUe (s : State) (p : Nat) (r : FaultRec) (k : MemKind) (w : Nat) : State :=
  addLasting (modCore s p fun c => { c with ueCount := satInc 32 c.ueCount })
    { r with memkind := memCode k, addr := w } (some (coreUnit p))

/-- Banks of a memory (Table 05-1). -/
def banksOf : MemKind → Nat
  | .W => 64
  | .A => 96
  | .P => 32

/-- An access reaches a bank (R132). -/
def touchesBank (r : Region) (bank : Nat) : Bool :=
  let n := banksOf r.kind
  decide ((bank + n - r.first / 16 % n) % n ≤ r.last / 16 - r.first / 16)

/-- A granted access of a bank and direction takes the absolute priority with it, and the bank's rotation goes on from the
stream that had it (R143). -/
def serveStarved (c : Core) (l : List (Bool × Region)) : Core :=
  let hit (e : MemKind × Nat × Bool × Nat) : Bool :=
    l.any fun r => r.1 == e.2.2.1 && r.2.kind == e.1 && touchesBank r.2 e.2.1
  let same (e f : MemKind × Nat × Bool × Nat) : Bool := e.1 == f.1 && e.2.1 == f.2.1 && e.2.2.1 == f.2.2.1
  let now := c.starved.filter hit
  { c with starved := c.starved.filter fun e => !hit e,
           rotation := now ++ c.rotation.filter fun e => !now.any (same e) }

/-- Failing words in the rows that reads touch, outside the words they need (R136). -/
def besideReads (c : Core) (l : List Region) : List (MemKind × Nat) :=
  c.failing.filter fun f =>
    l.any (fun r => r.kind == f.1 && decide (r.first / 16 ≤ f.2 / 16 ∧ f.2 / 16 ≤ r.last / 16)) &&
      !l.any fun r => r.kind == f.1 && decide (r.first ≤ f.2 ∧ f.2 ≤ r.last)

/-- A lasting uncorrectable word found without a task: counted and recorded (R136, R138). -/
def strayUe (s : State) (p : Nat) (f : MemKind × Nat) : State :=
  addSpdUe s p { coreFault s p 0x02 .core with queue := runQueue (coreAt s p) } f.1 f.2

/-- Words that accesses read: those of the reads, and of a word written in part, whose row is read first (R141). -/
def wordsRead (l : List Acc) : List Region :=
  l.filterMap fun a => if !a.write then some a.reg else if a.cut then some ⟨a.reg.kind, a.reg.last, a.reg.last⟩ else none

/-- A task makes its accesses: the race monitor compares them (R154), and the rows' other words are checked (R136). -/
def seeAccesses (s : State) (p id : Nat) (l : List Acc) : State :=
  let stray := besideReads (coreAt s p) (wordsRead l)
  let s := each stray (fun f s => strayUe s p f) s
  modCore s p fun c =>
    let rows := presented (((taskOf c id).map (·.opcode)).getD 0) l
    serveStarved (raceCheck c (some id) rows) rows

/-- Bytes of a task's stream that its channel holds. -/
def fedBytes (t : Task) : List Byte :=
  match t.feed with
  | .none => []
  | .due n _ => t.stream.take n
  | .complete _ => t.stream

/-- A task that ends without committing well contributes nothing to its channel (R312): the register goes back to where it was,
and later feeds that have begun are taken in again. -/
def withdrawFeed (c : Core) (t : Task) : Core :=
  let v : Option Nat := match t.feed with
    | .none => none
    | .due n v => if n = 0 then none else some v
    | .complete v => some v
  match v, c.fps[dFpch t.desc]? with
  | some v, some f =>
    let later (x : Task) : Bool := decide (t.id < x.id) && dFpch x.desc == dFpch t.desc
    let step (r : Nat × List Task) (x : Task) : Nat × List Task :=
      if !later x then (r.1, r.2 ++ [x])
      else match x.feed with
        | .none => (r.1, r.2 ++ [x])
        | .due n v => if n = 0 then (r.1, r.2 ++ [{ x with feed := .due 0 v }])
          else (crcRun f.cfg r.1 (fedBytes x), r.2 ++ [{ x with feed := .due n r.1 }])
        | .complete _ => (crcRun f.cfg r.1 (fedBytes x), r.2 ++ [{ x with feed := .complete r.1 }])
    let r := c.window.foldl step (v, [])
    { c with window := r.2, fps := modAt c.fps (dFpch t.desc) fun f => { f with reg := r.1 } }
  | _, _ => c

/-- A task ends with a status that replaces what it had; undispatched work is dropped, and its feed is withdrawn. -/
def failTask (s : State) (p id : Nat) (st : Status) : State :=
  let s := modCore s p fun c => match taskOf c id with
    | some t => withdrawFeed c t
    | none => c
  let s := feedEnded s (fun e => e == (p, id)) false
  modTask s p id fun t =>
    { t with status := st, pendingStatus := some st, undispatched := [], retryItems := [], stream := [], feed := .none,
             finished := true }

/-- A task needs a failing word: its read, or a partial-word write to it, fails twice (R136). -/
def eccTask (s : State) (p : Nat) (t : Task) (f : MemKind × Nat) : State :=
  let s := addSpdUe s p (taskRec s p t 0x02 .eccUncorrectable) f.1 f.2
  failTask (modTask s p t.id fun t => { t with attempts := 2 }) p t.id .eccUncorrectable

/-- Run a task of a unit that works on a whole task: the accesses are made, a failing read leaves unspecified bytes in the
output (log 5, DESIGN CHOICE), and otherwise `compute` gives the memory after the task and the flags raised. -/
def runUnit (s : State) (p : Nat) (t : Task) (accs : List Acc) (compute : Core → Core × AFlags)
    (stream : Core → List Byte) : State :=
  let s := seeAccesses s p t.id accs
  let c := coreAt s p
  match accFail c false accs with
  | some f => eccTask (each (accs.filter (·.write)) (fun a s => scramble s p a.reg) s) p t f
  | none =>
    let r := compute c
    let s := setCore s p r.1
    match accFail c true accs with
    | some f => eccTask s p t f
    | none => finishOk s p t.id r.2 (stream r.1)

/-! ## Elements -/

/-- Element i of a row, decoded. -/
def elemVal (c : Core) (k : MemKind) (w f i : Nat) : FVal := decodeElem f (elemRaw c k w f i)

/-- The scale byte kb of a scale row. -/
def scaleByte (c : Core) (k : MemKind) (w kb : Nat) : Nat := leNat (spdRead c k w kb 1)

/-- A value under its block scale (R37, R47). -/
def scaled (b : Nat) (v : FVal) : FVal :=
  if b = 0xFF then (.nan, fNanSeen) else (v.1.scale ((b : Int) - 127), v.2)

/-- Row r of n elements, in ascending order. -/
def rowVals (c : Core) (l : Loc) (stride f r n : Nat) : List FVal :=
  (List.range n).map fun i => elemVal c l.kind (l.word + r * stride) f i

/-- The rounding of output element `elem` of a task (R42–R44). -/
def rounding (c : Core) (t : Task) (elem : Nat) : Rounding :=
  match dSr t.desc, c.run with
  | true, some r => .stochastic (randomWord r.seed r.rank c.step (dTask t.desc) t.inst elem)
  | _, _ => .nearest

/-- One output element, converted or stored as PS96 (R42). -/
def outElem (c : Core) (t : Task) (elem : Nat) (v : FVal) : Nat × AFlags :=
  let r := convert (dFmtOut t.desc) (dSat t.desc) (if dPs96 t.desc then .nearest else rounding c t elem) v.1
  (r.1, v.2 ||| r.2)

/-- Flags of a list of results. -/
def flagsOf {α : Type} (l : List (α × AFlags)) : AFlags := l.foldl (fun a x => a ||| x.2) 0

/-- Output elements from index `elem` on, written as a packed row from element `first` of the row at word w. -/
def putOut (c : Core) (t : Task) (k : MemKind) (w first elem : Nat) (vs : List FVal) : Core × AFlags :=
  let os := vs.mapIdx fun i v => outElem c t (elem + i) v
  (putElems c k w (dFmtOut t.desc) first (os.map (·.1)), flagsOf os)

/-- Blocks of 32 output elements in an MX format from element `first` of the row at word w on: their scale bytes go to the scale
row at word sw, from byte `kb` on, in one write (R45, R90). -/
def putBlocks (c : Core) (t : Task) (k : MemKind) (w first : Nat) (sk : MemKind) (sw kb elem : Nat) (vs : List FVal) :
    Core × AFlags :=
  let rs := (List.range (vs.length / 32)).map fun b =>
    convertBlock (dFmtOut t.desc) (((vs.drop (32 * b)).take 32).mapIdx fun i v => (v.1, rounding c t (elem + 32 * b + i)))
  let c := putElems c k w (dFmtOut t.desc) first (rs.flatMap fun r => r.2.1)
  (spdWrite c sk sw kb (rs.map fun r => BitVec.ofNat 8 r.1), flagsOf vs ||| rs.foldl (fun a r => a ||| r.2.2) 0)

/-! ## The output stream (R310) -/

/-- Raw elements packed over consecutive indices. -/
def packRaws (f : Nat) (l : List Nat) : List Byte :=
  let wd := fmtWidth f
  leBytes ((l.length * wd + 7) / 8) (l.foldr (fun r a => r % 2 ^ wd + 2 ^ wd * a) 0)

/-- Stored elements of `rows` rows of n, without strides and padding. -/
def streamRows (c : Core) (l : Loc) (stride rows f n : Nat) : List Byte :=
  packRaws f ((List.range rows).flatMap fun r => (List.range n).map fun i => elemRaw c l.kind (l.word + r * stride) f i)

/-- An MX output: each block's scale byte, then its elements. -/
def streamBlocks (c : Core) (l : Loc) (stride rows f n : Nat) (sl : Loc) : List Byte :=
  (List.range rows).flatMap fun r => (List.range (n / 32)).flatMap fun b =>
    BitVec.ofNat 8 (scaleByte c sl.kind (sl.word + r * ceilDiv n 128) b) ::
      packRaws f ((List.range 32).map fun i => elemRaw c l.kind (l.word + r * stride) f (32 * b + i))

/-- Operand place i of a task. -/
def locAt (t : Task) (i : Nat) : Loc := t.locs.getD i ⟨.W, 0⟩

end Sys2Proof.Machine
end

