-- ==== Sys2Proof/Machine/MemOps.lean ====
section
/-! DEFINITION. Errors of LPDDR5X and the loss of a device (R247–R249). -/

namespace Sys2Proof.Machine

/-- The spare of a device can take its place: unused and asked for by no other device of the partition, or copying from it. -/
def spareReady (s : State) (n d : Nat) : Option Nat :=
  (spareFor d).bind fun sp =>
    let x := deviceAt s sp
    let taken : Bool := (partAt s n).failedDevices.any fun o => o != d && spareFor o == some sp
    if (x.state = .spare ∧ sparePart s sp = some n ∧ !taken) ∨ (x.state = .copying ∧ x.serves = some d) then some sp else none

/-- The spare of a device copies from another device that still serves. -/
def spareCopies (s : State) (d : Nat) : Bool :=
  match spareFor d with
  | some sp =>
    let x := deviceAt s sp
    x.state == .copying && (match x.serves with
      | some o => o != d && (deviceAt s o).state == .inUse && !(deviceAt s o).down
      | none => false)
  | none => false

/-- No spare device is left (R201, R248, R342): the device is lost. -/
def deviceExhausted (s : State) (n d : Nat) : State :=
  let s := modDevice s d fun y => { y with state := .failed, down := false }
  let s := addLasting s { FaultRec.blank 0x0F .device with device := some d, part := n } none
  if s.limits.exhaustWithdraws then withdrawPart s n 0x0F else outOfService s 0x0F

/-- Devices that a lasting fault has taken and that wait for a spare that now serves another, or is lost (R249). -/
def exhaustWaiting (s : State) (n sp : Nat) : State :=
  each ((partDevices s n).filter fun o => (deviceAt s o).down && spareFor o == some sp && !(partAt s n).failedDevices.contains o)
    (fun o s => deviceExhausted s n o) s

/-- A lasting fault of a spare: in reserve it is lost; while it copies, the failing device goes on without it, or is lost with it
when the copy already replaces it (R249). -/
def spareLost (s : State) (n sp : Nat) : State :=
  let x := deviceAt s sp
  let s := modDevice s sp fun y => { y with state := .failed, serves := none }
  match (if x.state = .copying then x.serves else none) with
  | some o =>
    let y := deviceAt s o
    let s := modDevice s o fun y => { y with wanted := false }
    exhaustWaiting (if y.down || y.state == .failed then deviceExhausted s n o else s) n sp
  | none => s

/-- A lasting fault of a device that serves (R248, R249): its spare replaces it in a partition reset, at once where one goes on
(R337); it waits while the spare copies another device; without a spare the pool is exhausted. -/
def servingLost (s : State) (n d : Nat) : State :=
  match (if isSpareDev d then none else spareReady s n d) with
  | some _ =>
    let down := modDevice s d fun y => { y with down := true }
    if (partAt s n).state = .resetting ∨ (partAt s n).state = .accessioning then
      let t := replaceLost down n d
      if (partAt s n).state = .accessioning then finishReplacements t n else t
    else
      decidePart (modPart down n fun p => { p with
        failedDevices := if p.failedDevices.contains d then p.failedDevices else p.failedDevices ++ [d] }) n 0x03 false
  | none =>
    if !isSpareDev d && spareCopies s d then modDevice s d fun y => { y with down := true }
    else deviceExhausted s n d

/-- A lasting fault of a device (R248, R249). -/
def deviceLost (s : State) (d : Nat) : State :=
  let x := deviceAt s d
  match devicePart s d with
  | none => modDevice s d fun y => { y with state := .failed }
  | some n =>
    if x.state = .failed ∨ x.down then s
    else if x.state = .spare ∨ x.state = .copying then spareLost s n d
    else servingLost s n d

/-- The copy ends in its drain (R248): the spare serves, the failing device is powered down, and blocks that could not be copied, or
that are known to be uncorrectable, are poison on the spare. Devices that waited for the spare have none (R249). -/
def endCopy (s : State) (c : Nat × Nat × List Nat) : State :=
  let sp := c.1
  let d := c.2.1
  if (deviceAt s sp).state = .copying ∧ (deviceAt s sp).serves = some d ∧ (deviceAt s d).state = .inUse then
    let mine (a : Nat) : Bool := match homeOf s a with
      | some h => h.device == d
      | none => false
    let known := s.bad.map fun e => if mine (64 * e.1) then (e.1, true) else e
    let bad := (c.2.2.filter mine).foldl (fun t a => tblPut t (a / 64) true) known
    let s := modDevice { s with bad := bad } sp fun x => { x with state := .inUse }
    let s := modDevice s d fun x => { x with state := .failed, wanted := false }
    let s := { s with replaced := s.replaced ++ [(sp, d)] }
    let n := (sparePart s sp).getD 0
    exhaustWaiting (addProv (raiseCause s 2) { Prov.blank 0x05 with device := sp, part := n, detail := d }) n sp
  else s

/-- The place fields of a record about an address (Table 13-2). -/
def ldRec (s : State) (r : FaultRec) (a : Nat) : FaultRec :=
  match homeOf s a with
  | some h => { r with scope := .device, device := some (servingDevice s h.device), channel := h.channel, memkind := 4,
                       addr := a, attempts := 2 }
  | none => { r with memkind := 4, addr := a, attempts := 2 }

/-- One more uncorrectable read of device d; the eighth is a lasting fault of the device (R247). -/
def bumpUe (s : State) (d : Nat) : State :=
  let s := modDevice s d fun y => { y with ue := satInc 8 y.ue }
  if (deviceAt s d).ue = 8 then deviceLost s d else s

/-- The stored copy of a block is poisoned (R248). -/
def poisonedBlock (s : State) (b : Nat) : Bool := devicePoison s b || tblLook s.bad (b / 64) == some true

/-- A lasting uncorrectable read of the block at b: its record, and UE_COUNT unless the block is poisoned (R247, R248). -/
def ldUe (s : State) (r : FaultRec) (b : Nat) : State :=
  let t := addLasting s (ldRec s { r with cls := 0x03 } b) none
  if poisonedBlock s b then t
  else match homeOf t b with
  | some h => bumpUe t (servingDevice t h.device)
  | none => t

/-- The first block of a range that reads as uncorrectable. -/
def firstBad (s : State) (a n : Nat) : Option Nat := (blocksOf a n).find? (blockBad s)

/-- The first block of a range that a write reaches in part and cannot merge (R247). -/
def firstUnmerged (s : State) (a n : Nat) : Option Nat :=
  (blocksOf a n).find? fun b => blockBad s b && !decide (a ≤ b ∧ b + 64 ≤ a + n)

end Sys2Proof.Machine
end

