-- ==== Sys2Proof/Machine/HostOps.lean ====
section
/-! DEFINITION. What a host access answers (R260, R261). -/

namespace Sys2Proof.Machine

/-- Host die h runs and its link carries accesses (R256, R259, R272). -/
def hostOn (s : State) (h : Nat) : Bool := let d := hostAt s h; d.released && !d.lost && d.linkUp

/-- The sideband of a die's link reads the status page before the mainband is up (R258, R263). -/
def sideband (s : State) (h addr : Nat) : Bool :=
  decide (h < 4 ∧ 0x400010010000 ≤ addr ∧ addr < 0x400010011000) && !(hostAt s h).lost

/-- The time CSR of a hart reads panel time (R256). -/
def timeCsr (s : State) : Nat := s.time % 2 ^ 64

/-- Hart k of a host die, as after reset unless the die lists it. -/
def hartAt (s : State) (h k : Nat) : Hart := tblGet Hart.init (hostAt s h).harts k

/-- The timer compare of Sstc: the supervisor timer interrupt of a hart is pending (R256). -/
def timerPending (s : State) (h k : Nat) : Bool :=
  decide ((hartAt s h k).timeCmp.toNat ≤ timeCsr s)

/-- An interrupt file of a hart signals: an identity is pending and enabled (R256). -/
def fileSignals (s : State) (h k : Nat) (super : Bool) : Bool :=
  let x := hartAt s h k
  (hostAt s h).imsic.any fun e => e.1 == k && e.2.1 == super && (if super then x.enabledS else x.enabledM).contains e.2.2

/-- The instruction access fault of R261. -/
def fetchFault (s : State) (h hart : Nat) : State :=
  { s with loads := s.loads.filter (fun r => !(r.host == h && r.hart == hart)) ++
      [{ host := h, hart := hart, fetch := true, data := none }] }

/-- An access of 1 to 64 bytes, a power of two, naturally aligned (R152). -/
def aligned (addr size : Nat) : Bool :=
  (size == 1 || size == 2 || size == 4 || size == 8 || size == 16 || size == 32 || size == 64) && addr % size == 0

/-- The bytes of a store. -/
def storeBytes (data : BitVec 512) (size : Nat) : List Byte := leBytes size data.toNat

def loadData (bs : List Byte) : BitVec 512 := BitVec.ofNat 512 (leNat bs)

/-- The panel is FENCED or out of service: PH is 11 (Table 10-4). -/
def fencedPanel (s : State) : Bool := s.service.ph == 3

/-! ## What a command copies to host memory -/

/-- What Table 10-1 names in the local region: the two rows of interrupt files, and the boot ROM (R257). -/
def localNamed (a : Nat) : Bool :=
  decide (0xFFFF00000000 ≤ a ∧ a < 0xFFFF00020000) || decide (0xFFFF00100000 ≤ a ∧ a < 0xFFFF00120000) ||
    decide (0xFFFFF0000000 ≤ a ∧ a < 0xFFFFF0010000)

/-- The doorbell page of a queue that is defined (R260, R261). -/
def definedPage (s : State) (a : Nat) : Bool :=
  decide (0x400000000000 ≤ a ∧ a < 0x400010000000) &&
    (queueAt s ((a - 0x400000000000) / 4096)).state != .free

/-- An address of the host map that holds something (R257, R260, R261): LPDDR5X of a region, or a named part of one of the I/O
ranges. -/
def addrMapped (s : State) (a : Nat) : Bool :=
  (regionOf s a).isSome || definedPage s a || decide (0x400010000000 ≤ a ∧ a < 0x400010011000) ||
    decide (0x500000000000 ≤ a ∧ a < 0x501800000000) || localNamed a

/-- A destination that no copy can name (R261, R274): misaligned, or an unpopulated address. -/
def badDest (s : State) (dest n align : Nat) : Bool :=
  dest % align != 0 || !addrMapped s dest || (n != 0 && !addrMapped s (dest + n - 1))

/-- A range has a byte homed on a dark tile (R344). -/
def onDark (s : State) (a n : Nat) : Bool := n != 0 && !rangePopulated s a n

/-- The record of an error met by a command (Table 13-2). -/
def cmdRec (s : State) (c : Cmd) (a : Nat) : FaultRec :=
  { FaultRec.blank 0x03 .device with queue := some c.queue, status := some .eccUncorrectable,
                                     part := ((homeOf s a).map (·.part)).getD 0 }

/-- The panel copies bytes to host memory for a command, then `fin` completes it: DIE_LOST where a byte is homed on a dark
tile (R344), ECC_UNCORRECTABLE where a failing block cannot be merged (R247). -/
def copyOut (s : State) (c : Cmd) (dest : Nat) (bs : List Byte) (fin : State → State) : State :=
  if onDark s dest bs.length then refuse s c.uid .dieLost
  else match firstUnmerged s dest bs.length with
    | some b => refuse (ldUe s (cmdRec s c b) b) c.uid .eccUncorrectable
    | none => fin (ldWrite s dest bs true)

/-- The panel reads bytes of host memory for a command and goes on with them; DIE_LOST and ECC_UNCORRECTABLE as above. -/
def copyIn (s : State) (c : Cmd) (a n : Nat) (k : List Byte → State → State) : State :=
  if onDark s a n then refuse s c.uid .dieLost
  else match firstBad s a n with
    | some b => refuse (ldUe s (cmdRec s c b) b) c.uid .eccUncorrectable
    | none => k (ldRead s a n) (ldTouch s a n true)

end Sys2Proof.Machine
end

