-- ==== Sys2Proof/Machine/Mailbox.lean ====
section
/-! DEFINITION. Mailboxes, the heartbeat and the console (R294–R301). -/

namespace Sys2Proof.Machine

/-- Kinds (Table 11-1). -/
def boxKind (m : Nat) : Nat := if m % 64 = 0 then 0 else if m % 64 = 1 then 1 else 2

/-- The host die that owns a mailbox: its own, or that die's backup once it is lost (R294, R301). -/
def ownsBox (s : State) (h m : Nat) : Bool := standsFor s h (m / 64)

/-- The owner to which a mailbox's MSIs go. -/
def boxOwner (s : State) (m : Nat) : Nat := if (hostAt s (m / 64)).lost then backupOf s (m / 64) else m / 64

def boxAddr (m off : Nat) : Nat := 0x400010000000 + m * 0x100 + off

/-- Set doorbell bits; an unmasked bit that goes from 0 to 1 sends one MSI (R297). -/
def setBells (s : State) (m : Nat) (bits : Word) : State :=
  let x := mailboxAt s m
  let s' := modMailbox s m fun x => { x with dbell := x.dbell ||| bits }
  if bits &&& ~~~x.dbell &&& ~~~x.mask ≠ 0 then sendMsi s' (boxOwner s m) x.msi else s'

/-- Push a word into a queue of eight: the queue, whether the newest was replaced, whether it was empty (R295). -/
def pushWord (l : List Dword) (w : Dword) : List Dword × Bool × Bool :=
  if l.length < 8 then (l ++ [w], false, l.isEmpty) else (l.take 7 ++ [w], true, false)

/-- A push into TH, with its doorbell bits (Table 11-3). -/
def pushTh (s : State) (m : Nat) (w : Dword) : State :=
  let (l, hit, first) := pushWord (mailboxAt s m).th w
  let s := modMailbox s m fun x =>
    { x with th := l, collTh := x.collTh || hit, lostTh := if hit then satInc 16 x.lostTh else x.lostTh }
  setBells s m ((if first then 1 else 0) ||| (if hit then 2 else 0))

/-- A push into TP. -/
def pushTp (s : State) (m : Nat) (w : Dword) : State :=
  let (l, hit, _) := pushWord (mailboxAt s m).tp w
  let s := modMailbox s m fun x =>
    { x with tp := l, collTp := x.collTp || hit, lostTp := if hit then satInc 16 x.lostTp else x.lostTp }
  setBells s m (if hit then 2 else 0)

/-- A store to a mailbox register: the agents it permits, else a store to an unpopulated address (R296). -/
def boxStore (s : State) (h hart m off : Nat) (may : Bool) (act : State → State) : State :=
  if !hostOn s h || decide (256 ≤ m) then s else if may then act s else unpopStore s h hart (boxAddr m off)

/-- MBX_TH_PUSH (R296). -/
def execMbxThPush (h hart m : Nat) (word : BitVec 64) (s : State) : Out :=
  .next (boxStore s h hart m 0x00 (boxKind m == 2) fun s => pushTh s m word)

/-- MBX_TP_PUSH (R296). -/
def execMbxTpPush (h hart m : Nat) (word : BitVec 64) (s : State) : Out :=
  .next (boxStore s h hart m 0x10 (boxKind m == 1 && ownsBox s h m) fun s => pushTp s m word)

/-- Console output the lead holds enters TH while it has room (R295). -/
def feedConsole (s : State) (m : Nat) : Nat → State
  | 0 => s
  | k + 1 =>
    let x := mailboxAt s m
    match x.console with
    | [] => s
    | w :: rest =>
      if x.th.length < 8 then feedConsole (pushTh (modMailbox s m fun x => { x with console := rest }) m w) m k else s

/-- The oldest TH entry goes to the owner; an empty TH gives 0. -/
def popTh (s : State) (h hart m : Nat) : State :=
  let x := mailboxAt s m
  let s := hostLoad s h hart (some ((x.th.headD 0).setWidth 512))
  feedConsole (modMailbox s m fun x => { x with th := x.th.tail }) m 1

/-- MBX_TH_POP (R296). -/
def execMbxThPop (h hart m : Nat) (s : State) : Out :=
  .next (
    if !hostOn s h || decide (256 ≤ m) then s
    else if ownsBox s h m then popTh s h hart m else hostLoad s h hart none)

/-- MBX_RING (R296): bits [2:0] are the panel's. -/
def execMbxRing (h hart m : Nat) (bits : BitVec 32) (s : State) : Out :=
  .next (boxStore s h hart m 0x28 (ownsBox s h m || boxKind m == 2) fun s => setBells s m (bits &&& 0xFFFFFFF8))

/-- A new mask; unmasking a bit that is set sends one MSI (R297). -/
def setMask (s : State) (m : Nat) (mask : Word) : State :=
  let x := mailboxAt s m
  let s' := modMailbox s m fun x => { x with mask := mask }
  if x.mask &&& ~~~mask &&& x.dbell ≠ 0 then sendMsi s' (boxOwner s m) x.msi else s'

/-- MBX_MASK (R296). -/
def execMbxMask (h hart m : Nat) (mask : BitVec 32) (s : State) : Out :=
  .next (boxStore s h hart m 0x24 (ownsBox s h m) fun s => setMask s m mask)

/-- The layout of MBX_MSI (Table 11-2). -/
def msiOf (v : Nat) : Msi := { en := bit v 31, slevel := bit v 30, hart := bits v 29 25, iid := bits v 10 0 }

def msiWord (m : Msi) : Nat := flagAt m.en 31 + flagAt m.slevel 30 + m.hart % 32 * 2 ^ 25 + m.iid % 2048

/-- EN = 1 without an identity is ignored whole. -/
def setMsi (s : State) (m : Nat) (v : Nat) : State :=
  if bit v 31 ∧ bits v 10 0 = 0 then s else modMailbox s m fun x => { x with msi := msiOf v }

/-- MBX_MSI (R296). -/
def execMbxMsi (h hart m : Nat) (value : BitVec 32) (s : State) : Out :=
  .next (boxStore s h hart m 0x2C (ownsBox s h m) fun s => setMsi s m value.toNat)

/-! ## Heartbeat and console (R299, R300) -/

/-- FAULT_PENDING: a host die has not read up to the newest record (R325). -/
def faultPending (s : State) : Bool :=
  match s.faults.getLast? with
  | some r => (List.range 4).any fun h => (hostAt s h).released && !(hostAt s h).lost && decide ((hostAt s h).faultRead < r.seq)
  | none => false

/-- MBX_HBEAT as the lead posts it (Table 11-4). -/
def hbeatWord (s : State) : Dword :=
  BitVec.ofNat 64 (s.hbSeq % 2 ^ 32 * 2 ^ 32 + s.service.ph % 4 * 2 ^ 16 + s.lead % 16 * 2 ^ 12 + flagAt (faultPending s) 3 +
    flagAt (!s.drains.isEmpty) 2 + flagAt (s.lead == 15) 1 + flagAt s.hbValid 0)

/-- A post in every HEARTBEAT mailbox; the HEARTBEAT contact toggles (R470). -/
def postHeartbeat (s : State) : State :=
  let s := { s with service := { s.service with heartbeat := !s.service.heartbeat } }
  let s := { s with hbSeq := (s.hbSeq + 1) % 2 ^ 32, hbValid := true }
  let s := modCurator s s.lead fun c => { c with lastHeard := s.time }
  let w := hbeatWord s
  each [0, 64, 128, 192] (fun m s => setBells (modMailbox s m fun x => { x with hbeat := w }) m 4) s

/-- HEARTBEAT_POST (R299): after bring-up, while the lead posts. -/
def execHeartbeatPost (s : State) : Out :=
  .next (if (curatorAt s s.lead).state = .posting then postHeartbeat s else s)

/-- Console words the lead can hold: 4 KiB. -/
def consoleHeld : Nat := 512

/-- A console word of up to seven bytes: the count in bits [63:56], the first byte in [7:0] (R300). -/
def consoleWord (bs : List Byte) : Dword := BitVec.ofNat 64 (min bs.length 7 * 2 ^ 56 + leNat (bs.take 7))

/-- The bytes that a console word carries (R300). -/
def consoleBytes (w : Dword) : List Byte := (leBytes 7 w.toNat).take (min (w.toNat / 2 ^ 56) 7)

/-- Console output: held words beyond 4 KiB are lost, the oldest first (R295). -/
def outputConsole (s : State) (m : Nat) (words : List Dword) : State :=
  let s := modMailbox s m fun x => { x with console := x.console ++ words }
  let s := feedConsole s m 8
  modMailbox s m fun x =>
    let extra := x.console.length - consoleHeld
    { x with console := x.console.drop extra, lostTh := satAdd 16 x.lostTh extra }

/-- CONSOLE_OUTPUT (R295): words laid out as R300 says. -/
def execConsoleOutput (m : Nat) (words : List (BitVec 64)) (s : State) : Out :=
  .next (if s.hostsReleased && decide (m < 256) && boxKind m == 1 then outputConsole s m words else s)

/-- CONSOLE_POP (R300): the lead takes the oldest input word of each CONSOLE mailbox. -/
def execConsolePop (s : State) : Out :=
  .next (each [1, 65, 129, 193] (fun m s => modMailbox s m fun x => { x with tp := x.tp.tail }) s)

end Sys2Proof.Machine
end

