-- ==== Sys2Proof/Machine/TaskDma.lean ====
section
/-! DEFINITION. The DMA family within the panel (R108–R111). -/

namespace Sys2Proof.Machine

def xRows (d : Desc) : Nat := fld d 223 192
def xBpr (d : Desc) : Nat := fld d 255 224
def xRstr (d : Desc) : Nat := fld d 287 256
def xLstr (d : Desc) : Nat := fld d 319 288
def xAddr (d : Desc) : Nat := fld d 127 64
def xShare (d : Desc) : Nat := fld d 351 336
def xMembers (d : Desc) : Nat := fld d 367 352
def xBypass (d : Desc) : Bool := fld d 368 368 = 1

/-- Row r of REF_LOCAL (R108). -/
def localRow (t : Task) (r : Nat) : Loc := let l := locAt t 0; ⟨l.kind, l.word + r * xLstr t.desc⟩

/-- Row r of a copy's source. -/
def sourceRow (t : Task) (r : Nat) : Loc := let l := locAt t 1; ⟨l.kind, l.word + r * xRstr t.desc⟩

def rowAcc (write : Bool) (l : Loc) (bytes : Nat) : Acc := byteAcc write l.kind l.word bytes

/-! ## DMA_COPY -/

def copyRow (t : Task) (c : Core) (r : Nat) : Core :=
  let a := sourceRow t r
  let b := localRow t r
  spdWrite c b.kind b.word 0 (spdRead c a.kind a.word 0 (xBpr t.desc))

def runCopy (p : Nat) (s : State) (t : Task) : State :=
  let rows := List.range (xRows t.desc)
  runUnit s p t ((rows.map fun r => rowAcc false (sourceRow t r) (xBpr t.desc)) ++
      rows.map fun r => rowAcc true (localRow t r) (xBpr t.desc))
    (fun c => (rows.foldl (copyRow t) c, 0)) (fun _ => [])

/-- DMA_COPY (R109). -/
def execDmaCopy (p : Nat) (s : State) : Out := .next (issueAs s p 0x40 noRoot noMore (runCopy p))

/-! ## LPDDR5X transfers -/

/-- The places granted to a partition's RUNs (R111): its region, and the carve-outs of its primary host dies. -/
def granted (s : State) (n : Nat) : List (Nat × Nat) :=
  (regionBase s n, regionBase s n + regionSize s n) ::
    ((List.range 4).filter fun h => hostPrimary s n h && carveValid s h).map fun h => (carveBase s h, carveEnd s h)

/-- How far a run of granted bytes from address a reaches, after k extensions. -/
def reach (l : List (Nat × Nat)) (a : Nat) : Nat → Nat
  | 0 => a
  | k + 1 => l.foldl (fun m r => if r.1 ≤ reach l a k ∧ reach l a k < r.2 then max m r.2 else m) (reach l a k)

/-- Every byte of a range is granted. -/
def rangeGranted (l : List (Nat × Nat)) (a n : Nat) : Bool := decide (a + n ≤ reach l a l.length)

/-- The check of R111 at issue. -/
def grantCheck (s : State) (p : Nat) (_ : Core) (d : Desc) : Option Status :=
  match partOfP s p with
  | some n =>
    if rangeGranted (granted s n) (xAddr d) ((xRows d - 1) * xRstr d + xBpr d) then none else some .notPermitted
  | none => some .notPermitted

/-- What stops an access of a shared stream to LPDDR5X before its data: another partition under reset (R111, R333), or an address
homed on a dark tile (R344). -/
def pathStop (s : State) (p a n : Nat) : Option Status :=
  (blocksOf a n).findSome? fun b => match homeOf s b with
    | some h =>
      if partOfP s p ≠ some h.part ∧ (partAt s h.part).state.underReset then some .partitionReset
      else if (tpwrAt s h.tile).dark then some .dieLost
      else none
    | none => some .dieLost

/-- Address of row r in LPDDR5X. -/
def remoteRow (d : Desc) (r : Nat) : Nat := xAddr d + r * xRstr d

/-- The next piece of a transfer of which `done` bytes are moved: its row, its place in the row, its address, and its length, which stays
in one row and one 256-byte line (R162, R237). The spec does not say how a transfer is cut, nor how many requests are out at once:
here one piece at a time (log 81, DESIGN CHOICE; timing only). -/
def memPiece (d : Desc) (done : Nat) : Nat × Nat × Nat × Nat :=
  let r := done / xBpr d
  let o := done % xBpr d
  let a := remoteRow d r + o
  (r, o, a, min (xBpr d - o) (256 - a % 256))

/-- The NI of core p asks the home slice of an address (R57, R59, R237); one homed on a dark tile is unpopulated (R344). -/
def askSlice (s : State) (who : Asker) (p vc kind a bytes tag : Nat) (body : Body) : State :=
  match homeOf s a with
  | some h =>
    if (tpwrAt s h.tile).dark then endAsker s who .dieLost
    else ask s who (corePart s p) vc kind 0 (pcoreCode p) 2 (h.tile * 512 + h.router) bytes tag body
  | none => endAsker s who .dieLost

/-- Ask for, or send, the next piece of a STREAM_IN or STREAM_OUT; one whose last piece is in place commits (R109). The task's TC is
the virtual channel of its requests (R59). A RD_REQ carries an address and a length, a WR_REQ its data (log 9, DESIGN CHOICE). -/
def nextMove (s : State) (p : Nat) (t : Task) : State :=
  let d := t.desc
  if xRows d * xBpr d ≤ t.progress then finishOk s p t.id 0 []
  else
    let (r, o, a, n) := memPiece d t.progress
    if t.opcode = 0x41 then
      askSlice s (.task p t.id) p (dTc d) 0x01 a 16 (taskTag t.id) (.rdReq (.task p t.id) a n (!xBypass d))
    else
      let l := localRow t r
      let acc := [byteAcc false l.kind (l.word + o / 4) n]
      let s := seeAccesses s p t.id acc
      match accFail (coreAt s p) false acc with
      | some f => eccTask s p t f
      | none => askSlice s (.task p t.id) p (dTc d) 0x03 a n (taskTag t.id)
          (.wrReq (.task p t.id) a (!xBypass d) (spdRead (coreAt s p) l.kind l.word o n))

/-- A piece has moved. -/
def moved (s : State) (p : Nat) (t : Task) (n : Nat) : State :=
  let s := modTask (endReqs s (.task p t.id)) p t.id fun t => { t with progress := t.progress + n }
  match taskOf (coreAt s p) t.id with
  | some t => nextMove s p t
  | none => s

/-- The task still waits for the piece at an address. -/
def waitsAt (t : Task) (op a : Nat) : Bool := t.opcode == op && !t.finished && (memPiece t.desc t.progress).2.2.1 == a

/-- RD_DATA of a STREAM_IN's piece is written to scratchpad; a duplicate is dropped. -/
def takeRead (s : State) (p id a : Nat) (bs : List Byte) : State :=
  match taskOf (coreAt s p) id with
  | some t =>
    let (r, o, _, n) := memPiece t.desc t.progress
    if waitsAt t 0x41 a ∧ bs.length = n then
      let l := localRow t r
      let s := seeAccesses s p t.id [byteAcc true l.kind (l.word + o / 4) n]
      moved (modCore s p fun c => spdWrite c l.kind l.word o bs) p t n
    else s
  | none => s

/-- WR_ACK of a STREAM_OUT's piece. -/
def takeWritten (s : State) (p id a : Nat) : State :=
  match taskOf (coreAt s p) id with
  | some t => if waitsAt t 0x42 a then moved s p t (memPiece t.desc t.progress).2.2.2 else s
  | none => s

/-- Fields that every member of a shared stream must carry alike (R110). -/
def sharedFields (d : Desc) : List Nat := [xAddr d, xRows d, xBpr d, xRstr d, fld d 368 368, xMembers d]

/-- A member joins the stream that gathers under its tag; one whose fields differ from the first member's ends with
BAD_PARAM (R110). -/
def joinStream (s : State) (p : Nat) (t : Task) : State :=
  let d := t.desc
  let n := corePart s p
  let mine (g : Gather) : Bool := g.part == n && g.share == xShare d && decide (g.members.length < xMembers g.desc)
  match s.gathers.find? mine with
  | none => { s with gathers := s.gathers ++ [{ part := n, share := xShare d, desc := d, members := [(p, t.id)] }] }
  | some g =>
    if sharedFields g.desc = sharedFields d then
      let join (x : Gather) : Gather := { x with members := x.members ++ [(p, t.id)] }
      { s with gathers := modIf (fun x => x == g) join s.gathers }
    else finishTask s p t.id .badParam 0

def runStreamIn (p : Nat) (s : State) (t : Task) : State :=
  if xShare t.desc = 0 then nextMove s p t else joinStream s p t

/-- STREAM_IN (R109–R111). -/
def execStreamIn (p : Nat) (s : State) : Out :=
  .next (issueAs s p 0x41 noRoot (grantCheck s p) (runStreamIn p))

def runStreamOut (p : Nat) (s : State) (t : Task) : State := nextMove s p t

/-- STREAM_OUT (R109, R111). -/
def execStreamOut (p : Nat) (s : State) : Out :=
  .next (issueAs s p 0x42 noRoot (grantCheck s p) (runStreamOut p))

/-! ## Shared streams (R110, R189) -/

/-- Bytes cut into rows of 64. -/
def rows64 (l : List Byte) : Nat → List (List Byte)
  | 0 => []
  | n + 1 => l.take 64 :: rows64 (l.drop 64) n

/-- Rows from number k on as a table. -/
def rowTable (l : List (List Byte)) : Tbl (List Byte) := l.mapIdx fun i x => (i, x)

/-- Address of 64-byte row k of a shared stream. -/
def streamAddr (d : Desc) (k : Nat) : Nat := remoteRow d (64 * k / xBpr d) + 64 * k % xBpr d

/-- Each member of a stream ends with a status. -/
def failMembers (s : State) (l : List (Nat × Nat)) (st : Status) : State :=
  each l (fun m s => failTask s m.1 m.2 st) s

/-- A stream ends before its time: its members end with a status. -/
def failStream (s : State) (x : BStream) (st : Status) : State :=
  failMembers { s with streams := s.streams.filter fun y => y.id != x.id } x.members st

/-- The fetch of a shared stream begins once its members have issued (R110): its rows are then read one by one at their home tiles
(R189). -/
def startShared (s : State) (n share : Nat) : State :=
  match s.gathers.find? fun g => g.part == n && g.share == share && decide (xMembers g.desc ≤ g.members.length) with
  | none => s
  | some g =>
    let d := g.desc
    -- the members have gathered: the wait of each is over (R66)
    let s := each g.members (fun m s => met s m.1 m.2) { s with gathers := s.gathers.filter (· != g) }
    let p := (g.members.headD (0, 0)).1
    match (List.range (xRows d)).findSome? fun r => pathStop s p (remoteRow d r) (xBpr d) with
    | some st => failMembers s g.members st
    | none =>
      let st : BStream :=
        { id := s.nextId, part := n, vc := dTc d, members := g.members, desc := some d, count := xRows d * xBpr d / 64,
          rows := [], taken := [], delivered := [], written := [], resent := [], root := none, failed := false }
      { s with streams := s.streams ++ [st], nextId := s.nextId + 1 }

/-- SHARED_STREAM_FETCH_START (R110). -/
def execSharedStreamFetchStart (part share : Nat) (s : State) : Out := .next (startShared s part share)

end Sys2Proof.Machine
end

