-- ==== Sys2Proof/Machine/TaskMsg.lean ====
section
/-! DEFINITION. The point-to-point family and its messages (R112–R117, R163, R176, R213). The order of announcements and the
contents of the message kinds are the model's (log 9, DESIGN CHOICE). -/

namespace Sys2Proof.Machine

def pRank (d : Desc) : Nat := fld d 95 64
def pBytes (d : Desc) : Nat := fld d 159 128
def pTag (d : Desc) : Nat := fld d 191 160
def pSlot (d : Desc) : Nat := fld d 229 224
def pWoff (d : Desc) : Nat := fld d 223 192
def pWgen (d : Desc) : Nat := fld d 243 232

/-- Where a rank of the RUN on core p is: panel and logical core. -/
def rankPlace (s : State) (p : Nat) (c : Core) (rank : Nat) : Option (Nat × Nat) :=
  c.run.bind fun r => rankTarget (tblGet [] (partAt s (corePart s p)).rmaps r.slot) rank

/-- A rank outside the job's range is refused at issue (R114). -/
def rankCheck (s : State) (p : Nat) (c : Core) (d : Desc) : Option Status :=
  if (rankPlace s p c (pRank d)).isSome then none else some .badParam

/-- The core of a rank's place: on this panel the one the catalogue names, elsewhere the remote key; none where no core is in
service. -/
def placeCoreOf (s : State) (pl : Nat × Nat) : Option Nat :=
  if pl.1 = panelId s then physOf s pl.2 else some (remoteCore pl.1 pl.2)

/-- The peer's tile can be reached (Table 06-12). -/
def reachable (s : State) (p peer : Nat) : Bool := isRemote peer || routeValid s (tileOf p) (tileOf peer)

/-- Send a request for a task; where no core or no route is in force it ends with DIE_LOST (Table 06-12). -/
def request (s : State) (p peer vc kind bytes : Nat) (id : Nat) (body : Body) : State :=
  if reachable s p peer then sendReq s p peer vc kind bytes (p, id) body else finishTask s p id .dieLost 0

/-- Replies to VC0 requests carry URG. -/
def urgent (k : Packet) : Bool := k.vc == 0

/-! ## SEND and RECV -/

/-- How many entries (rank, tag) counts so far. -/
def seqCount (l : List (Nat × Nat × Nat)) (rank tag : Nat) : Nat :=
  match l.find? fun e => e.1 == rank && e.2.1 == tag with
  | some e => e.2.2
  | none => 0

/-- One more (rank, tag). -/
def seqBump (l : List (Nat × Nat × Nat)) (rank tag : Nat) : List (Nat × Nat × Nat) :=
  (rank, tag, seqCount l rank tag + 1) :: l.filter fun e => !(e.1 == rank && e.2.1 == tag)

/-- The rank of the RUN on a core. -/
def ownRank (c : Core) : Nat :=
  match c.run with
  | some r => r.rank
  | none => 0

/-- Execution of SEND: the announcement (R113). -/
def runSend (p : Nat) (s : State) (t : Task) : State :=
  let c := coreAt s p
  let d := t.desc
  let n := seqCount c.sendSeq (pRank d) (pTag d)
  let s := modCore s p fun c => { c with sendSeq := seqBump c.sendSeq (pRank d) (pTag d) }
  match (rankPlace s p c (pRank d)).bind (placeCoreOf s) with
  | none => finishTask s p t.id .dieLost 0
  | some peer => request s p peer (dTc d) 0x05 16 t.id (.announce (p, t.id) (ownRank c) (pTag d) (pBytes d) n)

/-- SEND (R113, R114). -/
def execSend (p : Nat) (s : State) : Out := .next (issueAs s p 0x50 noRoot (rankCheck s p) (runSend p))

/-- A RECV and an announcement match (R113). -/
def matches_ (t : Task) (a : Announce) : Bool :=
  t.opcode == 0x51 && !t.finished && t.peer.isNone && pRank t.desc == a.srcRank && pTag t.desc == a.tag && t.collSeq == a.nth

/-- A matched RECV asks for the data (R113, R176). -/
def pullData (s : State) (p id : Nat) (a : Announce) : State :=
  match taskOf (coreAt s p) id with
  | none => s
  | some t =>
    let cap := pBytes t.desc
    let s := modTask (met s p id) p id fun t =>
      { t with peer := some a.src, peerUrg := a.urg, progress := 0, pendingStatus := if cap < a.bytes then some .truncated else none }
    let first := s.nextId
    let body : Body := .pull (p, id) a.src cap
    let frames : List Frame := if isRemote a.src.1 then [bodyFrame s p a.src.1 (dTc t.desc) none body] else []
    let s := request s p a.src.1 (dTc t.desc) 0x06 8 id body
    addReq s (.task p id) (if frames.isEmpty then packetsFrom s first else []) frames

/-- Execution of RECV. -/
def runRecv (p : Nat) (s : State) (t : Task) : State :=
  let c := coreAt s p
  let d := t.desc
  let n := seqCount c.recvSeq (pRank d) (pTag d)
  let s := modTask (modCore s p fun c => { c with recvSeq := seqBump c.recvSeq (pRank d) (pTag d) }) p t.id fun t =>
    { t with collSeq := n }
  match c.announces.find? (matches_ { t with collSeq := n }) with
  | some a => pullData (modCore s p fun c => { c with announces := c.announces.filter (· != a) }) p t.id a
  | none =>
    -- a peer on a fenced die sends nothing more (R339)
    if ((rankPlace s p c (pRank d)).bind (placeCoreOf s)).any fun q => !isRemote q && dieFenced s (tileOf q) (siteOf q) then
      finishTask s p t.id .dieLost 0
    else s

/-- RECV (R113, R114). -/
def execRecv (p : Nat) (s : State) : Out := .next (issueAs s p 0x51 noRoot (rankCheck s p) (runRecv p))

/-- An announcement reaches its NI: it meets its RECV, is held, or waits while 64 are held (R113). -/
def takeAnnounce (s : State) (k : Packet) (a : Announce) : State :=
  let p := dstCore k
  let c := coreAt s p
  match c.window.find? fun t => matches_ t a with
  | some t => pullData (dropPacket s k.id) p t.id a
  | none =>
    if c.announces.length < 64 then
      modCore (dropPacket s k.id) p fun c => { c with announces := c.announces ++ [a] }
    else s

/-- MSG_ANNOUNCE (R113). -/
def execMsgAnnounce (id : Nat) (s : State) : Out :=
  .next (match arrived s id with
    | some k => match k.body with
      | .announce src r tag n nth => takeAnnounce s k ⟨src, r, tag, n, urgent k, nth⟩
      | _ => s
    | none => s)

/-- The part of a message that lies before the row of a failing word (R114). -/
def goodBytes (l : Loc) (f : MemKind × Nat) : Nat := 4 * (f.2 / 16 * 16 - l.word)

/-- Data offset and bytes of a packet that a SEND or PUT task sends (R114, R115). -/
def dataOf (me : Nat × Nat) (woff : Nat) : Body → Option (Nat × Nat)
  | .data _ sender off bs _ => if sender = me then some (off, bs.length) else none
  | .putData sender _ _ _ off _ _ _ _ bs => if sender = me then some (off - woff, bs.length) else none
  | _ => none

/-- The frames of a task's data that still wait for their numbers: data offset and bytes of one (log 9, Table 07-10). -/
def dataOfFrame (s : State) (p : Nat) (t : Task) (f : Frame) : Option (Nat × Nat) :=
  if t.opcode = 0x50 ∧ f.kind = 0x07 ∧ (t.peer.any fun r => f.tag == r.2 % 4096 && f.dstLcore == r.1 % 4096) then
    some (leNat (f.data.take 4), f.data.length - 8)
  else if t.opcode = 0x52 ∧ f.kind = 0x09 ∧ f.tag = taskTag t.id ∧ logOf s p = some f.srcLcore then
    some (leNat (f.data.take 16) / 2 ^ 96 - pWoff t.desc, f.data.length - 16)
  else none

/-- Data offset and bytes of a packet of a task, on the panel or on its way to an edge port. -/
def packetData (s : State) (p : Nat) (t : Task) : Body → Option (Nat × Nat)
  | .toPort f _ => dataOfFrame s p t f
  | b => dataOf (p, t.id) (pWoff t.desc) b

/-- Data of a task from byte n on that has not reached its destination. -/
def unsentPast (s : State) (p : Nat) (t : Task) (n : Nat) : Bool :=
  let past (x : Option (Nat × Nat)) : Bool := x.any fun e => decide (n < e.1 + e.2)
  s.packets.any (fun k => !k.delivered && past (packetData s p t k.body)) ||
    s.fabric.tx.any fun x => x.waiting.any fun f => past (dataOfFrame s p t f)

/-- Data of a task from byte n on is not sent: a SEND's packet is cut there, a PUT's packet that would pass it is dropped
(R114, R115). -/
def unsend (s : State) (p : Nat) (t : Task) (n : Nat) : State :=
  let keep (x : Option (Nat × Nat)) : Bool := match x with
    | some (off, len) => decide (off + len ≤ n) || (t.opcode == 0x50 && decide (off < n))
    | none => true
  let cutFrame (f : Frame) : Frame := match dataOfFrame s p t f with
    | some (off, len) => if t.opcode = 0x50 ∧ n < off + len then { f with data := f.data.take (8 + (n - off)) } else f
    | none => f
  let cut (b : Body) : Body := match b with
    | .data r sender off bs last =>
      if sender = (p, t.id) ∧ n < off + bs.length then .data r sender off (bs.take (n - off)) false else .data r sender off bs last
    | .toPort f w => .toPort (cutFrame f) w
    | b => b
  let tx := s.fabric.tx.map fun x =>
    { x with waiting := (x.waiting.filter fun f => keep (dataOfFrame s p t f)).map cutFrame }
  { s with packets := (s.packets.filter fun k => k.delivered || keep (packetData s p t k.body)).map fun k =>
             if k.delivered then k else { k with body := cut k.body },
           fabric := { s.fabric with tx := tx } }

/-- Data bytes of a MSG_DATA: a packet's 256, or what a frame leaves beside its two prefix words (R162, R486; log 9). -/
def pieceRoom (recv : Nat × Nat) : Nat := if isRemote recv.1 then 248 else 256

/-- MSG_DATA packets for bytes `off` on. -/
def sendData (s : State) (p : Nat) (recv sender : Nat × Nat) (urg : Bool) (total : Nat) (off : Nat) (bs : List Byte) :
    Nat → State
  | 0 => s
  | k + 1 =>
    let part := bs.take (pieceRoom recv)
    let last := decide (off + part.length = total)
    let s := sendReply s p recv 0x07 part.length urg (.data recv sender off part last)
    sendData s p recv sender urg total (off + part.length) (bs.drop (pieceRoom recv)) k

/-- The sender's NI answers a pull with the data, or up to the row that fails (R114). -/
def answerPull (s : State) (k : Packet) (recv sender : Nat × Nat) (cap : Nat) : State :=
  let p := sender.1
  let s := dropPacket s k.id
  match taskOf (coreAt s p) sender.2 with
  | some t =>
    if t.opcode = 0x50 ∧ !t.finished then
      let total := min (pBytes t.desc) cap
      let l := locAt t 0
      let acc := [byteAcc false l.kind l.word total]
      let s := modTask (met s p t.id) p t.id fun t =>
        { t with peer := some recv, peerUrg := urgent k, pendingStatus := if cap < pBytes t.desc then some .truncated else none }
      let s := seeAccesses s p t.id acc
      let c := coreAt s p
      match accFail c false acc with
      | some f =>
        let bs := spdRead c l.kind l.word 0 (goodBytes l f)
        let s := sendData s p recv sender (urgent k) total 0 bs (ceilDiv bs.length (pieceRoom recv))
        let s := sendReply s p recv 0x10 4 (urgent k) (.nack (.task recv.1 recv.2) .eccUncorrectable)
        eccTask s p t f
      | none =>
        sendData s p recv sender (urgent k) total 0 (spdRead c l.kind l.word 0 total) (ceilDiv total (pieceRoom recv))
    else s
  | none => s

/-- MSG_PULL (R113, R114). -/
def execMsgPull (id : Nat) (s : State) : Out :=
  .next (match arrived s id with
    | some k => match k.body with
      | .pull recv sender cap => answerPull s k recv sender cap
      | _ => s
    | none => s)

/-- Message data is written in order; the last byte commits the RECV and tells the sender (R114). A packet after a gap is
dropped: its request is issued again (R176). -/
def takeData (s : State) (k : Packet) (recv sender : Nat × Nat) (off : Nat) (bs : List Byte) (last : Bool) : State :=
  let p := recv.1
  let s := dropPacket s k.id
  match taskOf (coreAt s p) recv.2 with
  | some t =>
    if t.opcode = 0x51 ∧ !t.finished ∧ off ≤ t.progress ∧ t.peer = some sender then
      let l := locAt t 0
      let s := seeAccesses s p t.id [byteAcc true l.kind (l.word + off / 4) bs.length]
      let s := modCore s p fun c => spdWrite c l.kind l.word off bs
      let upto := max t.progress (off + bs.length)
      let s := modTask s p t.id fun t => { t with progress := upto }
      if last ∧ off + bs.length = upto then
        let s := endReqs s (.task p t.id)
        let st := t.pendingStatus.getD .ok
        let s := finishOk s p t.id 0 []
        sendReply s p sender 0x08 4 t.peerUrg (.done sender st)
      else s
    else s
  | none => s

/-- MSG_DATA (R114). -/
def execMsgData (id : Nat) (s : State) : Out :=
  .next (match arrived s id with
    | some k => match k.body with
      | .data recv sender off bs last => takeData s k recv sender off bs last
      | _ => s
    | none => s)

/-- MSG_DONE (R114): the last byte is written, and the SEND commits. -/
def execMsgDone (id : Nat) (s : State) : Out :=
  .next (match arrived s id with
    | some k => match k.body with
      | .done sender st =>
        modTask (dropPacket s id) sender.1 sender.2 fun t =>
          if t.opcode == 0x50 && !t.finished then { t with finished := true, status := st } else t
      | _ => s
    | none => s)

/-- A refusal reaches what waits for the answer: it ends with the status the NACK carries (R163). -/
def takeNack (s : State) (who : Asker) (st : Status) : State :=
  match who with
  | .aperture .. => if s.reqs.any fun r => r.isOf who then endAsker (endReqs s who) who st else s
  | .fetch _ => if s.reqs.any fun r => r.isOf who then endAsker (endReqs s who) who st else s
  | _ => endAsker (endReqs s who) who st

/-- NACK (R163). -/
def execNack (id : Nat) (s : State) : Out :=
  .next (match arrived s id with
    | some k => match k.body with
      | .nack who st => takeNack (dropPacket s id) who st
      | _ => s
    | none => s)

/-! ## PUT (R115, R212) -/

/-- The packets of a PUT from data offset `off` on, 240 bytes each. -/
def putBodies (me : Nat × Nat) (l slot wgen woff total srank : Nat) (bs : List Byte) (off : Nat) : Nat → List Body
  | 0 => []
  | k + 1 =>
    let part := bs.take 240
    .putData me l slot wgen (woff + off) (if off = 0 then total else 0) srank (off == 0)
        (decide (off + part.length = total)) part ::
      putBodies me l slot wgen woff total srank (bs.drop 240) (off + part.length) k

/-- Send a PUT from its first packet on: every byte up to a source row that fails (R115). -/
def sendPut (s : State) (p : Nat) (t : Task) : State :=
  let d := t.desc
  let c := coreAt s p
  let pl := rankPlace s p c (pRank d)
  match pl, pl.bind (placeCoreOf s) with
  | some (_, lc), some peer =>
    let l := locAt t 0
    let total := pBytes d
    let acc := [byteAcc false l.kind l.word total]
    let s := seeAccesses s p t.id acc
    let c := coreAt s p
    let fail := accFail c false acc
    -- packets that end before the failing row
    let good := match fail with
      | some f => goodBytes l f / 240 * 240
      | none => total
    let bodies := putBodies (p, t.id) lc (pSlot d) (pWgen d) (pWoff d) total (ownRank c)
      (spdRead c l.kind l.word 0 good) 0 (ceilDiv good 240)
    let first := s.nextId
    let frames : List Frame :=
      if isRemote peer then bodies.map fun b => bodyFrame s p peer (dTc d) none b else []
    let s := each bodies (fun b s => request s p peer (dTc d) 0x09 (16 + match b with
      | .putData _ _ _ _ _ _ _ _ _ bs => bs.length
      | _ => 0) t.id b) s
    match fail with
    | some f => eccTask s p t f
    | none => addReq s (.task p t.id) (if frames.isEmpty then packetsFrom s first else []) frames
  | _, _ => finishTask s p t.id .dieLost 0

def runPut (p : Nat) (s : State) (t : Task) : State := sendPut s p t

/-- PUT (R115). -/
def execPut (p : Nat) (s : State) : Out := .next (issueAs s p 0x52 noRoot (rankCheck s p) (runPut p))

/-! ## WINDOW_WAIT (R116) -/

/-- A wait on a slot that is not open is refused at issue. -/
def slotCheck (s : State) (p : Nat) (_ : Core) (d : Desc) : Option Status :=
  match logOf s p with
  | some l => if (winAt s l (pSlot d)).isOpen then none else some .badParam
  | none => some .badParam

def runWindowWait (p : Nat) (s : State) (t : Task) : State :=
  match logOf s p with
  | some l => serveWaits s l (pSlot t.desc)
  | none => s

/-- WINDOW_WAIT (R116). -/
def execWindowWait (p : Nat) (s : State) : Out :=
  .next (issueAs s p 0x53 noRoot (slotCheck s p) (runWindowWait p))

end Sys2Proof.Machine
end

