-- ==== Sys2Proof/Machine/TaskCollective.lean ====
section
/-! DEFINITION. Barrier groups, the reduction tree, collectives at a member, and fast reduction (R118–R121, R218–R235). -/

namespace Sys2Proof.Machine

def kGroup (d : Desc) : Nat := fld d 69 64
def kCount (d : Desc) : Nat := fld d 191 160
def kRoot (d : Desc) : Nat := fld d 223 192
def kFmtIn (d : Desc) : Nat := fld d 228 224
def kOp (d : Desc) : Nat := fld d 242 240
def kFast (d : Desc) : Bool := fld d 247 247 = 1

/-! ## The tree (R226, R227) -/

/-- Largest power of two less than n, n ≥ 2. -/
def halfPow (n : Nat) : Nat := 2 ^ Nat.log2 (n - 1)

/-- Nodes from the range (lo, n) down to a member: (node, its left child leads on). -/
def treePath (m : Nat) : Nat → Nat → Nat → List (Nat × Bool)
  | 0, _, _ => []
  | f + 1, lo, n =>
    if n ≤ 1 then []
    else
      let h := halfPow n
      if m < lo + h then (lo + h, true) :: treePath m f lo h else (lo + h, false) :: treePath m f (lo + h) (n - h)

/-- The path from the root to member m of a group of g. -/
def memberPath (g m : Nat) : List (Nat × Bool) := treePath m 13 0 g

/-- The node that a member's contributions go to, and its side. -/
def leafParent (g m : Nat) : Option (Nat × Bool) := (memberPath g m).getLast?

/-- The parent of node k and k's side; none for the root. -/
def nodeParent (g k : Nat) : Option (Nat × Bool) := ((memberPath g k).takeWhile fun e => e.1 != k).getLast?

def rootNode (g : Nat) : Nat := halfPow g

/-- The range (lo, n) that node k computes, below (lo, n) (R226). -/
def nodeRange (k : Nat) : Nat → Nat → Nat → Option (Nat × Nat)
  | 0, _, _ => none
  | f + 1, lo, n =>
    if n ≤ 1 then none
    else
      let h := halfPow n
      if k = lo + h then some (lo, n) else if k < lo + h then nodeRange k f lo h else nodeRange k f (lo + h) (n - h)

/-- What stands below a node: a member, or a node. -/
inductive RedKid where
  | member (m : Nat)
  | node (k : Nat)
deriving DecidableEq, Repr

/-- The child that computes reduce(lo, n). -/
def kidOf (lo n : Nat) : RedKid := if n = 1 then .member lo else .node (lo + halfPow n)

/-- Tile of a member: where its physical core is. -/
def memberTile (s : State) (g : Group) (m : Nat) : Nat :=
  let l := g.members.getD m 0
  tileOf ((physOf s l).getD (homePhys l))

/-- The rectangle's north-west tile (R224). -/
def cornerTile (s : State) (members : List Nat) : Nat :=
  let ts := members.map fun l => tileOf ((physOf s l).getD (homePhys l))
  ts.foldl (fun a t => min a (t / 4)) 3 * 4 + ts.foldl (fun a t => min a (t % 4)) 3

/-- The barrier root tile of a group. -/
def groupRoot (s : State) (g : Group) : Nat := if g.expertRoot then g.rootTile else cornerTile s g.members

/-- Codes of the fast mode's units: the unit of a tile, and of the root tile (R233). -/
def fastTile (t : Nat) : Nat := 4096 + t
def fastRoot : Nat := 8192

/-- Where a node's unit is: tile and instance (R227, R233). -/
def nodePlace (s : State) (g : Group) (node elem : Nat) : Nat × Nat :=
  if node = fastRoot then (groupRoot s g, elem / 20 % 16)
  else if fastTile 0 ≤ node then (node - fastTile 0, elem / 20 % 16)
  else (memberTile s g node, node % 16)

/-- The children of a unit's node: those of the tree (R226), the tile units below the root tile's, the members of a tile (R233). -/
def nodeKids (s : State) (g : Group) (node : Nat) : List RedKid :=
  let ms := List.range g.members.length
  if node = fastRoot then (ms.map (memberTile s g)).eraseDups.map fun t => .node (fastTile t)
  else if fastTile 0 ≤ node then (ms.filter fun m => memberTile s g m == node - fastTile 0).map .member
  else match nodeRange node 13 0 g.members.length with
    | some (lo, n) => let h := halfPow n; [kidOf lo h, kidOf (lo + h) (n - h)]
    | none => []

/-! ## Signatures (Table 08-3) -/

def ckindOf (op : Nat) : Nat := op - 0x60

/-- Bits [50:0] of the prefix. -/
def signature (g : Group) (d : Desc) : BitVec 51 :=
  let o := dOpcode d
  let root := if o = 0x61 then 0 else kRoot d - g.first
  BitVec.ofNat 51 (root * 2 ^ 39 + (kCount d - 1) * 2 ^ 15 + fld d 236 232 * 2 ^ 10 + kFmtIn d * 32 +
    flagAt (kFast d) 4 + bits (kOp d) 1 0 * 4 + ckindOf o)

def sigKind (x : BitVec 51) : Nat := bits x.toNat 1 0
def sigOp (x : BitVec 51) : Nat := bits x.toNat 3 2
def sigFast (x : BitVec 51) : Bool := bit x.toNat 4
def sigCount (x : BitVec 51) : Nat := bits x.toNat 38 15 + 1
def sigRoot (x : BitVec 51) : Nat := bits x.toNat 50 39

/-- Packets of a collective. -/
def sigPackets (x : BitVec 51) : Nat := if sigKind x = 2 then 1 else ceilDiv (sigCount x) 20

/-! ## Combining (R226) -/

def combineElem (op : Nat) (a b : BitVec 96) : BitVec 96 × AFlags :=
  let x := decodePs96 a.toNat
  let y := decodePs96 b.toNat
  let r := if op = 0 then addPs96 x.1 y.1 else if op = 1 then maxV x.1 y.1 else minV x.1 y.1
  (BitVec.ofNat 96 (encodePs96 r.1), x.2 ||| y.2 ||| r.2)

def combine (a b : RedVal) : RedVal :=
  let rs := (a.vals.zip b.vals).map fun e => combineElem (sigOp a.sig) e.1 e.2
  { vals := rs.map (·.1), aflags := a.aflags ||| b.aflags ||| flagsOf rs, sig := a.sig }

/-! ## Packets -/

/-- Prefix and values. -/
def redBytes (n : Nat) : Nat := 16 + 12 * n

/-- From a reduction unit to another; `who` is the tile whose sum it is, in fast mode. -/
def sendPart (s : State) (key : Nat) (g : Group) (vc tag fromTile fromInst node seq elem who : Nat) (left : Bool) (v : RedVal)
    (mismatch : Bool) : State :=
  let pl := nodePlace s g node elem
  inject s (key / 64) vc 0x0B 1 (fromTile * 512 + fromInst) 1 (pl.1 * 512 + pl.2) (redBytes v.vals.length) false tag
    (.redPart key seq node elem who left v mismatch)

/-- From a unit to a member. -/
def sendResult (s : State) (key : Nat) (g : Group) (vc tag fromTile fromInst m seq elem : Nat) (v : RedVal)
    (mismatch final : Bool) : State :=
  match physOf s (g.members.getD m 0) with
  | some p => inject s (key / 64) vc 0x0C 1 (fromTile * 512 + fromInst) 0 (pcoreCode p) (redBytes v.vals.length) false tag
      (.redResult key seq 0 m elem v mismatch final)
  | none => s

/-- Down the tree: from a node's unit to each of its children (R228, R230). -/
def sendDown (s : State) (key : Nat) (g : Group) (vc tag fromTile fromInst node seq elem : Nat) (v : RedVal)
    (mismatch final : Bool) : State :=
  each (nodeKids s g node) (fun x s => match x with
    | .member m => sendResult s key g vc tag fromTile fromInst m seq elem v mismatch final
    | .node k =>
      let pl := nodePlace s g k elem
      inject s (key / 64) vc 0x0C 1 (fromTile * 512 + fromInst) 1 (pl.1 * 512 + pl.2) (redBytes v.vals.length) false tag
        (.redResult key seq k 0 elem v mismatch final)) s

/-! ## A member's collective -/

/-- The group of a collective, and the member index of core p in it (R223). -/
def memberOf (s : State) (p : Nat) (c : Core) (d : Desc) : Option (Nat × Group × Nat) :=
  c.run.bind fun r =>
    let key := groupKey (corePart s p) (kGroup d)
    (groupAt s key).bind fun g =>
      if g.slot = r.slot ∧ g.closing = none ∧ g.first ≤ r.rank ∧ (logOf s p).isSome ∧
          g.members[r.rank - g.first]? = logOf s p then some (key, g, r.rank - g.first)
      else none

/-- MISMATCH of a collective that this member has not issued yet has arrived (R229). -/
def mismatched (s : State) (key seq m : Nat) : Bool :=
  s.packets.any fun k => k.delivered && (match k.body with
    | .redResult a b 0 c _ _ mm _ => a == key && b == seq && c == m && mm
    | _ => false)

/-- Issue checks of a collective (R119, R121, R223, R118). -/
def collCheck (s : State) (p : Nat) (c : Core) (d : Desc) : Option Status :=
  let o := dOpcode d
  let fastOk := match c.run with
    | some r => r.fastOk
    | none => false
  match memberOf s p c d with
  | none => some .notPermitted
  | some (_, g, _) =>
    let root := isRootRank c d
    firstOf [(kFast d && !fastOk, .notPermitted),
      ((o == 0x60 || o == 0x62) && !decide (g.first ≤ kRoot d ∧ kRoot d < g.first + g.members.length), .badParam),
      ((o == 0x60 || o == 0x61) && (fmtMx (dFmtOut d) || dFmtOut d == 0x10), .badParam),
      (o == 0x60 && !root && fld d 159 128 != 0, .badParam),
      (o == 0x62 && ((root && fld d 159 128 != 0) || (!root && fld d 127 96 != 0)), .badParam),
      ((o == 0x62 || o == 0x63) && fld d 239 224 != 0, .badParam)]

/-- The member's next data sequence number (R222). -/
def takeSeq (s : State) (p : Nat) (t : Task) (key : Nat) (g : Group) (m : Nat) : State × Nat :=
  let n := g.seqs.getD m 0
  (modTask (modGroup s key fun g => { g with seqs := g.seqs.set m ((n + 1) % 65536) }) p t.id fun t =>
    { t with collSeq := n, coll := some key }, n)

/-- A member of the group lies on a fenced die (R234). -/
def groupFenced (s : State) (g : Group) : Bool :=
  g.members.any fun l => (physOf s l).any fun p => dieFenced s (tileOf p) (siteOf p)

/-- Place of the result, and its stream (R310). -/
def collStream (t : Task) (c : Core) : List Byte :=
  let l := locAt t 1
  streamRows c l 0 1 (dFmtOut t.desc) (kCount t.desc)

/-- A data collective ends well on a member; one that writes no output feeds nothing (R310). -/
def finishColl (s : State) (p : Nat) (t : Task) (writes : Bool) : State :=
  let s := met s p t.id
  if writes then finishOk s p t.id 0 (collStream t (coreAt s p))
  else modTask (finishOk s p t.id 0 []) p t.id fun t => { t with feed := .none }

/-- The member's converted inputs. -/
def collInput (c : Core) (t : Task) : List FVal :=
  let l := locAt t 0
  rowVals c l 0 (kFmtIn t.desc) 0 (kCount t.desc)

/-- Send the contributions of 20 elements each to a node (R228). -/
def sendParts (s : State) (p : Nat) (t : Task) (key : Nat) (g : Group) (m seq : Nat) (sig : BitVec 51) (elem : Nat)
    (vs : List FVal) : Nat → State
  | 0 => s
  | k + 1 =>
    let now := vs.take 20
    let v : RedVal := { vals := now.map fun v => BitVec.ofNat 96 (encodePs96 v.1), aflags := flagsOf now, sig := sig }
    let (node, left) : Nat × Bool :=
      if kFast t.desc then (fastTile (tileOf p), true) else (leafParent g.members.length m).getD (0, true)
    let pl := nodePlace s g node elem
    let s := inject s (key / 64) (dTc t.desc) 0x0B 0 (pcoreCode p) 1 (pl.1 * 512 + pl.2) (redBytes now.length) false
      (taskTag t.id) (.redPart key seq node elem m left v false)
    sendParts s p t key g m seq sig (elem + 20) (vs.drop 20) k

/-- Execution of REDUCE and ALLREDUCE at a member (R120, R223, R228). -/
def runReduce (p : Nat) (s : State) (t : Task) : State :=
  let c := coreAt s p
  let d := t.desc
  match memberOf s p c d with
  | none => finishTask s p t.id .notPermitted 0
  | some (key, g, m) =>
    let (s, seq) := takeSeq s p t key g m
    if mismatched s key seq m then finishTask s p t.id .badParam 0
    else if groupFenced s g then finishTask s p t.id .dieLost 0
    else
      let l := locAt t 0
      let acc := [elemAcc false l.kind l.word (kFmtIn d) 0 (kCount d)]
      let s := seeAccesses s p t.id acc
      let c := coreAt s p
      match accFail c false acc with
      | some f => eccTask s p t f
      | none =>
        let s := if kFast d then modTask s p t.id fun t => { t with aflags := t.aflags ||| fNonrepro } else s
        let vs := collInput c t
        if g.members.length = 1 then
          -- a group of one member completes locally
          let o := locAt t 1
          let oacc := [elemAcc true o.kind o.word (dFmtOut d) 0 (kCount d)]
          let s := seeAccesses s p t.id oacc
          let r := putOut (coreAt s p) t o.kind o.word 0 0 vs
          let s := setCore s p r.1
          match accFail (coreAt s p) true oacc with
          | some f => eccTask s p t f
          | none => finishOk s p t.id r.2 (collStream t (coreAt s p))
        else sendParts s p t key g m seq (signature g d) 0 vs (ceilDiv vs.length 20)

/-- REDUCE (R230). -/
def execReduce (p : Nat) (s : State) : Out := .next (issueAs s p 0x60 isRootRank (collCheck s p) (runReduce p))
/-- ALLREDUCE (R230). -/
def execAllreduce (p : Nat) (s : State) : Out := .next (issueAs s p 0x61 isRootRank (collCheck s p) (runReduce p))

/-- Execution of BROADCAST: the signature goes up the tree (R232). -/
def runBroadcast (p : Nat) (s : State) (t : Task) : State :=
  let c := coreAt s p
  match memberOf s p c t.desc with
  | none => finishTask s p t.id .notPermitted 0
  | some (key, g, m) =>
    let (s, seq) := takeSeq s p t key g m
    if mismatched s key seq m then finishTask s p t.id .badParam 0
    else if groupFenced s g then finishTask s p t.id .dieLost 0
    else if g.members.length = 1 then finishOk s p t.id 0 []
    else sendParts s p t key g m seq (signature g t.desc) 0 [] 1

/-- BROADCAST (R232). -/
def execBroadcast (p : Nat) (s : State) : Out :=
  .next (issueAs s p 0x62 isRootRank (collCheck s p) (runBroadcast p))

/-! ## Synchronisation lanes (R185, R186, R224) -/

/-- The tiles that a route leaves, with the edge it leaves by. -/
def routeHops (t : Nat) : List Nat → List (Nat × Nat)
  | [] => []
  | c :: cs => (t, c) :: match neighbour t c with
    | some u => routeHops u cs
    | none => []

/-- The inter-tile links between a core's tile and a group's root. The spec gives their number on a shortest path and not their order:
here that of the default route (log 82, DESIGN CHOICE). -/
def syncHops (s : State) (g : Group) (p : Nat) : List (Nat × Nat) := routeHops (tileOf p) (defaultRoute (tileOf p) (groupRoot s g))

/-- The receivers that the arrive lane of a core passes on its way to the root (R224). -/
def arrivePath (s : State) (g : Group) (p : Nat) : List SyncRef :=
  .site (tileOf p) (siteOf p) :: (syncHops s g p).filterMap fun h => (neighbour h.1 h.2).map fun u => .inter u (opposite h.2)

/-- The receivers that the release lane passes on its way from the root to a core. -/
def releasePath (s : State) (g : Group) (p : Nat) : List SyncRef :=
  (syncHops s g p).map (fun h => .inter h.1 h.2) ++ [.diePort (tileOf p) (siteOf p)]

/-- The physical core of member m. -/
def memberCore (s : State) (g : Group) (m : Nat) : Nat := let l := g.members.getD m 0; (physOf s l).getD (homePhys l)

/-- Levels combined: p where every one shows p, else the phase before (R224). -/
def combined (levels : List Bool) (before : Bool) : Bool :=
  if levels.all id then true else if levels.all (!·) then false else before

/-- A receiver's present sample has an error: a sample lasts 2.67 ns (R185). -/
def badSample (s : State) (r : SyncRef) : Option SyncLanes :=
  (s.syncErr.find? fun e => e.1 == r && decide (s.time < e.2.1 + 3)).map fun e => e.2.2

/-- The arrive level of member m as the root hub sees it: a receiver with an error keeps the level of the sample before (R186). -/
def memberLevel (s : State) (key : Nat) (g : Group) (m : Nat) : Bool :=
  match (arrivePath s g (memberCore s g m)).findSome? (badSample s) with
  | some x => bit x.arrive.toNat (key % 64)
  | none => g.arrive.getD m false

/-- The root hub combines the arrive phases of a group (R224 steps 3 and 4). -/
def combinePhase (s : State) (key : Nat) : State :=
  modGroup s key fun g => { g with phase := combined ((List.range g.members.length).map (memberLevel s key g)) g.phase }

/-- The tile of a receiver. -/
def syncTile : SyncRef → Nat
  | .diePort t _ => t
  | .site t _ => t
  | .inter t _ => t

/-- What the lanes to a receiver carry: on each group's arrive lane the combined phase of the members below it, on its release lane the
root's phase, the check bits and panel time (R185, R187). -/
def liveLanes (s : State) (r : SyncRef) : SyncLanes :=
  let level (f : Nat → Group → Bool) : BitVec 64 := BitVec.ofNat 64 ((List.range 64).foldl (fun a i =>
    match (partOfTile s (syncTile r)).bind fun n => groupAt s (groupKey n i) with
    | some g => a + flagAt (f i g) i
    | none => a) 0)
  let below (g : Group) : List Nat := (List.range g.members.length).filter fun m => (arrivePath s g (memberCore s g m)).contains r
  let above (g : Group) : Bool := (List.range g.members.length).any fun m => (releasePath s g (memberCore s g m)).contains r
  let up := level fun _ g => !(below g).isEmpty && combined ((below g).map fun m => g.arrive.getD m false) g.phase
  let down := level fun _ g => above g && g.phase
  { arrive := up, release := down, checkUp := Config.syncCheck up, checkDown := Config.syncCheck down, time := s.time }

/-- Execution of BARRIER: the member's arrive phase toggles, and the root combines (R224). In a group of one it completes
locally (R223). -/
def runBarrier (p : Nat) (s : State) (t : Task) : State :=
  match memberOf s p (coreAt s p) t.desc with
  | none => finishTask s p t.id .notPermitted 0
  | some (key, g, m) =>
    let s := modTask s p t.id fun t =>
      { t with coll := some key, collSeq := (!(g.arrive.getD m false)).toNat }
    if groupFenced s g then finishTask s p t.id .dieLost 0
    else
      let s := combinePhase (modGroup s key fun g => { g with arrive := g.arrive.set m (!(g.arrive.getD m false)) }) key
      if g.members.length = 1 then
        finishOk (modGroup s key fun g => { g with release := g.arrive }) p t.id 0 []
      else s

/-- BARRIER (R224). -/
def execBarrier (p : Nat) (s : State) : Out := .next (issueAs s p 0x63 noRoot (collCheck s p) (runBarrier p))

/-- The release phase reaches a member (R224); it acts on no sample with an error (R186). -/
def releaseBarrier (s : State) (p n : Nat) : State :=
  let key := groupKey (corePart s p) n
  let s := combinePhase s key
  match groupAt s key with
  | none => s
  | some g =>
    match memberIndex s g p with
    | none => s
    | some m =>
      if (releasePath s g p).any fun r => (badSample s r).isSome then s else
      let s := modGroup s key fun g => { g with release := g.release.set m g.phase }
      if g.phase = g.arrive.getD m false ∧ !groupFenced s g then
        each ((coreAt s p).window.filter fun t => t.opcode == 0x63 && kGroup t.desc == n && !t.finished)
          (fun t s => finishTask (met s p t.id) p t.id .ok 0) s
      else s

/-- BARRIER_RELEASE (R224). -/
def execBarrierRelease (p group : Nat) (s : State) : Out := .next (releaseBarrier s p group)

/-! ## Reduction units (R228, R229, R233) -/

def redOf (s : State) (key seq node elem : Nat) : Option RedNode :=
  s.nodes.find? fun n => n.group == key && n.seq == seq && n.node == node && n.elem == elem

/-- Replace a unit's entry; entries of collectives 8 sequence numbers old are gone (R222). -/
def putRed (s : State) (n : RedNode) : State :=
  let same (x : RedNode) : Bool := x.group == n.group && x.seq == n.seq && x.node == n.node && x.elem == n.elem
  let old (x : RedNode) : Bool := x.group == n.group && decide (8 ≤ (n.seq + 65536 - x.seq) % 65536)
  { s with nodes := n :: s.nodes.filter fun x => !same x && !old x }

/-- The entry under which the root remembers that it has sent MISMATCH down. -/
def mismatchElem : Nat := 2 ^ 24

/-- MISMATCH goes down the whole tree once (R229). -/
def sendMismatch (s : State) (key : Nat) (g : Group) (k : Packet) (seq : Nat) (v : RedVal) : State :=
  match redOf s key seq 0 mismatchElem with
  | some _ => s
  | none =>
    let s := putRed s { group := key, seq := seq, node := 0, elem := mismatchElem, left := none, right := none, taken := 0,
                        from_ := [], answered := true }
    sendDown s key g k.vc k.tag (k.dst / 512) (k.dst % 512) (rootNode g.members.length) seq 0 { v with vals := [] } true false

/-- A unit has found that signatures differ: MISMATCH goes to the root node at once (R229). -/
def tellMismatch (s : State) (key : Nat) (g : Group) (k : Packet) (node seq elem : Nat) (v : RedVal) : State :=
  let root := rootNode g.members.length
  if node = root then sendMismatch s key g k seq v
  else sendPart s key g k.vc k.tag (k.dst / 512) (k.dst % 512) root seq elem 0 true { v with vals := [] } true

/-- The root has a packet's result (R230, R232): ALLREDUCE sends it down the tree; REDUCE and BROADCAST tell the root member,
and the final packet of REDUCE goes down the tree. -/
def rootResult (s : State) (key : Nat) (g : Group) (k : Packet) (seq node elem : Nat) (v : RedVal) : State :=
  let t := k.dst / 512
  let i := k.dst % 512
  let kind := sigKind v.sig
  if kind = 1 then sendDown s key g k.vc k.tag t i node seq elem v false false
  else
    let s := sendResult s key g k.vc k.tag t i (sigRoot v.sig) seq elem v false false
    let done := s.nodes.filter fun n => n.group == key && n.seq == seq && n.node == node && n.answered
    if kind = 0 ∧ done.length = sigPackets v.sig then
      let flag (n : RedNode) : AFlags := match n.left, n.right with
        | some a, some b => (combine a b).aflags
        | some a, none => a.aflags
        | none, _ => 0
      sendDown s key g k.vc k.tag t i node seq 0
        { v with vals := [], aflags := done.foldl (fun (a : AFlags) n => a ||| flag n) v.aflags } false true
    else s

/-- Both children of a tree node are present: combine, and send up or down (R228). -/
def answerNode (s : State) (key : Nat) (g : Group) (k : Packet) (n : RedNode) (a b : RedVal) : State :=
  let size := g.members.length
  let v := combine a b
  if a.sig ≠ b.sig then tellMismatch s key g k n.node n.seq n.elem a
  else
    match nodeParent size n.node with
    | some (up, left) => sendPart s key g k.vc k.tag (k.dst / 512) (k.dst % 512) up n.seq n.elem 0 left v false
    | none => rootResult s key g k n.seq n.node n.elem v

/-- What a unit knows of (group, SEQ, NODE, ELEM); nothing yet otherwise. -/
def nodeEntry (s : State) (key seq node elem : Nat) : RedNode :=
  (redOf s key seq node elem).getD
    { group := key, seq := seq, node := node, elem := elem, left := none, right := none, taken := 0, from_ := [],
      answered := false }

/-- Packets of one child that wait at a node for their siblings: at most 64 (R228). -/
def nodeHeld (s : State) (key node : Nat) : Nat :=
  (s.nodes.filter fun n => n.group == key && n.node == node && !n.answered && (n.left.isSome || n.right.isSome)).length

/-- A packet finds no buffer place at its node, and waits on VC2 credit (R228). -/
def nodeFull (s : State) (key seq node elem : Nat) : Bool :=
  let n := nodeEntry s key seq node elem
  n.left.isNone && n.right.isNone && decide (64 ≤ nodeHeld s key node)

/-- A contribution reaches its tree node; a duplicate is answered as the first was (R228). -/
def takeTree (s : State) (key : Nat) (g : Group) (k : Packet) (seq node elem : Nat) (left : Bool) (v : RedVal) : State :=
  let n := nodeEntry s key seq node elem
  let n := if left then { n with left := n.left.or (some v) } else { n with right := n.right.or (some v) }
  match n.left, n.right with
  | some a, some b => answerNode (putRed s { n with answered := true }) key g k { n with answered := true } a b
  | _, _ => putRed s n

/-- Contributions a fast unit waits for: members of its tile, or tiles with members (R233). -/
def fastWanted (s : State) (g : Group) (node : Nat) : Nat := (nodeKids s g node).length

/-- A fast unit's sum goes to the root tile's unit, and from there down (R233). -/
def answerFast (s : State) (key : Nat) (g : Group) (k : Packet) (seq node elem : Nat) (run : RedVal) : State :=
  if node = fastRoot then rootResult s key g k seq node elem run
  else sendPart s key g k.vc k.tag (k.dst / 512) (k.dst % 512) fastRoot seq elem (node - fastTile 0) true run false

/-- A contribution to fast reduction is combined in arrival order (R233); a duplicate is answered as the first was (R234). The
rule gives the running value no start: the model starts it as the first contribution, which shows in a sum of −0s (log 71,
DESIGN CHOICE). -/
def takeFast (s : State) (key : Nat) (g : Group) (k : Packet) (seq node elem who : Nat) (v : RedVal) : State :=
  let n := nodeEntry s key seq node elem
  if n.from_.contains who || n.answered then
    match n.answered, n.left with
    | true, some run => answerFast s key g k seq node elem run
    | _, _ => s
  else
    let differs : Bool := match n.left with
      | some a => a.sig != v.sig
      | none => false
    if differs then tellMismatch s key g k node seq elem v
    else
      let run := match n.left with
        | some a => combine a v
        | none => v
      let full := decide (fastWanted s g node ≤ n.taken + 1)
      let s := putRed s { n with left := some run, taken := n.taken + 1, from_ := n.from_ ++ [who], answered := full }
      if full then answerFast s key g k seq node elem run else s

/-- Another member's contribution to the collective went to the units of the other mode: the descriptors differ in FAST
(R119, R229). Which unit compares the two modes is the model's choice (log 72, DESIGN CHOICE). -/
def otherMode (s : State) (key seq : Nat) (v : RedVal) : Bool :=
  s.nodes.any fun n => n.group == key && n.seq == seq && (n.left.or n.right).any fun x => sigFast x.sig != sigFast v.sig

/-- RED_PART at its unit (R228, R229, R233). -/
def takePart (s : State) (k : Packet) (key seq node elem who : Nat) (left : Bool) (v : RedVal) (mismatch : Bool) : State :=
  match groupAt s key with
  | none => dropPacket s k.id
  | some g =>
    if mismatch then sendMismatch (dropPacket s k.id) key g k seq v
    else if otherMode s key seq v then tellMismatch (dropPacket s k.id) key g k node seq elem v
    else if fastTile 0 ≤ node then takeFast (dropPacket s k.id) key g k seq node elem who v
    else if nodeFull s key seq node elem then s
    else takeTree (dropPacket s k.id) key g k seq node elem left v

/-- RED_PART (R228). A packet of the fast mode acts through FAST_REDUCTION_COMBINE. -/
def execRedPart (id : Nat) (s : State) : Out :=
  .next (match arrived s id with
    | some k => match k.body with
      | .redPart key seq node elem who left v mm =>
        if fastTile 0 ≤ node then s else takePart s k key seq node elem who left v mm
      | _ => s
    | none => s)

/-- FAST_REDUCTION_COMBINE (R233). -/
def execFastReductionCombine (id : Nat) (s : State) : Out :=
  .next (match arrived s id with
    | some k => match k.body with
      | .redPart key seq node elem who left v mm =>
        if fastTile 0 ≤ node then takePart s k key seq node elem who left v mm else s
      | _ => s
    | none => s)

/-! ## Results at a member -/

/-- The root's bytes become a stream of rows (R232): those before a failing row. -/
def startBroadcast (s : State) (p : Nat) (t : Task) (key : Nat) (g : Group) : State :=
  let d := t.desc
  let l := locAt t 0
  let n := kCount d
  let acc := [byteAcc false l.kind l.word n]
  let s := seeAccesses s p t.id acc
  let c := coreAt s p
  let fail := accFail c false acc
  let good := match fail with
    | some f => goodBytes l f
    | none => n
  let members : List (Nat × Nat) := g.members.filterMap fun lc => (physOf s lc).bind fun q =>
    if q = p then none
    else ((coreAt s q).window.find? fun x => x.opcode == 0x62 && kGroup x.desc == key % 64 && x.collSeq == t.collSeq &&
      !x.finished).map fun x => (q, x.id)
  let st : BStream :=
    { id := s.nextId, part := key / 64, vc := dTc d, members := members, desc := none, count := ceilDiv good 64,
      rows := rowTable (rows64 (spdRead c l.kind l.word 0 good) (ceilDiv good 64)), taken := [], delivered := [],
      written := [], resent := [], root := some (p, t.id), failed := fail.isSome }
  let s := { s with nextId := s.nextId + 1 }
  match fail with
  | some f =>
    let s := eccTask s p t f
    if good = 0 then each members (fun m s => sendReply s p m 0x10 4 (dTc d == 0) (.nack (.task m.1 m.2) .eccUncorrectable)) s
    else { s with streams := s.streams ++ [st] }
  | none => { s with streams := s.streams ++ [st] }

/-- RED_RESULT at a member (R229, R230, R232). -/
def takeResult (s : State) (k : Packet) (key seq _m elem : Nat) (v : RedVal) (mismatch final : Bool) : State :=
  let p := dstCore k
  let mine (t : Task) : Bool :=
    decide (0x60 ≤ t.opcode ∧ t.opcode ≤ 0x62) && kGroup t.desc == key % 64 && t.collSeq == seq && !t.finished
  match (coreAt s p).window.find? mine, groupAt s key with
  | some t, some g =>
    let s := modTask (dropPacket s k.id) p t.id fun t => { t with aflags := t.aflags ||| v.aflags }
    if mismatch then finishTask s p t.id .badParam 0
    else if t.opcode = 0x62 then startBroadcast (met s p t.id) p t key g
    else if final then finishColl s p t (isRootRank (coreAt s p) t.desc)
    else
      let d := t.desc
      let o := locAt t 1
      let vals : List FVal := v.vals.map fun x => decodePs96 x.toNat
      let acc := [elemAcc true o.kind o.word (dFmtOut d) elem v.vals.length]
      let s := seeAccesses s p t.id acc
      let r := putOut (coreAt s p) t o.kind o.word elem elem vals
      let s := setCore s p r.1
      let s := modTask s p t.id fun t => { t with aflags := t.aflags ||| r.2, progress := t.progress + v.vals.length }
      match accFail (coreAt s p) true acc with
      | some f => eccTask s p t f
      | none => if t.opcode = 0x61 ∧ kCount d ≤ t.progress + v.vals.length then finishColl s p t true else s
  | _, _ => if mismatch ∧ (groupAt s key).isSome then s else dropPacket s k.id

/-- RED_RESULT at a node's unit: on down the tree (R228, R230). -/
def relayResult (s : State) (k : Packet) (key seq node elem : Nat) (v : RedVal) (mismatch final : Bool) : State :=
  match groupAt s key with
  | some g => sendDown (dropPacket s k.id) key g k.vc k.tag (k.dst / 512) (k.dst % 512) node seq elem v mismatch final
  | none => dropPacket s k.id

/-- RED_RESULT (R230). -/
def execRedResult (id : Nat) (s : State) : Out :=
  .next (match arrived s id with
    | some k => match k.body with
      | .redResult key seq node m elem v mm final =>
        if node = 0 then takeResult s k key seq m elem v mm final else relayResult s k key seq node elem v mm final
      | _ => s
    | none => s)

/-! ## Groups (R218–R222) -/

/-- Uncommitted collective tasks on a group: (core, task). One that its issue refused takes no part. -/
def groupTasks (s : State) (key : Nat) : List (Nat × Task) :=
  s.cores.flatMap fun e => (e.2.window.filter fun t => t.coll == some key).map fun t => (e.1, t)

/-- Collectives of a group in flight: data collectives by sequence number, barriers by phase (R220). -/
def groupInFlight (s : State) (key : Nat) : List (Bool × Nat) :=
  ((groupTasks s key).map fun e => (e.2.opcode == 0x63, e.2.collSeq)).eraseDups

/-- Basic destroys whose group has no task left complete with the collectives that finished meanwhile, and the group is removed
(R220). -/
def settleGroups (s : State) : State :=
  each (s.groups.filter fun e => e.2.closing.isSome && (groupTasks s e.1).isEmpty) (fun e s =>
    let s := dropGroups s (fun k => k == e.1)
    match e.2.closing with
    | some c => finish s c .ok e.2.inFlight.length 0 0 0
    | none => s) s

/-- Members named by a creation: logical cores in rank order; none where a rank has no place on this panel in PART. -/
def memberList (s : State) (part slot first count : Nat) : Option (List Nat) :=
  let segs := tblGet [] (partAt s part).rmaps slot
  (List.range count).foldr (fun i acc => acc.bind fun l => (rankTarget segs (first + i)).bind fun pl =>
    if pl.1 = panelId s ∧ partOfL s pl.2 = some part then some (pl.2 :: l) else none) (some [])

def ceilLog2 (n : Nat) : Nat := if n ≤ 1 then 0 else Nat.log2 (n - 1) + 1

/-- The members that BARRIER_GROUP_CREATE would give its group; none where R219 refuses it. -/
def newMembers (s : State) (c : Cmd) : Option (List Nat) :=
  let part := fld c.pkt 83 80
  let count := fld c.pkt 191 160
  let root := fld c.pkt 111 104
  let members := if 1 ≤ count ∧ count ≤ 3072 then memberList s part (fld c.pkt 99 96) (fld c.pkt 159 128) count else none
  let rootOk := root == 0xFF || (c.expert && partOfTile s root == some part && decide (root < 16))
  if (groupAt s (groupKey part (fld c.pkt 69 64))).isSome || !rootOk then none else members

/-- BARRIER_GROUP_CREATE (R219). -/
def createGroup (c : Cmd) (s : State) : State :=
  let part := fld c.pkt 83 80
  let slot := fld c.pkt 99 96
  let first := fld c.pkt 159 128
  let count := fld c.pkt 191 160
  let root := fld c.pkt 111 104
  let key := groupKey part (fld c.pkt 69 64)
  match newMembers s c with
  | none => refuse s c.uid .badParam
  | some l =>
    let tile := if root = 0xFF then cornerTile s l else root
    let g : Group :=
      { slot := slot, first := first, members := l, rootTile := tile, expertRoot := root != 0xFF,
        arrive := l.map fun _ => false, release := l.map fun _ => false, phase := false, seqs := l.map fun _ => 0,
        closing := none, inFlight := [] }
    let span := (List.range l.length).foldl (fun a m => max a (tileDist tile (memberTile s g m))) 0
    finish { s with groups := tblPut s.groups key g } c.uid .ok (key % 64) tile span (ceilLog2 count)

/-- BARRIER_GROUP_CREATE (R219), either form. -/
def execBarrierGroupCreate (q : Nat) (s : State) : Out := .next (startAs s q (isFnAny 0x0300) createGroup)

def destroyKey (c : Cmd) : Nat := groupKey (fld c.pkt 83 80) (fld c.pkt 69 64)

/-- The basic destroy waits for collectives that have begun (R220); a second one is refused. -/
def destroyGroup (c : Cmd) (s : State) : State :=
  let key := destroyKey c
  match groupAt s key with
  | none => refuse s c.uid .badParam
  | some g =>
    if g.closing.isSome then refuse s c.uid .badParam
    else
      let l := groupInFlight s key
      settleGroups (modCmd (modGroup s key fun g => { g with closing := some c.uid, inFlight := l }) c.uid fun c =>
        { c with wait := .group key })

/-- BARRIER_GROUP_DESTROY (R220). -/
def execBarrierGroupDestroy (q : Nat) (s : State) : Out := .next (startAs s q (isFn 0x0301 false) destroyGroup)

/-- The expert destroy: every uncommitted collective task ends with ABORTED (R220); a waiting basic destroy ends with it. -/
def destroyGroupExpert (c : Cmd) (s : State) : State :=
  let key := destroyKey c
  match groupAt s key with
  | none => refuse s c.uid .badParam
  | some g =>
    let ts := groupTasks s key
    let s := each ts (fun e s => failTask s e.1 e.2.id .aborted) s
    let gone := ts.map fun e => (e.1, e.2.id)
    let s := { s with streams := s.streams.filter fun x => !(match x.root with
      | some r => gone.contains r
      | none => false) }
    let s := dropGroups (dropCollectives s key) (fun k => k == key)
    let s := match g.closing with
      | some u => finish s u .ok (g.inFlight.filter fun e => !(ts.any fun x => (x.2.opcode == 0x63, x.2.collSeq) == e)).length
          0 0 0
      | none => s
    finish s c.uid (if ts.isEmpty then .ok else .aborted) ts.length 0 0 0

/-- BARRIER_GROUP_DESTROY expert form (R220). -/
def execBarrierGroupDestroyExpert (q : Nat) (s : State) : Out :=
  .next (startAs s q (isFn 0x0301 true) destroyGroupExpert)

end Sys2Proof.Machine
end

