-- ==== Sys2Proof/Machine/Windows.lean ====
section
/-! DEFINITION. Remote windows: opening, closing and transfers (R205–R217). -/

namespace Sys2Proof.Machine

def wLcore (c : Cmd) : Nat := fld c.pkt 75 64
def wSlot (c : Cmd) : Nat := fld c.pkt 101 96
def wHandle (c : Cmd) : Nat := fld c.pkt 89 80
def wGen (c : Cmd) : Nat := fld c.pkt 119 108

/-- A handle name is bound on the core of a logical number. -/
def boundOn (s : State) (l name : Nat) : Bool :=
  match physOf s l with
  | some p => (handleOf (coreAt s p) name).isSome
  | none => false

/-- Refusals of WINDOW_OPEN. -/
def woChecks (s : State) (c : Cmd) : List (Bool × Status) :=
  let w := winAt s (wLcore c) (wSlot c)
  [(decide (3071 < wLcore c) || w.isOpen || w.closing || !boundOn s (wLcore c) (wHandle c), .badParam)]

/-- WINDOW_OPEN (R209). -/
def openWindow (c : Cmd) (s : State) : State :=
  let l := wLcore c
  let w := winAt s l (wSlot c)
  checked c (woChecks s c)
    (fun s => finish (modWin s l (wSlot c) fun w => { w with isOpen := true, handle := wHandle c, done := 0 })
      c.uid .ok w.gen 0 0 0) s

/-- WINDOW_OPEN (R208, R209). -/
def execWindowOpen (q : Nat) (s : State) : Out := .next (startAs s q (isFnAny 0x0202) openWindow)

/-- Cut a slot's transfers for a close, and advance when it can (R210, R211). -/
def cutForClose (s : State) (l slot : Nat) (st : Status) (expert : Bool) : State :=
  let n := (slotTransfers s l slot).length
  let s := cutSlot s l slot st
  tryAdvance (modWin s l slot fun w =>
    if expert then { w with cutByExpert := w.cutByExpert + n } else { w with cutByFirst := w.cutByFirst + n }) l slot

/-- Refusals of WINDOW_CLOSE: the basic form of a slot that closes, the expert form of one that an expert close already cuts
(R210, R211). -/
def wcChecks (s : State) (c : Cmd) : List (Bool × Status) :=
  let w := winAt s (wLcore c) (wSlot c)
  [(decide (3071 < wLcore c) || !w.isOpen || (if c.expert then w.expertCloser.isSome else w.closing), .badParam),
   (wGen c != w.gen, .staleGeneration)]

/-- The basic WINDOW_CLOSE (R210). -/
def closeWindow (c : Cmd) (s : State) : State :=
  let l := wLcore c
  let slot := wSlot c
  checked c (wcChecks s c)
    (fun s => tryAdvance (modCmd (modWin s l slot fun w => { w with closing := true, closer := some c.uid }) c.uid fun c =>
      { c with wait := .window l slot }) l slot) s

/-- WINDOW_CLOSE (R210). -/
def execWindowClose (q : Nat) (s : State) : Out := .next (startAs s q (isFn 0x0203 false) closeWindow)

/-- The expert form: every admitted transfer is cut at once; a basic close in progress ends with it (R210, R211). -/
def closeWindowExpert (c : Cmd) (s : State) : State :=
  let l := wLcore c
  let slot := wSlot c
  checked c (wcChecks s c)
    (fun s => cutForClose (modCmd (modWin s l slot fun w => { w with closing := true, expertCloser := some c.uid }) c.uid
      fun c => { c with wait := .window l slot }) l slot .aborted true) s

/-- WINDOW_CLOSE expert form (R211). -/
def execWindowCloseExpert (q : Nat) (s : State) : Out := .next (startAs s q (isFn 0x0203 true) closeWindowExpert)

/-- WINDOW_CLOSE_WAIT_EXPIRY (R210 step 3): what still holds a token is cut. -/
def execWindowCloseWaitExpiry (l slot : Nat) (s : State) : Out :=
  .next (let w := winAt s l slot
    if w.closing && w.closer.isSome && !(slotTransfers s l slot).isEmpty then cutForClose s l slot .truncated false else s)

/-- WINDOW_GEN_ADVANCE (R206): a held advance takes place. -/
def execWindowGenAdvance (l slot : Nat) (s : State) : Out :=
  .next (if (winAt s l slot).held then advanceGen s l slot else s)

/-! ## Transfers -/

/-- Bytes of a window: its handle's region (R205). -/
def winRegion (s : State) (l slot : Nat) : Option (Nat × MemKind × Nat × Nat) :=
  (physOf s l).bind fun p => (handleOf (coreAt s p) (winAt s l slot).handle).map fun h => (p, h.kind, h.base, 4 * h.length)

/-- A transfer is refused whole (R213). The owner's NI answers a duplicate with the outcome it gave (R176); the spec gives no number
of outcomes it remembers, and the model keeps the last 64 of each logical core, without an expiry (log 69, DESIGN
CHOICE). -/
def refuseTransfer (s : State) (l : Nat) (sender : Nat × Nat) (srank : Nat) (urg : Bool) (st : Status) : State :=
  putAck (modWins s l fun w =>
    { w with refused := satInc 32 w.refused, served := ((sender, st) :: w.served).take 64 }) l sender srank urg st

/-- Data of an admitted transfer (R213): bytes are written in order, and the last one completes it. -/
def writeTransfer (s : State) (l : Nat) (t : Transfer) (off : Nat) (bs : List Byte) (last : Bool) : State :=
  let rel := off - t.base
  if off < t.base ∨ t.written < rel then s
  else
    match winRegion s l t.slot with
    | none => s
    | some (p, k, base, _) =>
      let reg : Region := ⟨k, base + off / 4, base + (off + bs.length - 1) / 4⟩
      let s := modCore s p fun c => spdWrite (raceCheck c none [(true, reg)]) k base off bs
      let upto := max t.written (rel + bs.length)
      let upd (x : Transfer) : Transfer :=
        if x.sender = t.sender ∧ x.slot = t.slot then { x with written := upto, lastSeen := s.time } else x
      let s := modWins s l fun w => { w with transfers := w.transfers.map upd }
      if last ∧ rel + bs.length = upto then
        let s := modWins s l fun w =>
          { w with transfers := w.transfers.filter fun x => !(x.sender == t.sender && x.slot == t.slot),
                   served := ((t.sender, .ok) :: w.served).take 64 }
        let s := modWin s l t.slot fun w =>
          { w with done := satInc 32 w.done, doneInWait := w.doneInWait + if w.closing then 1 else 0 }
        tryAdvance (serveWaits (putAck s l t.sender t.srank t.urg .ok) l t.slot) l t.slot
      else s

/-- Admission on the first packet (R213), and data. -/
def takePut (s : State) (k : Packet) (sender : Nat × Nat) (l slot wgen off total srank : Nat) (first last : Bool)
    (bs : List Byte) : State :=
  let s := dropPacket s k.id
  let ws := winsAt s l
  let w := winAt s l slot
  match ws.transfers.find? fun t => t.sender == sender && t.slot == slot with
  | some t => writeTransfer s l t off bs last
  | none =>
    if !first then modWins s l fun w => { w with dropped := satInc 32 w.dropped }
    else match ws.served.find? fun e => e.1 == sender with
      | some e => putAck s l sender srank (urgent k) e.2
      | none =>
        let len := match winRegion s l slot with
          | some r => r.2.2.2
          | none => 0
        if !w.isOpen || w.closing || wgen != w.gen then refuseTransfer s l sender srank (urgent k) .windowClosed
        else if len < off + total then refuseTransfer s l sender srank (urgent k) .badParam
        else if 64 ≤ ws.transfers.length then putAck s l sender srank (urgent k) .noResource
        else
          let t : Transfer := { tag := k.tag, urg := urgent k, slot := slot, sender := sender, srank := srank, base := off, total := total,
                                written := 0, lastSeen := s.time }
          writeTransfer (modWins s l fun w => { w with transfers := w.transfers ++ [t] }) l t off bs last

/-- PUT_DATA (R212, R213). -/
def execPutData (id : Nat) (s : State) : Out :=
  .next (match arrived s id with
    | some k => match k.body with
      | .putData sender l slot wgen off total srank first last bs =>
        takePut s k sender l slot wgen off total srank first last bs
      | _ => s
    | none => s)

/-- The NI stops sending a transfer: packets not yet injected are dropped (R215). -/
def stopSending (s : State) (sender : Nat × Nat) : State :=
  let mine (k : Packet) : Bool := k.held && (match k.body with
    | .putData x .. => x == sender
    | .toPort _ w => w == .task sender.1 sender.2
    | _ => false)
  { s with packets := s.packets.filter fun k => !mine k }

/-- The outcome of a PUT at its sender (R213, R215). -/
def takeAck (s : State) (sender : Nat × Nat) (st : Status) : State :=
  let s := stopSending (endReqs s (.task sender.1 sender.2)) sender
  match taskOf (coreAt s sender.1) sender.2 with
  | some t =>
    if t.opcode ≠ 0x52 ∨ t.finished then s
    else if st = .noResource then modTask s sender.1 t.id fun t => { t with pendingStatus := some .noResource }
    else if st = .ok then
      finishOk (modTask (met s sender.1 t.id) sender.1 t.id fun t => { t with pendingStatus := none }) sender.1 t.id 0 []
    else finishTask s sender.1 t.id st 0
  | none => s

/-- PUT_ACK (R213). -/
def execPutAck (id : Nat) (s : State) : Out :=
  .next (match arrived s id with
    | some k => match k.body with
      | .putAck sender st _ => takeAck (dropPacket s id) sender st
      | _ => s
    | none => s)

/-- PUT_RESEND_TIMER (R213): a transfer that found no token is sent again from its first packet. -/
def execPutResendTimer (p id : Nat) (s : State) : Out :=
  .next (match taskOf (coreAt s p) id with
    | some t =>
      if t.opcode = 0x52 ∧ !t.finished ∧ t.pendingStatus = some .noResource then
        sendPut (modTask s p id fun t => { t with pendingStatus := none }) p t
      else s
    | none => s)

/-- WINDOW_TRANSFER_SILENCE (R216): an admitted transfer that has fallen silent is cut; a transaction is named by its source core
and TAG (Table 06-4). -/
def execWindowTransferSilence (l src tag : Nat) (s : State) : Out :=
  .next (match (winsAt s l).transfers.find? fun t => t.sender.1 == src && t.tag == tag with
    | some t =>
      let s := modWins s l fun w =>
        { w with transfers := w.transfers.filter fun x => !(x.sender == t.sender && x.slot == t.slot),
                 served := ((t.sender, .truncated) :: w.served).take 64 }
      let s := putAck s l t.sender t.srank t.urg .truncated
      tryAdvance (modWin s l t.slot fun w => if w.closing then { w with cutByFirst := w.cutByFirst + 1 } else w) l t.slot
    | none => s)

end Sys2Proof.Machine
end

