-- ==== Sys2Proof/Machine/TaskControl.lean ====
section
/-! DEFINITION. The control, check and buffer families (R122–R129, R145–R150): what they do at their issue, and what a
check opcode does once its wait is over. -/

namespace Sys2Proof.Machine

/-- An operation of the sequencer that ends at its issue (R123). -/
def endAtIssue (p : Nat) (s : State) (t : Task) : State := finishOk s p t.id 0 []

/-- WAIT_FLAG commits in its issue cycle. -/
def runWaitFlag (p : Nat) (s : State) (t : Task) : State := commitTask s p t

/-- WAIT_FLAG (R123). -/
def execWaitFlag (p : Nat) (s : State) : Out := .next (issueAs s p 0x70 noRoot noMore (runWaitFlag p))

/-- SET_FLAG (R123): the flags are set by its commit. -/
def execSetFlag (p : Nat) (s : State) : Out := .next (issueAs s p 0x71 noRoot noMore (endAtIssue p))

/-- CLEAR_FLAG (R123): the flags are cleared by its commit. -/
def execClearFlag (p : Nat) (s : State) : Out := .next (issueAs s p 0x72 noRoot noMore (endAtIssue p))

def ctlTarget (d : Desc) : Nat := fld d 79 64
def ctlCount (d : Desc) : Nat := fld d 127 96
def ctlPhase (d : Desc) : Nat := fld d 159 128

/-- Issue continues at TARGET when `taken`. -/
def runBranch (taken : Task → Bool) (p : Nat) (s : State) (t : Task) : State :=
  let s := endAtIssue p s t
  if taken t then modCore s p fun c => branchTo c (ctlTarget t.desc) else s

/-- LOOP (R123). -/
def execLoop (p : Nat) (s : State) : Out :=
  .next (issueAs s p 0x73 noRoot noMore
    (runBranch (fun t => t.inst % ctlCount t.desc != ctlCount t.desc - 1) p))

/-- BRANCH_COUNT (R123). -/
def execBranchCount (p : Nat) (s : State) : Out :=
  .next (issueAs s p 0x74 noRoot noMore
    (runBranch (fun t => t.inst % ctlCount t.desc == ctlPhase t.desc) p))

/-- END enters ENDING (R74). -/
def runEnd (p : Nat) (s : State) (t : Task) : State :=
  modCore (endAtIssue p s t) p fun c => { c with seq := .ending }

/-- END (R74, R123). -/
def execEndRun (p : Nat) (s : State) : Out := .next (issueAs s p 0x75 noRoot noMore (runEnd p))

/-! ## Check family (R124, R125) -/

/-- Channels a check opcode names. -/
def chkChannels (d : Desc) : List Nat := upTo 8 fun n => bit (fld d 71 64) n

/-- A check opcode waits from its issue on; it acts when it commits. -/
def waitCheck (_ : Nat) (s : State) (_ : Task) : State := s

/-- FINGERPRINT_MARK (R125). -/
def execFingerprintMark (p : Nat) (s : State) : Out := .next (issueAs s p 0x80 noRoot noMore (waitCheck p))
/-- FINGERPRINT_CLEAR (R125). -/
def execFingerprintClear (p : Nat) (s : State) : Out := .next (issueAs s p 0x81 noRoot noMore (waitCheck p))
/-- FINGERPRINT_STORE (R125). -/
def execFingerprintStore (p : Nat) (s : State) : Out := .next (issueAs s p 0x82 noRoot noMore (waitCheck p))

/-- The task feeds channel n (R310): a member of REDUCE that is not the root feeds nothing. -/
def feedsChannel (c : Core) (t : Task) (n : Nat) : Bool :=
  dFp t.desc && dFpch t.desc == n && (t.opcode != 0x60 || isRootRank c t.desc)

def isCheck (t : Task) : Bool := decide (0x80 ≤ t.opcode ∧ t.opcode ≤ 0x82)

/-- A check opcode's wait is over (R125, R312): nothing issued before it still feeds or names one of its channels; a STORE waits
for check opcodes only. -/
def checkReady (c : Core) (t : Task) : Bool :=
  (c.window.takeWhile fun x => x.id != t.id).all fun x => (chkChannels t.desc).all fun n =>
    !(isCheck x && (chkChannels x.desc).contains n) && (t.opcode == 0x82 || !feedsChannel c x n)

/-- Bytes a mark feeds. -/
def markBytes (d : Desc) : List Byte := leBytes 4 (fld d 127 96) ++ leBytes 4 (dTask d)

def markChannel (d : Desc) (f : FpChan) : FpChan :=
  let f := if f.enabled then { f with reg := crcRun f.cfg f.reg (markBytes d) } else f
  { f with mark := f.value }

def clearChannel (f : FpChan) : FpChan := if f.enabled then { f with reg := f.cfg.init } else f

def modChannels (c : Core) (l : List Nat) (g : FpChan → FpChan) : Core :=
  { c with fps := c.fps.mapIdx fun i f => if l.contains i then g f else f }

/-- The marks of the named channels, two words each. -/
def storedMarks (c : Core) (d : Desc) : List Byte :=
  (chkChannels d).flatMap fun n => leBytes 8 (((c.fps[n]?).map (·.mark)).getD 0)

/-- What a check opcode does after its wait. -/
def runCheck (s : State) (p : Nat) (t : Task) : State :=
  let d := t.desc
  if t.opcode = 0x80 then modCore s p fun c => modChannels c (chkChannels d) (markChannel d)
  else if t.opcode = 0x81 then modCore s p fun c => modChannels c (chkChannels d) clearChannel
  else
    let l := locAt t 0
    let s := seeAccesses s p t.id [wordAcc true l.kind l.word (2 * (chkChannels d).length)]
    modCore s p fun c => spdWrite c l.kind l.word 0 (storedMarks c d)

/-! ## Buffer family (R126–R129, R145, R148) -/

/-- The handle a HANDLE_BIND names. -/
def bindHandle (d : Desc) : Handle :=
  { name := fld d 73 64, kind := kindOf (fld d 81 80), fmt := fld d 92 88,
    scale := if fld d 175 175 = 1 then some (fld d 169 160) else none, base := fld d 127 96, length := fld d 159 128 }

/-- The conditions of R127 that refuse a binding. -/
def bindBad (c : Core) (h : Handle) : Bool :=
  (handleOf c h.name).isSome || decide (h.kind.words < h.base + h.length) || (fmtMx h.fmt && h.scale.isNone) ||
    (match h.scale with
     | some n => match handleOf c n with
       | some x => x.fmt != 0x10
       | none => true
     | none => false)

/-- The lowest-numbered free entry (R145). -/
def freeEntry (c : Core) : Option Nat := (List.range 256).find? fun k => (tblLook c.handles k).isNone

/-- HANDLE_BIND in the sequencer (R127, R150). -/
def runBind (p : Nat) (s : State) (t : Task) : State :=
  let c := coreAt s p
  let h := bindHandle t.desc
  if bindBad c h then finishTask s p t.id .badParam 0
  else match freeEntry c with
    | some k => endAtIssue p (modCore s p fun c => { c with handles := tblPut c.handles k h }) t
    | none => modCore (finishTask s p t.id .noResource 0) p fun c => branchTo c (fld t.desc 191 176)

/-- HANDLE_BIND (R127). -/
def execHandleBind (p : Nat) (s : State) : Out := .next (issueAs s p 0x90 noRoot noMore (runBind p))

/-- A window slot of the core that is open or closing names the handle (R208). -/
def inWindow (s : State) (p name : Nat) : Bool :=
  match logOf s p with
  | some l => (winsAt s l).slots.any fun e => (e.2.isOpen || e.2.closing) && e.2.handle == name
  | none => false

/-- HANDLE_FREE (R128, R148, R208). -/
def runFree (p : Nat) (s : State) (t : Task) : State :=
  let c := coreAt s p
  let n := fld t.desc 73 64
  if (handleOf c n).isNone || c.handles.any (fun e => e.2.scale == some n) || inWindow s p n then
    finishTask s p t.id .badParam 0
  else endAtIssue p (modCore s p fun c => { c with handles := c.handles.filter fun e => e.2.name != n }) t

/-- HANDLE_FREE (R128). -/
def execHandleFree (p : Nat) (s : State) : Out := .next (issueAs s p 0x91 noRoot noMore (runFree p))

/-- Set the base and bound of a kind (R129). -/
def setBaseBound (c : Core) (k : MemKind) (b : BaseBound) : Core :=
  match k with
  | .W => { c with bbW := b }
  | .A => { c with bbA := b }
  | .P => { c with bbP := b }

/-- BASE_BOUND_SET (R129). -/
def execBaseBoundSet (p : Nat) (s : State) : Out :=
  .next (issueAs s p 0x92 noRoot noMore fun s t =>
    endAtIssue p (modCore s p fun c =>
      setBaseBound c (kindOf (fld t.desc 81 80)) ⟨fld t.desc 127 96, fld t.desc 159 128⟩) t)

end Sys2Proof.Machine
end

