-- ==== Sys2Proof/Machine/DrainOps.lean ====
section
/-! DEFINITION. Commands that wait for a drain (R178, R181), and new routes after a failure (R167). -/

namespace Sys2Proof.Machine

/-- The drain a command waits for. -/
def drainOf (s : State) (uid : Nat) : Nat :=
  match s.drains.find? fun d => d.cmds.contains uid with
  | some d => d.id
  | none => 0

/-- A command waits for the release of the change it asks for. -/
def waitDrain (s : State) (c : Cmd) (routes : List (Nat × Rte)) (cats : List (Nat × CatEntry)) : State :=
  let s := addDrain s false routes cats [] [c.uid]
  let d := drainOf s c.uid
  modCmd s c.uid fun c => { c with wait := .drain d }

/-- The record of a partition that no route joins (R167). -/
def noRouteFault (s : State) (n : Nat) : FaultRec :=
  { FaultRec.blank 0x0E .partition with part := n, pcore := some (stackCode ((partTiles s n).headD 0) 0xF), attempts := 2 }

/-- A link has failed or a tile has become dark: the curators decide new routes, and report a partition that has none (R167). -/
def reroute (s : State) (own : Bool) : State :=
  let s := detour s own
  let lost := upTo 16 fun n => partDefined s n && noRoute s n && (partAt s n).state != .withdrawn &&
    (partAt s n).state != .undefined
  each lost (fun n s => withdrawPart (addLasting s (noRouteFault s n) none) n 0x0E) s

end Sys2Proof.Machine
end

