-- ==== Sys2Proof/Machine/TaskVector.lean ====
section
/-! DEFINITION. The vector family (R48, R95–R102). -/

namespace Sys2Proof.Machine

/-! ## VEC_MAP (R95, R96) -/

/-- Sources an operation uses: a, b, c. -/
def opSources (op : Nat) : Nat :=
  if op = 0x04 ∨ op = 0x0B then 3
  else if (1 ≤ op ∧ op ≤ 3) ∨ op = 5 ∨ op = 6 ∨ op = 9 ∨ op = 10 then 2 else 1

/-- A step word is one the unit executes: an assigned operation, a destination v0 to v11, reserved bits and unused sources zero
(Table 04-7). -/
def stepWordOk (w : Nat) : Bool :=
  let op := bits w 31 26
  decide (op ≤ 0x13 ∧ bits w 25 22 ≤ 11) && bits w 9 0 == 0 && (opSources op == 3 || bits w 13 10 == 0) &&
    (opSources op != 1 || bits w 17 14 == 0)

/-- The operation of a step (Table 04-8). -/
def stepOp (release op : Nat) (a b c : Val) : FVal :=
  let exact (v : Val) : FVal := exactStep (v, nanFlag v)
  if op = 0x00 then exact a
  else if op = 0x01 then vAdd a b
  else if op = 0x02 then vSub a b
  else if op = 0x03 then vMul a b
  else if op = 0x04 then vFma a b c
  else if op = 0x05 then exactStep (minV a b)
  else if op = 0x06 then exactStep (maxV a b)
  else if op = 0x07 then exact a.abs
  else if op = 0x08 then exact a.neg
  else if op = 0x09 then vCmp true a b
  else if op = 0x0A then vCmp false a b
  else if op = 0x0B then
    let r := exact (if a.isZero then c else b)
    (r.1, r.2 ||| nanFlag a ||| nanFlag b ||| nanFlag c)
  else if op = 0x0C then vApprox release .exp a
  else if op = 0x0D then vApprox release .log a
  else if op = 0x0E then vApprox release .rcp a
  else if op = 0x0F then vApprox release .rsqrt a
  else if op = 0x10 then vApprox release .tanh a
  else if op = 0x11 then vApprox release .logistic a
  else if op = 0x12 then vRoundInt false a
  else vRoundInt true a

/-- One step on the registers v0 to v15. -/
def runStep (release : Nat) (st : List Val × AFlags) (w : Nat) : List Val × AFlags :=
  let v (n : Nat) : Val := st.1.getD n .zero
  let r := stepOp release (bits w 31 26) (v (bits w 21 18)) (v (bits w 17 14)) (v (bits w 13 10))
  (st.1.set (bits w 25 22) r.1, st.2 ||| r.2)

/-- Word n of the microprogram. -/
def progWord (c : Core) (t : Task) (n : Nat) : Nat :=
  let l := locAt t 5
  leNat (spdRead c l.kind (l.word + n) 0 4)

def progSteps (c : Core) (t : Task) : List Nat := (List.range (fld t.desc 363 360 + 1)).map (progWord c t)

/-- The microprogram is row-aligned and well formed (R95, Table 04-7); otherwise the task ends with BAD_PARAM (log 22, DEDUCED). -/
def progOk (c : Core) (t : Task) : Bool :=
  decide ((locAt t 5).word % 16 = 0) && (progSteps c t).all stepWordOk &&
    (List.range 12).all fun i => progWord c t (20 + i) == 0

/-- Input n at element e, converted to FP32 (R48, R95). -/
def mapInput (c : Core) (t : Task) (n e : Nat) : FVal :=
  let d := t.desc
  if n < fld d 375 372 then
    let l := locAt t n
    let i := if bit (fld d 371 368) n then e % fld d 319 288 else e
    toFp32 (elemVal c l.kind l.word (fld d (324 + 8 * n) (320 + 8 * n)) i)
  else (Val.zero, 0)

/-- The value of OUTREG for element e. -/
def mapElem (c : Core) (t : Task) (e : Nat) : FVal :=
  let ins := (List.range 4).map fun n => mapInput c t n e
  let consts := (List.range 4).map fun n => fp32Val (BitVec.ofNat 32 (progWord c t (16 + n)))
  let regs := ins.map (·.1) ++ List.replicate 8 Val.zero ++ consts
  let r := (progSteps c t).foldl (runStep c.microcode) (regs, flagsOf ins)
  (r.1.getD (fld t.desc 367 364) .zero, r.2)

def mapAccs (t : Task) : List Acc :=
  let d := t.desc
  let n := fld d 287 256
  let ins := (List.range (fld d 375 372)).map fun i =>
    let l := locAt t i
    elemAcc false l.kind l.word (fld d (324 + 8 * i) (320 + 8 * i)) 0 (if bit (fld d 371 368) i then fld d 319 288 else n)
  let o := locAt t 4
  let g := locAt t 5
  ins ++ [wordAcc false g.kind g.word 32, elemAcc true o.kind o.word (dFmtOut d) 0 n]

def runMap (p : Nat) (s : State) (t : Task) : State :=
  let prog := let g := locAt t 5; wordAcc false g.kind g.word 32
  if (accFail (coreAt s p) false [prog]).isSome || progOk (coreAt s p) t then
    let n := fld t.desc 287 256
    let o := locAt t 4
    runUnit s p t (mapAccs t)
      (fun c => putOut c t o.kind o.word 0 0 ((List.range n).map (mapElem c t)))
      (fun c => streamRows c o 0 1 (dFmtOut t.desc) n)
  else
    finishTask (seeAccesses s p t.id [prog]) p t.id .badParam 0

/-- VEC_MAP (R95). -/
def execVecMap (p : Nat) (s : State) : Out := .next (issueAs s p 0x20 noRoot noMore (runMap p))

/-! ## Row opcodes (R97–R102) -/

def vRows (d : Desc) : Nat := fld d 223 192
def vLen (d : Desc) : Nat := fld d 255 224
def vLdIn (d : Desc) : Nat := fld d 287 256
def vLdOut (d : Desc) : Nat := fld d 319 288
def vFmtIn (d : Desc) : Nat := fld d 324 320
def vFmtAux (d : Desc) : Nat := fld d 340 336
def vMode (d : Desc) : Nat := fld d 351 344

/-- Elements of an output row. -/
def vOutLen (d : Desc) : Nat := if dOpcode d = 0x21 then 1 else vLen d

/-- Row r of the input, converted to FP32. -/
def vInput (c : Core) (t : Task) (r : Nat) : List FVal :=
  (rowVals c (locAt t 0) (vLdIn t.desc) (vFmtIn t.desc) r (vLen t.desc)).map toFp32

/-- The PS96 sum in ascending order (R48). -/
def sumPs96 (l : List FVal) : FVal :=
  l.foldl (fun (a : FVal) x => let r := addPs96 a.1 x.1; (r.1, a.2 ||| x.2 ||| r.2)) (Val.zero, 0)

/-- A fold by an exact comparison, from the first element (R499). -/
def extreme (f : Val → Val → FVal) : List FVal → FVal
  | [] => (Val.zero, 0)
  | x :: l => l.foldl (fun (a : FVal) y => let r := f a.1 y.1; (r.1, a.2 ||| y.2 ||| r.2)) x

/-- A value and flags seen before it. -/
def withFlags (af : AFlags) (v : FVal) : FVal := (v.1, v.2 ||| af)

/-- VEC_REDUCE of one row (R98). -/
def reduceRow (mode : Nat) (xs : List FVal) : FVal :=
  if mode = 0 then sumPs96 xs
  else if mode = 1 then sumPs96 (xs.map fun x => withFlags x.2 (vMul x.1 x.1))
  else if mode = 2 then extreme maxV xs
  else if mode = 3 then extreme minV xs
  else extreme maxV (xs.map fun x => (x.1.abs, x.2))

/-- a × h + x, formed exactly and rounded once to PS96 (R99). -/
def fmaPs96 (a h x : Val) : FVal :=
  let p := mulExact a h
  let r := addExact p.1 x
  roundPs96 (r.1, p.2 ||| r.2)

/-- VEC_SCAN of one row (R99): the prefixes and the final state. -/
def scanRow (xs : List FVal) (coef : Option (List FVal)) (h0 : FVal) : List FVal × Val :=
  let r := match coef with
    | none => xs.foldl (fun (acc : List FVal × Val) (x : FVal) =>
        let y := addPs96 acc.2 x.1
        (withFlags x.2 y :: acc.1, y.1)) ([], h0.1)
    | some as_ => (xs.zip as_).foldl (fun (acc : List FVal × Val) (xa : FVal × FVal) =>
        let y := fmaPs96 xa.2.1 acc.2 xa.1.1
        (withFlags (xa.1.2 ||| xa.2.2) y :: acc.1, y.1)) ([], h0.1)
  (match r.1.reverse with
   | y :: l => withFlags h0.2 y :: l
   | [] => [], r.2)

/-- VEC_SOFTMAX of one row (R100). -/
def softmaxRow (release : Nat) (xs : List FVal) : List FVal :=
  let m := extreme maxV xs
  let es := xs.map fun x =>
    let u := vSub x.1 m.1
    withFlags u.2 (vApprox release .exp u.1)
  let s := sumPs96 es
  let f := fp32 (s.1, 0)
  let q := vApprox release .rcp f.1
  let af := m.2 ||| s.2 ||| f.2 ||| q.2
  es.map fun e => withFlags af (vMul e.1 q.1)

/-- VEC_NORM of one row (R101). -/
def normRow (release mode : Nat) (eps : Word) (xs : List FVal) (g b : List FVal) : List FVal :=
  let layer := bits mode 1 0 = 0
  let ninv := vApprox release .rcp (.fin false xs.length 0)
  let mean : FVal :=
    if layer then
      let s := sumPs96 xs
      let f := fp32 (s.1, 0)
      withFlags (s.2 ||| f.2 ||| ninv.2) (vMul f.1 ninv.1)
    else (Val.zero, 0)
  let ds := if layer then xs.map fun x => withFlags x.2 (vSub x.1 mean.1) else xs
  let s2 := sumPs96 (ds.map fun d => withFlags d.2 (vMul d.1 d.1))
  let f2 := fp32 (s2.1, 0)
  let v := vMul f2.1 ninv.1
  let e := fp32Val eps
  let ve := vAdd v.1 e
  let w := vApprox release .rsqrt ve.1
  let af := mean.2 ||| s2.2 ||| f2.2 ||| ninv.2 ||| v.2 ||| nanFlag e ||| ve.2 ||| w.2
  ds.mapIdx fun i d =>
    let y := vMul d.1 w.1
    let y := withFlags (d.2 ||| af) y
    let gi := g.getD i (Val.zero, 0)
    let bi := b.getD i (Val.zero, 0)
    if bit mode 3 then withFlags (y.2 ||| gi.2 ||| bi.2) (vFma y.1 gi.1 bi.1)
    else if bit mode 2 then withFlags (y.2 ||| gi.2) (vMul y.1 gi.1)
    else y

/-- VEC_CONVERT of one row: the exact values (R102). -/
def convertRow (c : Core) (t : Task) (r : Nat) : List FVal :=
  let f := vFmtIn t.desc
  let l := rowVals c (locAt t 0) (vLdIn t.desc) f r (vLen t.desc)
  if fmtMx f then
    let s := locAt t 2
    l.mapIdx fun i v => scaled (scaleByte c s.kind (s.word + r * ceilDiv (vLen t.desc) 128) (i / 32)) v
  else l

/-- An auxiliary row converted to FP32. -/
def auxRow (c : Core) (l : Loc) (f n : Nat) : List FVal := (rowVals c l 0 f 0 n).map toFp32

/-- Row r of the output, and the state that LINEAR_CARRY writes back. -/
def vectorRow (c : Core) (t : Task) (r : Nat) : List FVal × Option Val :=
  let d := t.desc
  let o := t.opcode
  let mode := vMode d
  let aux := locAt t 2
  let aux2 := locAt t 3
  if o = 0x21 then ([reduceRow mode (vInput c t r)], none)
  else if o = 0x22 then
    let coef : Option (List FVal) :=
      if mode = 0 then none else some ((rowVals c aux (vLdIn d) (vFmtAux d) r (vLen d)).map toFp32)
    let h0 : FVal := if mode = 2 then elemVal c aux2.kind (aux2.word + 3 * r) 0x0E 0 else (Val.zero, 0)
    let y := scanRow (vInput c t r) coef h0
    (y.1, if mode = 2 then some y.2 else none)
  else if o = 0x23 then (softmaxRow c.microcode (vInput c t r), none)
  else if o = 0x24 then
    (normRow c.microcode mode (BitVec.ofNat 32 (fld d 383 352)) (vInput c t r) (auxRow c aux (vFmtAux d) (vLen d))
      (auxRow c aux2 (vFmtAux d) (vLen d)), none)
  else (convertRow c t r, none)

/-- The output place and its scale region. -/
def vOut (t : Task) : Loc := locAt t 1
def vScaleOut (t : Task) : Loc := locAt t 3

/-- One row: its values are read before it is written. -/
def writeVectorRow (t : Task) (x : Core × AFlags) (r : Nat) : Core × AFlags :=
  let d := t.desc
  let c := x.1
  let (vs, carry) := vectorRow c t r
  let o := vOut t
  let n := vOutLen d
  let w := o.word + r * vLdOut d
  let y : Core × AFlags :=
    if fmtMx (dFmtOut d) then
      let so := vScaleOut t
      putBlocks c t o.kind w 0 so.kind (so.word + r * ceilDiv n 128) 0 (r * n) vs
    else putOut c t o.kind w 0 (r * n) vs
  let c := match carry with
    | some h => let a := locAt t 3; putElems y.1 a.kind (a.word + 3 * r) 0x0E 0 [encodePs96 h]
    | none => y.1
  (c, x.2 ||| y.2)

/-- Accesses of a row opcode. -/
def vectorAccs (t : Task) : List Acc :=
  let d := t.desc
  let rows := vRows d
  let len := vLen d
  let o := t.opcode
  let mode := vMode d
  let aux := locAt t 2
  let aux2 := locAt t 3
  let scaleRows (write : Bool) (l : Loc) : List Acc := (List.range rows).map fun r =>
    let a := byteAcc write l.kind (l.word + r * ceilDiv len 128) (len / 32)
    a
  rowsAcc false (locAt t 0) (vLdIn d) rows (vFmtIn d) len ++
  rowsAcc true (vOut t) (vLdOut d) rows (dFmtOut d) (vOutLen d) ++
  (if o = 0x22 ∧ mode ≠ 0 then rowsAcc false aux (vLdIn d) rows (vFmtAux d) len else []) ++
  (if o = 0x22 ∧ mode = 2 then [wordAcc false aux2.kind aux2.word (3 * rows), wordAcc true aux2.kind aux2.word (3 * rows)]
   else []) ++
  (if o = 0x24 ∧ bit mode 2 then [elemAcc false aux.kind aux.word (vFmtAux d) 0 len] else []) ++
  (if o = 0x24 ∧ bit mode 3 then [elemAcc false aux2.kind aux2.word (vFmtAux d) 0 len] else []) ++
  (if o = 0x25 ∧ fmtMx (vFmtIn d) then scaleRows false aux else []) ++
  (if o = 0x25 ∧ fmtMx (dFmtOut d) then scaleRows true aux2 else [])

def runRows (p : Nat) (s : State) (t : Task) : State :=
  let d := t.desc
  runUnit s p t (vectorAccs t)
    (fun c => (List.range (vRows d)).foldl (writeVectorRow t) (c, 0))
    (fun c => if fmtMx (dFmtOut d) then streamBlocks c (vOut t) (vLdOut d) (vRows d) (dFmtOut d) (vLen d) (vScaleOut t)
              else streamRows c (vOut t) (vLdOut d) (vRows d) (dFmtOut d) (vOutLen d))

def issueRows (s : State) (p op : Nat) : State := issueAs s p op noRoot noMore (runRows p)

/-- VEC_REDUCE (R98). -/
def execVecReduce (p : Nat) (s : State) : Out := .next (issueRows s p 0x21)
/-- VEC_SCAN (R99). -/
def execVecScan (p : Nat) (s : State) : Out := .next (issueRows s p 0x22)
/-- VEC_SOFTMAX (R100). -/
def execVecSoftmax (p : Nat) (s : State) : Out := .next (issueRows s p 0x23)
/-- VEC_NORM (R101). -/
def execVecNorm (p : Nat) (s : State) : Out := .next (issueRows s p 0x24)
/-- VEC_CONVERT (R102). -/
def execVecConvert (p : Nat) (s : State) : Out := .next (issueRows s p 0x25)

end Sys2Proof.Machine
end

