-- ==== Sys2Proof/Machine/TaskGather.lean ====
section
/-! DEFINITION. The gather and scatter family (R104–R106). -/

namespace Sys2Proof.Machine

def gNidx (d : Desc) : Nat := fld d 223 192
def gNrows (d : Desc) : Nat := fld d 255 224
def gWidth (d : Desc) : Nat := fld d 287 256
def gLdt (d : Desc) : Nat := fld d 319 288
def gLdo (d : Desc) : Nat := fld d 351 320
def gFmtT (d : Desc) : Nat := fld d 356 352
/-- The format of the rows of O: the output of GATHER_SUM follows PS96_OUT (R85). -/
def gFmtO (d : Desc) : Nat := if dOpcode d = 0x31 then dFmtOut d else fld d 364 360
def gNseg (d : Desc) : Nat := fld d 415 384

/-- Entry i of an INT32 list. -/
def listEntry (c : Core) (l : Loc) (i : Nat) : Int := toSigned 32 (leNat (spdRead c l.kind (l.word + i) 0 4))

def gIdx (c : Core) (t : Task) (i : Nat) : Int := listEntry c (locAt t 1) i
def gSeg (c : Core) (t : Task) (i : Nat) : Int := listEntry c (locAt t 2) i

/-- The pass over the lists before any row is written (R106). -/
def listsOk (c : Core) (t : Task) : Bool :=
  let d := t.desc
  (List.range (gNidx d)).all (fun i => decide (gIdx c t i = -1 ∨ (0 ≤ gIdx c t i ∧ gIdx c t i < gNrows d))) &&
  (t.opcode != 0x31 || (decide (gSeg c t 0 = 0 ∧ gSeg c t (gNseg d) = gNidx d) &&
    (List.range (gNseg d)).all fun i => decide (gSeg c t i ≤ gSeg c t (i + 1))))

/-- Table row and row of O as places. -/
def tableRow (t : Task) (i : Int) : Loc := let l := locAt t 0; ⟨l.kind, l.word + i.toNat * gLdt t.desc⟩
def oRow (t : Task) (i : Nat) : Loc := let l := locAt t 3; ⟨l.kind, l.word + i * gLdo t.desc⟩

/-- The raw elements of a row. -/
def rawRow (c : Core) (l : Loc) (f n : Nat) : List Nat := (List.range n).map fun i => elemRaw c l.kind l.word f i

/-- Entries of the index list that name a row, in ascending order: (entry, row). -/
def namedRows (c : Core) (t : Task) : List (Nat × Int) :=
  (List.range (gNidx t.desc)).filterMap fun i => let x := gIdx c t i; if x = -1 then none else some (i, x)

/-- GATHER: row i of O. -/
def gatherRow (t : Task) (c : Core) (i : Nat) : Core :=
  let d := t.desc
  let x := gIdx c t i
  let o := oRow t i
  putElems c o.kind o.word (gFmtT d) 0
    (if x = -1 then List.replicate (gWidth d) 0 else rawRow c (tableRow t x) (gFmtT d) (gWidth d))

/-- SCATTER: one entry. -/
def scatterRow (t : Task) (c : Core) (e : Nat × Int) : Core :=
  let d := t.desc
  let r := tableRow t e.2
  putElems c r.kind r.word (gFmtT d) 0 (rawRow c (oRow t e.1) (gFmtT d) (gWidth d))

/-- SCATTER_ADD: one entry. The addend is the stored element, exact (R40, R105). -/
def scatterAddRow (t : Task) (x : Core × AFlags) (e : Nat × Int) : Core × AFlags :=
  let d := t.desc
  let c := x.1
  let r := tableRow t e.2
  let o := oRow t e.1
  let vs : List FVal := (List.range (gWidth d)).map fun i =>
    let a := elemVal c r.kind r.word 0x0E i
    let b := elemVal c o.kind o.word (gFmtO d) i
    let y := addPs96 a.1 b.1
    (y.1, a.2 ||| b.2 ||| y.2)
  (putElems c r.kind r.word 0x0E 0 (vs.map fun v => encodePs96 v.1), x.2 ||| flagsOf vs)

/-- Entries of segment k that name a row. -/
def segRows (c : Core) (t : Task) (k : Nat) : List Int :=
  let a := (gSeg c t k).toNat
  let b := (gSeg c t (k + 1)).toNat
  (List.range (b - a)).filterMap fun i => let x := gIdx c t (a + i); if x = -1 then none else some x

/-- GATHER_SUM: column j of segment k (R105). -/
def segElem (c : Core) (t : Task) (k j : Nat) : FVal :=
  let d := t.desc
  let mode := fld d 383 376
  let vs : List FVal := (segRows c t k).map fun x =>
    let r := tableRow t x
    elemVal c r.kind r.word (gFmtT d) j
  if vs.isEmpty then (Val.zero, 0)
  else if mode = 2 then extreme maxV vs
  else
    let s := sumPs96 vs
    if mode = 0 then s
    else
      let f := fp32 (s.1, 0)
      let q := vApprox c.microcode .rcp (toFp32 (.fin false vs.length 0, 0)).1
      withFlags (s.2 ||| f.2 ||| q.2) (vMul f.1 q.1)

def segRow (t : Task) (x : Core × AFlags) (k : Nat) : Core × AFlags :=
  let d := t.desc
  let o := oRow t k
  let y := putOut x.1 t o.kind o.word 0 (k * gWidth d) ((List.range (gWidth d)).map (segElem x.1 t k))
  (y.1, x.2 ||| y.2)

/-- The lists, read first. -/
def gListAccs (t : Task) : List Acc :=
  let d := t.desc
  let i := locAt t 1
  let g := locAt t 2
  wordAcc false i.kind i.word (gNidx d) :: (if t.opcode = 0x31 then [wordAcc false g.kind g.word (gNseg d + 1)] else [])

/-- The rows touched. -/
def gRowAccs (c : Core) (t : Task) : List Acc :=
  let d := t.desc
  let w := gWidth d
  let tab (write : Bool) (x : Int) : Acc := let r := tableRow t x; elemAcc write r.kind r.word (gFmtT d) 0 w
  let o (write : Bool) (i : Nat) : Acc := let r := oRow t i; elemAcc write r.kind r.word (gFmtO d) 0 w
  let named := namedRows c t
  if t.opcode = 0x30 then (named.map fun e => tab false e.2) ++ (List.range (gNidx d)).map (o true)
  else if t.opcode = 0x31 then
    ((List.range (gNseg d)).flatMap fun k => (segRows c t k).map (tab false)) ++ (List.range (gNseg d)).map (o true)
  else if t.opcode = 0x32 then (named.map fun e => o false e.1) ++ named.map fun e => tab true e.2
  else (named.map fun e => o false e.1) ++ (named.map fun e => tab false e.2) ++ named.map fun e => tab true e.2

def runGather (p : Nat) (s : State) (t : Task) : State :=
  let d := t.desc
  match accFail (coreAt s p) false (gListAccs t) with
  | some f => eccTask (seeAccesses s p t.id (gListAccs t)) p t f
  | none =>
    if listsOk (coreAt s p) t then
      runUnit s p t (gListAccs t ++ gRowAccs (coreAt s p) t)
        (fun c =>
          if t.opcode = 0x30 then ((List.range (gNidx d)).foldl (gatherRow t) c, 0)
          else if t.opcode = 0x31 then (List.range (gNseg d)).foldl (segRow t) (c, 0)
          else if t.opcode = 0x32 then ((namedRows c t).foldl (scatterRow t) c, 0)
          else (namedRows c t).foldl (scatterAddRow t) (c, 0))
        (fun c => streamRows c (locAt t 3) (gLdo d) (gNseg d) (gFmtO d) (gWidth d))
    else finishTask (seeAccesses s p t.id (gListAccs t)) p t.id .badParam 0

def issueGather (s : State) (p op : Nat) : State := issueAs s p op noRoot noMore (runGather p)

/-- GATHER (R105). -/
def execGather (p : Nat) (s : State) : Out := .next (issueGather s p 0x30)
/-- GATHER_SUM (R105). -/
def execGatherSum (p : Nat) (s : State) : Out := .next (issueGather s p 0x31)
/-- SCATTER (R105). -/
def execScatter (p : Nat) (s : State) : Out := .next (issueGather s p 0x32)
/-- SCATTER_ADD (R105). -/
def execScatterAdd (p : Nat) (s : State) : Out := .next (issueGather s p 0x33)

end Sys2Proof.Machine
end

