-- ==== Sys2Proof/Machine/TaskMatrix.lean ====
section
/-! DEFINITION. The matrix family: dispatch of work items to engines and their results (R34–R42, R67–R69, R89–R93, R320, R321). -/

namespace Sys2Proof.Machine

/-! ## Geometry of a descriptor (R67, R89, R90, R92) -/

def mM (d : Desc) : Nat := fld d 239 224
def mN (d : Desc) : Nat := fld d 255 240
def mK (d : Desc) : Nat := fld d 279 256
def mRanges (d : Desc) : Nat := fld d 495 480
def mFmtA (d : Desc) : Nat := fld d 388 384
def mFmtB (d : Desc) : Nat := fld d 396 392
def mMxOut (d : Desc) : Bool := fmtMx (dFmtOut d)
/-- Columns of an output tile: 32 for an MX output. -/
def mTileCols (d : Desc) : Nat := if mMxOut d then 32 else 16
def mTiles (d : Desc) : Nat := ceilDiv (mM d) 16 * ceilDiv (mN d) (mTileCols d)
def mHalfTiles (d : Desc) : Nat := ceilDiv (mM d) 16 * ceilDiv (mN d) 16

/-- Work items in dispatch order; the folds of a split join as their partials are written. -/
def workItems (d : Desc) : List WorkItem :=
  if opKsplit (dOpcode d) then
    (List.range (mHalfTiles d)).flatMap fun t => (List.range (mRanges d)).map fun q => .part t q
  else (List.range (mTiles d)).map .tile

/-- A rectangle of output elements. -/
structure TileBox where
  i0 : Nat
  j0 : Nat
  rows : Nat
  cols : Nat
deriving DecidableEq, Repr

def tileBox (d : Desc) (cols t : Nat) : TileBox :=
  let per := ceilDiv (mN d) cols
  let i0 := t / per * 16
  let j0 := t % per * cols
  { i0 := i0, j0 := j0, rows := min 16 (mM d - i0), cols := min cols (mN d - j0) }

def itemBox (d : Desc) : WorkItem → TileBox
  | .tile t => tileBox d (mTileCols d) t
  | .part t _ => tileBox d 16 t
  | .fold t => tileBox d (mTileCols d) t

/-- K positions of an item: first and count. -/
def itemK (d : Desc) : WorkItem → Nat × Nat
  | .tile _ => (0, mK d)
  | .part _ q => (q * (mK d / mRanges d), mK d / mRanges d)
  | .fold _ => (0, 0)

/-- Half tiles that a fold needs. -/
def foldHalves (d : Desc) (t : Nat) : List Nat :=
  if mMxOut d then
    let per := ceilDiv (mN d) 32
    let per16 := ceilDiv (mN d) 16
    let h := t / per * per16 + 2 * (t % per)
    if t % per * 32 + 16 < mN d then [h, h + 1] else [h]
  else [t]

/-- The fold that a half tile belongs to. -/
def halfFold (d : Desc) (t : Nat) : Nat :=
  if mMxOut d then t / ceilDiv (mN d) 16 * ceilDiv (mN d) 32 + t % ceilDiv (mN d) 16 / 2 else t

/-- Word of partial element (q, i, j) within the P region (R90). -/
def partWord (d : Desc) (q i j : Nat) : Nat := 3 * ((q * mM d + i) * mN d + j)

/-! ## Operands -/

/-- A(i, k) with its flags, without its block scale. -/
def aElem (c : Core) (t : Task) (i k : Nat) : FVal :=
  let l := locAt t 0
  let ld := fld t.desc 319 288
  if opAT t.opcode then elemVal c l.kind (l.word + k * ld) (mFmtA t.desc) i
  else elemVal c l.kind (l.word + i * ld) (mFmtA t.desc) k

/-- B(k, j). -/
def bElem (c : Core) (t : Task) (k j : Nat) : FVal :=
  let l := locAt t 1
  let ld := fld t.desc 351 320
  if opBT t.opcode then elemVal c l.kind (l.word + j * ld) (mFmtB t.desc) k
  else elemVal c l.kind (l.word + k * ld) (mFmtB t.desc) j

/-- The scale byte of the block that holds K position k; 2⁰ for an operand without block scales (R35, R90). -/
def blockScale (c : Core) (t : Task) (place f row k : Nat) : Nat :=
  if fmtMx f then
    let l := locAt t place
    scaleByte c l.kind (l.word + row * ceilDiv (mK t.desc) 128) (k / 32)
  else 127

/-- The exact sum of the products of one block (R36). Its order matters only to the flags of a block that holds a NaN product and
infinities of both signs, for which the spec gives no order: the sum goes by ascending k, so INVALID stays clear where the
NaN comes before the infinities meet (log 63, DESIGN CHOICE). -/
def blockSum (c : Core) (t : Task) (i j k n : Nat) : FVal :=
  (List.range n).foldl (fun (s : FVal) x =>
    let a := aElem c t i (k + x)
    let b := bElem c t (k + x) j
    let p := mulExact a.1 b.1
    let r := addExact s.1 p.1
    (r.1, s.2 ||| a.2 ||| b.2 ||| p.2 ||| r.2)) (Val.zero, 0)

/-- One block of R37. -/
def addBlock (c : Core) (t : Task) (i j k n : Nat) (acc : FVal) : FVal :=
  let sa := blockScale c t 4 (mFmtA t.desc) i k
  let sb := blockScale c t 5 (mFmtB t.desc) j k
  let b : FVal := if sa = 0xFF ∨ sb = 0xFF then (.nan, fNanSeen) else
    let s := blockSum c t i j k n
    (s.1.scale ((sa : Int) - 127 + ((sb : Int) - 127)), s.2)
  let r := addPs96 acc.1 b.1
  (r.1, acc.2 ||| b.2 ||| r.2)

/-- Accumulation over K positions k0 to k0 + n − 1 (R37, R38). -/
def accumulate (c : Core) (t : Task) (i j k0 n : Nat) (init : FVal) : FVal :=
  if fmtNarrow (mFmtA t.desc) then
    (List.range (ceilDiv n 32)).foldl (fun acc b => addBlock c t i j (k0 + 32 * b) (min 32 (n - 32 * b)) acc) init
  else
    (List.range n).foldl (fun (acc : FVal) x =>
      let a := aElem c t i (k0 + x)
      let b := bElem c t (k0 + x) j
      let p := mulExact a.1 b.1
      let r := addPs96 acc.1 p.1
      (r.1, acc.2 ||| a.2 ||| b.2 ||| p.2 ||| r.2)) init

/-- PS96 element at a word of the P region. -/
def pElem (c : Core) (t : Task) (w : Nat) : FVal :=
  let l := locAt t 3
  elemVal c l.kind (l.word + w) 0x0E 0

/-- The initial value (R39). -/
def initVal (c : Core) (t : Task) (i j : Nat) : FVal :=
  if opAcc t.opcode then pElem c t (partWord t.desc 0 i j) else (Val.zero, 0)

/-- The left fold of the partials in ascending range order (R41, R92). -/
def foldParts (c : Core) (t : Task) (i j : Nat) : FVal :=
  (List.range (mRanges t.desc - 1)).foldl (fun (acc : FVal) x =>
    let p := pElem c t (partWord t.desc (x + 1) i j)
    let r := addPs96 acc.1 p.1
    (r.1, acc.2 ||| p.2 ||| r.2)) (pElem c t (partWord t.desc 0 i j))

/-- The accumulator of one element of an item. -/
def itemVal (c : Core) (t : Task) (w : WorkItem) (i j : Nat) : FVal :=
  match w with
  | .fold _ => foldParts c t i j
  | .part .. => let r := itemK t.desc w; accumulate c t i j r.1 r.2 (Val.zero, 0)
  | .tile _ => accumulate c t i j 0 (mK t.desc) (initVal c t i j)

/-! ## Accesses of an item -/

def itemReads (t : Task) (w : WorkItem) : List Acc :=
  let d := t.desc
  let b := itemBox d w
  let (k0, n) := itemK d w
  let A := locAt t 0
  let B := locAt t 1
  let P := locAt t 3
  let rows := (List.range b.rows).map (b.i0 + ·)
  let cols := (List.range b.cols).map (b.j0 + ·)
  let ks := (List.range n).map (k0 + ·)
  let pRows (q : Nat) : List Acc := rows.map fun i => wordAcc false P.kind (P.word + partWord d q i b.j0) (3 * b.cols)
  let scales (place f : Nat) (l : List Nat) : List Acc :=
    if fmtMx f then l.map fun r =>
      let x := locAt t place
      wordAcc false x.kind (x.word + r * ceilDiv (mK d) 128 + k0 / 128) (ceilDiv (k0 % 128 + n) 128) else []
  match w with
  | .fold _ => (List.range (mRanges d)).flatMap pRows
  | _ =>
    (if opAT t.opcode then ks.map fun k => elemAcc false A.kind (A.word + k * fld d 319 288) (mFmtA d) b.i0 b.rows
     else rows.map fun i => elemAcc false A.kind (A.word + i * fld d 319 288) (mFmtA d) k0 n) ++
    (if opBT t.opcode then cols.map fun j => elemAcc false B.kind (B.word + j * fld d 351 320) (mFmtB d) k0 n
     else ks.map fun k => elemAcc false B.kind (B.word + k * fld d 351 320) (mFmtB d) b.j0 b.cols) ++
    scales 4 (mFmtA d) rows ++ scales 5 (mFmtB d) cols ++ (if opAcc t.opcode then pRows 0 else [])

def itemWrites (t : Task) (w : WorkItem) : List Acc :=
  let d := t.desc
  let b := itemBox d w
  let C := locAt t 2
  let P := locAt t 3
  let S := locAt t 6
  let rows := (List.range b.rows).map (b.i0 + ·)
  match w with
  | .part _ q => rows.map fun i => wordAcc true P.kind (P.word + partWord d q i b.j0) (3 * b.cols)
  | _ =>
    (rows.map fun i => elemAcc true C.kind (C.word + i * fld d 383 352) (dFmtOut d) b.j0 b.cols) ++
    (if mMxOut d then rows.map fun i =>
       { byteAcc true S.kind (S.word + i * ceilDiv (mN d) 128 + b.j0 / 128) 1 with cut := true } else [])

/-! ## Results -/

/-- Write the row i of an item's box (R67 steps 3 and 4, R90). -/
def writeItemRow (t : Task) (w : WorkItem) (c : Core) (i : Nat) (vs : List FVal) : Core × AFlags :=
  let d := t.desc
  let b := itemBox d w
  let C := locAt t 2
  let P := locAt t 3
  let S := locAt t 6
  match w with
  | .part _ q =>
    (putElems c P.kind (P.word + partWord d q i b.j0) 0x0E 0 (vs.map fun v => encodePs96 v.1), flagsOf vs)
  | _ =>
    if mMxOut d then
      putBlocks c t C.kind (C.word + i * fld d 383 352) b.j0 S.kind (S.word + i * ceilDiv (mN d) 128) (b.j0 / 32)
        (i * mN d + b.j0) vs
    else putOut c t C.kind (C.word + i * fld d 383 352) b.j0 (i * mN d + b.j0) vs

/-- The result of an item: every value is formed before any row is written (R67). -/
def runItem (t : Task) (w : WorkItem) (c : Core) : Core × AFlags :=
  let b := itemBox t.desc w
  let vals : List (Nat × List FVal) := (List.range b.rows).map fun r =>
    (b.i0 + r, (List.range b.cols).map fun x => itemVal c t w (b.i0 + r) (b.j0 + x))
  vals.foldl (fun (x : Core × AFlags) row =>
    let y := writeItemRow t w x.1 row.1 row.2
    (y.1, x.2 ||| y.2)) (c, 0)

/-- The stream of a finished matrix task (R310). -/
def matrixStream (t : Task) (c : Core) : List Byte :=
  let d := t.desc
  if mMxOut d then streamBlocks c (locAt t 2) (fld d 383 352) (mM d) (dFmtOut d) (mN d) (locAt t 6)
  else streamRows c (locAt t 2) (fld d 383 352) (mM d) (dFmtOut d) (mN d)

/-- Is an engine running an item of the task? -/
def onEngine (c : Core) (id : Nat) : Bool :=
  c.engines.any fun e => match e.work with
    | some w => w.task == id
    | none => false

/-- A matrix task whose last item has been written finishes (R67). -/
def settleMatrix (s : State) (p id : Nat) : State :=
  let c := coreAt s p
  match taskOf c id with
  | some t =>
    if t.undispatched.isEmpty && t.retryItems.isEmpty && !onEngine c id then
      finishOk s p id 0 (matrixStream t c) else s
  | none => s

/-- An item has been written: the fold of its tile joins the pool, ahead of undispatched partials, once all its partials
are written (R92). -/
def itemWritten (s : State) (p : Nat) (t : Task) (w : WorkItem) (af : AFlags) : State :=
  let s := modTask s p t.id fun t =>
    let written := t.written ++ [w]
    let fold : List WorkItem := match w with
      | .part h _ =>
        let f := halfFold t.desc h
        if (foldHalves t.desc f).all fun x => (List.range (mRanges t.desc)).all fun q => written.contains (.part x q)
        then [.fold f] else []
      | _ => []
    let isFold (x : WorkItem) : Bool := match x with
      | .fold _ => true
      | _ => false
    { t with written := written, aflags := t.aflags ||| af,
             undispatched := t.undispatched.takeWhile isFold ++ fold ++ t.undispatched.dropWhile isFold }
  settleMatrix s p t.id

/-- Start a matrix task: its items join the pool (R67). -/
def startMatrix (p : Nat) (s : State) (t : Task) : State :=
  modTask s p t.id fun t => { t with undispatched := workItems t.desc }

/-- Issue of a matrix descriptor. -/
def issueMatrix (s : State) (p op : Nat) : State := issueAs s p op noRoot noMore (startMatrix p)

/-- MMA (R91). -/
def execMma (p : Nat) (s : State) : Out := .next (issueMatrix s p 0x10)
/-- MMA_AT (R91). -/
def execMmaAt (p : Nat) (s : State) : Out := .next (issueMatrix s p 0x11)
/-- MMA_BT (R91). -/
def execMmaBt (p : Nat) (s : State) : Out := .next (issueMatrix s p 0x12)
/-- MMA_ACC (R91). -/
def execMmaAcc (p : Nat) (s : State) : Out := .next (issueMatrix s p 0x13)
/-- MMA_ACC_AT (R91). -/
def execMmaAccAt (p : Nat) (s : State) : Out := .next (issueMatrix s p 0x14)
/-- MMA_ACC_BT (R91). -/
def execMmaAccBt (p : Nat) (s : State) : Out := .next (issueMatrix s p 0x15)
/-- MMA_KSPLIT (R92). -/
def execMmaKsplit (p : Nat) (s : State) : Out := .next (issueMatrix s p 0x16)
/-- MMA_KSPLIT_BT (R92). -/
def execMmaKsplitBt (p : Nat) (s : State) : Out := .next (issueMatrix s p 0x17)

/-! ## Engines -/

/-- The next work of a core: a tile to run again, else the first undispatched item of the earliest issued task (R67, R68,
log 21, DEDUCED). -/
def nextWork (c : Core) : Option (Nat × WorkItem × Bool) :=
  (c.window.findSome? fun t => t.retryItems.head?.map fun w => (t.id, w, true)).or
    (c.window.findSome? fun t => t.undispatched.head?.map fun w => (t.id, w, false))

/-- The lowest-numbered engine that can take work. -/
def freeEngine (c : Core) : Option Nat :=
  (List.range c.engines.length).find? fun e => match c.engines[e]? with
    | some x => x.online && !x.held && x.work.isNone
    | none => false

def setEngine (c : Core) (e : Nat) (f : Engine → Engine) : Core := { c with engines := modAt c.engines e f }

def onlineEngines (c : Core) : Nat := (c.engines.filter (·.online)).length

/-- Dispatch (R67). -/
def dispatchTile (s : State) (p : Nat) : State :=
  let c := coreAt s p
  match committing c, freeEngine c, nextWork c with
  | true, some e, some (id, w, again) =>
    let attempt := if !again then 1 else if onlineEngines c = 1 then 3 else 2
    let s := modTask s p id fun t =>
      { t with undispatched := if again then t.undispatched else t.undispatched.tail,
               retryItems := if again then t.retryItems.tail else t.retryItems,
               engines := t.engines ||| BitVec.ofNat 8 (2 ^ e) }
    modCore s p fun c => setEngine c e fun x => { x with work := some ⟨id, w, attempt⟩ }
  | _, _, _ => s

/-- TILE_DISPATCH (R67). -/
def execTileDispatch (p : Nat) (s : State) : Out := .next (dispatchTile s p)

/-- A tile boundary of an engine: it is free, and a requested step takes effect (R70). -/
def tileBoundary (s : State) (p e : Nat) : State :=
  modCore s p fun c => setEngine c e fun x => { x with work := none, step := x.req.getD x.step, req := none }

/-- Step changes that waited for a tile boundary may now be complete (R413). -/
def settleDomain (s : State) (p : Nat) : State :=
  match partOfP s p with
  | some n => settleSteps s n
  | none => s

/-- An engine finishes its item. -/
def tileDone (s : State) (p e : Nat) : State :=
  let c := coreAt s p
  match (c.engines[e]?).bind (·.work) with
  | none => s
  | some w =>
    let s := tileBoundary s p e
    let s := match taskOf c w.task with
      | none => s
      | some t =>
        let accs := itemReads t w.item ++ itemWrites t w.item
        let s := seeAccesses s p t.id accs
        let c := coreAt s p
        match accFail c false accs with
        | some f => eccTask s p t f
        | none =>
          let r := runItem t w.item c
          let s := setCore s p r.1
          let s := if w.attempt = 3 then
              modTransient s (coreUnit p) fun x => { x with task := satInc 32 x.task } else s
          match accFail c true accs with
          | some f => eccTask s p t f
          | none => itemWritten s p t w.item r.2
    settleDomain s p

/-- ENGINE_TILE_DONE (R67). -/
def execEngineTileDone (p e : Nat) (s : State) : Out := .next (tileDone s p e)

/-- A lasting core fault found in a task (R69, R321): its record, the task's entry with LASTING_FAULT (Table 04-19), and the core
is FAULTED. -/
def taskFaultLasting (s : State) (p : Nat) (t : Task) (unit : Nat) (e : Option Nat) : State :=
  let s := addLasting s { taskRec s p t 0x04 .lastingFault with engine := e, detail := unit } (some (coreUnit p))
  let s := failTask s p t.id .lastingFault
  let s := modCore s p fun c => match taskOf c t.id with
    | some t => recordTask s { c with window := c.window.filter fun x => x.id != t.id } t .lastingFault false
    | none => c
  disposeCore s p 0x04

/-- An engine detects an error: the tile is discarded, the engine is held and the tile runs again on another engine; on the same
one where no other is online (R68, R321). -/
def tileError (s : State) (p e : Nat) : State :=
  let c := coreAt s p
  match (c.engines[e]?).bind (·.work) with
  | none => s
  | some w =>
    let s := tileBoundary s p e
    match taskOf c w.task with
    | none => settleDomain s p
    | some t =>
      if 2 ≤ w.attempt then settleDomain (taskFaultLasting s p t 0 (some e)) p
      else
        let s := modTask s p t.id fun t => { t with retryItems := t.retryItems ++ [w.item], attempts := 2 }
        let other := (List.range c.engines.length).any fun i => i != e && ((c.engines[i]?).map (·.online)).getD false
        let s := if other then modCore s p fun c => setEngine c e fun x => { x with held := true } else s
        settleDomain s p

/-- ENGINE_TILE_ERROR (R68). -/
def execEngineTileError (p e : Nat) (s : State) : Out := .next (tileError s p e)

/-- The engine has run work of the task. -/
def ranOn (t : Task) (e : Nat) : Bool := bit t.engines.toNat e

/-- An engine is taken offline (R68); the last one of a core takes the core with it (R69). The dispatch pool gives no engine a
share of a task, so `the engine's undispatched share` is read as the undispatched items of a task that has run on the engine:
each such task records ENGINE_MOVED (log 21, DESIGN CHOICE). -/
def engineOff (s : State) (p e : Nat) (record : Bool) : State :=
  let s := modCore s p fun c =>
    let c := setEngine c e fun x => { x with online := false, held := false }
    { c with window := c.window.map fun t =>
        if ranOn t e && !t.undispatched.isEmpty then { t with engineMoved := true } else t }
  let last := onlineEngines (coreAt s p) = 0
  let s := if record ∨ last then
      addLasting s { coreFault s p 0x07 .core with engine := some e, queue := runQueue (coreAt s p) } (some (coreUnit p))
    else s
  if last then disposeCore s p 0x07 else s

/-- The engine exists and is online. -/
def engineOnline (s : State) (p e : Nat) : Bool := (((coreAt s p).engines[e]?).map (·.online)).getD false

/-- ENGINE_KAT_TILE_DONE (R321). -/
def execEngineKatTileDone (p e : Nat) (pass : Bool) (s : State) : Out :=
  .next (
    if (((coreAt s p).engines[e]?).map (·.held)).getD false then
      if pass then
        modTransient (modCore s p fun c => setEngine c e fun x => { x with held := false }) (coreUnit p) fun x =>
          { x with task := satInc 32 x.task }
      else engineOff s p e true
    else s)

/-- ENGINE_OFFLINE (R68). -/
def execEngineOffline (p e : Nat) (s : State) : Out :=
  .next (if engineOnline s p e then engineOff s p e false else s)

end Sys2Proof.Machine
end

