-- ==== Sys2Proof/Machine/CoreEvents.lean ====
section
/-! DEFINITION. The events of a core's sequencer: fetch, commit, faults of units, wait limits, the start, abort and step
boundary of a core, and straggler swaps (R55–R78, R313, R320, R359–R363). -/

namespace Sys2Proof.Machine

/-! ## Fetch (R55, R57, R62) -/

/-- The record of a fetch of descriptor `index` that failed twice (R57, R136, R247). -/
def fetchRec (s : State) (p index : Nat) : FaultRec :=
  { coreFault s p 0x02 .core with index := some index, queue := runQueue (coreAt s p), status := some .eccUncorrectable }

/-- One descriptor of a RESIDENT list enters the buffer; the fetch begins again at the next descriptor to issue after a branch out
of the buffer. -/
def fetchResident (s : State) (p : Nat) (sl : Slot) : State :=
  let c := fitBuffer (coreAt s p)
  let n := fetchNext c
  if c.fetchBuf.length < 64 ∧ n < sl.count then
    let f := fetchOne s c sl n
    let s := if f.refused = some .eccUncorrectable then
        match c.failing.find? fun f => f.1 == .A && decide (f.2 / 16 = sl.arow + n) with
        | some f => addSpdUe s p (fetchRec s p n) f.1 f.2
        | none => s
      else s
    modCore s p fun c => enterBuffer c fun _ => f
  else s

/-- The NI asks the reading-room cache for descriptor n of a STREAMED list, one at a time (log 81, DESIGN CHOICE): on VC0 in a RUN from
a queue of control-loop class, on VC3 otherwise (R57). -/
def askFetch (s : State) (p : Nat) (sl : Slot) (n : Nat) : State :=
  let a := sl.list + 64 * n
  let vc := if (coreAt s p).run.any (·.control) then 0 else 3
  if s.reqs.any (fun r => r.isOf (.fetch p)) || !decide (n < sl.count) then s
  else askSlice s (.fetch p) p vc 0x01 a 16 (n % 4096) (.rdReq (.fetch p) a 64 true)

/-- The answer to a core's fetch that its NI holds: packet, address and bytes. -/
def fetchArrived (s : State) (p : Nat) : Option (Nat × Nat × List Byte) :=
  s.packets.findSome? fun k => if k.delivered then (match k.body with
    | .rdData (.fetch q) a bs => if p = q then some (k.id, a, bs) else none
    | _ => none) else none

/-- A STREAMED list's fetch goes on: the descriptor that has arrived enters the buffer and is checked (R62), and the next one is asked
for while the buffer has room (R57). -/
def fetchStreamed (s : State) (p : Nat) (sl : Slot) : State :=
  let c := fitBuffer (coreAt s p)
  let n := fetchNext c
  if 64 ≤ c.fetchBuf.length ∨ sl.count ≤ n then s
  else match fetchArrived s p with
    | none => askFetch s p sl n
    | some (id, a, bs) =>
      let asked := s.reqs.any fun r => r.isOf (.fetch p)
      let s := endReqs (dropPacket s id) (.fetch p)
      if asked ∧ a = sl.list + 64 * n then
        let d : Desc := BitVec.ofNat 512 (leNat bs)
        let s := modCore s p fun c => enterBuffer c fun n =>
          { index := n, desc := d, refused := loadCheck s.order1T n sl.count d }
        if c.fetchBuf.length < 63 then askFetch s p sl (n + 1) else s
      else askFetch s p sl n

/-- One descriptor enters the buffer while the sequencer's next one is in it, or it is empty. -/
def fetchDescriptor (s : State) (p : Nat) : State :=
  let c := coreAt s p
  match c.seq, runSlot c with
  | .running, some sl =>
    if !sl.streamed then fetchResident s p sl else if bufferFits c then fetchStreamed s p sl else s
  | _, _ => s

/-- DESCRIPTOR_FETCH (R57, R62). -/
def execDescriptorFetch (p : Nat) (s : State) : Out := .next (fetchDescriptor s p)

/-- The refetch of a STREAMED list from a branch target outside the buffer (R57). -/
def refetchStreamed (s : State) (p : Nat) : State :=
  let c := coreAt s p
  match c.seq, runSlot c with
  | .running, some sl => if sl.streamed ∧ !(headOf c).isSome then fetchStreamed s p sl else s
  | _, _ => s

/-- STREAMED_LIST_REFETCH (R57). -/
def execStreamedListRefetch (p : Nat) (s : State) : Out := .next (refetchStreamed s p)

/-! ## Commit -/

/-- A descriptor refused at its fetch commits at the head of issue with the refusal's status (R62); of its bytes only TASK
reaches the entry. -/
def commitRefused (s : State) (p : Nat) : State :=
  let c := coreAt s p
  match c.seq, headOf c with
  | .running, some f =>
    match f.refused with
    | some st =>
      let bare : Desc := BitVec.ofNat 512 (dTask f.desc * 2 ^ 48)
      let t := { newTask c { f with desc := bare } s.time with finished := true, status := st }
      let s := modCore s p fun c =>
        { c with fetchBuf := c.fetchBuf.tail, nextIndex := c.nextIndex + 1, nextId := c.nextId + 1,
                 window := c.window ++ [t] }
      commitTask s p t
    | none => s
  | _, _ => s

/-- REFUSED_DESCRIPTOR_COMMIT (R62). -/
def execRefusedDescriptorCommit (p : Nat) (s : State) : Out := .next (commitRefused s p)

/-- A finished task can commit: its feed is complete (R311), no engine still runs an item of it (R68), and for END every
earlier task has committed (R74). -/
def canCommit (c : Core) (t : Task) : Bool :=
  t.finished && !onEngine c t.id && (t.opcode != 0x75 || decide (c.window.length = 1)) &&
    (match t.feed with
     | .due .. => false
     | _ => true)

/-- Commit of a task (R64); a check opcode acts as it commits (R125). -/
def tryCommit (s : State) (p id : Nat) : State :=
  let c := coreAt s p
  match taskOf c id with
  | some t =>
    if !committing c then s
    else if isCheck t && !t.finished && checkReady c t then
      let s := runCheck s p t
      match taskOf (coreAt s p) id with
      | some t => settleGroups (commitTask s p { t with finished := true })
      | none => s
    else if canCommit c t then settleGroups (commitTask s p t) else s
  | none => s

/-- TASK_COMMIT (R64). -/
def execTaskCommit (p id : Nat) (s : State) : Out := .next (tryCommit s p id)

/-! ## Faults of units (R320) -/

/-- Unit codes of class TASK_FAULT (Table 13-3). -/
def unitCode (o : Nat) : Nat :=
  if o < 0x20 then 0 else if o < 0x30 then 1 else if o < 0x40 then 2 else if o < 0x50 then 3 else if o < 0x70 then 4 else 5

/-- The feed of a task has not begun. -/
def unfed (t : Task) : Bool :=
  match t.feed with
  | .none => true
  | .due n _ => n == 0
  | .complete _ => false

/-- An output of the task lies over an operand it reads: only SCATTER_ADD and the carry of VEC_SCAN do. -/
def inPlace (t : Task) : Bool := t.writes.any fun w => t.reads.any fun r => w.meets r

/-- The task is executed again, whole, and rewrites its output with the same bytes (R130, R319). The vector, gather/scatter and
DMA units run it anew. An output written in place is not formed a second time, nor is what a NI has sent: the bytes that
are there are those the retry writes (log 68, DEDUCED). -/
def rerunTask (s : State) (p : Nat) (t : Task) : State :=
  let anew (s : State) : State := modTask s p t.id fun t => { t with finished := false, aflags := 0, progress := 0 }
  if !t.finished || inPlace t then s
  else if t.opcode = 0x20 then runMap p (anew s) t
  else if 0x21 ≤ t.opcode ∧ t.opcode ≤ 0x25 then runRows p (anew s) t
  else if 0x30 ≤ t.opcode ∧ t.opcode ≤ 0x33 then runGather p (anew s) t
  else if t.opcode = 0x40 then runCopy p (anew s) t
  else s

/-- A unit other than an engine finds an error in its task: the task is executed again, once (R319, R320). The second error is
lasting; no wrong value has reached a row. -/
def taskFault (s : State) (p id : Nat) : State :=
  match taskOf (coreAt s p) id with
  | some t =>
    if opMatrix t.opcode || !t.status.good || !unfed t then s
    else if t.refault then taskFaultLasting s p t (unitCode t.opcode) none
    else rerunTask (modTask s p id fun t => { t with refault := true, attempts := 2 }) p t
  | none => s

/-! ## What a task still reads (R136) -/

/-- The accesses that return words to the task's unit. -/
def taskReads (s : State) (p : Nat) (t : Task) : List Acc :=
  let c := coreAt s p
  let o := t.opcode
  let l := locAt t 0
  let rows := List.range (xRows t.desc)
  let reads (a : List Acc) : List Acc := a.filter fun a => !a.write
  if opMatrix o then
    (workItems t.desc ++ if opKsplit o then (List.range (mTiles t.desc)).map WorkItem.fold else []).flatMap (itemReads t)
  else if o = 0x20 then reads (mapAccs t)
  else if o ≤ 0x25 then reads (vectorAccs t)
  else if o ≤ 0x33 then gListAccs t ++ (if listsOk c t then reads (gRowAccs c t) else [])
  else if o = 0x40 then rows.map fun r => rowAcc false (sourceRow t r) (xBpr t.desc)
  else if o = 0x42 ∨ o = 0x44 then rows.map fun r => rowAcc false (localRow t r) (xBpr t.desc)
  else if o = 0x50 then (if t.peer.isSome then [byteAcc false l.kind l.word (pBytes t.desc)] else [])
  else if o = 0x52 then [byteAcc false l.kind l.word (pBytes t.desc)]
  else if o = 0x60 ∨ o = 0x61 then [elemAcc false l.kind l.word (kFmtIn t.desc) 0 (kCount t.desc)]
  else if o = 0x62 ∧ isRootRank c t.desc then [byteAcc false l.kind l.word (kCount t.desc)]
  else []

/-- TASK_FAULT_DETECT (R320). -/
def execTaskFaultDetect (p id : Nat) (s : State) : Out := .next (taskFault s p id)

/-! ## Wait limits (R66, R110, R114, R116, R119, R213) -/

/-- The task waits for something that its RUN's wait limit bounds. -/
def waits (t : Task) : Bool :=
  !t.finished && ((t.opcode == 0x41 && xShare t.desc != 0) ||
    ((t.opcode == 0x50 || t.opcode == 0x51) && t.peer.isNone) ||
    (t.opcode == 0x52 && t.pendingStatus == some .noResource) || t.opcode == 0x53 ||
    decide (0x60 ≤ t.opcode ∧ t.opcode ≤ 0x63))

/-- A member of a shared stream waits only while the stream gathers (R110). -/
def waitsNow (s : State) (p : Nat) (t : Task) : Bool :=
  waits t && (t.opcode != 0x41 || s.gathers.any fun g => g.members.contains (p, t.id))

/-- The first limit has passed: a further one begins. -/
def waitLimit (s : State) (p : Nat) : WaitRef → State
  | .head =>
    let c := coreAt s p
    match headOf c with
    | some f =>
      if c.seq = .running ∧ f.refused = none ∧ !canIssue c f then modCore s p fun c => { c with headFurther := true } else s
    | none => s
  | .task id =>
    match taskOf (coreAt s p) id with
    | some t => if waitsNow s p t then modTask s p id fun t => { t with further := true } else s
    | none => s

/-- WAIT_LIMIT_EXPIRY (R66). -/
def execWaitLimitExpiry (p : Nat) (who : WaitRef) (s : State) : Out := .next (waitLimit s p who)

/-- The record of an expired wait (R319); a lasting TIMEOUT blames no unit (R338). -/
def timeoutRecord (s : State) (p : Nat) (t : Task) : State :=
  addLasting s { taskRec s p t 0x06 .timeout with detail := taskTag t.id } none

/-- The descriptor at the head completes with TIMEOUT: it commits without having issued. -/
def headTimeout (s : State) (p : Nat) (c : Core) (f : Fetched) : State :=
  let t := { newTask c f s.time with finished := true, status := .timeout, attempts := 2 }
  let s := timeoutRecord s p t
  let s := modCore s p fun c =>
    { c with fetchBuf := c.fetchBuf.tail, nextIndex := c.nextIndex + 1, nextId := c.nextId + 1, headFurther := false,
             window := c.window ++ [t] }
  commitTask s p t

/-- A task's wait ends with TIMEOUT. -/
def taskTimeout (s : State) (p : Nat) (t : Task) : State :=
  let s := stopSending (dropReqs (timeoutRecord s p t) (.task p t.id)) (p, t.id)
  let out (l : List (Nat × Nat)) : List (Nat × Nat) := l.filter fun m => m != (p, t.id)
  let s := { s with gathers := (s.gathers.map fun g => { g with members := out g.members }).filter fun g =>
                      !g.members.isEmpty }
  failTask (modTask s p t.id fun t => { t with attempts := 2 }) p t.id .timeout

/-- The further limit has passed. -/
def furtherLimit (s : State) (p : Nat) : WaitRef → State
  | .head =>
    let c := coreAt s p
    match headOf c with
    | some f =>
      if c.seq = .running ∧ c.headFurther ∧ f.refused = none ∧ dWaitset f.desc &&& c.flags ≠ dWaitset f.desc then
        headTimeout s p c f
      else s
    | none => s
  | .task id =>
    match taskOf (coreAt s p) id with
    | some t => if t.further && waitsNow s p t then taskTimeout s p t else s
    | none => s

/-- WAIT_FURTHER_LIMIT_EXPIRY (R66). -/
def execWaitFurtherLimitExpiry (p : Nat) (who : WaitRef) (s : State) : Out := .next (furtherLimit s p who)

/-! ## Start and abort of a RUN on a core (R72, R75, R129) -/

/-- The core loads the RUN (R72). -/
def startCore (s : State) (p : Nat) : State :=
  let c := coreAt s p
  match c.seq, c.pendingStart with
  | .idle, some r =>
    if !c.marks.isEmpty then s
    else setCore (dropReqs s (.fetch p)) p
      { c with seq := .running, run := some r, pendingStart := none, flags := 0, startCount := [],
               step := r.step.getD c.step, nextIndex := 0, logPos := 0, report := CoreReport.init, headSince := s.time,
               headFurther := false, arrival := s.time, window := [], bbW := ⟨0, 0⟩, bbA := ⟨0, 0⟩, bbP := ⟨0, 0⟩,
               sendSeq := [], recvSeq := [], fetchBuf := if c.bufSlot = some r.slot then c.fetchBuf else [],
               bufSlot := none }
  | _, _ => s

/-- CORE_RUN_START (R72). -/
def execCoreRunStart (p : Nat) (s : State) : Out := .next (startCore s p)

/-- An abort of a RUN that has reached a core which another RUN still holds: it never begins. -/
def abortPending (s : State) (p u : Nat) : State :=
  match (coreAt s p).pendingStart with
  | some r =>
    if r.cmd = u then
      let rep := { CoreReport.init with rank := r.rank, aborted := true }
      let s := modCore s p fun c => { c with pendingStart := none }
      settleRuns { s with runs := modIf (fun x => x.cmd == u) (fun x => { x with reports := x.reports ++ [rep] }) s.runs }
    else s
  | none => s

/-- The core acts on an abort that has reached it (R75): before its commit point it accepts, after it the RUN's outcome
stands: an abort of a RUN that the core no longer has is dropped. -/
def actAbort (s : State) (p : Nat) : State :=
  match (coreAt s p).abortReq with
  | some u =>
    let s' := modCore s p fun c => { c with abortReq := none }
    if (runOn s p).any (·.cmd == u) then settleGroups (abortCore s' p) else abortPending s' p u
  | none => s

/-- CORE_ABORT (R75). -/
def execCoreAbort (p : Nat) (s : State) : Out := .next (actAbort s p)

/-! ## Step boundaries and straggler swaps (R77, R287, R313, R359–R363) -/

/-- Does a logical core have a window slot open or closing? -/
def hasWindow (s : State) (l : Nat) : Bool := (winsAt s l).slots.any fun e => e.2.isOpen || e.2.closing

/-- A RUN is on its way to the core or runs on it: another RUN may have begun on it before the last core's step change. -/
def runReached (s : State) (p : Nat) : Bool :=
  (coreAt s p).seq != .idle ||
    s.runs.any fun r => r.cores.any fun e => e.2 == p && !(r.reports.any fun x => x.rank == e.1)

/-- The swaps of a boundary (R359, R360): (logical core, straggler, spare), at most one on a die; and how many are deferred. The
spec does not say what a swap does to a RUN that the straggler has begun since its own step change: the swap is deferred
(log 78, DESIGN CHOICE). -/
def boundarySwaps (s : State) (n : Nat) (cores : List Nat) : List (Nat × Nat × Nat) × Nat :=
  let slow := (cappedCores s n).filter fun e => cores.contains e.2
  slow.foldl (fun (x : List (Nat × Nat × Nat) × Nat) e =>
    let used := x.1.any fun y => coreUnit y.2.1 == coreUnit e.2
    match ((partAt s n).staged.find? fun y => y.1 == e.2) with
    | some y => if hasWindow s e.1 || used || runReached s e.2 then (x.1, x.2 + 1) else (x.1 ++ [(e.1, e.2, y.2)], x.2)
    | none => (x.1, x.2 + 1)) ([], 0)

/-- Physical cores of a slot's rank set, by rank. -/
def rankCores (s : State) (n slot : Nat) : List (Nat × Nat) :=
  (slotRanks s n slot).filterMap fun e => (physOf s e.2).map fun p => (e.1, p)

/-- Step number of the lowest rank of a slot. -/
def lowestStep (s : State) (n slot : Nat) : Nat :=
  match rankCores s n slot with
  | e :: t =>
    let low := t.foldl (fun (b : Nat × Nat) x => if x.1 < b.1 then x else b) e
    (coreAt s low.2).step
  | [] => 0

/-- Every core has applied the step change: swaps run, or the STEP_MARK completes (R287, R359). -/
def endStepMark (s : State) (c : Cmd) : State :=
  let n := fld c.pkt 71 68
  let slot := fld c.pkt 67 64
  let p := partAt s n
  let s := if (cappedCores s n).isEmpty then modPart s n fun p => { p with rebalance := false } else s
  let (swaps, late) := if p.state = .inService ∧ p.auto then boundarySwaps s n ((rankCores s n slot).map (·.2)) else ([], 0)
  let s := modPart s n fun p => { p with deferred := satAdd 16 p.deferred late }
  if swaps.isEmpty then finish s c.uid .ok (lowestStep s n slot) 0 0 0
  else waitDrain s c [] (swaps.map fun x => (x.1, catEntry x.1 x.2.2))

/-- A core has applied a STEP_MARK. -/
def stepApplied (s : State) (uid p : Nat) : State :=
  match cmdOf s uid with
  | some c =>
    match c.wait with
    | .step left =>
      let left := left.filter (· != p)
      let s := modCmd s uid fun c => { c with wait := .step left }
      if left.isEmpty then endStepMark s { c with wait := .step [] } else s
    | _ => s
  | none => s

/-- The step boundary of a core at its IDLE (R77, R313). -/
def stepBoundary (s : State) (p : Nat) : State :=
  let c := coreAt s p
  match c.seq, c.marks with
  | .idle, m :: rest =>
    let s := setCore s p
      { c with marks := rest, step := m.set.getD ((c.step + 1) % 2 ^ 32), startCount := [],
               fps := c.fps.map fun f => f.boundary c.step }
    stepApplied s m.cmd p
  | _, _ => s

/-- STEP_BOUNDARY (R77, R313). -/
def execStepBoundary (p : Nat) (s : State) : Out := .next (stepBoundary s p)

/-- What a swap copies from the straggler to its spare (R359 step 3). -/
def swapState (s : State) (p : Nat) (new old : Core) : Core :=
  let slots := old.slots
  let c := { new with w := old.w, a := old.a, p := old.p, failing := old.failing, handles := old.handles, slots := slots,
                      fps := old.fps, step := old.step, bbW := old.bbW, bbA := old.bbA, bbP := old.bbP }
  match slots.find? fun e => e.2.streamed with
  | some e => { c with fetchBuf := fetchRange s (coreAt s p) e.2 0 64, bufSlot := some e.1 }
  | none => c

/-- The catalogue change of a swap (R359 step 4). A window opened since the boundary closes by the expert rule (R202), and the
straggler's margin cap ends (R411). -/
def doSwap (s : State) (l old new : Nat) : State :=
  let s := closeAll s l .aborted
  let before := coreAt s old
  let n := (partOfL s l).getD 0
  let s := setCat s l (catEntry l new)
  let s := setPstate s new .inService
  let s := modClk (modCore s new (clearedCore s new)) new clearedClk
  let s := modCore s new fun c => swapState s old c before
  let s := addProv { freshCoreMons s l with retired := s.retired.filter (· != new) } { Prov.blank 0x03 with
    pcore := pcoreCode new, lcore := l, part := n, detail := pcoreCode old + flagAt (tileOf new != homeTile l) 13 }
  let s := modClk (retireAs s old l) old fun d => { d with marginCap := 7 }
  let s := modPart s n fun p => { p with swaps := satInc 16 p.swaps, staged := p.staged.filter fun e => e.1 != old }
  retarget s new

/-- The curator's part of a write of catalogue entries in a drain: swaps, and cores placed by command. -/
def writeCats (s : State) (cats : List (Nat × CatEntry)) : State :=
  let s := if cats.isEmpty then s else { s with catVersion := (s.catVersion + 1) % 2 ^ 32 }
  each cats (fun e s =>
    let n := (partOfL s e.1).getD 0
    match (partAt s n).staged.find? fun x => x.2 == e.2.pcore with
    | some x => doSwap s e.1 x.1 x.2
    | none =>
      -- ACCESSION PLACE: the core that held the logical number becomes SPARE (R341)
      let old := catAt s e.1
      let s := if old.valid then emptyCore (setPstate s old.pcore .spare) old.pcore else s
      enterCore s e.1 old.pcore e.2.pcore) s

end Sys2Proof.Machine
end

