-- ==== Sys2Proof/Machine/FabricOps.lean ====
section
/-! DEFINITION. Ports and flows of the edge fabric that change together (R487–R496), and what a failed port or die does. -/

namespace Sys2Proof.Machine

/-- The host die of a corner tile (Table 01-2). -/
def hostOfTile (t : Nat) : Option Nat :=
  if t = 0 then some 0 else if t = 3 then some 1 else if t = 12 then some 2 else if t = 15 then some 3 else none

/-- Two frames are the same one: a request keeps its frame as it gave it to the flow, before it was numbered. -/
def sameFrame (a b : Frame) : Bool := a.flow == b.flow && a.kind == b.kind && a.tag == b.tag && a.data == b.data

/-- The requests that have one of these frames. -/
def reqsOf (s : State) (l : List Frame) : List Req := s.reqs.filter fun r => r.frames.any fun f => l.any (sameFrame f)

/-- Requests are answered with NACK carrying TIMEOUT (R489, R495). -/
def timeoutReqs (s : State) (l : List Req) : State :=
  each l (fun r s =>
    endAsker { s with reqs := s.reqs.filter fun x => x.id != r.id } r.who .timeout) s

/-- SENDs whose announcement is among these frames; an announcement is no request of R176. -/
def announcersOf (s : State) (l : List Frame) : List (Nat × Nat) :=
  l.flatMap fun f => if f.kind = 0x05 ∧ f.flow.srcId = panelId s ∧ !f.flow.srcSrv then
      match physOf s f.srcLcore with
      | some p => ((coreAt s p).window.filter fun t => t.opcode == 0x50 && taskTag t.id == f.tag).map fun t => (p, t.id)
      | none => []
    else []

/-- What stands behind frames that cannot be sent ends with TIMEOUT. -/
def timeoutFrames (s : State) (l : List Frame) : State :=
  let s := timeoutReqs s (reqsOf s l)
  each (announcersOf s l) (fun m s => finishTask s m.1 m.2 .timeout 0) s

/-! ## Flows that move (R493) -/

/-- A flow's drain is over: its frames are acknowledged, or 50 µs have passed. -/
def TxFlow.settled (t : TxFlow) : Bool := t.unacked.isEmpty || t.move == some true

/-- No port of the flow's PORTSET is UP: its frames are dropped, and what stands behind them ends with TIMEOUT (R495). -/
def strandFlow (s : State) (t : TxFlow) : State :=
  let l := t.unacked ++ t.waiting
  let s := modTx s t.key fun t => if t.port.isSome then { breakFlow s t with port := none, move := none } else { t with move := none }
  timeoutFrames s l

/-- Injection resumes on the flow's port; what is still unacknowledged is retransmitted there. -/
def resumeFlow (s : State) (t : TxFlow) : State :=
  match flowPort s t.key with
  | some n =>
    let again := if t.unacked.isEmpty then 0 else 1
    let s := modPort s n fun q => { q with retx := satAdd 16 q.retx t.unacked.length }
    sendLast (modTx s t.key fun t => { t with port := some n, move := none, tries := t.tries + again }.refill) t.key
  | none => strandFlow s t

/-- A change that the drain of its flows releases. -/
def applyChange (s : State) : FabChange → State
  | .portset g m => { s with fabric := { s.fabric with portsets := tblSet (0xFFFFFFFF : BitVec 32) s.fabric.portsets g m } }
  | .framing e m c => { s with fabric := { s.fabric with etherType := e, maxData := m, encap := c } }
  | .entry i e => { s with fabric := { s.fabric with endpoints := tblSet 0 s.fabric.endpoints i e } }

/-- The flows of a change are drained. -/
def changeReady (s : State) (c : Nat × List FlowKey × FabChange) : Bool :=
  c.2.1.all fun k => match txFlow s k with
    | some t => t.settled
    | none => true

/-- Changes whose flows are drained take effect and their commands complete; then drained flows resume (R493). -/
def endMoves (s : State) : State :=
  let ready := s.fabric.changes.filter (changeReady s)
  let s := each ready (fun c s => finish (applyChange s c.2.2) c.1 .ok 0 0 0 0)
    { s with fabric := { s.fabric with changes := s.fabric.changes.filter fun c => !ready.contains c } }
  let waits (k : FlowKey) : Bool := s.fabric.changes.any fun c => c.2.1.contains k
  each (s.fabric.tx.filter fun t => t.move.isSome && t.settled && !waits t.key) (fun t s => resumeFlow s t) s

/-- A flow stops injecting. -/
def stopFlow (s : State) (k : FlowKey) : State :=
  if (txFlow s k).isSome then modTx s k fun t => { t with move := some (t.move.getD false) } else s

/-- A change waits for the drain of its flows. -/
def planChange (s : State) (c : Cmd) (ks : List FlowKey) (x : FabChange) : State :=
  let s := modCmd (each ks (fun k s => stopFlow s k) s) c.uid fun c => { c with wait := .flows }
  endMoves { s with fabric := { s.fabric with changes := s.fabric.changes ++ [(c.uid, ks, x)] } }

/-- A flow whose port is no longer the one R493 gives moves there. -/
def moveFlow (s : State) (k : FlowKey) : State :=
  match txFlow s k with
  | none => s
  | some t =>
    match flowPort s k with
    | some n => if t.port = some n then s else if t.port.isNone then modTx s k fun t => { t with port := some n } else stopFlow s k
    | none => strandFlow s t

/-- Every flow follows the ports that are UP. -/
def moveFlows (s : State) : State := endMoves (each (s.fabric.tx.map (·.key)) (fun k s => moveFlow s k) s)

/-- 50 µs have passed, or the frames queued at a port are dropped, for the flows that leave it (R493, R495, R496). -/
def expireMoves (s : State) (l : List Nat) : State :=
  let go (t : TxFlow) : TxFlow := if t.move.isSome ∧ t.port.any l.contains then { t with move := some true } else t
  endMoves { s with fabric := { s.fabric with tx := s.fabric.tx.map go } }

/-- Commands that wait for ports: ENABLE until none of its ports trains (R494), DISABLE until none of its ports drains
(R495). -/
def settlePorts (s : State) : State :=
  let none_ (m : BitVec 32) (x : PortState) : Bool :=
    (List.range 32).all fun n => !bit m.toNat n || (portAt s n).state != x
  let up (m : BitVec 32) : Nat := (List.range 32).foldl (fun a n => a + flagAt (bit m.toNat n && portUp s n) n) 0
  each s.cmds (fun c s => match c.wait with
    | .ports m => if none_ m .training then finish s c.uid .ok (up m) 0 0 0 else s
    | .portDrain m d => if none_ m .draining then finish s c.uid .disabled d 0 0 0 else s
    | _ => s) s

/-- A change of port states, and what follows from it. -/
def setPorts (s : State) (l : List Nat) (f : Port → Port) : State :=
  settlePorts (moveFlows (each l (fun n s => modPort s n f) s))

/-- An edge-port die is out of service: both its ports are LOST (R496), and SERVICE_REQ_N says so (Table 21-5). -/
def losePorts (s : State) (die : Nat) : State :=
  raiseCause (expireMoves (setPorts s [2 * die, 2 * die + 1] fun q => { q with state := .lost }) [2 * die, 2 * die + 1]) 6

/-- A working edge-port die. -/
def edgeDieOk (s : State) (die : Nat) : Bool := decide (die < 16) && (portAt s (2 * die)).state != .lost

/-- A lasting fault of an edge-port die (R338, R496): the spec gives it no class of its own (log 6, DESIGN CHOICE). -/
def edgeDieFault (s : State) (die cls : Nat) : State :=
  if edgeDieOk s die then
    let r := { FaultRec.blank cls .die with pcore := some (stackCode (edgeDieTile die) 0xF),
                                            part := (partOfTile s (edgeDieTile die)).getD 0, attempts := 2 }
    losePorts (addLasting s r none) die
  else s

/-- The edge-port dies that a tile feeds. -/
def tileEdgeDies (t : Nat) : List Nat := upTo 16 fun d => edgeDieTile d == t

end Sys2Proof.Machine
end

