-- ==== Sys2Proof/Machine/Fabric.lean ====
section
/-! DEFINITION. Transfers to and from servers, frames and flows of the edge fabric, and the events of its ports (R108, R109,
R482–R496). -/

namespace Sys2Proof.Machine

/-! ## FABRIC_IN and FABRIC_OUT (R491) -/

def xEndpoint (d : Desc) : Nat := fld d 335 320

/-- Refusals at issue (R491); entry 0 is the site's and the table has 4,096 entries. -/
def endpointCheck (s : State) (p : Nat) (_ : Core) (d : Desc) : Option Status :=
  let i := xEndpoint d
  let e := endpointAt s i
  if i = 0 ∨ 4096 ≤ i ∨ !epValid e ∨ epSize e < xAddr d + xRows d * xBpr d then some .badParam
  else if endpointPart e ≠ corePart s p then some .notPermitted
  else none

/-- Bytes that a frame to a server carries beside its prefix: those of one on-panel packet, in whole 64-byte blocks (R486; log 92, DESIGN
CHOICE). -/
def serverRoom : Nat := 192

/-- The next piece of a transfer of which `done` bytes are moved: its row, its place in the row, its length. -/
def pieceAt (d : Desc) (done : Nat) : Nat × Nat × Nat :=
  let r := done / xBpr d
  let o := done % xBpr d
  (r, o, min (xBpr d - o) serverRoom)

/-- The frame of a request to a server: the prefix of R491 and what follows it (log 9, DESIGN CHOICE). -/
def serverFrame (s : State) (p : Nat) (t : Task) (kind offset : Nat) (data : List Byte) : Frame :=
  let e := endpointAt s (xEndpoint t.desc)
  let part := corePart s p
  { macPanel := 0, bad := false, pause := false, ver := 1, reservedSet := false, type := 0, kind := kind,
    flow := { srcId := panelId s, srcSrv := false, dstId := epServer e, dstSrv := true, fpart := part, vc := dTc t.desc },
    pgen := (partAt s part).pgen, part := part, tag := s.nextId % 4096,
    srcRank := match (coreAt s p).run with
      | some x => x.rank
      | none => 0xFFFFFFFF,
    dstRank := 0xFFFFFFFF, seq := 0, ack := 0, epoch := 0, srcLcore := (logOf s p).getD 0, dstLcore := 0,
    data := leBytes 8 offset ++ leBytes 4 (epObject e) ++ leBytes 4 0 ++ data }

/-- Send a request to a server and remember it; its TAG is its number. -/
def askServer (s : State) (p : Nat) (t : Task) (f : Frame) : State :=
  match flowPort s f.flow with
  | none => finishTask s p t.id .timeout 0
  | some _ => toPort (addReq s (.task p t.id) [] [f]) p f (.task p t.id) false

/-- Ask for, or send, the next piece; a transfer whose last piece has moved commits (R109). -/
def nextPiece (s : State) (p : Nat) (t : Task) : State :=
  let d := t.desc
  if xRows d * xBpr d ≤ t.progress then finishOk s p t.id 0 []
  else
    let (r, o, n) := pieceAt d t.progress
    let off := xAddr d + r * xRstr d + o
    if dOpcode d = 0x43 then askServer s p t (serverFrame s p t 0x01 off (leBytes 4 n))
    else
      let l := localRow t r
      let acc := [byteAcc false l.kind (l.word + o / 4) n]
      let s := seeAccesses s p t.id acc
      match accFail (coreAt s p) false acc with
      | some f => eccTask s p t f
      | none => askServer s p t (serverFrame s p t 0x03 off (spdRead (coreAt s p) l.kind l.word o n))

def runFabric (p : Nat) (s : State) (t : Task) : State := nextPiece s p t

/-- FABRIC_IN (R109, R491). -/
def execFabricIn (p : Nat) (s : State) : Out := .next (issueAs s p 0x43 noRoot (endpointCheck s p) (runFabric p))

/-- FABRIC_OUT (R109, R491). -/
def execFabricOut (p : Nat) (s : State) : Out := .next (issueAs s p 0x44 noRoot (endpointCheck s p) (runFabric p))

/-- A piece has moved. -/
def pieceDone (s : State) (p : Nat) (t : Task) (n : Nat) : State :=
  let s := endReqs s (.task p t.id)
  let s := modTask s p t.id fun t => { t with progress := t.progress + n }
  match taskOf (coreAt s p) t.id with
  | some t => nextPiece s p t
  | none => s

/-- RD_DATA of a piece is written to scratchpad; another length is no answer. -/
def readPiece (s : State) (p : Nat) (t : Task) (bs : List Byte) : State :=
  let (r, o, n) := pieceAt t.desc t.progress
  if bs.length = n ∧ dOpcode t.desc = 0x43 then
    let l := localRow t r
    let s := seeAccesses s p t.id [byteAcc true l.kind (l.word + o / 4) n]
    pieceDone (modCore s p fun c => spdWrite c l.kind l.word o bs) p t n
  else s

/-- WR_ACK of a piece. -/
def piecePut (s : State) (p : Nat) (t : Task) : State :=
  let (_, _, n) := pieceAt t.desc t.progress
  if dOpcode t.desc = 0x44 then pieceDone s p t n else s

/-- A server's reply reaches the NI of a core (R490). -/
def serverReply (s : State) (p : Nat) (f : Frame) : State :=
  let mine (r : Req) : Bool := r.who.core == some p && r.id % 4096 == f.tag &&
    r.frames.any fun x => x.flow.dstSrv && x.flow.dstId == f.flow.srcId
  match (s.reqs.find? mine).map Req.who with
  | some (.task _ id) => match taskOf (coreAt s p) id with
    | none => s
    | some t =>
      if t.finished then endReqs s (.task p id)
      else if f.kind = 0x02 then readPiece s p t f.data
      else if f.kind = 0x04 then piecePut s p t
      else if f.kind = 0x10 then finishTask (endReqs s (.task p id)) p id (statusOf (leNat (f.data.take 4))) 0
      else s
  | _ => s

/-! ## Frames from another panel -/

/-- The local task that a frame's TAG names. -/
def tagTask (s : State) (p tag : Nat) : Option Task := (coreAt s p).window.find? fun t => taskTag t.id == tag

/-- The body of a message from another panel to core p (log 9, DESIGN CHOICE); a task there is named by its core and its TAG, PGEN and
PART. -/
def frameBody (s : State) (p : Nat) (f : Frame) : Option Body :=
  let far : Nat × Nat := (remoteCore f.flow.srcId f.srcLcore, remoteTask f.tag f.pgen f.part)
  let word (i : Nat) : Nat := leNat ((f.data.drop (4 * i)).take 4)
  if f.kind = 0x05 then some (.announce far f.srcRank (word 0) (word 1) (word 2))
  else if f.kind = 0x06 then (tagTask s p (word 0)).map fun t => .pull far (p, t.id) (word 1)
  else if f.kind = 0x07 then (tagTask s p f.tag).bind fun t => t.peer.map fun x =>
    .data (p, t.id) x (word 0) (f.data.drop 8) (word 1 == 1)
  else if f.kind = 0x08 then (tagTask s p f.tag).map fun t => .done (p, t.id) (statusOf (word 0))
  else if f.kind = 0x09 then
    let w := leNat (f.data.take 16)
    some (.putData far f.dstLcore (bits w 51 46) (bits w 63 52) (bits w 127 96) (bits w 95 64) (bits w 31 0) (bit w 45)
      (bit w 44) (f.data.drop 16))
  else if f.kind = 0x0A then (tagTask s p f.tag).map fun t => .putAck (p, t.id) (statusOf (word 0)) f.dstRank
  else if f.kind = 0x10 then (tagTask s p f.tag).map fun t => .nack (.task p t.id) (statusOf (word 0))
  else none

/-- Requests are ANNOUNCE, PULL and PUT_DATA. -/
def frameRequest (f : Frame) : Bool := f.kind == 0x05 || f.kind == 0x06 || f.kind == 0x09

/-- The edge port gives a message to the network, addressed to the core that stands for its logical core (R191, R490). -/
def portPacket (s : State) (port p : Nat) (f : Frame) (b : Body) : State :=
  let tile := edgeDieTile (port / 2)
  let own := corePart s p
  let k := packet s own f.flow.vc f.kind 4 (tile * 512 + port) 0 (pcoreCode p) f.data.length false f.tag b
  enqueue s (if frameRequest f && !f.flow.srcSrv then k else { k with pgen := f.pgen, part := f.part })

/-- A request that cannot be delivered is answered with a NACK frame (R490). -/
def nackFrame (s : State) (f : Frame) (st : Status) : State :=
  if frameRequest f && !f.flow.srcSrv then
    let p := (physOf s f.dstLcore).getD (homePhys f.dstLcore)
    let far : Nat × Nat := (remoteCore f.flow.srcId f.srcLcore, remoteTask f.tag f.pgen f.part)
    sendReply s p far 0x10 4 false (.nack (.task far.1 far.2) st)
  else s

/-- A drain of the partition that owns a frame's logical core is in progress (R200). -/
def frameHeld (s : State) (f : Frame) : Bool :=
  match partOfL s f.dstLcore with
  | some n => s.drains.any fun d => d.phase != .decided && d.scope.contains n
  | none => false

/-- A DATA frame is delivered. -/
def passFrame (s : State) (port : Nat) (f : Frame) : State :=
  match physOf s f.dstLcore with
  | none => nackFrame s f .dieLost
  | some p =>
    if f.flow.srcSrv then portPacket s port p f (.fromServer f)
    else if frameRequest f && (partAt s (corePart s p)).state.underReset then nackFrame s f .partitionReset
    else match frameBody s p f with
      | some b => portPacket s port p f b
      | none => s

/-- A DATA frame is delivered, or held by its edge port during a drain (R200). -/
def deliverFrame (s : State) (port : Nat) (f : Frame) : State :=
  if frameHeld s f then { s with fabric := { s.fabric with held := s.fabric.held ++ [(port, f)] } } else passFrame s port f

/-- The frames that edge ports held go on, in order, once no drain holds them (R200). -/
def resumeFrames (s : State) : State :=
  let go (e : Nat × Frame) : Bool := !frameHeld s e.2
  each (s.fabric.held.filter go) (fun e s => passFrame s e.1 e.2)
    { s with fabric := { s.fabric with held := s.fabric.held.filter fun e => !go e } }

/-! ## Reception (R484–R488) -/

def dropFrame (s : State) (n : Nat) : State := modPort s n fun q => { q with rxdrop := satInc 16 q.rxdrop }

/-- What a port finds in a frame before its transport: none when the frame is not for it, or it is discarded. SER_DEGRADED, and
whether a bad frame came from an uncorrectable codeword, are what the link measures (log 6, DESIGN CHOICE). -/
def acceptFrame (s : State) (n : Nat) (f : Frame) (type : Nat) : State × Bool :=
  let q := portAt s n
  if q.state = .disabled then (dropFrame s n, false)
  else if q.state ≠ .up ∧ q.state ≠ .draining then (s, false)
  else
    let s := if q.serThr = 0 then s else
      bumpFresh (modPort s n fun q => { q with serDegraded := q.serDegraded || Config.freeNat s.fresh % 2 == 1 }) 1
    if f.bad then
      let uncorr := Config.freeNat s.fresh % 2
      (bumpFresh (modPort (dropFrame s n) n fun q => { q with uncorr := satAdd 16 q.uncorr uncorr }) 1, false)
    else if f.pause then (dropFrame s n, false)
    else if f.macPanel ≠ panelId s then (s, false)
    else if f.ver ≠ 1 ∨ f.reservedSet ∨ 2 ≤ f.type ∨ 4096 < f.data.length ∨ f.flow.dstSrv ∨ f.flow.dstId ≠ panelId s then
      (dropFrame s n, false)
    else (s, f.type == type)

def rxFlow (s : State) (k : FlowKey) : RxFlow :=
  (s.fabric.rx.find? fun r => r.key == k).getD { key := k, epoch := 0, expect := 0, sinceAck := 0 }

def setRx (s : State) (r : RxFlow) : State :=
  { s with fabric := { s.fabric with rx := (s.fabric.rx.filter fun x => x.key != r.key) ++ [r] } }

/-- The ACK frame of a flow (Table 22-1). -/
def ackFrame (s : State) (r : RxFlow) : Frame :=
  { macPanel := if r.key.srcSrv then 0 else r.key.srcId, bad := false, pause := false, ver := 1, reservedSet := false,
    type := 1, kind := 0,
    flow := { srcId := panelId s, srcSrv := false, dstId := r.key.srcId, dstSrv := r.key.srcSrv, fpart := r.key.fpart,
              vc := r.key.vc },
    pgen := 0, part := 0, tag := 0, srcRank := 0xFFFFFFFF, dstRank := 0xFFFFFFFF, seq := 0, ack := r.expect,
    epoch := r.epoch, srcLcore := 0, dstLcore := 0, data := [] }

/-- Send an ACK for a flow. -/
def sendAck (s : State) (k : FlowKey) : State :=
  let r := rxFlow s k
  let s := setRx s { r with sinceAck := 0 }
  let f := ackFrame s r
  let s := { s with fabric := { s.fabric with acks := s.fabric.acks ++ [f] } }
  match flowPort s f.flow with
  | some n => transmit s n f
  | none => s

/-- A newer epoch resets the receive state (R488). -/
def syncEpoch (s : State) (f : Frame) : State :=
  let r := rxFlow s f.flow
  if f.epoch = r.epoch then s else setRx s { r with epoch := f.epoch, expect := 0, sinceAck := 0 }

/-- A DATA frame of the flow's epoch: in order it is delivered, a duplicate is acknowledged again (R487). -/
def takeFrame (s : State) (port : Nat) (f : Frame) : State :=
  let r := rxFlow s f.flow
  let behind := (r.expect + 2 ^ 24 - f.seq % 2 ^ 24) % 2 ^ 24
  if behind = 0 then
    let s := setRx s { r with expect := (r.expect + 1) % 2 ^ 24, sinceAck := r.sinceAck + 1 }
    let s := deliverFrame s port f
    if r.sinceAck + 1 = 16 then sendAck s f.flow else s
  else if behind ≤ 2 ^ 23 then sendAck (dropFrame s port) f.flow
  else dropFrame s port

/-- A frame of an epoch that is behind the receiver's (R488). -/
def staleFrame (s : State) (f : Frame) : Bool := decide (128 ≤ (f.epoch + 256 - (rxFlow s f.flow).epoch) % 256)

/-- FABRIC_DATA_FRAME (R487, R488). -/
def execFabricDataFrame (port : Nat) (f : Frame) (s : State) : Out :=
  let r := acceptFrame s port f 0
  .next (if r.2 then (if staleFrame r.1 f then dropFrame r.1 port else takeFrame (syncEpoch r.1 f) port f) else r.1)

/-- The flow that an ACK frame is about. -/
def ackedFlow (f : Frame) : FlowKey :=
  { srcId := f.flow.dstId, srcSrv := f.flow.dstSrv, dstId := f.flow.srcId, dstSrv := f.flow.srcSrv, fpart := f.flow.fpart,
    vc := f.flow.vc }

/-- Frames before the next SEQ expected are acknowledged, and waiting ones take their places (R487). -/
def TxFlow.acknowledge (t : TxFlow) (ack : Nat) : TxFlow :=
  let before (f : Frame) : Bool :=
    let d := (ack + 2 ^ 24 - f.seq) % 2 ^ 24
    decide (1 ≤ d ∧ d ≤ flowWindow)
  let left := t.unacked.filter fun f => !before f
  { t with unacked := left, tries := if left.length < t.unacked.length then 0 else t.tries }.refill

/-- An ACK of another epoch is about frames that are gone. -/
def takeAckFrame (s : State) (f : Frame) : State :=
  match txFlow s (ackedFlow f) with
  | some t => if t.epoch = f.epoch then endMoves (pushTx s t.key fun t => t.acknowledge f.ack) else s
  | none => s

/-- FABRIC_ACK_FRAME (R487). -/
def execFabricAckFrame (port : Nat) (f : Frame) (s : State) : Out :=
  let r := acceptFrame s port f 1
  .next (if r.2 then takeAckFrame r.1 f else r.1)

/-- FABRIC_ACK_TIMER (R487). -/
def execFabricAckTimer (flow : FlowKey) (s : State) : Out :=
  .next (if 0 < (rxFlow s flow).sinceAck then sendAck s flow else s)

/-- The record of a broken flow (R489): it blames no unit. -/
def flowRecord (k : FlowKey) : FaultRec := { FaultRec.blank 0x06 .link with part := k.fpart, attempts := 2 }

/-- A flow breaks (R489): its requests end with TIMEOUT and its epoch advances; frames that were not sent go on (R488). -/
def flowBreaks (s : State) (t : TxFlow) : State :=
  let s := timeoutFrames s t.unacked
  let s := pushTx s t.key fun t => { breakFlow s t with waiting := t.waiting }.refill
  endMoves (addLasting s (flowRecord t.key) none)

/-- FABRIC_RETRANSMIT_TIMER (R487, R489): from the oldest unacknowledged frame on; the flow breaks after 8. A flow that moves sends them
on its new port (R493). -/
def execFabricRetransmitTimer (flow : FlowKey) (s : State) : Out :=
  .next (match txFlow s flow with
    | some t =>
      if t.unacked.isEmpty then s
      else if 8 ≤ t.tries then flowBreaks s t
      else if t.move.isSome then endMoves (modTx s flow fun t => { t with move := some true })
      else
        let s := modTx s flow fun t => { t with tries := t.tries + 1 }
        match t.port with
        | some n => sendLast (modPort s n fun q => { q with retx := satAdd 16 q.retx t.unacked.length }) flow
        | none => s
    | none => s)

/-- A frame of the request still waits at its NI. -/
def frameQueued (s : State) (r : Req) : Bool :=
  s.packets.any fun k => k.held && (match k.body with
    | .toPort f _ => r.frames.any (sameFrame f)
    | _ => false)

/-- A fabric request without an answer: issued again once, then TIMEOUT (R489, R176). -/
def fabricTimeout (s : State) (r : Req) : State :=
  let gone (s : State) : State := { s with reqs := s.reqs.filter fun x => x.id != r.id }
  match r.who with
  | .task p id =>
    if frameQueued s r then s
    else if r.attempts = 1 then
      let upd (x : Req) : Req := if x.id = r.id then { x with attempts := 2 } else x
      each r.frames (fun f s => toPort s p f (.task p id) false) { s with reqs := s.reqs.map upd }
    else match taskOf (coreAt s p) id with
      | some t => if t.finished then gone s else gone (taskTimeout s p t)
      | none => gone s
  | _ => gone s

/-- FABRIC_REQUEST_TIMEOUT (R489). -/
def execFabricRequestTimeout (id : Nat) (s : State) : Out :=
  .next (match s.reqs.find? fun r => r.id == id && !r.frames.isEmpty with
    | some r => fabricTimeout s r
    | none => s)

/-- FLOW_EPOCH_ADVANCE (R488). -/
def execFlowEpochAdvance (flow : FlowKey) (s : State) : Out :=
  .next (match txFlow s flow with
    | some t =>
      if t.heldAdvance then
        pushTx s flow fun t =>
          { t with epoch := (t.epoch + 1) % 256, lastAdvance := some s.time, heldAdvance := false }.refill
      else s
    | none => s)

/-! ## Ports -/

/-- PORT_TRAINING_DONE (R494). -/
def execPortTrainingDone (port : Nat) (up : Bool) (s : State) : Out :=
  .next (if (portAt s port).state = .training then
      setPorts s [port] fun q => { q with state := if up then .up else .down }
    else s)

/-- PORT_LINK_DOWN (R493). -/
def execPortLinkDown (port : Nat) (s : State) : Out :=
  .next (if (portAt s port).state = .up then setPorts s [port] fun q => { q with state := .down } else s)

/-- PORT_DISABLE_DRAIN_EXPIRY (R495). -/
def execPortDisableDrainExpiry (port : Nat) (s : State) : Out :=
  .next (if (portAt s port).state = .draining then
      expireMoves (setPorts s [port] fun q => { q with state := .disabled }) [port] else s)

/-- EDGE_PORT_DIE_FAULT (R496): a class of its own is not stated, and is free among those of Table 13-3 (log 6, DESIGN CHOICE). -/
def execEdgePortDieFault (die : Nat) (s : State) : Out :=
  .next (if edgeDieOk s die then bumpFresh (edgeDieFault s die (1 + Config.freeNat s.fresh % 0x13)) 1 else s)

end Sys2Proof.Machine
end

