-- ==== Sys2Proof/Machine/Sha.lean ====
section
/-! DEFINITION. SHA-256, which the spec names by its standard (chapter 16, FIPS 180-4): measurements, image hashes and the catalogue
hash. -/

namespace Sys2Proof.Machine

def shaRound0 : List Word := [0x428A2F98, 0x71374491, 0xB5C0FBCF, 0xE9B5DBA5, 0x3956C25B, 0x59F111F1, 0x923F82A4, 0xAB1C5ED5]
def shaRound1 : List Word := [0xD807AA98, 0x12835B01, 0x243185BE, 0x550C7DC3, 0x72BE5D74, 0x80DEB1FE, 0x9BDC06A7, 0xC19BF174]
def shaRound2 : List Word := [0xE49B69C1, 0xEFBE4786, 0x0FC19DC6, 0x240CA1CC, 0x2DE92C6F, 0x4A7484AA, 0x5CB0A9DC, 0x76F988DA]
def shaRound3 : List Word := [0x983E5152, 0xA831C66D, 0xB00327C8, 0xBF597FC7, 0xC6E00BF3, 0xD5A79147, 0x06CA6351, 0x14292967]
def shaRound4 : List Word := [0x27B70A85, 0x2E1B2138, 0x4D2C6DFC, 0x53380D13, 0x650A7354, 0x766A0ABB, 0x81C2C92E, 0x92722C85]
def shaRound5 : List Word := [0xA2BFE8A1, 0xA81A664B, 0xC24B8B70, 0xC76C51A3, 0xD192E819, 0xD6990624, 0xF40E3585, 0x106AA070]
def shaRound6 : List Word := [0x19A4C116, 0x1E376C08, 0x2748774C, 0x34B0BCB5, 0x391C0CB3, 0x4ED8AA4A, 0x5B9CCA4F, 0x682E6FF3]
def shaRound7 : List Word := [0x748F82EE, 0x78A5636F, 0x84C87814, 0x8CC70208, 0x90BEFFFA, 0xA4506CEB, 0xBEF9A3F7, 0xC67178F2]

/-- The round constants. -/
def shaK : List Word :=
  shaRound0 ++ shaRound1 ++ shaRound2 ++ shaRound3 ++ shaRound4 ++ shaRound5 ++ shaRound6 ++ shaRound7

/-- The initial hash value. -/
def shaInit : List Word := [0x6A09E667, 0xBB67AE85, 0x3C6EF372, 0xA54FF53A, 0x510E527F, 0x9B05688C, 0x1F83D9AB, 0x5BE0CD19]

/-- Big-endian word of four bytes. -/
def shaWord (l : List Byte) : Word := BitVec.ofNat 32 (leNat l.reverse)

/-- The sixteen words of a block. -/
def shaWords (l : List Byte) : Nat → List Word
  | 0 => []
  | n + 1 => shaWord (l.take 4) :: shaWords (l.drop 4) n

/-- The message schedule: each further word from the sixteen before it. -/
def shaSchedule (w : List Word) : Nat → List Word
  | 0 => w
  | n + 1 =>
    let w := shaSchedule w n
    let k := w.length
    let at_ (i : Nat) : Word := w.getD (k - i) 0
    let s0 := let x := at_ 15; x.rotateRight 7 ^^^ x.rotateRight 18 ^^^ (x >>> 3)
    let s1 := let x := at_ 2; x.rotateRight 17 ^^^ x.rotateRight 19 ^^^ (x >>> 10)
    w ++ [at_ 16 + s0 + at_ 7 + s1]

/-- The working variables a to h. -/
structure ShaVars where
  a : Word
  b : Word
  c : Word
  d : Word
  e : Word
  f : Word
  g : Word
  h : Word
deriving DecidableEq, Repr

def shaStep (v : ShaVars) (kw : Word × Word) : ShaVars :=
  let s1 := v.e.rotateRight 6 ^^^ v.e.rotateRight 11 ^^^ v.e.rotateRight 25
  let ch := (v.e &&& v.f) ^^^ (~~~v.e &&& v.g)
  let t1 := v.h + s1 + ch + kw.1 + kw.2
  let s0 := v.a.rotateRight 2 ^^^ v.a.rotateRight 13 ^^^ v.a.rotateRight 22
  let maj := (v.a &&& v.b) ^^^ (v.a &&& v.c) ^^^ (v.b &&& v.c)
  { a := t1 + (s0 + maj), b := v.a, c := v.b, d := v.c, e := v.d + t1, f := v.e, g := v.f, h := v.g }

/-- One block's compression. -/
def shaBlock (hs : List Word) (block : List Byte) : List Word :=
  let w := shaSchedule (shaWords block 16) 48
  let x (i : Nat) : Word := hs.getD i 0
  let v := (shaK.zip w).foldl shaStep ⟨x 0, x 1, x 2, x 3, x 4, x 5, x 6, x 7⟩
  [x 0 + v.a, x 1 + v.b, x 2 + v.c, x 3 + v.d, x 4 + v.e, x 5 + v.f, x 6 + v.g, x 7 + v.h]

/-- Padding of a message of n bytes. -/
def shaPad (n : Nat) : List Byte :=
  0x80 :: List.replicate ((119 - n % 64) % 64) 0 ++ (leBytes 8 (8 * n)).reverse

def shaBlocks (hs : List Word) (l : List Byte) : Nat → List Word
  | 0 => hs
  | n + 1 => shaBlocks (shaBlock hs (l.take 64)) (l.drop 64) n

/-- SHA-256 of a message: 32 bytes. -/
def sha256 (m : List Byte) : List Byte :=
  let p := m ++ shaPad m.length
  (shaBlocks shaInit p (p.length / 64)).flatMap fun w => (leBytes 4 w.toNat).reverse

end Sys2Proof.Machine
end

