-- ==== Sys2Proof/Machine/ImageOps.lean ====
section
/-! DEFINITION. Charter images and their rules (R373–R376), signed images and their verification (R390–R395). -/

namespace Sys2Proof.Machine

/-! ## Charters as bytes (Table 15-2) -/

/-- The 512 bytes of a charter. -/
def charterBytes (c : Charter) : List Byte := (List.range 64).flatMap fun n => leBytes 8 (chtOf c n)

/-- The registers of 512 bytes. -/
def charterOf (bs : List Byte) : Charter :=
  (List.range 64).foldl (fun c n => tblSet (0 : Dword) c n (BitVec.ofNat 64 (leNat ((bs.drop (8 * n)).take 8)))) []

/-! ## The rules of R375 -/

/-- Reserved bits of register n (Tables 15-2 to 15-6). -/
def chtReserved (n : Nat) : List (Nat × Nat) :=
  if n = 0 then [(31, 16), (7, 0)]
  else if n = 1 then [(63, 1)]
  else if n = 2 then [(63, 32), (30, 28), (22, 20), (14, 12), (6, 4)]
  else if n = 3 then [(63, 12), (7, 6)]
  else if n < 8 then [(63, 0)]
  else if n < 24 then [(62, 60), (58, 56), (51, 12), (7, 4)]
  else if n < 32 then [(63, 0)]
  else if n % 8 = 0 then [(62, 60), (57, 43), (31, 11)]
  else if n % 8 = 1 then [(63, 53)]
  else if n % 8 = 2 then [(63, 54)]
  else if n % 8 = 3 then [(63, 32), (24, 11)]
  else [(62, 60)]

/-- Rule 1: format, reserved bits, and no seal in the image. -/
def charterForm (c : Charter) : Bool :=
  bits (chtOf c 0) 15 8 == 1 && chtOf c 1 == 0 &&
    (List.range 64).all fun n => (chtReserved n).all fun b => bits (chtOf c n) b.1 b.2 == 0

/-- Valid host records. -/
def validHosts (s : State) : List Nat := upTo 4 (carveValid s)

/-- Rule 2. -/
def charterParts (s : State) : Bool :=
  (List.range 16).all fun n =>
    let w := chtPart s n
    !partDefined s n ||
      (decide (bits w 3 2 + bits w 11 10 ≤ 3 ∧ bits w 1 0 + bits w 9 8 ≤ 3) && bits w 55 52 != 0 &&
        (partTiles s n).any (fun t => !(t == 5 || t == 6 || t == 9 || t == 10)) &&
        (List.range 16).all fun m => m == n || !partDefined s m ||
          (partTiles s n).all fun t => !partWordHas (chtPart s m) t)

/-- Rule 3. -/
def charterHosts (s : State) : Bool :=
  let hs := validHosts s
  !hs.isEmpty && hs.all fun h =>
    bit (chtHost s h 4) 63 && (let b := backupOf s h; if hs.length = 1 then b == h else b != h && hs.contains b)

/-- Every valid range with its host die. -/
def allRanges (s : State) : List (Nat × Nat × Nat × Nat) :=
  (List.range 4).flatMap fun h => (queueRanges s h).map fun r => (h, r)

/-- Rule 4. -/
def charterRanges (s : State) : Bool :=
  let l := (allRanges s).zipIdx
  l.all fun a => decide (a.1.2.1 ≤ a.1.2.2.1) && l.all fun b =>
    a.2 == b.2 || decide (a.1.2.2.1 < b.1.2.1 ∨ b.1.2.2.1 < a.1.2.1)

/-- Bytes of the spill area of a range: base and end. -/
def spillArea (r : Nat × Nat × Nat) : Nat × Nat := (r.2.2, r.2.2 + 256 * (r.2.1 + 1 - r.1))

/-- A range of bytes lies in the region of a partition that host die h serves as primary. -/
def inHostRegion (s : State) (h a e : Nat) : Bool :=
  (List.range 16).any fun n => hostPrimary s n h && inRegion s n a (e - a)

/-- Rule 5: carve-outs and spill areas. -/
def charterAreas (s : State) : Bool :=
  let hs := validHosts s
  let spills := ((allRanges s).filter fun r => hs.contains r.1).map fun r => (r.1, spillArea r.2)
  let carves := hs.map fun h => (carveBase s h, carveEnd s h)
  let apart (a b : Nat × Nat) : Bool := decide (a.2 ≤ b.1 ∨ b.2 ≤ a.1)
  hs.all (fun h => inHostRegion s h (carveBase s h) (carveEnd s h)) &&
    spills.all (fun x => inHostRegion s x.1 x.2.1 x.2.2 && carves.all (apart x.2)) &&
    (spills.zipIdx.all fun a => spills.zipIdx.all fun b => a.2 == b.2 || apart a.1.2 b.1.2)

/-- Rule 6: sizes and admin rings; the last 64 MiB are reserved. -/
def charterRings (s : State) : Bool :=
  (validHosts s).all fun h =>
    let sq := chtHost s h 1
    let cq := chtHost s h 2
    let limit := carveEnd s h - 2 ^ 26
    let sqLog := bits sq 52 48
    let cqLog := bits cq 52 48
    let sqBase := bits sq 47 0
    let cqBase := bits cq 47 0
    decide (carveBase s h + 2 ^ 30 ≤ carveEnd s h ∧ 1 ≤ sqLog ∧ sqLog ≤ 16 ∧ 1 ≤ cqLog ∧ cqLog ≤ 16 ∧
      sqBase % 4096 = 0 ∧ cqBase % 4096 = 0 ∧ carveBase s h ≤ sqBase ∧ carveBase s h ≤ cqBase ∧
      sqBase + 64 * 2 ^ sqLog ≤ limit ∧ cqBase + (if bit cq 53 then 64 else 32) * 2 ^ cqLog ≤ limit)

/-- The two tiles of a spare device's switch (R243, Table 09-1). -/
def switchTiles (d : Nat) : List Nat := [edgeTile (d / 17) 1, edgeTile (d / 17) 2]

/-- Rule 7. -/
def charterSpares (s : State) : Bool :=
  (List.range 4).all fun e =>
    match sparePart s (17 * e + 8) with
    | some n => partDefined s n && (switchTiles (17 * e + 8)).any fun t => partWordHas (chtPart s n) t
    | none => true

/-- Rule 8. -/
def charterStart (c : Charter) : Bool := decide (bits (chtOf c 3) 9 8 ≤ 1)

/-- Every rule of R375 that the contents decide. -/
def charterOk (s : State) (c : Charter) : Bool :=
  let s := { s with charter := c, hosts := [] }
  charterForm c && charterStart c && charterParts s && charterHosts s && charterRanges s && charterAreas s &&
    charterRings s && charterSpares s

/-! ## Built-in charters (R376) -/

/-- Registers of a host record: carve-out of 64 GiB at `base` GiB. -/
def hostRecord (h base backup spill first last : Nat) : List (Nat × Nat) :=
  let r := 32 + 8 * h
  [(r, 2 ^ 63 + backup * 2 ^ 58 + 64 * 2 ^ 32 + base), (r + 1, 8 * 2 ^ 48 + base * 2 ^ 30),
   (r + 2, 8 * 2 ^ 48 + base * 2 ^ 30 + 65536), (r + 4, 2 ^ 63 + spill * 2 ^ 32 + last * 2 ^ 16 + first)]

def charterFrom (l : List (Nat × Nat)) : Charter :=
  l.foldl (fun c e => tblSet (0 : Dword) c e.1 (BitVec.ofNat 64 e.2)) []

/-- The factory charter. -/
def factoryCharter : Charter :=
  charterFrom ([(0, 0x100), (2, 0x80808080), (8, 2 ^ 63 + 2 ^ 59 + 0xF * 2 ^ 52 + 3 * 2 ^ 10 + 3 * 2 ^ 8)] ++
    (List.range 4).flatMap fun h =>
      hostRecord h (64 * h) ((h + 1) % 4) (262144 + 4 * h) (16384 * h) (16384 * h + 16383))

/-- The compact charter. -/
def compactCharter : Charter :=
  charterFrom ([(0, 0x100), (8, 2 ^ 63 + 2 ^ 52)] ++ hostRecord 0 0 0 65536 0 16383)

/-! ## Signed images (R391–R395) -/

/-- Bytes of an HSS signature (Table 16-2). -/
def hssSize : Nat := 5396

/-- Payload limit of a type (Table 16-4); none is reserved. -/
def imageLimit (type : Nat) : Option Nat :=
  if type = 1 then some (2 ^ 20) else if type = 2 then some (2 ^ 24) else if type = 3 then some (2 ^ 22)
  else if type = 4 then some (2 ^ 26) else if type = 6 then some 92 else none

/-- The 64-byte header as a number (Table 16-3). -/
def imageHeader (bs : List Byte) : Nat := leNat (bs.take 64)
def imageLength (bs : List Byte) : Nat := bits (imageHeader bs) 191 160
def imageRelease (bs : List Byte) : Nat := bits (imageHeader bs) 159 128
def imageSvn (bs : List Byte) : Nat := bits (imageHeader bs) 127 96
def imagePayload (bs : List Byte) : List Byte := (bs.drop 64).take (imageLength bs)
def imageSig (bs : List Byte) : List Byte := (bs.drop (64 + imageLength bs)).take hssSize

def floorOf (s : State) (type : Nat) : Nat := tblGet 0 s.counter.floor type

/-- An image passes every test of R393 but its signature. -/
def imageForm (s : State) (type : Nat) (bs : List Byte) : Bool :=
  bits (imageHeader bs) 31 0 == 0x31505848 && bits (imageHeader bs) 39 32 == type &&
    (match imageLimit type with
     | some n => decide (imageLength bs ≤ n)
     | none => false) &&
    bs.length == 64 + imageLength bs + hssSize && sha256 (imagePayload bs) == (bs.drop 32).take 32 &&
    decide (floorOf s type ≤ imageSvn bs)

/-- The identity public key (R389). -/
def identityPub : List Byte := (List.range 56).map Config.identityPubByte

/-- An owner certificate verifies (R391): signed under the vendor root, for this panel or any. -/
def certOk (s : State) (bs : List Byte) : Bool :=
  imageForm s 6 bs && imageLength bs == 92 && Config.hssVerifies Config.vendorRootHash (bs.take 64) (imageSig bs) &&
    (let b := (imagePayload bs).drop 60
     b == List.replicate 32 0 || b == sha256 identityPub)

/-- The image of a type in a copy of a die. -/
def copyOf (f : Flash) (type : Nat) (b : Bool) : List Byte :=
  match tblLook f.images type with
  | some x => if b then x.b else x.a
  | none => []

/-- The active copy is B. -/
def activeB (s : State) (type : Nat) : Bool := s.counter.active.contains type

/-- Candidates for an image at a start, in order (R370, R400): the active copy of a die, then the other copy. -/
def candidates (s : State) (f : Flash) (type : Nat) : List (List Byte) :=
  if f.alive then [copyOf f type (activeB s type), copyOf f type (!activeB s type)] else []

/-- The two dies, the one that is tried first in front. -/
def flashOrder (s : State) (bf1First : Bool) : List Flash := if bf1First then [s.bf1, s.bf0] else [s.bf0, s.bf1]

/-- The first image of a type that passes, on the dies in order; and whether the active copy of its die was passed over (R400). -/
def pickImage (s : State) (l : List Flash) (type : Nat) (ok : List Byte → Bool) : Option (List Byte × Bool) :=
  l.findSome? fun f => match candidates s f type with
    | [a, b] => if ok a then some (a, false) else if ok b then some (b, true) else none
    | _ => none

/-- The owner certificate in force: the first candidate that verifies. -/
def ownerCert (s : State) (bf1First : Bool) : Option (List Byte × Bool) := pickImage s (flashOrder s bf1First) 6 (certOk s)

/-- The owner's public key. -/
def ownerKey (s : State) (bf1First : Bool) : List Byte :=
  match ownerCert s bf1First with
  | some c => (imagePayload c.1).take 60
  | none => []

/-- An image of a type verifies under an owner key (R393); without a key none but a certificate does. -/
def imageOk (s : State) (key : List Byte) (type : Nat) (bs : List Byte) : Bool :=
  if type = 6 then certOk s bs
  else imageForm s type bs && !key.isEmpty && Config.hssVerifies key (bs.take 64) (imageSig bs)

/-- A charter image: 512 bytes and their signature (R374), which meets R375. -/
def charterImageOk (s : State) (key : List Byte) (bs : List Byte) : Bool :=
  bs.length == 512 + hssSize && !key.isEmpty && Config.hssVerifies key (bs.take 512) (bs.drop 512) &&
    charterOk s (charterOf bs)

/-! ## The counter record (R395) -/

/-- A die's region takes a record, and its write counter advances. -/
def Flash.keep (f : Flash) (k : Counter) : Flash := if f.alive then { f with record := k, writes := f.writes + 1 } else f

/-- One record write: SEQ is one more, and BF0, then BF1, takes it. -/
def putRecord (s : State) (k : Counter) : State :=
  let k := { k with seq := (k.seq + 1) % 2 ^ 32 }
  { s with counter := k, bf0 := s.bf0.keep k, bf1 := s.bf1.keep k }

/-- At a start the lead takes the record with the higher SEQ of the dies that work, and a lagging die takes it too. -/
def loadRecord (s : State) : State :=
  let k := match s.bf0.alive, s.bf1.alive with
    | true, true => if s.bf0.record.seq < s.bf1.record.seq then s.bf1.record else s.bf0.record
    | true, false => s.bf0.record
    | false, true => s.bf1.record
    | false, false => s.counter
  let mend (f : Flash) : Flash := if f.record = k then f else f.keep k
  { s with counter := k, bf0 := mend s.bf0, bf1 := mend s.bf1 }

/-- A charter slot of a die; one never written holds all ones (R377), and slot 0 what manufacture wrote: the factory charter
(R374, R376). -/
def charterSlot (f : Flash) (slot : Nat) : List Byte :=
  match tblLook f.charters slot with
  | some bs => bs
  | none => if slot = 0 then charterBytes factoryCharter ++ (List.range hssSize).map Config.factorySigByte
    else List.replicate (512 + hssSize) 0xFF

end Sys2Proof.Machine
end

