-- ==== Sys2Proof/Machine/Status.lean ====
section
/-! DEFINITION. The registers of the panel status page, as Tables 09-5, 10-4, 13-7, 14-1, 15-8, 17-1, 18-11, 18-12, 19-3,
21-8a and 22-5 lay them out, and what they count. -/

namespace Sys2Proof.Machine

/-! ## Counts -/

/-- RESETS_WINDOW (R342). -/
def resetsWindow (s : State) (n : Nat) : Nat := min (countedNow s (partAt s n)).length 255

/-- Junction sensor k of tile t. -/
def sensorAt (s : State) (t k : Nat) : Sensor := tblGet Sensor.init s.thermal.sensors (64 * t + k)

/-- Sensors of a tile in the model's numbering (log 24, DESIGN CHOICE): 0 and 1 of the base tile, 2 + 2d and 3 + 2d of the compute die at site
d, 28 of the host die, 29 and 30 of the edge-port dies that the tile feeds. -/
def tileSensors : Nat := 31

/-- Valid readings of a tile and the units it feeds (R441). -/
def tileReadings (s : State) (t : Nat) : List Nat := (List.range tileSensors).filterMap fun k => (sensorAt s t k).reading

/-- The hottest valid reading of a tile; 0 without one. -/
def tileHot (s : State) (t : Nat) : Nat := (tileReadings s t).foldl max 0

/-- The two sensors of a compute die. -/
def dieReadings (s : State) (t d : Nat) : List Nat := [2 + 2 * d, 3 + 2 * d].filterMap fun k => (sensorAt s t k).reading

/-- The least of a list; 0 of none. -/
def leastOf : List Nat → Nat
  | [] => 0
  | a :: t => t.foldl min a

/-- TJ_MAX, the tile that has it, and TJ_MIN (Table 19-3), from the readings in force (log 24, DESIGN CHOICE). -/
def tjMax (s : State) : Nat := (List.range 16).foldl (fun m t => max m (tileHot s t)) 0
def hotTile (s : State) : Nat := ((List.range 16).find? fun t => tileHot s t == tjMax s).getD 0
def tjMin (s : State) : Nat :=
  leastOf ((List.range 16).flatMap fun t => (List.range 13).flatMap fun d => dieReadings s t d)

/-- Some tile is at or above a temperature. -/
def anyTileAt (s : State) (temp : Nat) : Bool := (List.range 16).any fun t => decide (temp ≤ tileHot s t)

/-- A thermal cap is in force. -/
def anyThermalCap (s : State) : Bool := (List.range 16).any fun n => (partAt s n).thermalCap != 0

/-- Converter phases in service. -/
def phasesOf (s : State) (t : Nat) : Nat := ((List.range 8).filter fun i => bit (tpwrAt s t).phases.toNat i).length

/-! ## Words -/

/-- PST_PARTn (Table 13-7). -/
def partStatus (s : State) (n : Nat) : Nat :=
  let p := partAt s n
  resetsWindow s n * 2 ^ 48 + p.resetsTotal % 2 ^ 16 * 2 ^ 32 + p.state.code * 2 ^ 16 + p.pgen % 2 ^ 16

/-- PST_STRAGn (Table 14-1). -/
def stragWord (s : State) (n : Nat) : Nat :=
  let p := partAt s n
  p.swaps % 2 ^ 16 * 2 ^ 48 + p.deferred % 2 ^ 16 * 2 ^ 32 + (cappedCores s n).length * 2 ^ 20 + flagAt p.rebalance 16

/-- PST_START (Table 15-8): written when the host dies are released or the start stops (R386). -/
def startWord (s : State) : Nat :=
  let x := s.start
  if x.stage ≠ .released ∧ x.stage ≠ .stopped then 0
  else x.duration % 2 ^ 32 * 2 ^ 32 + min x.failedKat 255 * 2 ^ 16 + flagAt x.factory 7 + flagAt x.compactCharter 6 +
    x.slot % 4 * 16 + flagAt x.fullTrained 3 + flagAt x.bf1Boot 2 + flagAt x.profile 0

/-- PST_CLK (Table 17-1). -/
def clkStatus (s : State) : Nat :=
  let r := s.refclk
  r.switches % 2 ^ 32 * 2 ^ 32 + flagAt r.holdover 3 + flagAt r.altOk 2 + flagAt r.priOk 1 + flagAt r.sel 0

/-- PST_PWR (Table 18-11). -/
def pwrWord (s : State) : Nat :=
  let p := s.power
  p.vin % 2 ^ 16 * 2 ^ 48 + p.pin % 2 ^ 16 * 2 ^ 32 + min p.sags 255 * 2 ^ 24 + min p.trips 255 * 2 ^ 16 +
    flagAt p.pfwSeen 7 + flagAt p.pfw 6 + flagAt p.sag 5 + flagAt p.atCap 4

/-- PST_TPWRn (Table 18-12). -/
def tpwrWord (s : State) (t : Nat) : Nat :=
  let x := tpwrAt s t
  x.pin % 2 ^ 16 * 2 ^ 48 + min x.budget 4095 * 2 ^ 36 + phasesOf s t * 2 ^ 32 + min x.withheld 100 * 2 ^ 24 +
    min x.pauses 255 * 2 ^ 16 + flagAt x.dark 15

/-- PST_THERM (Table 19-3). -/
def thermWord (s : State) : Nat :=
  let x := s.thermal
  tjMax s * 2 ^ 56 + tjMin s * 2 ^ 48 + hotTile s * 2 ^ 44 + x.flow % 256 * 2 ^ 36 + x.kwLoad / 100 % 256 * 2 ^ 28 +
    x.kwTarget % 256 * 2 ^ 20 + min x.caps 255 * 2 ^ 8 + flagAt x.kwOn 4 + flagAt x.badSensor 3 +
    flagAt (anyTileAt s 105) 2 + flagAt (anyThermalCap s) 1 + flagAt x.warn 0

/-- The level of SERVICE_REQ_N: low while a cause is latched (R470). -/
def serviceReqN (s : State) : Bool := s.service.srCause == 0

/-- PST_SVC (Table 21-8a). -/
def svcWord (s : State) : Nat :=
  let x := s.straps
  let v := s.service
  x.traySlot % 256 * 2 ^ 48 + flagAt x.rsvd 47 + v.srCause.toNat * 2 ^ 24 + flagAt (s.lead == 15) 21 +
    flagAt s.power.pfwN 20 + flagAt v.heartbeat 19 + flagAt (!s.thermal.warn) 18 + flagAt (serviceReqN s) 17 +
    flagAt v.faultN 16 + flagAt x.testEn 5 + flagAt x.fullTrain 4 + x.charterSel % 4 * 4 + flagAt x.flashSel 1 +
    flagAt x.compact 0

/-- Codes of STATE (Table 22-5). -/
def PortState.code : PortState → Nat
  | .down => 0 | .training => 1 | .up => 2 | .draining => 3 | .disabled => 4 | .lost => 5

/-- LANES: 8, or 4 on half of the lanes; 0 while the port carries nothing. -/
def portLanes (q : Port) : Nat := if q.state = .up ∨ q.state = .draining then (if q.lanes4 then 4 else 8) else 0

/-- PST_PORTn (Table 22-5). -/
def portWord (q : Port) : Nat :=
  q.state.code * 2 ^ 61 + portLanes q * 2 ^ 57 + flagAt q.serDegraded 56 + min q.uncorr 65535 * 2 ^ 32 +
    min q.retx 65535 * 2 ^ 16 + min q.rxdrop 65535

/-- Codes of STATE (Table 09-5). -/
def DevState.code : DevState → Nat
  | .inUse => 0 | .spare => 1 | .copying => 2 | .failed => 3 | .notMapped => 4

/-- PST_DEVn (Table 09-5). -/
def deviceWord (d : Device) : Nat :=
  d.state.code * 2 ^ 61 + flagAt d.slow 60 + flagAt d.fullTrained 59 + d.serves.getD 0x7F % 128 * 2 ^ 52 +
    d.refrate % 8 * 2 ^ 49 + d.ue % 256 * 2 ^ 32 + d.ce % 2 ^ 32

def definedQueues (s : State) : Nat := (s.queues.filter fun e => e.2.state != .free).length
def residentQueues (s : State) : Nat := (s.queues.filter fun e => e.2.unit.isSome).length

/-- PST_UNPOP as host die h sees it. -/
def unpopWord (d : HostDie) : Nat :=
  match d.unpop with
  | some (hart, a) => 2 ^ 63 + hart % 32 * 2 ^ 48 + a % 2 ^ 48
  | none => 0

/-- PST_ID and PST_STATE. -/
def idWord (s : State) : Nat := flagAt s.order1T 17 + s.straps.panelId % 2 ^ 17
def stateWord (s : State) : Nat :=
  flagAt (s.lead == 15) 9 + flagAt s.hostsReleased 8 + flagAt s.catReady 7 + flagAt s.sealed 6 + s.service.ph % 4

/-- Register n, at offset 8 × n, of the status page (R263); an offset that is not listed reads as zero. -/
def statusWord (s : State) (h n : Nat) : Nat :=
  if n = 0 then idWord s
  else if n = 1 then s.time
  else if n = 2 then stateWord s
  else if n = 3 then s.firmware % 2 ^ 32 * 2 ^ 32 + s.microcode % 2 ^ 32
  else if n = 4 then s.catVersion % 2 ^ 32
  else if n = 5 then s.spills % 2 ^ 32 * 2 ^ 32 + definedQueues s * 2 ^ 15 + residentQueues s
  else if n = 6 then unpopWord (hostAt s h)
  else if n = 7 then startWord s
  else if n < 24 then partStatus s (n - 8)
  else if n < 40 then stragWord s (n - 24)
  else if n = 40 then clkStatus s
  else if n = 41 then pwrWord s
  else if n = 42 then thermWord s
  else if n = 43 then svcWord s
  else if 48 ≤ n ∧ n < 64 then tpwrWord s (n - 48)
  else if 64 ≤ n ∧ n < 96 then portWord (portAt s (n - 64))
  else if 256 ≤ n ∧ n < 324 then deviceWord (deviceAt s (n - 256))
  else 0

end Sys2Proof.Machine
end

