-- ==== Sys2Proof/Machine/Registers.lean ====
section
/-! DEFINITION. Registers of the host address map as a host load reads them: the panel status page (R263, R252), doorbell pages
(R265), mailboxes (R296) and the host die's local region (R257). -/

namespace Sys2Proof.Machine

/-- Codes of Table 10-6. -/
def QState.code : QState → Nat
  | .free => 0 | .disabled => 1 | .enabled => 2 | .disabling => 3 | .held => 4

/-- Bytes of a row of 8-byte registers. -/
def regBytes (reg : Nat → Nat) (off size : Nat) : List Byte :=
  (List.range size).map fun i => BitVec.ofNat 8 (reg ((off + i) / 8) / 256 ^ ((off + i) % 8))

/-- DBL_QSTAT (Table 10-5). -/
def qstatWord (q : Queue) : Nat :=
  q.sqHead * 2 ^ 16 + flagAt q.rangeErr 7 + flagAt q.cqFull 6 + flagAt q.pinned 5 + flagAt q.unit.isSome 4 +
    flagAt q.control 3 + q.state.code

/-- The doorbell page of a queue is there for host die h (R261). -/
def ownsPage (s : State) (h q : Nat) : Bool := (queueAt s q).state != .free && (queueAt s q).owner == h

/-- A register of a doorbell page: 4 bytes, naturally aligned. -/
def doorbellLoad (s : State) (h off size : Nat) : Option (List Byte) :=
  let q := off / 4096
  let x := queueAt s q
  if !ownsPage s h q || size != 4 then none
  else
    let r := off % 4096
    some (leBytes 4 (if r = 0 then x.tail else if r = 4 then x.cqHead else if r = 8 then qstatWord x else 0))

/-- MBX_STATUS (Table 11-2). -/
def boxStatus (m : Nat) (x : Mailbox) : Nat :=
  x.lostTh * 2 ^ 48 + x.lostTp * 2 ^ 32 + x.tp.length * 2 ^ 8 + x.th.length * 2 ^ 4 + boxKind m * 4 + flagAt x.collTp 1 +
    flagAt x.collTh 0

/-- MBX_HBEAT: FAULT_PENDING is set and cleared as records are written and read (R325). -/
def boxHbeat (s : State) (m : Nat) : Nat :=
  let w := (mailboxAt s m).hbeat.toNat
  if boxKind m = 0 then w - flagAt (bit w 3) 3 + flagAt (bit w 0 && faultPending s) 3 else 0

/-- A mailbox register with its width in bytes and whether only the owner may read it; none where no load is permitted. A
write-only register reads as zero for the agents that may write it (Table 00-3, R296). -/
def boxReg (s : State) (m r : Nat) : Option (Nat × Bool × Nat) :=
  let x := mailboxAt s m
  if r = 0x08 then none
  else if r = 0x00 then (if boxKind m = 2 then some (8, false, 0) else none)
  else if r = 0x10 then (if boxKind m = 1 then some (8, true, 0) else none)
  else if r = 0x28 then some (4, boxKind m != 2, 0)
  else if r = 0x18 then some (8, false, boxStatus m x)
  else if r = 0x20 then some (4, true, x.dbell.toNat)
  else if r = 0x24 then some (4, true, x.mask.toNat)
  else if r = 0x2C then some (4, true, msiWord x.msi)
  else if r = 0x30 then some (8, false, boxHbeat s m)
  else if 0x40 ≤ r ∧ r < 0x80 ∧ r % 8 = 0 then some (8, true, (x.th.getD ((r - 0x40) / 8) 0).toNat)
  else if 0x80 ≤ r ∧ r < 0xC0 ∧ r % 8 = 0 then some (8, true, (x.tp.getD ((r - 0x80) / 8) 0).toNat)
  else none

/-- Offsets that name no register read as zero (R296). -/
def boxUnlisted (r : Nat) : Bool := decide (0x38 ≤ r ∧ r < 0x40) || decide (0xC0 ≤ r)

def boxLoad (s : State) (h off size : Nat) : Option (List Byte) :=
  let m := off / 256
  let r := off % 256
  if boxUnlisted r then some (leBytes size 0)
  else match boxReg s m r with
    | some (n, own, v) => if size = n ∧ (!own ∨ ownsBox s h m) then some (leBytes n v) else none
    | none => none

/-- The boot ROM; the interrupt files read as zero. -/
def localLoad (addr size : Nat) : Option (List Byte) :=
  if 0xFFFFF0000000 ≤ addr ∧ addr < 0xFFFFF0010000 then
    some ((List.range size).map fun i => Config.bootRom (addr - 0xFFFFF0000000 + i))
  else if (0xFFFF00000000 ≤ addr ∧ addr < 0xFFFF00020000) ∨ (0xFFFF00100000 ≤ addr ∧ addr < 0xFFFF00120000) then
    some (leBytes size 0)
  else none

/-- The aperture has rows of its own. -/
def inAperture (addr : Nat) : Bool := decide (0x500000000000 ≤ addr ∧ addr < 0x501800000000)

/-- A load of a register of the host address map; none is an access to an unpopulated address. -/
def ioRead (s : State) (h addr size : Nat) : Option (List Byte) :=
  if !aligned addr size then none
  else if 0x400000000000 ≤ addr ∧ addr < 0x400010000000 then doorbellLoad s h (addr - 0x400000000000) size
  else if 0x400010000000 ≤ addr ∧ addr < 0x400010010000 then boxLoad s h (addr - 0x400010000000) size
  else if 0x400010010000 ≤ addr ∧ addr < 0x400010011000 then some (regBytes (statusWord s h) (addr - 0x400010010000) size)
  else localLoad addr size

/-- A host load outside LPDDR5X: MBX_TH_POP pops, every other register is only read. -/
def ioLoad (s : State) (h hart addr size : Nat) : State :=
  if inAperture addr then s
  else
    let m := (addr - 0x400010000000) / 256
    if 0x400010000000 ≤ addr ∧ addr < 0x400010010000 ∧ addr % 256 = 8 ∧ size = 8 ∧ ownsBox s h m then popTh s h hart m
    else hostLoad s h hart ((ioRead s h addr size).map loadData)

end Sys2Proof.Machine
end

