-- ==== Sys2Proof/Machine/Queues.lean ====
section
/-! DEFINITION. Doorbells, contexts and their spilling, the writing of records (R264–R271), and the loss of a host die (R259, R272,
R301). -/

namespace Sys2Proof.Machine

/-! ## Contexts (R269, R270) -/

/-- Resident contexts of a unit, and of the panel with the loads in progress. -/
def residentsOf (s : State) (u : Nat) : Nat := (s.queues.filter fun e => e.2.unit == some u).length
def slotsTaken (s : State) : Nat := residentQueues s + (((List.range 4).map fun u => (unitAt s u).loading.length).sum)

/-- The unit that takes a context loaded for unit u: itself, or the first with a free slot. -/
def slotFor (s : State) (u : Nat) : Nat :=
  if residentsOf s u < 4096 then u else ((List.range 4).find? fun v => decide (residentsOf s v < 4096)).getD u

/-- The least recently rung resident context that is not pinned (R270). -/
def spillVictim (s : State) : Option Nat :=
  (s.queues.foldl (fun (b : Option (Nat × Nat)) e =>
    if e.2.unit.isSome && !e.2.pinned then
      match b with
      | some x => if e.2.lastRung < x.2 then some (e.1, e.2.lastRung) else some x
      | none => some (e.1, e.2.lastRung)
    else b) none).map (·.1)

/-- A victim moves to the spill-write buffer of unit u. -/
def spill (s : State) (u q : Nat) : State :=
  let s := modQueue s q fun x => { x with unit := none }
  { modUnit s u fun c => { c with spilling := c.spilling ++ [q] } with spills := satInc 32 s.spills }

/-- Queue q waits at unit u for a load or a spill. -/
def waitLoad (s : State) (u q : Nat) : State :=
  modUnit s u fun c => if c.pending.contains q then c else { c with pending := c.pending ++ [q] }

/-- A context that is rung while it is still in a spill-write buffer returns from there. -/
def unspill (s : State) (u q : Nat) : State :=
  let s := each (List.range 4) (fun v s => modUnit s v fun c => { c with spilling := c.spilling.filter (· != q) }) s
  let home := slotFor s u
  modQueue s q fun x => { x with unit := some home }

def inSpillBuffer (s : State) (q : Nat) : Bool := (List.range 4).any fun v => (unitAt s v).spilling.contains q

/-- Load queue q at unit u (R270); the queue waits while all 16 load slots, or all 16 buffer entries it needs, are taken. -/
def loadContext (s : State) (u q : Nat) : State :=
  let c := unitAt s u
  if (queueAt s q).unit.isSome || (List.range 4).any fun v => (unitAt s v).loading.contains q then s
  else if inSpillBuffer s q && decide (slotsTaken s < 16384) then unspill s u q
  else if 16 ≤ c.loading.length then waitLoad s u q
  else if slotsTaken s < 16384 then modUnit s u fun c => { c with loading := c.loading ++ [q] }
  else if 16 ≤ c.spilling.length then waitLoad s u q
  else match spillVictim s with
    | some v => modUnit (spill s u v) u fun c => { c with loading := c.loading ++ [q] }
    | none => waitLoad s u q

/-- Pending queues are served in the order their doorbells arrived. -/
def servePending (s : State) (u : Nat) : Nat → State
  | 0 => s
  | k + 1 =>
    match (unitAt s u).pending with
    | [] => s
    | q :: rest =>
      let s' := loadContext (modUnit s u fun c => { c with pending := rest }) u q
      if (unitAt s' u).pending.contains q then s else servePending s' u k

def serveUnit (s : State) (u : Nat) : State := servePending s u (unitAt s u).pending.length

/-- A doorbell or an ENABLE reaches the command unit of host die u (R270). -/
def ringQueue (s : State) (u q : Nat) : State :=
  let s := modQueue s q fun x => { x with lastRung := s.time }
  if (queueAt s q).unit.isSome then s else loadContext s u q

/-- CONTEXT_LOAD_DONE (R270). -/
def execContextLoadDone (u q : Nat) (s : State) : Out :=
  .next (
    if (unitAt s u).loading.contains q then
      let s := modUnit s u fun c => { c with loading := c.loading.filter (· != q) }
      let home := slotFor s u
      serveUnit (modQueue s q fun x => { x with unit := some home }) u
    else s)

/-- Place of a spilled context in the charter's spill area (R269). -/
def spillAddr (s : State) (q : Nat) : Option Nat :=
  (List.range 4).findSome? fun h => (queueRanges s h).findSome? fun r =>
    if r.1 ≤ q ∧ q ≤ r.2.1 then some (r.2.2 + 256 * (q - r.1)) else none

/-- SPILL_WRITE_ACK (R270): the context lies in the spill area; the layout of its 256 bytes is the unit's own (log 5, DESIGN CHOICE). -/
def execSpillWriteAck (u q : Nat) (s : State) : Out :=
  .next (
    if (unitAt s u).spilling.contains q then
      let s := modUnit s u fun c => { c with spilling := c.spilling.filter (· != q) }
      let s := match spillAddr s q with
        | some a => bumpFresh (ldWrite s a (freeBytes s 256) true) 256
        | none => s
      serveUnit s u
    else s)

/-! ## Doorbells (R265–R267) -/

/-- A write of TAIL: one outside the ring sets RANGE_ERR and is ignored. -/
def writeTail (s : State) (h q tail : Nat) : State :=
  if ringSize (queueAt s q).sqLog ≤ tail then modQueue s q fun x => { x with rangeErr := true }
  else ringQueue (modQueue s q fun x => { x with tail := tail }) h q

/-- A hart's store to a register of a doorbell page: to a page that is FREE or another die's it is a store to an unpopulated
address (R261). -/
def pageStore (s : State) (h hart q off : Nat) (act : State → State) : State :=
  if !hostOn s h || decide (65536 ≤ q) then s
  else if ownsPage s h q then act s else unpopStore s h hart (0x400000000000 + 4096 * q + off)

/-- DBL_SQ_TAIL (R265, R266): by the host die that owns the queue. -/
def execDblSqTail (h hart q : Nat) (tail : BitVec 32) (s : State) : Out :=
  .next (pageStore s h hart q 0 fun s => writeTail s h q (tail.toNat % 65536))

/-- A write of HEAD makes room for held records. -/
def writeHead (s : State) (q head : Nat) : State :=
  modQueue s q fun x =>
    if ringSize x.cqLog ≤ head then { x with rangeErr := true }
    else
      let y := { x with cqHead := head }
      passSilent { y with cqFull := cqFullNow y }

/-- DBL_CQ_HEAD (R265, R267). -/
def execDblCqHead (h hart q : Nat) (head : BitVec 32) (s : State) : Out :=
  .next (pageStore s h hart q 4 fun s => writeHead s q (head.toNat % 65536))

/-- COMPLETION_RECORD_WRITE (R267, R275): the oldest completed record enters its ring. -/
def execCompletionRecordWrite (q : Nat) (s : State) : Out := .next (writeRecord s q)

/-! ## Host dies (R259, R261, R272) -/

/-- A host die is lost: its queues are HELD, its mailboxes send no MSI, and its backup stands in for it (R272, R301). -/
def loseHost (s : State) (h : Nat) : State :=
  if (hostAt s h).lost || decide (4 ≤ h) then s
  else
    let s := modHost s h fun d => { d with lost := true, linkUp := false }
    let held (x : Queue) : Queue := if x.owner = h ∧ x.state ≠ .free then { x with state := .held } else x
    let s := { s with queues := s.queues.map fun e => (e.1, held e.2) }
    let s := each (List.range 64) (fun i s => modMailbox s (64 * h + i) fun x => { x with msi := { x.msi with en := false } }) s
    addLasting (raiseCause s 5) { FaultRec.blank 0x11 .hostDie with attempts := 2 } none

/-- A module is taken out of service: with fewer than four left the die is lost (R259). -/
def moduleFail (s : State) (h : Nat) : State :=
  let d := hostAt s h
  if !d.linkUp || d.modules = 0 then s
  else
    let s := modHost s h fun d => { d with modules := d.modules - 1 }
    if d.modules - 1 < 4 then loseHost s h else s

/-- UCIE_MODULE_FAIL (R259). -/
def execUcieModuleFail (h : Nat) (s : State) : Out := .next (moduleFail s h)

/-- UCIE_LINK_DOWN_TIMEOUT (R259). -/
def execUcieLinkDownTimeout (h : Nat) (s : State) : Out := .next (if (hostAt s h).released then loseHost s h else s)

/-- The address holds memory, or a part of the local region that the access can reach: the boot ROM takes no store. -/
def reachableAddr (s : State) (addr : Nat) (kind : AccessKind) : Bool :=
  populated s addr || ((localLoad addr 1).isSome && !(kind == .store && decide (0xFFFFF0000000 ≤ addr)))

/-- UNPOPULATED_ACCESS (R261): a load or fetch is an access fault of the hart, a store is discarded. -/
def execUnpopulatedAccess (h hart addr : Nat) (kind : AccessKind) (s : State) : Out :=
  .next (
    if !hostOn s h || reachableAddr s addr kind then s
    else match kind with
      | .store => unpopStore s h hart addr
      | .load => hostLoad s h hart none
      | .fetch => fetchFault s h hart)

end Sys2Proof.Machine
end

