-- ==== Sys2Proof/Machine/RegWrite.lean ====
section
/-! DEFINITION. REGISTER_WRITE: registers that have no row of their own, written by a host hart, a curator or boot code (R7, R180,
R257, R263, R265, R296, R372). -/

namespace Sys2Proof.Machine

/-- Bit 8k + i, of a register at byte offset `reg`, is written as 1 by a store of `size` bytes at `off`. -/
def writesOne (reg off size v k i : Nat) : Bool :=
  decide (off ≤ reg + k ∧ reg + k < off + size) && bit v (8 * (reg + k - off) + i)

/-- A store to the status page: VALID of PST_UNPOP (Table 10-4), PFW_SEEN (Table 18-11) and BADSENSOR (Table 19-3) are
written as 1 to clear; the rest of those registers ignores it, and every other register is read-only (R261). -/
def storeStatus (s : State) (h hart addr size v : Nat) : State :=
  let off := addr - 0x400010010000
  if off / 8 = 6 then
    if 0x37 < off + size ∧ bit v (8 * (0x37 - off) + 7) then modHost s h fun d => { d with unpop := none } else s
  else if off / 8 = 41 then
    if off = 0x148 ∧ bit v 7 then { s with power := { s.power with pfwSeen := false } } else s
  else if off / 8 = 42 then
    if off = 0x150 ∧ bit v 3 then { s with thermal := { s.thermal with badSensor := false } } else s
  else unpopStore s h hart addr

/-- A store to a doorbell page (Table 10-5). -/
def storeDoorbell (s : State) (h hart addr size v : Nat) : State :=
  let off := addr - 0x400000000000
  let q := off / 4096
  let r := off % 4096
  if !ownsPage s h q || size != 4 then unpopStore s h hart addr
  else if r = 0 then writeTail s h q (v % 65536)
  else if r = 4 then writeHead s q (v % 65536)
  else if r = 8 then modQueue s q fun x => { x with rangeErr := x.rangeErr && !bit v 7 }
  else unpopStore s h hart addr

/-- The W1C bits of MBX_STATUS and MBX_DBELL. -/
def clearStatus (s : State) (m v : Nat) : State :=
  modMailbox s m fun x => { x with collTp := x.collTp && !bit v 1, collTh := x.collTh && !bit v 0 }

def clearBells (s : State) (m v : Nat) : State :=
  modMailbox s m fun x => { x with dbell := x.dbell &&& ~~~(BitVec.ofNat 32 v) }

/-- A store to a mailbox register (Table 11-2): its width, its agents, its effect; to another offset it is ignored. -/
def storeBox (s : State) (h hart addr size v : Nat) : State :=
  let m := (addr - 0x400010000000) / 256
  let r := addr % 256
  let own := ownsBox s h m
  let go (n : Nat) (may : Bool) (act : State → State) : State :=
    if size = n ∧ may then act s else unpopStore s h hart addr
  if boxUnlisted r then s
  else if r = 0x00 then go 8 (boxKind m == 2) fun s => pushTh s m (BitVec.ofNat 64 v)
  else if r = 0x10 then go 8 (boxKind m == 1 && own) fun s => pushTp s m (BitVec.ofNat 64 v)
  else if r = 0x18 then go 8 true fun s => clearStatus s m v
  else if r = 0x20 then go 4 own fun s => clearBells s m v
  else if r = 0x24 then go 4 own fun s => setMask s m (BitVec.ofNat 32 v)
  else if r = 0x28 then go 4 (own || boxKind m == 2) fun s => setBells s m (BitVec.ofNat 32 v &&& 0xFFFFFFF8)
  else if r = 0x2C then go 4 own fun s => setMsi s m (v % 2 ^ 32)
  else unpopStore s h hart addr

/-- A store to the local region: a hart sets an identity in an interrupt file of its die (R257). -/
def storeLocal (s : State) (h hart addr size v : Nat) : State :=
  let file (base : Nat) (super : Bool) : State :=
    if size = 4 ∧ (addr - base) % 4096 = 0 then
      sendMsi s h { en := decide (1 ≤ v ∧ v ≤ 2047), slevel := super, hart := (addr - base) / 4096, iid := v }
    else s
  if 0xFFFF00000000 ≤ addr ∧ addr < 0xFFFF00020000 then file 0xFFFF00000000 false
  else if 0xFFFF00100000 ≤ addr ∧ addr < 0xFFFF00120000 then file 0xFFFF00100000 true
  else unpopStore s h hart addr

/-- A hart's store to a register; memory and the aperture have rows of their own. -/
def storeMapped (s : State) (h hart addr size v : Nat) : State :=
  if (regionOf s addr).isSome || inAperture addr then s
  else if !aligned addr size || decide (8 < size) then unpopStore s h hart addr
  else if 0x400000000000 ≤ addr ∧ addr < 0x400010000000 then storeDoorbell s h hart addr size v
  else if 0x400010000000 ≤ addr ∧ addr < 0x400010010000 then storeBox s h hart addr size v
  else if 0x400010010000 ≤ addr ∧ addr < 0x400010011000 then storeStatus s h hart addr size v
  else storeLocal s h hart addr size v

/-- Shares in the ranges of Table 06-11: at most 8 each, at most 16 together. -/
def sharesOk (a b c : Nat) : Bool := decide (a ≤ 8 ∧ b ≤ 8 ∧ c ≤ 8 ∧ a + b + c ≤ 16)

def setShares (s : State) (t a b c : Nat) : State :=
  modTile s t fun x => { x with vc1Min := a, vc2Min := b, vc3Min := c }

/-- The curator writes NI_VCW (R180). What a write outside the ranges of Table 06-11 does is not stated: the model ignores it (log 88,
DESIGN CHOICE). -/
def storeVcw (s : State) (t v : Nat) : State :=
  let a := bits v 7 0
  let b := bits v 15 8
  let c := bits v 23 16
  if sharesOk a b c then setShares s t a b c else s

/-- An NI_RTE entry from its bits (Table 06-12). -/
def rteOf (v : Nat) : Rte :=
  { valid := bit v 31, override := bit v 30, hops := bits v 27 24, route := BitVec.ofNat 24 v }

/-- Boot code writes the charter until it is sealed (R372); reserved bits are ignored (R7). -/
def storeCharter (s : State) (off v : Nat) : State :=
  let n := off / 8
  if s.sealed || off % 8 != 0 || decide (64 ≤ n) || !(s.start.stage == .rom || s.start.stage == .firstStage) then s
  else
    let kept := (chtReserved n).foldl (fun v b => v - bits v b.1 b.2 * 2 ^ b.2) v
    let s := { s with charter := tblSet (0 : Dword) s.charter n (BitVec.ofNat 64 kept) }
    if n = 1 ∧ bit v 0 then { s with sealed := true } else s

/-- REGISTER_WRITE (R7): an agent that may not write the register changes nothing. -/
def execRegisterWrite (agent : Agent) (reg : RegRef) (value : BitVec 64) (s : State) : Out :=
  .next (match agent, reg with
    | .host h hart, .mapped addr size => if hostOn s h then storeMapped s h hart addr size (value.toNat % 256 ^ size) else s
    | .curator _, .niVcw t => if t < 16 then storeVcw s t value.toNat else s
    | .curator _, .niRte t d =>
      -- entries change only in a drain (R178)
      if t < 16 ∧ d < 16 then addDrain s false [(16 * t + d, rteOf value.toNat)] [] [] [] else s
    | .firstStage, .charter off => storeCharter s off value.toNat
    | _, _ => s)

end Sys2Proof.Machine
end

