-- ==== Sys2Proof/Machine/PortCmds.lean ====
section
/-! DEFINITION. PORT_CONFIG (R494, R495) and ROUTE_UPDATE (R181, R493). -/

namespace Sys2Proof.Machine

/-! ## PORT_CONFIG -/

def pcBlock (c : Cmd) : Nat := fld c.pkt 319 256
def pcEndpoint (c : Cmd) : Nat := fld c.pkt 255 240
def pcEther (c : Cmd) : Nat := fld c.pkt 239 224
def pcMax (c : Cmd) : Nat := fld c.pkt 212 208
def pcEncap (c : Cmd) : Nat := fld c.pkt 207 206
def pcThr (c : Cmd) : Nat := fld c.pkt 201 194
def pcLanes4 (c : Cmd) : Bool := fld c.pkt 193 193 = 1
def pcMask (c : Cmd) : BitVec 32 := BitVec.ofNat 32 (fld c.pkt 191 160)
def pcAction (c : Cmd) : Nat := fld c.pkt 74 72

/-- The ports a command names. -/
def pcPorts (c : Cmd) : List Nat := upTo 32 fun n => bit (pcMask c).toNat n

/-- The fields an ACTION uses, in range; every other one is zero (R494). -/
def pcFieldsOk (s : State) (c : Cmd) : Bool :=
  let place := pcBlock c == 0 && pcEndpoint c == 0
  let set := pcEther c == 0 && pcMax c == 0 && pcEncap c == 0 && pcThr c == 0 && !pcLanes4 c
  if pcAction c < 3 then pcMask c != 0 && place && set
  else if pcAction c = 3 then
    c.expert && pcMask c != 0 && place && (pcEther c == 0 || decide (0x600 ≤ pcEther c)) && decide (pcMax c ≤ 16)
  else if pcAction c = 4 then
    c.expert && pcMask c == 0 && set && decide (pcEndpoint c < 4096) && !badDest s (pcBlock c) 64 64
  else false

/-- Refusals of PORT_CONFIG (R494). -/
def pcChecks (s : State) (c : Cmd) : List (Bool × Status) :=
  [(!pcFieldsOk s c, .badParam),
   ((pcAction c != 2 && !(queueAt s c.queue).admin) || (pcAction c == 4 && !inCarve s c.host (pcBlock c) 64), .notPermitted),
   ((pcPorts c).any (fun n => (portAt s n).state == .lost), .dieLost)]

/-- The row's command is an ACTION of PORT_CONFIG. -/
def isPc (p : Nat → Bool) (c : Cmd) : Bool := c.fn == 0x0900 && p (pcAction c)

/-- The command waits for its ports. -/
def pcWait (s : State) (c : Cmd) (w : CmdWait) : State := modCmd s c.uid fun c => { c with wait := w }

/-- ENABLE: every named port that is not UP trains, and the command waits until none does. -/
def pcEnable (c : Cmd) (s : State) : State :=
  let s := pcWait s c (.ports (pcMask c))
  setPorts s (pcPorts c) fun q => if q.state = .up then q else { q with state := .training }

/-- PORT_CONFIG ENABLE (R494); a reserved ACTION is refused as it. -/
def execPortConfigEnable (q : Nat) (s : State) : Out :=
  .next (startAs s q (isPc fun a => a == 0 || decide (5 ≤ a)) fun c s => checked c (pcChecks s c) (pcEnable c) s)

/-- Frames that are on named ports: sent by them and not acknowledged. -/
def queuedFrames (s : State) (c : Cmd) : Nat :=
  ((s.fabric.tx.filter fun t => match t.port with
    | some n => bit (pcMask c).toNat n
    | none => false).map fun t => t.unacked.length).sum

/-- How many of them are still queued when the port stops is a matter of time: free (log 6, DESIGN CHOICE). -/
def droppedFrames (s : State) (c : Cmd) : Nat := Config.freeNat s.fresh % (queuedFrames s c + 1)

/-- Basic DISABLE: the flows move, and a port that was UP drains. -/
def pcDisable (c : Cmd) (s : State) : State :=
  let s := pcWait (bumpFresh s 1) c (.portDrain (pcMask c) (droppedFrames s c))
  setPorts s (pcPorts c) fun q =>
    { q with state := if q.state = .up ∨ q.state = .draining then .draining else .disabled, drainSince := s.time }

/-- PORT_CONFIG DISABLE, basic form (R495). -/
def execPortConfigDisable (q : Nat) (s : State) : Out :=
  .next (startAs s q (fun c => isPc (· == 1) c && !c.expert) fun c s => checked c (pcChecks s c) (pcDisable c) s)

/-- Expert DISABLE: the ports stop at once. -/
def pcDisableNow (c : Cmd) (s : State) : State :=
  let d := droppedFrames s c
  let s := expireMoves (setPorts (bumpFresh s 1) (pcPorts c) fun q => { q with state := .disabled }) (pcPorts c)
  finish s c.uid (if 0 < d then .aborted else .disabled) d 0 0 0

/-- PORT_CONFIG DISABLE, expert form (R495). -/
def execPortConfigDisableExpert (q : Nat) (s : State) : Out :=
  .next (startAs s q (fun c => isPc (· == 1) c && c.expert) fun c s => checked c (pcChecks s c) (pcDisableNow c) s)

/-- One of the two halves of a register: a result word holds 32 bits of its 64, and the spec does not say which (log 6, DESIGN CHOICE). -/
def halfWord (w k : Nat) : Nat := if Config.freeNat k % 2 = 0 then lowWord w else highWord w

/-- READ: the four lowest named ports. -/
def pcRead (c : Cmd) (s : State) : State :=
  let w (i : Nat) : Nat := match (pcPorts c)[i]? with
    | some n => halfWord (portWord (portAt s n)) s.fresh
    | none => 0
  finish (bumpFresh s 1) c.uid .ok (w 0) (w 1) (w 2) (w 3)

/-- PORT_CONFIG READ (R494). -/
def execPortConfigRead (q : Nat) (s : State) : Out :=
  .next (startAs s q (isPc (· == 2)) fun c s => checked c (pcChecks s c) (pcRead c) s)

/-- SET: the named ports' own settings, with which they retrain, but a disabled one stays so; and the framing of the panel, once every flow
is drained (R493). -/
def pcSet (c : Cmd) (s : State) : State :=
  let s := setPorts s (pcPorts c) fun q =>
    { q with serThr := pcThr c, lanes4 := pcLanes4 c, serDegraded := false,
             state := if q.state = .disabled ∨ q.state = .draining then q.state else .training }
  let f := s.fabric
  planChange s c (f.tx.map (·.key)) (.framing (if pcEther c = 0 then f.etherType else pcEther c)
    (if pcMax c = 0 then f.maxData else 256 * pcMax c) (if pcEncap c = 3 then f.encap else pcEncap c))

/-- PORT_CONFIG SET (R494). -/
def execPortConfigSet (q : Nat) (s : State) : Out :=
  .next (startAs s q (isPc (· == 3)) fun c s => checked c (pcChecks s c) (pcSet c) s)

/-- An entry from its 64 bytes; reserved bits are ignored (R7). -/
def endpointOf (bs : List Byte) : Endpoint :=
  let w := leNat bs
  BitVec.ofNat 512 (bits w 511 207 * 2 ^ 207 + bits w 204 200 * 2 ^ 200)

/-- The flows to an entry: those to the panels for entry 0, else those to its server (R494). -/
def entryFlows (s : State) (i : Nat) : List FlowKey :=
  (s.fabric.tx.map (·.key)).filter fun k => if i = 0 then !k.dstSrv else k.dstSrv && k.dstId == epServer (endpointAt s i)

/-- ENDPOINT: an entry is written once the flows to it are drained. -/
def pcEntry (c : Cmd) (s : State) : State :=
  copyIn s c (pcBlock c) 64 fun bs s => planChange s c (entryFlows s (pcEndpoint c)) (.entry (pcEndpoint c) (endpointOf bs))

/-- PORT_CONFIG ENDPOINT (R494). -/
def execPortConfigEndpoint (q : Nat) (s : State) : Out :=
  .next (startAs s q (isPc (· == 4)) fun c s => checked c (pcChecks s c) (pcEntry c) s)

/-! ## ROUTE_UPDATE -/

def ruTarget (c : Cmd) : Nat := fld c.pkt 71 64
def ruGroup (c : Cmd) : Nat := fld c.pkt 88 80
def ruClear (c : Cmd) : Bool := fld c.pkt 96 96 = 1
def ruWord (c : Cmd) : Nat := fld c.pkt 159 128
def ruTile (c : Cmd) : Nat := fld c.pkt 87 80
def ruDtile (c : Cmd) : Nat := fld c.pkt 95 88

/-- Refusals of TARGET 0 (R493), and of a TARGET that the form does not have (R181). -/
def ruPortChecks (s : State) (c : Cmd) : List (Bool × Status) :=
  [(ruTarget c != 0 || ruClear c == (ruWord c != 0), .badParam),
   (!(queueAt s c.queue).admin, .notPermitted)]

/-- The flows of a group that another PORTSET moves to other ports (R493). -/
def groupMoves (s : State) (g : Nat) (m : BitVec 32) : List FlowKey :=
  let t := applyChange s (.portset g m)
  (s.fabric.tx.filter fun x => flowGroup x.key == g && flowPort t x.key != x.port).map (·.key)

/-- One PORTSET is written once the flows that move are drained. -/
def ruPort (c : Cmd) (s : State) : State :=
  let m : BitVec 32 := if ruClear c then 0xFFFFFFFF else BitVec.ofNat 32 (ruWord c)
  planChange s c (groupMoves s (ruGroup c) m) (.portset (ruGroup c) m)

/-- The targets that only the expert form has. -/
def ruExpert (t : Nat) (c : Cmd) : Bool := c.fn == 0x0901 && c.expert && ruTarget c == t

/-- ROUTE_UPDATE TARGET 0 (R493). -/
def execRouteUpdatePortset (q : Nat) (s : State) : Out :=
  .next (startAs s q (fun c => c.fn == 0x0901 && !ruExpert 1 c && !ruExpert 2 c) fun c s =>
    checked c (ruPortChecks s c) (ruPort c) s)

/-- The entry named (Table 06-12). -/
def ruEntry (c : Cmd) : Rte :=
  { valid := true, override := true, hops := bits (ruWord c) 27 24, route := BitVec.ofNat 24 (ruWord c) }

/-- The route of the entry is possible (R181). -/
def ruRouteOk (s : State) (c : Cmd) : Bool :=
  let e := ruEntry c
  let codes := rteCodes e
  bits (ruWord c) 31 28 == 0 && decide (e.hops ≤ 8) && codes.all (fun x => decide (1 ≤ x ∧ x ≤ 4)) &&
    e.route.toNat / 8 ^ e.hops == 0 && decide (setMoves codes ≤ 1) && routeClear s (fun t => !tileGone s t) (ruTile c) codes &&
    (match routeTiles (ruTile c) codes with
     | some ts => ts.getLast? == some (ruDtile c)
     | none => false)

/-- A tile lies in a partition that is not the host die's. -/
def ruForeign (s : State) (c : Cmd) (t : Nat) : Bool := match partOfTile s t with
  | some n => !serves s c.host n
  | none => false

/-- Refusals of TARGET 1 (R181). -/
def ruRouteChecks (s : State) (c : Cmd) : List (Bool × Status) :=
  [(decide (16 ≤ ruTile c ∨ 16 ≤ ruDtile c) || (if ruClear c then ruWord c != 0 else !ruRouteOk s c), .badParam),
   (ruForeign s c (ruTile c) || ruForeign s c (ruDtile c), .notPermitted)]

/-- The entry is written in a drain: the override, or with CLEAR the curators' route. -/
def ruRoute (c : Cmd) (s : State) : State :=
  let e := if ruClear c then curatorRoute s (ruTile c) (ruDtile c) else ruEntry c
  waitDrain s c [(16 * ruTile c + ruDtile c, e)] []

/-- ROUTE_UPDATE TARGET 1 (R181). -/
def execRouteUpdatePanelRoute (q : Nat) (s : State) : Out :=
  .next (startAs s q (ruExpert 1) fun c s => checked c (ruRouteChecks s c) (ruRoute c) s)

def ruVc (c : Cmd) (i : Nat) : Nat := fld c.pkt (111 + 8 * i) (104 + 8 * i)

/-- The tiles that TARGET 2 names. -/
def ruTiles (c : Cmd) : List Nat := if ruTile c = 0xFF then List.range 16 else [ruTile c]

/-- Refusals of TARGET 2 (R181). -/
def ruShareChecks (s : State) (c : Cmd) : List (Bool × Status) :=
  [((ruTile c != 0xFF && decide (16 ≤ ruTile c)) || !sharesOk (ruVc c 0) (ruVc c 1) (ruVc c 2), .badParam),
   ((ruTiles c).any (ruForeign s c), .notPermitted)]

/-- The shares are written. -/
def ruShares (c : Cmd) (s : State) : State :=
  finish (each (ruTiles c) (fun t s => setShares s t (ruVc c 0) (ruVc c 1) (ruVc c 2)) s) c.uid .ok 0 0 0 0

/-- ROUTE_UPDATE TARGET 2 (R181). -/
def execRouteUpdateShares (q : Nat) (s : State) : Out :=
  .next (startAs s q (ruExpert 2) fun c s => checked c (ruShareChecks s c) (ruShares c) s)

end Sys2Proof.Machine
end

