-- ==== Sys2Proof/Machine/QueueCmds.lean ====
section
/-! DEFINITION. ECHO and the queue commands (R280–R283, R288, R290, R291, R305). -/

namespace Sys2Proof.Machine

/-! ## ECHO (R288) -/

def pword (c : Cmd) (i : Nat) : Nat := fld c.pkt (64 + 32 * i + 31) (64 + 32 * i)

/-- ECHO (R288). -/
def execEcho (q : Nat) (s : State) : Out :=
  .next (startAs s q (isFn 0x0001 false) fun c s => finish s c.uid .ok (pword c 0) (pword c 1) (pword c 2) (pword c 3))

/-- ECHO expert form (R288): with panel time. -/
def execEchoExpert (q : Nat) (s : State) : Out :=
  .next (startAs s q (isFn 0x0001 true) fun c s =>
    finish s c.uid .ok (pword c 0) (pword c 1) (lowWord s.time) (highWord s.time))

/-! ## CRC configurations (R303–R305) -/

/-- A preset, or a custom block in host memory; none is invalid. -/
def crcFrom (s : State) (preset block : Nat) : Option CrcCfg :=
  if preset = 0xFF then (if block % 32 = 0 then crcBlock (leNat (ldRead s block 32)) else none)
  else if block = 0 then crcPreset preset else none

/-! ## QUEUE_CREATE (R280) -/

def qcSqLog (c : Cmd) : Nat := fld c.pkt 500 496
def qcCqLog (c : Cmd) : Nat := fld c.pkt 505 501
def qcSqBase (c : Cmd) : Nat := fld c.pkt 127 64
def qcCqBase (c : Cmd) : Nat := fld c.pkt 191 128
def qcExt (c : Cmd) : Bool := fld c.pkt 508 508 = 1
def qcPin (c : Cmd) : Bool := fld c.pkt 507 507 = 1
def qcClass (c : Cmd) : Bool := fld c.pkt 506 506 = 1
def qcQueue (c : Cmd) : Nat := fld c.pkt 495 480
def qcCrc (c : Cmd) : Nat := fld c.pkt 319 256

/-- The MSI fields of Table 10-13. -/
def qcMsi (c : Cmd) : Msi :=
  { en := fld c.pkt 243 243 = 1, slevel := fld c.pkt 242 242 = 1, hart := fld c.pkt 241 237, iid := fld c.pkt 225 215 }

def msiOk (m : Msi) : Bool := if m.en then decide (1 ≤ m.iid) else m.iid == 0

/-- Two ranges (base, bytes) have no byte in common. -/
def apart (a n b m : Nat) : Bool := decide (a + n ≤ b ∨ b + m ≤ a)

/-- The rings: sizes, alignment, in the carve-out, not overlapping. -/
def ringsOk (s : State) (c : Cmd) : Bool :=
  let n := 64 * 2 ^ qcSqLog c
  let m := (if qcExt c then 64 else 32) * 2 ^ qcCqLog c
  decide (1 ≤ qcSqLog c ∧ qcSqLog c ≤ 16 ∧ 1 ≤ qcCqLog c ∧ qcCqLog c ≤ 16) && qcSqBase c % 4096 == 0 &&
    qcCqBase c % 4096 == 0 && inCarve s c.host (qcSqBase c) n && inCarve s c.host (qcCqBase c) m &&
    apart (qcSqBase c) n (qcCqBase c) m

/-- CRCCFG (Table 12-3): the context's configuration; none is invalid. -/
def crcCfgOf (s : State) (h w : Nat) : Option (Option CrcCfg) :=
  if bit w 63 then (if w = 2 ^ 63 then some none else none)
  else if bits w 62 56 ≠ 0 ∨ (bits w 7 0 = 0xFF ∧ !inCarve s h (bits w 55 8) 32) then none
  else (crcFrom s (bits w 7 0) (bits w 55 8)).map some

/-- Numbers of a host die's own ranges. -/
def rangeNumbers (s : State) (h : Nat) : List Nat :=
  (queueRanges s h).flatMap fun r => (List.range (r.2.1 + 1 - r.1)).map (r.1 + ·)

def isFree (s : State) (q : Nat) : Bool := (queueAt s q).state == .free

/-- The lowest FREE number of the host die's ranges. -/
def lowestFree (s : State) (h : Nat) : Option Nat :=
  (rangeNumbers s h).foldl (fun (b : Option Nat) q => if isFree s q then
    match b with
    | some x => some (min x q)
    | none => some q
    else b) none

def pinnedCount (s : State) : Nat := (s.queues.filter fun e => e.2.pinned).length

/-- Fields that only the expert form sets. -/
def qcExpertFields (c : Cmd) : Bool := fld c.pkt 508 506 != 0 || qcQueue c != 0 || qcCrc c != 0

/-- Refusals, in the order of R280. -/
def createChecks (s : State) (c : Cmd) : List (Bool × Status) :=
  [((!c.expert && qcExpertFields c) || (qcClass c && !qcPin c) || !msiOk (qcMsi c) || !ringsOk s c ||
      (crcCfgOf s c.host (qcCrc c)).isNone, .badParam),
   (c.expert && (!isFree s (qcQueue c) || !inRanges s c.host (qcQueue c)), .badParam),
   ((lowestFree s c.host).isNone, .noResource),
   (qcPin c && decide (1024 ≤ pinnedCount s), .noResource)]

/-- A pinned context is loaded resident at once; with the pool and the spill-write buffer full it waits as a doorbell does
(R270). -/
def makeResident (s : State) (u q : Nat) : State :=
  let load (s : State) : State :=
    let home := slotFor s u
    modQueue s q fun x => { x with unit := some home }
  if slotsTaken s < 16384 then load s
  else if 16 ≤ (unitAt s u).spilling.length then waitLoad s u q
  else match spillVictim s with
    | some v => load (spill s u v)
    | none => waitLoad s u q

/-- The queue is defined, DISABLED and empty. -/
def createQueue (c : Cmd) (s : State) : State :=
  let n := if c.expert then qcQueue c else (lowestFree s c.host).getD 0
  let q : Queue :=
    { Queue.init with
      state := .disabled, owner := c.host, control := qcClass c, pinned := qcPin c, ext := qcExt c,
      sqBase := qcSqBase c, sqLog := qcSqLog c, cqBase := qcCqBase c, cqLog := qcCqLog c, msi := qcMsi c,
      crc := ((crcCfgOf s c.host (qcCrc c)).getD none).map CrcCtx.new }
  let s := setQueue s n q
  let s := if qcPin c then makeResident s c.host n else s
  finish s c.uid .ok n 0 0 0

/-- QUEUE_CREATE (R280), in either form. -/
def execQueueCreate (q : Nat) (s : State) : Out :=
  .next (startAs s q (isFnAny 0x0010) fun c s => checked c (createChecks s c) (createQueue c) s)

/-! ## QUEUE_ENABLE, QUEUE_DISABLE, QUEUE_DESTROY (R281–R283) -/

def qTarget (c : Cmd) : Nat := fld c.pkt 79 64

/-- The backup adopts the HELD admin queue of a lost host die (R281). -/
def adoptsAdmin (s : State) (c : Cmd) : Bool :=
  let q := queueAt s (qTarget c)
  q.state == .held && q.owner != c.host && standsFor s c.host q.owner

/-- Refusals that the three commands share (R281). -/
def targetChecks (s : State) (c : Cmd) (adopt : Bool) : List (Bool × Status) :=
  let t := qTarget c
  [(isFree s t || t == c.queue, .badParam),
   (((queueAt s t).admin && !(adopt && adoptsAdmin s c)) || !ownsQueue s c.host t, .notPermitted)]

/-- Outcome by state (R282). -/
def enableQueue (c : Cmd) (s : State) : State :=
  let t := qTarget c
  let m := qcMsi c
  let zero : Bool := fld c.pkt 243 237 == 0 && fld c.pkt 225 215 == 0
  match (queueAt s t).state with
  | .disabled =>
    if zero then finish (ringQueue (modQueue s t fun q => { q with state := .enabled }) c.host t) c.uid .ok 0 0 0 0
    else refuse s c.uid .badParam
  | .held =>
    if adoptsAdmin s c ∧ msiOk m then
      let s := modQueue s t fun q => { q with state := .enabled, owner := c.host, msi := m }
      finish (ringQueue s c.host t) c.uid .ok 0 0 0 0
    else refuse s c.uid .badParam
  | _ => refuse s c.uid .badParam

/-- QUEUE_ENABLE (R281, R282). -/
def execQueueEnable (q : Nat) (s : State) : Out :=
  .next (startAs s q (isFn 0x0012 false) fun c s => checked c (targetChecks s c true) (enableQueue c) s)

/-- A disable or destroy of queue t waits. -/
def disabling (s : State) (t : Nat) : Bool := s.cmds.any fun c => match c.wait with
  | .queue u _ _ _ => u == t
  | _ => false

/-- From here on nothing is fetched; the command waits for what was admitted (R290). -/
def beginDisable (s : State) (c : Cmd) (destroy expert : Bool) : State :=
  let t := qTarget c
  let fresh : Bool := !disabling s t
  let s := modQueue s t fun q =>
    { q with state := if q.state = .held then .held else .disabling, doneInWait := if fresh then 0 else q.doneInWait }
  modCmd s c.uid fun c => { c with wait := .queue t destroy expert 0 }

/-- The basic form; a second one of a queue that is disabling is refused (R291). -/
def disableQueue (destroy : Bool) (c : Cmd) (s : State) : State :=
  checked c [(disabling s (qTarget c), .badParam)]
    (fun s => let s := beginDisable s c destroy false; settle s (s.cmds.length + 1)) s

/-- A RUN is told to stop on each of its cores that has not reported (R75, R292). -/
def abortRun (s : State) (r : RunRec) : State :=
  { s with ctrl := s.ctrl ++ r.cores.map fun e => CtrlMsg.abort e.2 r.cmd }

/-- Every admitted item that has not passed its commit point ends as if aborted (R290, R292). -/
def abortItem (s : State) (c : Cmd) : State :=
  if uncommitted c then stopCmd s c .aborted
  else match s.runs.find? fun r => r.cmd == c.uid with
    | some r => abortRun s r
    | none => s

/-- The expert form; a wait in progress becomes an abort of what remains (R291). -/
def disableExpert (destroy : Bool) (c : Cmd) (s : State) : State :=
  let s := beginDisable s c destroy true
  let s := each (queueCmds s (qTarget c)) (fun x s => abortItem s x) s
  settle s (s.cmds.length + 1)

/-- QUEUE_DISABLE (R283). -/
def execQueueDisable (q : Nat) (s : State) : Out :=
  .next (startAs s q (isFn 0x0013 false) fun c s => checked c (targetChecks s c false) (disableQueue false c) s)

/-- QUEUE_DISABLE expert form (R283). -/
def execQueueDisableExpert (q : Nat) (s : State) : Out :=
  .next (startAs s q (isFn 0x0013 true) fun c s => checked c (targetChecks s c false) (disableExpert false c) s)

/-- QUEUE_DESTROY (R283). -/
def execQueueDestroy (q : Nat) (s : State) : Out :=
  .next (startAs s q (isFn 0x0011 false) fun c s => checked c (targetChecks s c false) (disableQueue true c) s)

/-- QUEUE_DESTROY expert form (R283). -/
def execQueueDestroyExpert (q : Nat) (s : State) : Out :=
  .next (startAs s q (isFn 0x0011 true) fun c s => checked c (targetChecks s c false) (disableExpert true c) s)

end Sys2Proof.Machine
end

