-- ==== Sys2Proof/Machine/RunCmds.lean ====
section
/-! DEFINITION. PROGRAM_LOAD, RUN, ABORT and STEP_MARK (R55, R192–R195, R284–R287, R292, R293). -/

namespace Sys2Proof.Machine

/-! ## PROGRAM_LOAD (R55, R192–R195, R284) -/

def plSegs (c : Cmd) : Nat := fld c.pkt 326 320
def plMap (c : Cmd) : Nat := fld c.pkt 319 256
def plList (c : Cmd) : Nat := fld c.pkt 255 192
def plRelease (c : Cmd) : Nat := fld c.pkt 191 160
def plRow (c : Cmd) : Nat := fld c.pkt 145 128
def plCount (c : Cmd) : Nat := fld c.pkt 112 96
def plStreamed (c : Cmd) : Bool := fld c.pkt 68 68 = 1
def plSlot (c : Cmd) : Nat := fld c.pkt 67 64

/-- One segment's fields are in range (Table 07-2, R194). -/
def segOk (g : RSeg) : Bool :=
  decide (1 ≤ g.width ∧ g.width ≤ 64 ∧ 1 ≤ g.count ∧ g.count ≤ 3072 ∧
    g.first + g.count * (g.pcount + 1) ≤ 0xFFFFFFFF ∧ g.x0 + g.width ≤ 64 ∧
    g.y0 + ceilDiv g.count g.width ≤ 48 ∧ g.panel + g.pcount ≤ 131071)

/-- Each segment begins where the last one ends (R194). -/
def segsChain (first : Nat) : List RSeg → Bool
  | [] => true
  | g :: t => g.first == first && segsChain (first + g.count * (g.pcount + 1)) t

/-- A map that R194 does not refuse with BAD_PARAM. -/
def rmapOk (s : State) (ws : List Nat) : Bool :=
  let segs := ws.map segOf
  let ls := (rmapCores s.straps.panelId segs).map (·.2)
  ws.all (fun w => bits w 30 0 == 0) && segs.all segOk && segsChain 0 segs && decide ls.Nodup &&
    (match ls with
     | l :: _ => (partOfL s l).isSome && ls.all fun m => partOfL s m == partOfL s l
     | [] => false)

/-- The partition that a map names. -/
def rmapPart (s : State) (ws : List Nat) : Nat :=
  match rmapCores s.straps.panelId (ws.map segOf) with
  | e :: _ => (partOfL s e.2).getD 0
  | [] => 0

/-- The core runs, or is about to run, the slot (R55 step 1). -/
def slotInFlight (s : State) (p slot : Nat) : Bool :=
  s.runs.any fun r => r.slot == slot && r.cores.any fun e => e.2 == p && !(r.reports.any fun x => x.rank == e.1)

/-- The descriptors of a list's bytes. -/
def descsOf (bs : List Byte) (n : Nat) : List Desc :=
  (List.range n).map fun i => BitVec.ofNat 512 (leNat ((bs.drop (64 * i)).take 64))

/-- The first refused descriptor (R55 step 3). -/
def firstRefused (s : State) (n : Nat) (ds : List Desc) : Option (Nat × Status) :=
  ds.zipIdx.findSome? fun (d, i) => (loadCheck s.order1T i n d).map fun st => (i, st)

/-- The load on one core: the list is copied or the buffer filled, and the slot recorded; the step number becomes 0 (R55,
R285). A buffer that a RUN of another slot uses is left to it. -/
def loadCore (s : State) (c : Cmd) (bs : List Byte) (p : Nat) : State :=
  let sl : Slot := { streamed := plStreamed c, arow := plRow c, list := plList c, count := plCount c,
                     cls := fld c.pkt 69 69 = 1 }
  modCore s p fun x =>
    let x := if x.bufSlot = some (plSlot c) then { x with bufSlot := none, fetchBuf := [] } else x
    let x := { x with step := 0 }
    if plCount c = 0 then { x with slots := tblDel x.slots (plSlot c) }
    else
      let x := { x with slots := tblPut x.slots (plSlot c) sl }
      if plStreamed c then
        if x.run.isSome then x else { x with fetchBuf := fetchRange s x sl 0 64, bufSlot := some (plSlot c) }
      else spdWrite x .A (16 * plRow c) 0 bs

/-- The load takes effect on every core of the rank set, and the queue's context takes in its bytes (R195, R306). -/
def loadProgram (c : Cmd) (ws : List Nat) (mb lb : List Byte) (s : State) : State :=
  let n := rmapPart s ws
  let cores := (rmapCores s.straps.panelId (ws.map segOf)).filterMap fun e => physOf s e.2
  let s := each cores (fun p s => loadCore s c lb p) s
  let s := modPart s n fun q => { q with
    rmaps := if plCount c = 0 then tblDel q.rmaps (plSlot c) else tblPut q.rmaps (plSlot c) (ws.map segOf) }
  let s := modQueue s c.queue fun q => { q with crc := q.crc.map fun x => (x.take lb).take mb }
  finish s c.uid .ok 0xFFFFFFFF cores.length 0 0

/-- The whole list is validated before anything takes effect. -/
def validateLoad (c : Cmd) (ws : List Nat) (mb lb : List Byte) (s : State) : State :=
  match firstRefused s (plCount c) (descsOf lb (plCount c)) with
  | some (i, st) => finish s c.uid st i 0 0 0
  | none => loadProgram c ws mb lb s

/-- What the list's and the cores' state refuses, once the map names a partition (R55, R194, R274, R284). -/
def loadChecks (s : State) (c : Cmd) (ws : List Nat) : List (Bool × Status) :=
  let n := rmapPart s ws
  let ls := (rmapCores s.straps.panelId (ws.map segOf)).map (·.2)
  let part := partAt s n
  [(!serves s c.host n || part.state == .withdrawn, .notPermitted), (part.state.underReset, .partitionReset),
   (decide (65536 < plCount c) || (!plStreamed c && decide (196608 < plRow c + plCount c)) || plList c % 64 != 0 ||
      !inRegion s n (plList c) (64 * plCount c), .badParam),
   (decide (s.microcode < plRelease c), .notPermitted),
   (ls.any fun l => (physOf s l).isNone, .dieLost),
   (ls.any fun l => match physOf s l with
     | some p => slotInFlight s p (plSlot c)
     | none => false, .notPermitted)]

/-- The map is read and checked, then the list. -/
def readProgram (c : Cmd) (mb : List Byte) (s : State) : State :=
  let ws := entries16 mb (plSegs c)
  if rmapOk s ws then
    checked c (loadChecks s c ws) (fun s => copyIn s c (plList c) (64 * plCount c) (validateLoad c ws mb)) s
  else refuse s c.uid .badParam

/-- Refusals of PROGRAM_LOAD that its packet alone shows. -/
def plChecks (s : State) (c : Cmd) : List (Bool × Status) :=
  [(plSegs c == 0 || decide (64 < plSegs c) || plMap c % 16 != 0 || !inCarve s c.host (plMap c) (16 * plSegs c), .badParam)]

/-- PROGRAM_LOAD (R55, R194, R284). -/
def programLoad (c : Cmd) (s : State) : State :=
  checked c (plChecks s c) (fun s => copyIn s c (plMap c) (16 * plSegs c) (readProgram c)) s

/-- The oldest command of a queue that is under way in a form. -/
def underWay (s : State) (q : Nat) (mine : Cmd → Bool) (wait : CmdWait → Bool) : Option Cmd :=
  (queueCmds s q).find? fun c => c.started && mine c && wait c.wait

def CmdWait.isLoad : CmdWait → Bool
  | .load => true
  | _ => false

/-- The contents go out to the rank set's cores as CFG messages (R183; log 87, DESIGN CHOICE: one for each core). -/
def sendProgram (s : State) (c : Cmd) : State :=
  { s with ctrl := s.ctrl ++ ((mapCores s c.pkt).filterMap (physOf s)).map fun p => CtrlMsg.program p c.uid }

/-- Contents of a load are still on their way. -/
def programOut (s : State) (uid : Nat) : Bool :=
  s.ctrl.any fun m => match m with
    | .program _ u => u == uid
    | _ => false

/-- PROGRAM_LOAD (R284): the queue's next command starts and, with `commit`, is validated on every core and takes effect; without
it the load sends its contents and stays short of its commit point (R292), and a later one commits it once all have arrived. -/
def execProgramLoad (q : Nat) (commit : Bool) (s : State) : Out :=
  .next (
    match commit, underWay s q (isFn 0x0100 false) CmdWait.isLoad with
    | true, some c => if programOut s c.uid then s else programLoad c s
    | true, none => startAs s q (isFn 0x0100 false) programLoad
    | false, _ => startAs s q (isFn 0x0100 false) fun c s =>
        checked c (plChecks s c) (fun s => modCmd (sendProgram s c) c.uid fun c => { c with wait := .load }) s)

/-! ## RUN (R72, R285) -/

def ruPart (c : Cmd) : Nat := fld c.pkt 71 68
def ruSlot (c : Cmd) : Nat := fld c.pkt 67 64
def ruLogRow (c : Cmd) : Nat := fld c.pkt 241 224
def ruLogN (c : Cmd) : Nat := fld c.pkt 208 192
def ruWait (c : Cmd) : Nat := fld c.pkt 311 288

/-- The log passes the end of A, or meets a RESIDENT list of a core (R78). -/
def logBad (s : State) (c : Cmd) (cores : List Nat) : Bool :=
  let rows := ceilDiv (ruLogN c) 4
  let r : Region := ⟨.A, 16 * ruLogRow c, 16 * (ruLogRow c + rows) - 1⟩
  ruLogN c != 0 && (decide (65536 < ruLogN c ∨ 196608 < ruLogRow c + rows) || cores.any fun p => overList (coreAt s p) r)

/-- Every core of the rank set that is in service holds the slot. -/
def slotLoaded (s : State) (n slot : Nat) : Bool :=
  let l := rankCores s n slot
  !(slotRanks s n slot).isEmpty && l.all fun e => (tblLook (coreAt s e.2).slots slot).isSome

/-- A RUN is on its way to the core, or runs on it. -/
def coreBusy (s : State) (p : Nat) : Bool :=
  (coreAt s p).seq != .idle ||
    s.runs.any fun r => r.cores.any fun e => e.2 == p && !(r.reports.any fun x => x.rank == e.1)

/-- The refusals of R285, in its order. -/
def runChecks (s : State) (c : Cmd) : List (Bool × Status) :=
  let n := ruPart c
  let cores := (rankCores s n (ruSlot c)).map (·.2)
  let cls : Bool := cores.any fun p => ((tblLook (coreAt s p).slots (ruSlot c)).map (·.cls)).getD false
  [((!c.expert && fld c.pkt 313 288 != 0) || !slotLoaded s n (ruSlot c) || logBad s c cores ||
      (c.expert && decide (ruWait c < 1 ∨ 10000000 < ruWait c)), .badParam),
   (cores.any (coreBusy s) || (cls && !(queueAt s c.queue).control), .notPermitted),
   ((partAt s n).state.underReset, .partitionReset),
   (!(partAt s n).auto && (slotRanks s n (ruSlot c)).any fun e => (physOf s e.2).isNone, .dieLost)]

/-- What reaches the core of a rank. -/
def runStartOf (s : State) (c : Cmd) (rank : Nat) : RunStart :=
  { cmd := c.uid, queue := c.queue, part := ruPart c, slot := ruSlot c, rank := rank, seed := fld c.pkt 191 128,
    step := if fld c.pkt 127 96 = 0xFFFFFFFF then none else some (fld c.pkt 127 96), logRow := ruLogRow c,
    logN := ruLogN c, logAll := fld c.pkt 312 312 = 1, waitUs := if c.expert then ruWait c else 10000,
    control := (queueAt s c.queue).control, fastOk := fld c.pkt 313 313 = 1 }

/-- A RUN start resets the sequences and phases of the groups of its slot, and what the reduction units hold for them (R221,
R222, R224). -/
def resetGroups (s : State) (n slot : Nat) : State :=
  each (s.groups.filter fun e => e.1 / 64 == n && e.2.slot == slot) (fun e s =>
    modGroup (dropCollectives s e.1) e.1 fun g =>
      { g with arrive := g.members.map fun _ => false, release := g.members.map fun _ => false, phase := false,
               seqs := g.members.map fun _ => 0 }) s

/-- The RUN is admitted: its start goes to every core of the rank set. -/
def startRun (c : Cmd) (s : State) : State :=
  let n := ruPart c
  let cores := rankCores s n (ruSlot c)
  let s := resetGroups s n (ruSlot c)
  let r : RunRec := { cmd := c.uid, part := n, slot := ruSlot c, cores := cores, reports := [],
                      nonrepro := (partAt s n).rebalance, outcome := none }
  modCmd { s with runs := s.runs ++ [r],
                  ctrl := s.ctrl ++ cores.map fun e => CtrlMsg.runStart e.2 (runStartOf s c e.1) }
    c.uid fun c => { c with wait := .run }

/-- A straggler swap of the partition is in progress: RUNs are held (R361). -/
def swapping (s : State) (n : Nat) : Bool :=
  s.cmds.any fun c => c.fn == 0x0103 && fld c.pkt 71 68 == n && (match c.wait with
    | .drain _ => true
    | _ => false)

/-- RUN (R285), in either form. -/
def execRun (q : Nat) (s : State) : Out :=
  .next (startAs s q (fun c => c.fn == 0x0101 && !swapping s (ruPart c)) fun c s =>
    checked c (runChecks s c) (startRun c) s)

/-! ## ABORT (R292, R293) -/

/-- An admitted command older than `uid` with the tag has ended, and its record is not written yet (R273). -/
def tagEnded (s : State) (c : Cmd) (uid : Nat) : Bool :=
  (queueAt s (fld c.pkt 79 64)).records.any fun r =>
    r.admitted && r.tag.toNat == fld c.pkt 127 96 && decide (r.uid < uid)

/-- The oldest admitted, uncompleted command of a queue with a tag; none where it is one that only waits for its record, past
its commit point. -/
def abortTarget (s : State) (c : Cmd) : Option Cmd :=
  ((queueCmds s (fld c.pkt 79 64)).find? fun x => x.tag.toNat == fld c.pkt 127 96).filter fun x => !tagEnded s c x.uid

/-- The abort meets its target before or after its commit point. The ABORT's record follows its target's (R293). -/
def abortCmd (c : Cmd) (s : State) : State :=
  match abortTarget s c with
  | none => refuse s c.uid .abortLate
  | some x =>
    if uncommitted x then
      stopCmd (modCmd (stopCmd s x .aborted) c.uid fun c => { c with wait := .abort x.uid }) c .ok
    else match s.runs.find? fun r => r.cmd == x.uid with
      | some r => modCmd (abortRun s r) c.uid fun c => { c with wait := .abort x.uid }
      | none => refuse s c.uid .abortLate

/-- Refusals of ABORT: the queue must be the host die's. -/
def abChecks (s : State) (c : Cmd) : List (Bool × Status) :=
  let t := fld c.pkt 79 64
  [(!isFree s t && !ownsQueue s c.host t, .notPermitted)]

/-- ABORT (R292). -/
def execAbort (q : Nat) (s : State) : Out :=
  .next (startAs s q (isFn 0x0102 false) fun c s =>
    checked c (abChecks s c) (abortCmd c) s)

/-! ## STEP_MARK (R77, R287) -/

/-- Refusals of STEP_MARK. -/
def smChecks (s : State) (c : Cmd) : List (Bool × Status) := [((slotRanks s (ruPart c) (ruSlot c)).isEmpty, .badParam)]

/-- The mark goes to every core of the rank set; the command waits for all of them. -/
def stepMark (set : Option Nat) (c : Cmd) (s : State) : State :=
  let n := ruPart c
  let cores := (rankCores s n (ruSlot c)).map (·.2)
  let wait : CmdWait := .step cores
  checked c (smChecks s c)
    (fun s =>
      let s := modCmd { s with ctrl := s.ctrl ++ cores.map fun p => CtrlMsg.stepMark p { cmd := c.uid, set := set } }
        c.uid fun c => { c with wait := wait }
      if cores.isEmpty then endStepMark s c else s) s

/-- STEP_MARK (R287). -/
def execStepMark (q : Nat) (s : State) : Out := .next (startAs s q (isFn 0x0103 false) fun c s => stepMark none c s)

/-- STEP_MARK expert form (R287): the step number is set. -/
def execStepMarkExpert (q : Nat) (s : State) : Out :=
  .next (startAs s q (isFn 0x0103 true) fun c s => stepMark (some (fld c.pkt 127 96)) c s)

end Sys2Proof.Machine
end

