-- ==== Sys2Proof/Machine/SpdEvents.lean ====
section
/-! DEFINITION. The scratchpads: errors and scrubbing (R135–R138), coalescing buffers (R140–R143), and the host aperture
(R151–R153). -/

namespace Sys2Proof.Machine

/-! ## Errors -/

/-- The core's scratchpads hold data: it is in service or under test. -/
def powered (s : State) (p : Nat) : Bool := pstateAt s p == .inService || pstateAt s p == .testing

/-- SPD_CORRECTED_WRITEBACK (R135): the corrected word is counted; written back, or superseded by another write, it holds the
same value. -/
def execSpdCorrectedWriteback (p : Nat) (kind : MemKind) (word : Nat) (_superseded : Bool) (s : State) : Out :=
  .next (
    if powered s p && decide (word < kind.words) && !(coreAt s p).failing.contains (kind, word) then
      modCore s p fun c => { c with ceCount := satInc 32 c.ceCount }
    else s)

/-- The task's unit still needs the word: it lies in the words its reads return, and for a message in a row whose data is still to
be sent (R114, R115, R136). -/
def needsWord (s : State) (p : Nat) (t : Task) (k : MemKind) (w : Nat) : Bool :=
  (taskReads s p t).any (fun a => a.reg.kind == k && decide (a.reg.first ≤ w ∧ w ≤ a.reg.last)) &&
    (!(t.opcode == 0x50 || t.opcode == 0x52) || unsentPast s p t (goodBytes (locAt t 0) (k, w)))

/-- What a task sends is cut before the row of a failing word, and peers that wait for its data are told (R114, R115, R232). -/
def failPeers (s : State) (p : Nat) (t : Task) (f : MemKind × Nat) : State :=
  let s := if t.opcode = 0x50 ∨ t.opcode = 0x52 then unsend s p t (goodBytes (locAt t 0) f) else s
  let s := match t.opcode, t.peer with
    | 0x50, some r => sendReply s p r 0x10 4 t.peerUrg (.nack (.task r.1 r.2) .eccUncorrectable)
    | _, _ => s
  let cut (x : BStream) : BStream :=
    if x.root = some (p, t.id) then
      let n := min x.count (max (x.taken.foldl (fun n e => max n e.2) 0) (goodBytes (locAt t 0) f / 64))
      { x with count := n, rows := x.rows.filter fun e => decide (e.1 < n), failed := true } else x
  stopSending { s with streams := s.streams.map cut } (p, t.id)

/-- A word's check bits fail from now on (R136). -/
def failWord (s : State) (p : Nat) (k : MemKind) (w : Nat) : State :=
  modCore s p fun c => { c with failing := if c.failing.contains (k, w) then c.failing else c.failing ++ [(k, w)] }

/-- An uncorrectable word of a row read (R136). One that a task needs is read again: it is clean, or the task ends. A host read
through the aperture (no task) is retried alike (R152). Any other word is counted and recorded without a retry. -/
def uncorrectable (s : State) (p : Nat) (who : Option Nat) (k : MemKind) (w : Nat) (clean : Bool) : State :=
  let transient (s : State) : State := modTransient s (coreUnit p) fun x => { x with ecc := satInc 32 x.ecc }
  match who with
  | none => if clean then transient s else strayUe (failWord s p k w) p (k, w)
  | some id =>
    match taskOf (coreAt s p) id with
    | some t =>
      if !needsWord s p t k w then strayUe (failWord s p k w) p (k, w)
      else if clean then transient (modTask s p id fun t => { t with attempts := 2 })
      else
        let s := failWord s p k w
        let s := each t.writes (fun g s => scramble s p g) s
        failPeers (dropReqs (eccTask s p t (k, w)) (.task p id)) p t (k, w)
    | none => strayUe (failWord s p k w) p (k, w)

/-- SPD_UNCORRECTABLE_READ (R136, R152). -/
def execSpdUncorrectableRead (p : Nat) (who : Option Nat) (kind : MemKind) (word : Nat) (clean : Bool) (s : State) : Out :=
  .next (if powered s p && decide (word < kind.words) then uncorrectable s p who kind word clean else s)

/-- Rows of a core's scratchpads, W then A then P. -/
def scrubRows : Nat := 131072 + 196608 + 65536

/-- The memory and row that the scrubber has reached. -/
def scrubPlace (n : Nat) : MemKind × Nat :=
  if n < 131072 then (.W, n) else if n < 327680 then (.A, n - 131072) else (.P, n - 327680)

/-- One read of the patrol scrubber (R138): the row's corrected word is counted, its failing words are counted and recorded. A pass
begins with its first read; the first read made more than 120 s after that one sets SCRUB_LATE. The spec gives the flag no
moment, and the model, which holds no timer, takes that read (log 67, DESIGN CHOICE). -/
def scrubRow (s : State) (p : Nat) (corrected : Bool) (failing : Option Nat) : State :=
  let c := coreAt s p
  let (k, row) := scrubPlace c.scrubRow
  let s := if corrected then modCore s p fun c => { c with ceCount := satInc 32 c.ceCount } else s
  let s := match failing with
    | some i =>
      let w := 16 * row + i % 16
      modCore s p fun c => { c with failing := if c.failing.contains (k, w) then c.failing else c.failing ++ [(k, w)] }
    | none => s
  let s := each ((coreAt s p).failing.filter fun f => f.1 == k && f.2 / 16 == row) (fun f s => strayUe s p f) s
  let next := (c.scrubRow + 1) % scrubRows
  let began := c.scrubStart.getD s.time
  modCore s p fun c =>
    { c with scrubRow := next, scrubStart := if next = 0 then none else some began,
             scrubLate := c.scrubLate || decide (began + 120000000000 < s.time) }

/-- PATROL_SCRUB_READ (R138): in phase RUN. -/
def execPatrolScrubRead (p : Nat) (corrected : Bool) (failing : Option Nat) (s : State) : Out :=
  .next (if s.service.ph == 2 && powered s p then scrubRow s p corrected failing else s)

/-! ## Coalescing buffers of the aperture (R140–R142) -/

/-- A row access of a write buffer: whole words at once, the bytes of a partly covered word under R141. -/
def flushWord (k : MemKind) (row : Nat) (cells : Tbl Byte) (c : Core) (i : Nat) : Core :=
  let mine := cells.filter fun e => e.1 / 4 == i
  if mine.length = 4 then spdWrite c k (16 * row + i) 0 (mine.map (·.2))
  else mine.foldl (fun c e => spdWrite c k (16 * row) e.1 [e.2]) c

/-- Bytes of word i of its row that a buffer holds. -/
def bufWordBytes (b : CoBuf) (i : Nat) : Nat := (b.bytes.filter fun e => e.1 / 4 == i).length

/-- Failing words that the row read of a read-modify-write finds (R136, R141): those the buffer does not replace whole. -/
def rmwFails (c : Core) (b : CoBuf) : List (MemKind × Nat) :=
  if (List.range 16).any fun i => decide (0 < bufWordBytes b i ∧ bufWordBytes b i < 4) then
    c.failing.filter fun f => f.1 == b.kind && f.2 / 16 == b.row && bufWordBytes b (f.2 % 16) != 4
  else []

/-- A buffer closes and presents its row access (R140). -/
def closeBuf (s : State) (p : Nat) (b : CoBuf) : State :=
  let s := modCore s p fun c => { c with bufs := c.bufs.filter (· != b) }
  if !b.write then s
  else
    let s := each (rmwFails (coreAt s p) b) (fun f s => strayUe s p f) s
    modCore s p fun c => (List.range 16).foldl (flushWord b.kind b.row b.bytes) c

/-- The open buffer of a direction and row. -/
def bufOf (c : Core) (write : Bool) (k : MemKind) (row : Nat) : Option CoBuf :=
  c.bufs.find? fun b => b.write == write && b.kind == k && b.row == row

/-- Close the buffer of a direction and row, if one is open (R142). -/
def closeRow (s : State) (p : Nat) (write : Bool) (k : MemKind) (row : Nat) : State :=
  match bufOf (coreAt s p) write k row with
  | some b => closeBuf s p b
  | none => s

/-- A word access joins its buffer, opening one where none is open; the ninth closes the oldest, and the sixteenth access closes
the buffer (R140). -/
def coalesceWord (s : State) (p : Nat) (write : Bool) (k : MemKind) (row : Nat) (cells : List Host.Cell) : State :=
  let c := coreAt s p
  let s := if (bufOf c write k row).isNone then
      let mine := c.bufs.filter fun b => b.write == write
      let s := if 8 ≤ mine.length then match mine.head? with
        | some b => closeBuf s p b
        | none => s else s
      modCore s p fun c =>
        { c with bufs := c.bufs ++ [{ accessor := .aperture, task := none, write := write, kind := k, row := row,
                                      bytes := [], accesses := 0 }] }
    else s
  let upd (b : CoBuf) : CoBuf :=
    if b.write = write ∧ b.kind = k ∧ b.row = row then
      { b with bytes := cells.foldl (fun t e => tblPut t e.1 e.2) b.bytes, accesses := b.accesses + 1 } else b
  let s := modCore s p fun c => { c with bufs := c.bufs.map upd }
  match bufOf (coreAt s p) write k row with
  | some b => if 16 ≤ b.accesses then closeBuf s p b else s
  | none => s

/-- An access of `size` bytes at a byte of a row: one word access after another (R140). -/
def coalesce (s : State) (p : Nat) (write : Bool) (k : MemKind) (row : Nat) (cells : List Host.Cell) (b size : Nat) : State :=
  each (List.range ((b + size - 1) / 4 + 1 - b / 4)) (fun i s =>
    coalesceWord s p write k row (cells.filter fun e => e.1 / 4 == b / 4 + i)) s

/-- COALESCING_BUFFER_CLOSE (R140): the oldest open buffer of a direction. -/
def execCoalescingBufferClose (p : Nat) (write : Bool) (s : State) : Out :=
  .next (match (coreAt s p).bufs.find? fun b => b.write == write with
    | some b => closeBuf s p b
    | none => s)

/-- ARBITRATION_STARVATION_PRIORITY (R143): one request of a bank has absolute priority until an access of its direction reaches the
bank. Streams 0 to 23 are the read streams of Table 05-2 and 24 to 40 its write streams, in the table's order; reads and writes
of a bank are arbitrated separately. -/
def execArbitrationStarvationPriority (p : Nat) (kind : MemKind) (bank stream : Nat) (s : State) : Out :=
  .next (
    if bank < banksOf kind ∧ stream < 41 ∧ powered s p then
      modCore s p fun c =>
        let write := decide (24 ≤ stream)
        { c with starved := c.starved.filter (fun e => !(e.1 == kind && e.2.1 == bank && e.2.2.1 == write)) ++
                   [(kind, bank, write, stream)] }
    else s)

/-! ## The host aperture (R151–R153) -/

/-- What an aperture offset names (Table 05-5). -/
inductive ApPlace where
  | mem (k : MemKind) (byte : Nat)
  | handles (byte : Nat)
  | regs (byte : Nat)
deriving DecidableEq, Repr

def apBase : Nat := 0x500000000000

/-- The place of `size` bytes at an offset of a window. -/
def apPlace (o size : Nat) : Option ApPlace :=
  if o + size ≤ 0x800000 then some (.mem .W o)
  else if o + size ≤ 0x1400000 then some (.mem .A (o - 0x800000))
  else if o + size ≤ 0x1800000 then some (.mem .P (o - 0x1400000))
  else if o + size ≤ 0x1801000 then some (.handles (o - 0x1800000))
  else if o + size ≤ 0x1801028 then some (.regs (o - 0x1801000))
  else none

/-- The core and place of an accepted access of host die h (R152); none is an unpopulated address. The cores of a HELD partition are
read (R348). -/
def apTarget (s : State) (h addr size : Nat) (write : Bool) : Option (Nat × ApPlace) :=
  let l := (addr - apBase) / 0x2000000
  if apBase ≤ addr ∧ l < 3072 ∧ aligned addr size ∧ !fencedPanel s then
    match partOfL s l, physOf s l with
    | some n, some p =>
      if serves s h n && ((partAt s n).state == .inService || (!write && (partAt s n).state == .held)) then
        (apPlace ((addr - apBase) % 0x2000000) size).map fun x => (p, x)
      else none
    | _, _ => none
  else none

/-- Issued, uncommitted descriptors that reference a handle (Table 05-4). -/
def inflightOf (c : Core) (name : Nat) : Nat := (c.window.filter fun t => t.names.contains name).length

/-- A handle-table entry as stored (Table 05-4). -/
def handleWord (c : Core) (e : Nat) : Nat :=
  match tblLook c.handles e with
  | some h =>
    2 ^ 127 + h.name * 2 ^ 117 + kindCode h.kind * 2 ^ 115 + h.fmt * 2 ^ 107 + flagAt h.scale.isSome 106 +
      h.scale.getD 0 * 2 ^ 96 + h.base * 2 ^ 64 + h.length * 2 ^ 32 + inflightOf c h.name
  | none => 0

def bbWord (b : BaseBound) : Nat := b.bound * 2 ^ 32 + b.base

/-- The SPD_ registers as 40 bytes (Table 05-6). -/
def spdRegs (c : Core) : List Byte :=
  leBytes 8 (bbWord c.bbW) ++ leBytes 8 (bbWord c.bbA) ++ leBytes 8 (bbWord c.bbP) ++
    leBytes 8 (c.ueCount * 2 ^ 32 + c.ceCount) ++ leBytes 4 c.races ++
    leBytes 4 (flagAt c.scrubLate 1 + flagAt c.apertureUe 0)

/-- Bytes of an aperture read; a failing word reads as 0xFFFF_FFFF (R152). -/
def apRead (c : Core) (k : MemKind) (byte size : Nat) : List Byte :=
  (List.range size).map fun i =>
    if c.failing.contains (k, (byte + i) / 4) then 0xFF else memByte (spd c k) (byte + i)

/-- Failing words of an aperture read. -/
def apFails (c : Core) (k : MemKind) (byte size : Nat) : List (MemKind × Nat) :=
  c.failing.filter fun f => f.1 == k && decide (byte / 4 ≤ f.2 ∧ f.2 ≤ (byte + size - 1) / 4)

/-- A read of scratchpad words through the aperture: the write buffer of its row closes first (R142). -/
def apReadMem (s : State) (p : Nat) (k : MemKind) (byte size : Nat) : State × BitVec 512 :=
  let row := byte / 64
  let s := closeRow s p true k row
  let c := coreAt s p
  let bad := apFails c k byte size
  let data := loadData (apRead c k byte size)
  let s := each bad (fun f s => strayUe s p f) s
  let s := each (besideReads c [⟨k, byte / 4, (byte + size - 1) / 4⟩]) (fun f s => strayUe s p f) s
  let s := modCore s p fun c => { c with apertureUe := c.apertureUe || !bad.isEmpty }
  (coalesce s p false k row [] (byte % 64) size, data)

/-- A write of scratchpad bytes through the aperture: the read buffer of its row closes first (R142). -/
def apWriteMem (s : State) (p : Nat) (k : MemKind) (byte : Nat) (bs : List Byte) : State :=
  let row := byte / 64
  let s := closeRow s p false k row
  coalesce s p true k row (bs.mapIdx fun i b => (byte % 64 + i, b)) (byte % 64) bs.length

/-- The W1C bits of SPD_FLAGS (Table 05-6). -/
def clearFlags (s : State) (p : Nat) (w : Nat) : State :=
  modCore s p fun c => { c with scrubLate := c.scrubLate && !bit w 1, apertureUe := c.apertureUe && !bit w 0 }

/-- A place of the aperture that a store changes: the others are read only (Tables 05-4 to 05-6). -/
def apWritable : ApPlace → Bool
  | .mem _ _ => true
  | .handles _ => false
  | .regs b => decide (36 ≤ b)

/-- What a core does with an access of its window, and what it answers: the data of a read. -/
def apAct (s : State) (p : Nat) (place : ApPlace) (size : Nat) : Option (BitVec 512) → State × Option (BitVec 512)
  | none => match place with
    | .mem k b => let r := apReadMem s p k b size; (r.1, some r.2)
    | .handles b =>
      let c := coreAt s p
      let all := (List.range (ceilDiv (b % 16 + size) 16)).flatMap fun i => leBytes 16 (handleWord c (b / 16 + i))
      (s, some (loadData ((all.drop (b % 16)).take size)))
    | .regs b => (s, some (loadData (((spdRegs (coreAt s p)).drop b).take size)))
  | some data => match place with
    | .mem k b => (apWriteMem s p k b (storeBytes data size), none)
    | .regs b => (clearFlags s p (leNat (storeBytes data size) * 2 ^ (8 * (b - 36))), none)
    | .handles _ => (s, none)

/-- The bridge of host die h sends an access to a core as APT_REQ on VC3 (R152, Table 06-7); it carries the partition of the core
(R333). -/
def askAperture (s : State) (h hart p addr size : Nat) (data : Option (BitVec 512)) : State :=
  let who : Asker := .aperture h hart s.nextId data.isSome
  ask s who (corePart s p) 3 0x0E 5 (hostTile h * 512) 0 (pcoreCode p) (if data.isSome then 8 + size else 8) (s.nextId % 4096)
    (.aptReq who ((addr - apBase) % 0x2000000) size data)

/-- APERTURE_READ (R152). -/
def execApertureRead (h hart addr size : Nat) (s : State) : Out :=
  .next (if !hostOn s h then s else match apTarget s h addr size false with
    | some (p, _) => askAperture s h hart p addr size none
    | none => hostLoad s h hart none)

/-- APERTURE_WRITE (R152). -/
def execApertureWrite (h hart addr size : Nat) (data : BitVec 512) (s : State) : Out :=
  .next (if !hostOn s h then s else match apTarget s h addr size true with
    | some (p, place) => if apWritable place then askAperture s h hart p addr size (some data) else unpopStore s h hart addr
    | none => unpopStore s h hart addr)

end Sys2Proof.Machine
end

