-- ==== Sys2Proof/Machine/MemCmds.lean ====
section
/-! DEFINITION. MEM_COPY and MEM_FILL (R289, R306): where the bytes may lie, and their movement block by block. -/

namespace Sys2Proof.Machine

def meBytes (c : Cmd) : Nat := fld c.pkt 255 192
def meDst (c : Cmd) : Nat := fld c.pkt 191 128
def meSrc (c : Cmd) : Nat := fld c.pkt 127 64

/-- What an address is: LPDDR5X, the aperture, another mapped range, or nothing. -/
inductive AddrClass where
  | ld | aperture | io | none
deriving DecidableEq, Repr

def classOf (s : State) (a : Nat) : AddrClass :=
  if (regionOf s a).isSome then .ld
  else if decide (apBase ≤ a ∧ a < 0x501800000000) then (if (a - apBase) % 0x2000000 < 0x1801028 then .aperture else .none)
  else if addrMapped s a then .io
  else .none

def apWindow (a : Nat) : Nat := (a - apBase) / 0x2000000
def apOffset (a : Nat) : Nat := (a - apBase) % 0x2000000

/-- A range without an unpopulated or misaligned address, and in one aperture window (R289). -/
def rangeOk (s : State) (a n : Nat) : Bool :=
  let x := classOf s a
  a % 4 == 0 && x != .none && classOf s (a + n - 1) == x && (x != .aperture || apWindow a == apWindow (a + n - 1))

/-- The spans (first, end) cover a range. -/
def covered (spans : List (Nat × Nat)) (a e : Nat) : Nat → Bool
  | 0 => decide (e ≤ a)
  | k + 1 =>
    decide (e ≤ a) || (match spans.find? fun x => decide (x.1 ≤ a ∧ a < x.2) with
      | some x => covered spans x.2 e k
      | none => false)

/-- Carve-outs and regions that a host die's commands may touch (R289). -/
def grantedSpans (s : State) (h : Nat) : List (Nat × Nat) :=
  ((List.range 4).filter fun h' => standsFor s h h' && carveValid s h').map (fun h' => (carveBase s h', carveEnd s h')) ++
  ((List.range 16).filter fun n => serves s h n).map fun n => (regionBase s n, regionBase s n + regionSize s n)

/-- The partition of an aperture window. -/
def apPart (s : State) (a : Nat) : Option Nat := partOfL s (apWindow a)

/-- The refusals that a range in the aperture meets at admission (R274 steps 3 and 5). -/
def apRefusals (s : State) (c : Cmd) (a : Nat) : List (Bool × Status) :=
  if classOf s a = .aperture then
    match apPart s a with
    | some n => [(!serves s c.host n || (partAt s n).state == .withdrawn, .notPermitted),
                 ((partAt s n).state.underReset, .partitionReset)]
    | none => [(true, .notPermitted)]
  else []

/-- Every byte lies where R289 lets it, and an aperture core is IDLE. -/
def permitted (s : State) (c : Cmd) (a n : Nat) : Bool :=
  match classOf s a with
  | .ld => covered (grantedSpans s c.host) a (a + n) 21
  | .aperture => decide (apOffset a + n ≤ 0x1800000) && (match physOf s (apWindow a) with
    | some p => !coreBusy s p
    | none => true)
  | _ => false

/-- A byte on a dark tile, or a logical core that nothing holds (R196, R344). -/
def lostRange (s : State) (a n : Nat) : Bool :=
  match classOf s a with
  | .ld => onDark s a n
  | _ => (physOf s (apWindow a)).isNone

/-- The refusals of R289. -/
def memChecks (s : State) (c : Cmd) (copy : Bool) : List (Bool × Status) :=
  let n := meBytes c
  let d := meDst c
  let o := meSrc c
  apRefusals s c d ++ (if copy then apRefusals s c o else []) ++
  [(n % 4 != 0 || decide (n < 4 ∨ 2 ^ 40 < n) || !rangeOk s d n || (copy && (!rangeOk s o n || !apart d n o n)), .badParam),
   (!permitted s c d n || (copy && !permitted s c o n), .notPermitted),
   (lostRange s d n || (copy && lostRange s o n), .dieLost)]

/-- A range of a window by memory: (memory, first byte, bytes). -/
def apPieces (o n : Nat) : List (MemKind × Nat × Nat) :=
  [(MemKind.W, 0, 0x800000), (.A, 0x800000, 0x1400000), (.P, 0x1400000, 0x1800000)].filterMap fun (k, lo, hi) =>
    let a := max o lo
    let e := min (o + n) hi
    if a < e then some (k, a - lo, e - a) else none

/-- A place that fails: a block of LPDDR5X, or a word of a scratchpad. -/
inductive BadPlace where
  | block (b : Nat)
  | word (p : Nat) (kind : MemKind) (w : Nat)
deriving DecidableEq, Repr

/-- An error on the way: its offset in the range, and its place. -/
structure MemError where
  off : Nat
  place : BadPlace
deriving DecidableEq, Repr

/-- First byte of a scratchpad memory in a core's window (R138). -/
def kindBase : MemKind → Nat
  | .W => 0
  | .A => 0x800000
  | .P => 0x1400000

/-- The first failing byte of a source range (R136, R247). -/
def sourceError (s : State) (a n : Nat) : Option MemError :=
  if classOf s a = .ld then (firstBad s a n).map fun b => ⟨b - a, .block b⟩
  else
    match physOf s (apWindow a) with
    | none => none
    | some p =>
      let o := apOffset a
      let at_ (f : MemKind × Nat) : Nat := kindBase f.1 + 4 * f.2
      let hits := (coreAt s p).failing.filter fun f => decide (o ≤ at_ f ∧ at_ f < o + n)
      let first := hits.foldl (fun (b : Option (MemKind × Nat)) f => match b with
        | some x => if at_ f < at_ x then some f else b
        | none => some f) none
      first.map fun f => ⟨at_ f - o, .word p f.1 f.2⟩

/-- The first block of the destination that cannot be merged. -/
def destError (s : State) (a n : Nat) : Option MemError :=
  if classOf s a = .ld then (firstUnmerged s a n).map fun b => ⟨b - a, .block b⟩ else none

/-- The record of the error, and what the error does to the place. -/
def memErrorAct (s : State) (c : Cmd) : BadPlace → State
  | .block b => ldUe s (cmdRec s c b) b
  | .word p k w =>
    addSpdUe s p { coreFault s p 0x02 .core with queue := some c.queue, status := some .eccUncorrectable } k w

/-- The aperture's posted writes to the core close first (R142). -/
def closeBufs (s : State) (a : Nat) : State :=
  if classOf s a = .aperture then
    match physOf s (apWindow a) with
    | some p => each (coreAt s p).bufs (fun b s => closeBuf s p b) s
    | none => s
  else s

/-- Bytes of a range, and what reading them does. -/
def takeBytes (s : State) (a n : Nat) (alloc : Bool) : List Byte × State :=
  if classOf s a = .ld then (ldRead s a n, ldTouch s a n alloc)
  else
    match physOf s (apWindow a) with
    | some p =>
      let c := coreAt s p
      let ps := apPieces (apOffset a) n
      let rs := ps.map fun (k, b, m) => (⟨k, b / 4, (b + m - 1) / 4⟩ : Region)
      (ps.flatMap fun (k, b, m) => apRead c k b m, each (besideReads c rs) (fun f s => strayUe s p f) s)
    | none => ([], s)

/-- Write bytes from offset o of a core's window on. -/
def apPut (o : Nat) (bs : List Byte) (c : Core) : Core :=
  (apPieces o bs.length).foldl (fun c (k, b, m) =>
    spdWrite c k (b / 4) 0 ((bs.drop (kindBase k + b - o)).take m)) c

/-- Write bytes to a range, in ascending order. -/
def putBytes (s : State) (a : Nat) (bs : List Byte) (alloc : Bool) : State :=
  if classOf s a = .ld then ldWrite s a bs alloc
  else
    match physOf s (apWindow a) with
    | some p => modCore s p (apPut (apOffset a) bs)
    | none => s

/-- The first error of a copy or fill from its byte `done` on: an offset from there. -/
def memError (s : State) (copy : Bool) (c : Cmd) (done : Nat) : Option MemError :=
  let n := meBytes c - done
  let e1 := if copy then sourceError s (meSrc c + done) n else none
  match e1, destError s (meDst c + done) n with
  | some x, some y => if x.off ≤ y.off then some x else some y
  | some x, none => some x
  | none, y => y

/-- Bytes `done` to `done + m` of a fill: the pattern repeated. -/
def fillBytes (c : Cmd) (done m : Nat) : List Byte :=
  (List.range m).map fun i => BitVec.ofNat 8 (meSrc c / 2 ^ (8 * ((done + i) % 8)))

/-- Write bytes of a copy or fill; the queue's context takes in what was written (R306). -/
def putMoved (s : State) (c : Cmd) (done : Nat) (bs : List Byte) (alloc : Bool) : State :=
  modQueue (putBytes s (meDst c + done) bs alloc) c.queue fun q => { q with crc := q.crc.map fun x => x.take bs }

/-- The m bytes from `done` on move. -/
def movePart (copy alloc : Bool) (c : Cmd) (done m : Nat) (s : State) : State :=
  if copy then
    let r := takeBytes s (meSrc c + done) m alloc
    putMoved r.2 c done r.1 alloc
  else putMoved s c done (fillBytes c done m) alloc

/-- Where the movement stands after `blocks` more destination blocks of 64 bytes, written together (R289); at its end with none. -/
def moveEnd (c : Cmd) (done : Nat) (blocks : Option Nat) : Nat :=
  match blocks with
  | some k => max done (min (meBytes c) (((meDst c + done) / 64 + k) * 64 - meDst c))
  | none => meBytes c

/-- The bytes from `done` on move, as far as `blocks` lets them and the first error. A core that its logical number has lost stops
them (R196). -/
def moveBytes (copy alloc : Bool) (blocks : Option Nat) (done : Nat) (c : Cmd) (s : State) : State :=
  let d := meDst c + done
  let s := closeBufs (if copy then closeBufs s (meSrc c + done) else s) d
  let stop := moveEnd c done blocks
  if lostRange s d (meBytes c - done) || (copy && lostRange s (meSrc c + done) (meBytes c - done)) then
    finish s c.uid .dieLost (lowWord done) (highWord done) 0 0
  else match (memError s copy c done).filter fun e => decide (done + e.off < stop ∨ stop = meBytes c) with
  | some e =>
    finish (memErrorAct (movePart copy alloc c done e.off s) c e.place) c.uid .eccUncorrectable (lowWord (done + e.off))
      (highWord (done + e.off)) 0 0
  | none =>
    let s := movePart copy alloc c done (stop - done) s
    if stop = meBytes c then finish s c.uid .ok (lowWord stop) (highWord stop) 0 0
    else modCmd s c.uid fun c => { c with wait := .move stop }

/-- One of the four commands starts. -/
def memCmd (copy alloc : Bool) (blocks : Option Nat) (c : Cmd) (s : State) : State :=
  checked c (memChecks s c copy) (moveBytes copy alloc blocks 0 c) s

/-- The i-th movement of a form that is under way on a queue, and how far it is. -/
def moving (s : State) (q i : Nat) (mine : Cmd → Bool) : Option (Cmd × Nat) :=
  ((queueCmds s q).filterMap fun c => match c.wait with
    | .move n => if mine c then some (c, n) else none
    | _ => none)[i]?

/-- The queue's next command starts, or with some i a movement that is under way goes on. -/
def moveRow (s : State) (q : Nat) (i blocks : Option Nat) (mine : Cmd → Bool) (copy alloc : Bool) : State :=
  match i with
  | none => startAs s q mine (memCmd copy alloc blocks)
  | some i => match moving s q i mine with
    | some (c, n) => moveBytes copy alloc blocks n c s
    | none => s

/-- MEM_COPY (R289). -/
def execMemCopy (q : Nat) (i blocks : Option Nat) (s : State) : Out :=
  .next (moveRow s q i blocks (isFn 0x0200 false) true true)

/-- MEM_COPY expert form (R289): no allocation. -/
def execMemCopyExpert (q : Nat) (i blocks : Option Nat) (s : State) : Out :=
  .next (moveRow s q i blocks (isFn 0x0200 true) true false)

/-- MEM_FILL (R289). -/
def execMemFill (q : Nat) (i blocks : Option Nat) (s : State) : Out :=
  .next (moveRow s q i blocks (isFn 0x0201 false) false true)

/-- MEM_FILL expert form (R289). -/
def execMemFillExpert (q : Nat) (i blocks : Option Nat) (s : State) : Out :=
  .next (moveRow s q i blocks (isFn 0x0201 true) false false)

end Sys2Proof.Machine
end

