-- ==== Sys2Proof/Machine/Fingerprint.lean ====
section
/-! DEFINITION. The check-value units: feeds of the fingerprint channels (R310–R312), FINGERPRINT_CONFIG and
FINGERPRINT_READ (R314–R317), and the queue contexts (R305–R308). -/

namespace Sys2Proof.Machine

/-! ## Feeds -/

/-- A task issued earlier still has to feed, or to check, the channel (R312). -/
def feedBlocked (c : Core) (t : Task) (ch : Nat) : Bool :=
  (c.window.takeWhile fun x => x.id != t.id).any fun x =>
    (isCheck x && (chkChannels x.desc).contains ch) ||
    (feedsChannel c x ch && !(match x.feed with
      | .complete _ => true
      | .due .. => false
      | .none => x.finished))

/-- A task's feed ends. -/
def endFeed (s : State) (p id saved : Nat) : State :=
  feedEnded (modTask s p id fun t => { t with feed := .complete saved }) (fun e => e == (p, id)) true

/-- The channel takes in up to `words` words of the task's stream; one that is disabled takes nothing of a feed that would start
(R311, R312, R316). -/
def feedWords (s : State) (p id words : Nat) : State :=
  let c := coreAt s p
  match taskOf c id with
  | none => s
  | some t =>
    let ch := dFpch t.desc
    match t.feed, c.fps[ch]? with
    | .due taken saved, some f =>
      if feedBlocked c t ch || !t.finished then s
      else if taken = 0 ∧ !f.enabled then endFeed s p id f.reg
      else
        let saved := if taken = 0 then f.reg else saved
        let n := min (4 * words) (t.stream.length - taken)
        let reg := crcRun f.cfg f.reg ((t.stream.drop taken).take n)
        let s := modCore s p fun c => { c with fps := modAt c.fps ch fun x => { x with reg := reg } }
        if taken + n = t.stream.length then endFeed s p id saved
        else modTask s p id fun t => { t with feed := .due (taken + n) saved }
    | _, _ => s

/-- FINGERPRINT_FEED (R311, R312). -/
def execFingerprintFeed (p id words : Nat) (s : State) : Out := .next (feedWords s p id words)

/-! ## FINGERPRINT_CONFIG (R314, R315) -/

def fcBlock (c : Cmd) : Nat := fld c.pkt 255 192
def fcPreset (c : Cmd) : Nat := fld c.pkt 135 128
def fcMask (c : Cmd) : Nat := fld c.pkt 111 104
def fcAction (c : Cmd) : Nat := fld c.pkt 97 96
def fcPart (c : Cmd) : Nat := fld c.pkt 71 68

/-- Channels of CHMASK. -/
def fcChannels (c : Cmd) : List Nat := upTo 8 fun n => bit (fcMask c) n

/-- Catalogue cores of a partition. -/
def catCores (s : State) (n : Nat) : List Nat := (lcoresOf s n).filterMap (physOf s)

/-- Every named channel of every catalogue core of PART. -/
def onChannels (c : Cmd) (f : FpChan → FpChan) (s : State) : State :=
  each (catCores s (fcPart c)) (fun p s => modCore s p fun x => modChannels x (fcChannels c) f) s

/-- The refusals that the three actions share. -/
def fcChecks (c : Cmd) : List (Bool × Status) := [(fcMask c == 0 || fcAction c == 3, .badParam)]

/-- The configuration that PRESET and BLOCK name. -/
def fcConfig (s : State) (c : Cmd) : Option CrcCfg :=
  if fcPreset c = 0xFF ∧ (!c.expert ∨ !addrMapped s (fcBlock c)) then none else crcFrom s (fcPreset c) (fcBlock c)

/-- A named channel is enabled. -/
def anyEnabled (s : State) (c : Cmd) : Bool :=
  (catCores s (fcPart c)).any fun p => (fcChannels c).any fun n => (((coreAt s p).fps[n]?).map (·.enabled)).getD false

/-- Refusals of CONFIGURE. -/
def fcSetChecks (s : State) (c : Cmd) : List (Bool × Status) :=
  fcChecks c ++ [((fcConfig s c).isNone, .badParam), (anyEnabled s c, .notPermitted)]

/-- CONFIGURE. -/
def fpConfigure (c : Cmd) (s : State) : State :=
  checked c (fcSetChecks s c)
    (fun s => finish (onChannels c (fun f => f.configure ((fcConfig s c).getD CrcCfg.ecma)) s) c.uid .ok 0 0 0 0) s

/-- The row's command is FINGERPRINT_CONFIG with one action, in the forms that `expert` allows. -/
def isFc (action : Nat) (expert : Option Bool) (c : Cmd) : Bool :=
  c.fn == 0x0400 && fcAction c == action && (match expert with
    | some e => c.expert == e
    | none => true)

/-- FINGERPRINT_CONFIG CONFIGURE (R314), in either form; ACTION 3 is refused here. -/
def execFingerprintConfigure (q : Nat) (s : State) : Out :=
  .next (startAs s q (fun c => isFc 0 none c || isFc 3 none c) fpConfigure)

/-- Refusals of ENABLE and DISABLE: PRESET and BLOCK are judged for every ACTION (R314). -/
def fcSwitchChecks (s : State) (c : Cmd) : List (Bool × Status) := fcChecks c ++ [((fcConfig s c).isNone, .badParam)]

/-- ENABLE: the channel resumes from its frozen register. -/
def fpEnable (c : Cmd) (s : State) : State :=
  checked c (fcSwitchChecks s c)
    (fun s => finish (onChannels c (fun f => { f with enabled := true }) s) c.uid .ok 0 0 0 0) s

/-- FINGERPRINT_CONFIG ENABLE (R314), in either form. -/
def execFingerprintEnable (q : Nat) (s : State) : Out := .next (startAs s q (isFc 1 none) fpEnable)

/-- Feeds in progress on the named channels: (core, issue number). -/
def feedsNow (s : State) (c : Cmd) : List (Nat × Nat) :=
  (catCores s (fcPart c)).flatMap fun p =>
    ((coreAt s p).window.filter fun t => (fcChannels c).contains (dFpch t.desc) && (match t.feed with
      | .due n _ => decide (0 < n)
      | _ => false)).map fun t => (p, t.id)

/-- The basic DISABLE waits for the feeds in progress. -/
def fpDisable (c : Cmd) (s : State) : State :=
  checked c (fcSwitchChecks s c)
    (fun s =>
      let wait : CmdWait := .feeds 0 (feedsNow s c)
      let s := onChannels c (fun f => { f with enabled := false }) s
      endFeeds (modCmd s c.uid fun c => { c with wait := wait })) s

/-- FINGERPRINT_CONFIG DISABLE (R315). -/
def execFingerprintDisable (q : Nat) (s : State) : Out := .next (startAs s q (isFc 2 (some false)) fpDisable)

/-- A feed is cut: its channel freezes at the last whole word (R315). -/
def cutFeed (s : State) (e : Nat × Nat) : State :=
  match taskOf (coreAt s e.1) e.2 with
  | some t =>
    let saved := match t.feed with
      | .due _ v => v
      | _ => 0
    let s := modCore s e.1 fun c => modChannels c [dFpch t.desc] fun f => { f with stopped := true }
    feedEnded (modTask s e.1 e.2 fun t => { t with feed := .complete saved }) (fun x => x == e) false
  | none => s

/-- The expert DISABLE cuts the feeds in progress. -/
def fpDisableExpert (c : Cmd) (s : State) : State :=
  checked c (fcSwitchChecks s c)
    (fun s =>
      let cut := feedsNow s c
      let s := each cut (fun e s => cutFeed s e) (onChannels c (fun f => { f with enabled := false }) s)
      finish s c.uid (if cut.isEmpty then .disabled else .aborted) cut.length 0 0 0) s

/-- FINGERPRINT_CONFIG DISABLE expert form (R315). -/
def execFingerprintDisableExpert (q : Nat) (s : State) : Out := .next (startAs s q (isFc 2 (some true)) fpDisableExpert)

/-! ## FINGERPRINT_READ (R317) -/

def frFirst (c : Cmd) : Nat := fld c.pkt 223 192
def frDest (c : Cmd) : Nat := fld c.pkt 191 128
def frCount (c : Cmd) : Nat := fld c.pkt 127 112
def frSource (c : Cmd) : Nat := fld c.pkt 97 96

/-- The logical core of a rank that lies on this panel in PART. -/
def frCore (s : State) (c : Cmd) (r : Nat) : Option Nat :=
  (rankTarget (tblGet [] (partAt s (fcPart c)).rmaps (fld c.pkt 67 64)) r).bind fun (pan, l) =>
    if pan = s.straps.panelId ∧ partOfL s l = some (fcPart c) then some l else none

/-- One bit for each channel. -/
def chanBits (c : Core) (f : FpChan → Bool) : Nat := c.fps.zipIdx.foldl (fun n (x, i) => n + flagAt (f x) i) 0

/-- STOPPED of a record. -/
def frStopped (src : Nat) (c : Core) : Nat := chanBits c fun f => if src = 0 then f.latchStopped else f.stopped

/-- A fingerprint record (Table 12-7). -/
def fpRecord (src : Nat) (c : Core) (rank l : Nat) : List Byte :=
  let v (f : FpChan) : Nat := if src = 0 then f.latchValue else if src = 1 then f.mark else f.value
  let step := if src = 0 then ((c.fps[0]?).map (·.latchStep)).getD 0 else c.step
  leBytes 16 (rank * 2 ^ 96 + step * 2 ^ 64 + frStopped src c * 2 ^ 56 + chanBits c (·.enabled) * 2 ^ 48 +
    (if src = 0 then chanBits c (·.latchValid) else 0xFF) * 2 ^ 40 + l) ++ c.fps.flatMap fun f => leBytes 8 (v f)

/-- DIGEST (R317): over each record's bytes 16–79 and its STOPPED byte. -/
def fpDigest (recs : List (List Byte)) : Nat :=
  crcValue CrcCfg.ecma (crcRun CrcCfg.ecma 0 (recs.flatMap fun r => r.drop 16 ++ (r.drop 7).take 1))

/-- The ranks asked for. -/
def frRanks (c : Cmd) : List Nat := (List.range (frCount c)).map (frFirst c + ·)

/-- Refusals of FINGERPRINT_READ (R317). -/
def frChecks (s : State) (c : Cmd) : List (Bool × Status) :=
  let n := 80 * frCount c
  let dead (r : Nat) : Bool := match frCore s c r with
    | some l => (physOf s l).isNone
    | none => false
  [((tblGet [] (partAt s (fcPart c)).rmaps (fld c.pkt 67 64)).isEmpty || decide (frCount c < 1 ∨ 3072 < frCount c) ||
      (frRanks c).any (fun r => (frCore s c r).isNone) || frSource c == 3 || (!c.expert && frSource c != 0) ||
      badDest s (frDest c) n 64, .badParam),
   (!inCarve s c.host (frDest c) n, .notPermitted), ((frRanks c).any dead, .dieLost)]

/-- The records of the ranks asked for. -/
def frRecords (s : State) (c : Cmd) : List (List Byte) :=
  (frRanks c).filterMap fun r => (frCore s c r).bind fun l => (physOf s l).map fun p =>
    fpRecord (frSource c) (coreAt s p) r l

/-- FINGERPRINT_READ (R317). -/
def fpRead (c : Cmd) (s : State) : State :=
  checked c (frChecks s c)
    (fun s =>
      let recs := frRecords s c
      let dig := fpDigest recs
      let cut := (recs.filter fun r => (r.drop 7).head? != some 0).length
      copyOut s c (frDest c) recs.flatten fun s => finish s c.uid .ok (lowWord dig) (highWord dig) recs.length cut) s

/-- FINGERPRINT_READ (R317), in either form. -/
def execFingerprintRead (q : Nat) (s : State) : Out := .next (startAs s q (isFnAny 0x0401) fpRead)

/-! ## Queue contexts (R305–R308) -/

def ccQueue (c : Cmd) : Nat := fld c.pkt 79 64
def ccValue (c : Cmd) : Nat := fld c.pkt 191 128
def ccBytes (c : Cmd) : Nat := fld c.pkt 255 192

/-- The context of the named queue. -/
def ccContext (s : State) (c : Cmd) : Option CrcCtx := if isFree s (ccQueue c) then none else (queueAt s (ccQueue c)).crc

/-- The queue is another host die's that is not lost. -/
def ccForeign (s : State) (c : Cmd) : Bool :=
  let o := (queueAt s (ccQueue c)).owner
  o != c.host && !(hostAt s o).lost

/-- The check value and the count of a context, as result words. -/
def ccWords (x : CrcCtx) : Nat × Nat × Nat × Nat :=
  let v := crcValue x.cfg x.reg
  (lowWord v, highWord v, lowWord x.bytes, highWord x.bytes)

/-- Refusals of CRC_CONTEXT_SET on a queue with context x. -/
def csChecks (s : State) (c : Cmd) (x : CrcCtx) : List (Bool × Status) :=
  [(decide (2 ^ x.cfg.width ≤ ccValue c) || (!c.expert && ccBytes c != 0), .badParam), (ccForeign s c, .notPermitted)]

/-- Refusals of CRC_CONTEXT_GET. -/
def cgChecks (s : State) (c : Cmd) : List (Bool × Status) :=
  [(ccValue c != 0 || (!c.expert && ccBytes c != 0) || (c.expert && badDest s (ccBytes c) 32 32), .badParam),
   (ccForeign s c || (c.expert && !inCarve s c.host (ccBytes c) 32), .notPermitted)]

/-- CRC_CONTEXT_SET (R308). -/
def crcSet (c : Cmd) (s : State) : State :=
  match ccContext s c with
  | none => refuse s c.uid .badParam
  | some x =>
    checked c (csChecks s c x)
      (fun s =>
        let new : CrcCtx := { x with reg := crcUnvalue x.cfg (ccValue c), bytes := ccBytes c }
        let (a, b, d, e) := ccWords x
        finish (modQueue s (ccQueue c) fun q => { q with crc := some new }) c.uid .ok a b d e) s

/-- CRC_CONTEXT_SET (R308), in either form. -/
def execCrcContextSet (q : Nat) (s : State) : Out := .next (startAs s q (isFnAny 0x0402) crcSet)

/-- CRC_CONTEXT_GET (R308): the expert form also copies the parameter block. -/
def crcGet (c : Cmd) (s : State) : State :=
  match ccContext s c with
  | none => refuse s c.uid .badParam
  | some x =>
    let (a, b, d, e) := ccWords x
    checked c (cgChecks s c)
      (fun s =>
        if c.expert then
          copyOut s c (ccBytes c) (leBytes 32 (crcBlockOf x.cfg)) fun s => finish s c.uid .ok a b d e
        else finish s c.uid .ok a b d e) s

/-- CRC_CONTEXT_GET (R308), in either form. -/
def execCrcContextGet (q : Nat) (s : State) : Out := .next (startAs s q (isFnAny 0x0403) crcGet)

end Sys2Proof.Machine
end

