-- ==== Sys2Proof/Machine/FaultCmds.lean ====
section
/-! DEFINITION. FAULT_LOG_READ, PARTITION_RESET, ACCESSION, ESCALATION_POLICY and PROVENANCE_READ (R326, R337, R341, R346, R347,
R351). -/

namespace Sys2Proof.Machine

/-! ## FAULT_LOG_READ (R326) -/

def flDest (c : Cmd) : Nat := fld c.pkt 191 128
def flFirst (c : Cmd) : Nat := fld c.pkt 127 96
def flCount (c : Cmd) : Nat := fld c.pkt 95 80
def flWait (c : Cmd) : Bool := fld c.pkt 72 72 = 1
def flSection (c : Cmd) : Nat := fld c.pkt 71 64

/-- The refusals of R326, for entries of `size` bytes. -/
def flChecks (s : State) (c : Cmd) (size : Nat) : List (Bool × Status) :=
  [(decide (flCount c < 1 ∨ 4096 < flCount c) || decide (1 < flSection c) ||
      (flSection c == 1 && (!c.expert || flWait c || decide (224 < flFirst c + flCount c))) ||
      badDest s (flDest c) (size * flCount c) 64, .badParam),
   (!inCarve s c.host (flDest c) (size * flCount c), .notPermitted)]

/-- Section 0: the records there are, or a wait for the first one. -/
def readRecords (c : Cmd) (s : State) : State :=
  if flWait c && !(s.faults.any fun r => decide (flFirst c ≤ r.seq)) then
    modCmd s c.uid fun c => { c with wait := .faultLog (flFirst c) }
  else faultLogCopy s c

/-- FAULT_LOG_READ of records (R326), in either form; a reserved SECTION is refused here. -/
def execFaultLogReadRecords (q : Nat) (s : State) : Out :=
  .next (startAs s q (fun c => c.fn == 0x0700 && flSection c != 1) fun c s => checked c (flChecks s c 64) (readRecords c) s)

/-- A transient counter entry (Table 13-5). -/
def transientWord (t : Transient) : Nat :=
  t.lasting * 2 ^ 160 + t.timeout * 2 ^ 128 + t.kat * 2 ^ 96 + t.task * 2 ^ 64 + t.ecc * 2 ^ 32 + t.link

/-- The entries of section 1. -/
def flBytes (s : State) (c : Cmd) : List Byte :=
  (List.range (flCount c)).flatMap fun i => leBytes 32 (transientWord (transientAt s (flFirst c + i)))

/-- Section 1. -/
def readCounters (c : Cmd) (s : State) : State :=
  let bs := flBytes s c
  copyOut s c (flDest c) bs fun s => finish s c.uid .ok (flCount c) 0 0 0

/-- FAULT_LOG_READ of transient counters (R326, R327). -/
def execFaultLogReadCounters (q : Nat) (s : State) : Out :=
  .next (startAs s q (fun c => c.fn == 0x0700 && flSection c == 1) fun c s =>
    checked c (flChecks s c 32) (readCounters c) s)

/-! ## PARTITION_RESET (R337, R347) -/

/-- A reset is decided, or the command joins one in progress; a counted one may reach the limit (R342). -/
def resetPart (c : Cmd) (s : State) : State :=
  let n := fld c.pkt 67 64
  let s := modCmd s c.uid fun c => { c with wait := .reset n }
  let p := partAt s n
  let decide_ (counted : Bool) (s : State) : State :=
    modPart s n fun p => { p with decided := some (counted, false), decidedAt := s.time }
  if p.state = .resetting ∨ p.state = .accessioning ∨ p.decided.isSome then s
  else if p.state = .held then decide_ false s
  else if fld c.pkt 68 68 = 1 then
    let (s, limit) := countReset s n
    if limit then withdrawPart s n 0 else decide_ true s
  else decide_ false s

/-- Refusals of PARTITION_RESET (R347). -/
def prChecks (s : State) (c : Cmd) : List (Bool × Status) :=
  [(!c.expert && fld c.pkt 68 68 != 0, .badParam),
   ((partAt s (fld c.pkt 67 64)).state == .undefined || (partAt s (fld c.pkt 67 64)).state == .withdrawn, .notPermitted)]

/-- PARTITION_RESET (R347), in either form. -/
def execPartitionReset (q : Nat) (s : State) : Out :=
  .next (startAs s q (isFnAny 0x0701) fun c s => checked c (prChecks s c) (resetPart c) s)

/-! ## ACCESSION (R341) -/

def acAction (c : Cmd) : Nat := fld c.pkt 111 104
def acLcore (c : Cmd) : Nat := fld c.pkt 91 80
def acTile (c : Cmd) : Nat := fld c.pkt 76 73
def acSite (c : Cmd) : Nat := fld c.pkt 72 69
def acStack (c : Cmd) : Bool := fld c.pkt 68 64 = 31
def acCore (c : Cmd) : Nat := physNum (acTile c) (acSite c) (fld c.pkt 68 64)

/-- The cores that RETEST names. -/
def retestCores (c : Cmd) : List Nat := if acStack c then siteCores (acTile c) (acSite c) else [acCore c]

/-- The partition of PCORE's tile admits work and is the host die's. -/
def acPermitted (s : State) (c : Cmd) : Bool :=
  match partOfTile s (acTile c) with
  | some n => serves s c.host n && (partAt s n).state == .inService
  | none => false

/-- A unit that passes becomes SPARE; a die that rejoins is fenced no longer (R339). -/
def retestPass (s : State) (c : Cmd) (passed : List Nat) : State :=
  let s := each passed (fun p s => setPstate s p .spare) s
  let s := { s with retired := s.retired.filter fun p => !passed.contains p }
  if acStack c then { s with fenced := s.fenced.filter (· != stackUnit (acTile c) (acSite c)) } else s

/-- Refusals of RETEST. -/
def rtChecks (s : State) (c : Cmd) : List (Bool × Status) :=
  [(decide (1 < acAction c) || acLcore c != 0 || (retestCores c).any fun p => pstateAt s p != .deaccessioned, .badParam),
   (!acPermitted s c, .notPermitted)]

/-- Cores that pass a known-answer run on its second run: a transient error of each, and the command ends as one retried (R319). -/
def passAgain (s : State) (c : Cmd) (again : List Nat) : State :=
  if again.isEmpty then s
  else modCmd (each again (fun p s => katAgain s p) s) c.uid fun c => { c with retried := true }

/-- The known-answer run of RETEST; `failing` are the cores that fail it twice, `second` those that pass its second run. -/
def retest (failing second : List Nat) (c : Cmd) (s : State) : State :=
  let all := retestCores c
  checked c (rtChecks s c)
    (fun s =>
      let passed := all.filter fun p => !failing.contains p
      let s := passAgain s c (passed.filter fun p => second.contains p)
      let s := each (all.filter fun p => failing.contains p) (fun p s => katFail s p none) s
      if passed.length < (if acStack c then 16 else 1) then refuse s c.uid .katMismatch
      else finish (retestPass s c passed) c.uid .ok s.catVersion passed.length 0 0) s

/-- ACCESSION RETEST (R341), in either form; a reserved ACTION is refused here. -/
def execAccessionRetest (q : Nat) (failing second : List Nat) (s : State) : Out :=
  .next (startAs s q (fun c => c.fn == 0x0702 && acAction c != 1) (retest failing second))

/-- Refusals of PLACE. -/
def plcChecks (s : State) (c : Cmd) : List (Bool × Status) :=
  let n := (partOfL s (acLcore c)).getD 0
  [(!c.expert || acStack c || pstateAt s (acCore c) != .spare || partOfTile s (acTile c) != partOfL s (acLcore c),
    .badParam),
   (!acPermitted s c || s.runs.any fun r => r.part == n, .notPermitted)]

/-- PLACE: a spare that passes enters LCORE in a drain; one that fails is deaccessioned. -/
def place (run : KatResult) (c : Cmd) (s : State) : State :=
  checked c (plcChecks s c)
    (fun s =>
      let s := passAgain s c (if run = .second then [acCore c] else [])
      if run ≠ .fail then
        waitDrain (noteSpares (setPstate s (acCore c) .testing) (tileOf (acCore c))) c []
          [(acLcore c, catEntry (acLcore c) (acCore c))]
      else refuse (retireCore (katFail s (acCore c) none) (acCore c)) c.uid .katMismatch) s

/-- ACCESSION PLACE (R341). -/
def execAccessionPlace (q : Nat) (run : KatResult) (s : State) : Out :=
  .next (startAs s q (fun c => c.fn == 0x0702 && acAction c == 1) (place run))

/-! ## ESCALATION_POLICY (R346) -/

def epPart (c : Cmd) : Nat := fld c.pkt 71 68
def epPanel (c : Cmd) : Bool := fld c.pkt 72 72 = 1
def epPartSet (c : Cmd) : Bool := fld c.pkt 73 73 = 1

/-- The panel fields that a command carries. -/
def epLimits (c : Cmd) : Limits :=
  { ceLimit := fld c.pkt 319 288, leadWindow := fld c.pkt 271 256, resetWindow := fld c.pkt 255 240,
    leadLimit := fld c.pkt 239 232, withdrawLimit := fld c.pkt 231 224, resetLimit := fld c.pkt 223 216,
    exhaustWithdraws := fld c.pkt 194 194 = 1 }

/-- The ranges of Table 13-15. -/
def limitsOk (l : Limits) : Bool :=
  decide (256 ≤ l.ceLimit ∧ l.ceLimit ≤ 65536 ∧ 10 ≤ l.leadWindow ∧ l.leadWindow ≤ 1440 ∧ 1 ≤ l.resetWindow ∧
    l.resetWindow ≤ 1440 ∧ 1 ≤ l.leadLimit ∧ l.leadLimit ≤ 8 ∧ 1 ≤ l.withdrawLimit ∧ l.withdrawLimit ≤ 16 ∧
    1 ≤ l.resetLimit ∧ l.resetLimit ≤ 16)

def epPanelZero (c : Cmd) : Bool := fld c.pkt 319 288 == 0 && fld c.pkt 271 216 == 0 && fld c.pkt 194 194 == 0
def epPartZero (c : Cmd) : Bool := fld c.pkt 287 272 == 0 && fld c.pkt 193 192 == 0
def epHold (c : Cmd) : Nat := fld c.pkt 287 272

/-- A partition without automatic accession may regroup work while a core of it is capped (R363). -/
def rebalanceManual (s : State) (n : Nat) : State :=
  if !(partAt s n).auto then markRebalance s n else s

/-- The limits and the partition's policy as result words. -/
def readPolicy (c : Cmd) (s : State) : State :=
  let l := s.limits
  let p := partAt s (epPart c)
  finish s c.uid .ok
    (l.resetLimit + l.withdrawLimit * 2 ^ 8 + l.leadLimit * 2 ^ 16 + flagAt p.auto 24 + flagAt p.hold 25 +
      flagAt l.exhaustWithdraws 26)
    (l.resetWindow + l.leadWindow * 2 ^ 16) l.ceLimit p.holdLimit

/-- Refusals of the basic form: it writes nothing. -/
def epReadChecks (c : Cmd) : List (Bool × Status) :=
  [(!epPanelZero c || !epPartZero c || epPanel c || epPartSet c, .badParam)]

/-- Refusals of the expert form. -/
def epSetChecks (s : State) (c : Cmd) : List (Bool × Status) :=
  [((if epPanel c then !limitsOk (epLimits c) else !epPanelZero c) ||
      (if epPartSet c then decide (epHold c < 1 ∨ 3600 < epHold c) else !epPartZero c), .badParam),
   (epPanel c && !(queueAt s c.queue).admin, .notPermitted)]

/-- ESCALATION_POLICY, basic form (R346). -/
def execEscalationPolicyRead (q : Nat) (s : State) : Out :=
  .next (startAs s q (isFn 0x0703 false) fun c s =>
    checked c (epReadChecks c) (readPolicy c) s)

/-- The selected groups are written, then read. -/
def writePolicy (c : Cmd) (s : State) : State :=
  let s := if epPanel c then { s with limits := epLimits c } else s
  let s := if epPartSet c then
      rebalanceManual (modPart s (epPart c) fun p =>
        { p with holdLimit := epHold c, hold := fld c.pkt 193 193 = 1, auto := fld c.pkt 192 192 = 1 }) (epPart c)
    else s
  readPolicy c s

/-- ESCALATION_POLICY, expert form (R346). -/
def execEscalationPolicySet (q : Nat) (s : State) : Out :=
  .next (startAs s q (isFn 0x0703 true) fun c s => checked c (epSetChecks s c) (writePolicy c) s)

/-! ## PROVENANCE_READ (R351) -/

def pvFirst (c : Cmd) : Nat := fld c.pkt 127 64
def pvDest (c : Cmd) : Nat := fld c.pkt 191 128
def pvCount (c : Cmd) : Nat := fld c.pkt 207 192

/-- An entry's 64 bytes, with its CHECK (R350). -/
def provBytes (e : Prov) : List Byte :=
  let good : Bool := e.check == provCheck e
  leBytes 4 e.check ++ (leBytes 64 (provWord (if good then e else { e with type := 0 }))).drop 4

/-- The entries that a read copies. -/
def provPick (log : List Prov) (c : Cmd) : List Prov :=
  if pvFirst c = 2 ^ 64 - 1 then log.drop (log.length - pvCount c)
  else (log.filter fun e => decide (pvFirst c ≤ e.number)).take (pvCount c)

/-- Refusals of PROVENANCE_READ. -/
def pvChecks (s : State) (c : Cmd) : List (Bool × Status) :=
  [(decide (pvCount c < 1 ∨ 4096 < pvCount c) || badDest s (pvDest c) (64 * pvCount c) 64, .badParam),
   (!inCarve s c.host (pvDest c) (64 * pvCount c), .notPermitted)]

/-- The log of the die that a form reads. -/
def pvLog (s : State) (c : Cmd) : List Prov := if c.expert then s.provBF1 else s.provBF0

/-- The oldest NUMBER it holds. -/
def pvOldest (s : State) (c : Cmd) : Nat := ((pvLog s c).head?.map (·.number)).getD s.provNext

/-- PROVENANCE_READ (R351): the basic form reads BF0, the expert form BF1. -/
def readProv (c : Cmd) (s : State) : State :=
  let es := provPick (pvLog s c) c
  let oldest := pvOldest s c
  copyOut s c (pvDest c) (es.flatMap provBytes) fun s =>
    finish s c.uid .ok (lowWord oldest) (highWord oldest) (lowWord s.provNext) (highWord s.provNext)

/-- PROVENANCE_READ (R351), in either form. -/
def execProvenanceRead (q : Nat) (s : State) : Out :=
  .next (startAs s q (isFnAny 0x0704) fun c s => checked c (pvChecks s c) (readProv c) s)

end Sys2Proof.Machine
end

