-- ==== Sys2Proof/Machine/HostRead.lean ====
section
/-! DEFINITION. CATALOGUE_READ (R203, R204) and CHARTER_READ (R377). -/

namespace Sys2Proof.Machine

/-- Codes of Table 07-4. -/
def PState.code : PState → Nat
  | .inService => 0 | .spare => 1 | .testing => 2 | .deaccessioned => 3 | .dark => 4

/-- Entries of a section (Table 07-6); a reserved one has none. -/
def catSize (sec : Nat) : Nat := if sec = 0 then 3072 else if sec = 1 then 3744 else if sec = 2 then 256 else if sec = 3 then 64 else 0

/-- Entry i of a section, as bytes (Table 07-6). -/
def catEntryBytes (s : State) (sec l i : Nat) : List Byte :=
  if sec = 0 then leBytes 2 (catWord (catAt s i))
  else if sec = 1 then leBytes 1 (pstateAt s i).code
  else if sec = 2 then leBytes 4 (rteWord (rteAt s (i / 16) (i % 16)))
  else leBytes 8 (winWord s l i)

def crSection (c : Cmd) : Nat := fld c.pkt 71 64
def crLcore (c : Cmd) : Nat := fld c.pkt 91 80
def crFirst (c : Cmd) : Nat := fld c.pkt 111 96
def crCount (c : Cmd) : Nat := fld c.pkt 127 112
def crDest (c : Cmd) : Nat := fld c.pkt 191 128

/-- The bytes of the entries asked for. -/
def catBytes (s : State) (c : Cmd) : List Byte :=
  (List.range (crCount c)).flatMap fun i => catEntryBytes s (crSection c) (crLcore c) (crFirst c + i)

/-- Refusals of CATALOGUE_READ (R204). -/
def catChecks (s : State) (c : Cmd) : List (Bool × Status) :=
  let sec := crSection c
  let n := (catEntryBytes s sec (crLcore c) 0).length * crCount c
  [(decide (3 < sec) || decide (catSize sec < crFirst c + crCount c) || crCount c == 0 || decide (3071 < crLcore c) ||
     (sec != 3 && crLcore c != 0) || badDest s (crDest c) n 64, .badParam),
   (!inCarve s c.host (crDest c) n, .notPermitted)]

/-- The copy itself: one instant, so that both result words are equal. -/
def copyCatalogue (s : State) (c : Cmd) : State :=
  copyOut s c (crDest c) (catBytes s c) fun s => finish s c.uid .ok s.catVersion s.catVersion 0 0

/-- Wait for the release of a drain in progress. -/
def joinDrain (s : State) (c : Cmd) (d : Drain) : State :=
  let add (x : Drain) : Drain := if x.id = d.id then { x with cmds := x.cmds ++ [c.uid] } else x
  modCmd { s with drains := s.drains.map add } c.uid fun c => { c with wait := .drain d.id }

/-- The basic form copies once no drain is in progress. -/
def readCatalogue (c : Cmd) (s : State) : State :=
  match s.drains with
  | d :: _ => joinDrain s c d
  | [] => copyCatalogue s c

/-- CATALOGUE_READ (R204). -/
def execCatalogueRead (q : Nat) (s : State) : Out :=
  .next (startAs s q (isFn 0x0A00 false) fun c s => checked c (catChecks s c) (readCatalogue c) s)

/-- CATALOGUE_READ expert form (R204): at once. -/
def execCatalogueReadExpert (q : Nat) (s : State) : Out :=
  .next (startAs s q (isFn 0x0A00 true) fun c s => checked c (catChecks s c) (fun s => copyCatalogue s c) s)

/-! ## CHARTER_READ -/

def chDest (c : Cmd) : Nat := fld c.pkt 191 128

/-- The die that CHARTER_READ names. -/
def chDie (s : State) (c : Cmd) : Flash := if fld c.pkt 65 65 = 1 then s.bf1 else s.bf0

/-- Result word 1 of CHARTER_READ: what is in force. -/
def charterInForce (s : State) : Nat :=
  s.start.slot % 4 + flagAt s.start.compactCharter 2 + flagAt s.start.factory 3

/-- The bytes copied: the sealed charter, or the stored image of a slot (R377). -/
def charterCopy (s : State) (c : Cmd) : List Byte :=
  if fld c.pkt 64 64 = 1 then charterSlot (chDie s c) (fld c.pkt 67 66) else charterBytes s.charter

/-- Refusals of CHARTER_READ. -/
def chChecks (s : State) (c : Cmd) : List (Bool × Status) :=
  [(badDest s (chDest c) 8192 64 || (!c.expert && fld c.pkt 67 64 != 0), .badParam),
   (!inCarve s c.host (chDest c) 8192, .notPermitted)]

/-- CHARTER_READ (R377). -/
def readCharter (c : Cmd) (s : State) : State :=
  let bs := charterCopy s c
  let image := fld c.pkt 64 64 = 1
  let ok : Bool := decide image && charterImageOk s s.ident.ownerKey bs
  checked c (chChecks s c)
    (fun s => copyOut s c (chDest c) bs fun s =>
      finish s c.uid .ok (chtOf (charterOf bs) 0 / 2 ^ 32) (charterInForce s) bs.length (if ok then 1 else 0)) s

/-- CHARTER_READ (R377), in either form. -/
def execCharterRead (q : Nat) (s : State) : Out := .next (startAs s q (isFnAny 0x0A01) readCharter)

end Sys2Proof.Machine
end

