-- ==== Sys2Proof/Machine/Identity.lean ====
section
/-! DEFINITION. Attestation (R394–R398), and staging and commit of images (R399–R401). -/

namespace Sys2Proof.Machine

/-! ## ATTEST -/

/-- A measured hash as a number of 256 bits; 0 where the stage was not reached (Table 16-7). -/
def measured (s : State) (k : Nat) : Nat := leNat (s.ident.hashes.getD k [])

/-- SHA-256 over the NI_CAT entries and CAT_VERSION (Table 16-7). -/
def catHash (s : State) : List Byte :=
  sha256 ((List.range 3072).flatMap (fun l => leBytes 2 (catWord (catAt s l))) ++ leBytes 4 s.catVersion)

def deaccessioned (s : State) (p : Nat) : Bool := pstateAt s p == .deaccessioned

/-- The identity leaf of this boot. -/
def idLeaf (s : State) : Nat :=
  match s.ident.cert with
  | some c => c.1
  | none => 0

/-- The quote body (Table 16-7). -/
def quoteBody (s : State) (nonce : Nat) : List Byte :=
  let stacksOut := (upTo 208 fun u => (siteCores (u / 13) (u % 13)).all (deaccessioned s)).length
  let coresOut := (upTo 3744 (deaccessioned s)).length
  let serving := ((List.range 4).map fun e => flagAt ((deviceAt s (17 * e + 8)).state == .inUse) e).sum
  let gone := ((List.range 16).map fun n => flagAt ((partAt s n).state == .withdrawn) n).sum
  leBytes 352 (
    1 + min s.ident.stages 5 * 2 ^ 8 + s.service.ph % 4 * 2 ^ 16 + flagAt s.order1T 18 +
    s.counter.boot % 2 ^ 32 * 2 ^ 32 + panelId s % 2 ^ 17 * 2 ^ 64 + idLeaf s % 2 ^ 20 * 2 ^ 96 +
    s.ident.attLeaf % 2 ^ 10 * 2 ^ 116 + s.time % 2 ^ 64 * 2 ^ 128 + s.catVersion % 2 ^ 32 * 2 ^ 192 +
    s.microcode % 2 ^ 32 * 2 ^ 224 + nonce * 2 ^ 256 + leNat s.ident.chain * 2 ^ 512 + measured s 0 * 2 ^ 768 +
    measured s 1 * 2 ^ 1024 + measured s 2 * 2 ^ 1280 + measured s 3 * 2 ^ 1536 + measured s 4 * 2 ^ 1792 +
    leNat (catHash s) * 2 ^ 2048 + (s.provNext - 1) % 2 ^ 64 * 2 ^ 2304 + min coresOut 4095 * 2 ^ 2368 +
    min stacksOut 31 * 2 ^ 2380 + serving * 2 ^ 2385 + gone * 2 ^ 2400 + s.firmware % 2 ^ 32 * 2 ^ 2432 +
    leNat s.ident.ownerHash * 2 ^ 2560)

/-- A quote (Table 16-6). -/
def quoteBytes (s : State) (nonce : Nat) (omitCert : Bool) : List Byte :=
  let body := quoteBody s nonce
  let sig := (List.range 2508).map (Config.attSigByte s.counter.boot s.ident.attLeaf body)
  let cert : List Byte :=
    match s.ident.cert with
    | some c => attPub s ++ bootSalt s ++ c.2 ++ identityPub
    | none => []
  body ++ sig ++ (if omitCert then [] else cert)

def atDest (c : Cmd) : Nat := fld c.pkt 383 320

/-- The quote is signed and written with the next attestation leaf (R397, R398). -/
def writeQuote (s : State) (c : Cmd) : State :=
  let bs := quoteBytes s (fld c.pkt 319 64) (bit c.pkt.toNat 384)
  let leaf := s.ident.attLeaf
  copyOut { s with ident := { s.ident with attLeaf := leaf + 1 } } c (atDest c) bs fun s =>
    finish s c.uid .ok bs.length leaf (idLeaf s) s.counter.boot

/-- ATTEST waits for a drain, as CATALOGUE_READ does (R398). -/
def attest (c : Cmd) (s : State) : State :=
  if s.ident.cert.isNone || decide (1024 ≤ s.ident.attLeaf) then refuse s c.uid .noResource
  else match s.drains with
    | d :: _ => joinDrain s c d
    | [] => writeQuote s c

/-- Refusals of ATTEST that come before (R398). -/
def attestChecks (s : State) (c : Cmd) : List (Bool × Status) :=
  [(badDest s (atDest c) 8192 64 || (!c.expert && bit c.pkt.toNat 384), .badParam),
   (!inCarve s c.host (atDest c) 8192, .notPermitted)]

/-- Every refusal of ATTEST. -/
def atChecks (s : State) (c : Cmd) : List (Bool × Status) :=
  attestChecks s c ++ [(s.ident.cert.isNone || decide (1024 ≤ s.ident.attLeaf), .noResource)]

/-- ATTEST (R398), in either form. -/
def execAttest (q : Nat) (s : State) : Out :=
  .next (startAs s q (isFnAny 0x0800) fun c s => checked c (attestChecks s c) (attest c) s)

/-! ## FW_STAGE and FW_COMMIT -/

def fwType (c : Cmd) : Nat := fld c.pkt 71 64
def fwLength (c : Cmd) : Nat := fld c.pkt 191 128
def fwSlot (c : Cmd) : Nat := fld c.pkt 199 192
def fwFloor (c : Cmd) : Nat := fld c.pkt 201 200
def fwSrc (c : Cmd) : Nat := fld c.pkt 575 512

/-- TYPE and SLOT are a pair of Table 16-8. -/
def fwPlaceOk (c : Cmd) : Bool :=
  if fwType c = 5 then decide (1 ≤ fwSlot c ∧ fwSlot c ≤ 3) else (imageLimit (fwType c)).isSome && fwSlot c == 0

/-- Most bytes an image of a type has. -/
def fwMost (type : Nat) : Nat := if type = 5 then 512 + hssSize else (imageLimit type).getD 0 + 64 + hssSize

/-- The image verifies under the owner key in force (R393, R375). -/
def fwVerifies (s : State) (type : Nat) (bs : List Byte) : Bool :=
  if type = 5 then charterImageOk s s.ident.ownerKey bs else imageOk s s.ident.ownerKey type bs

def ImagePair.none : ImagePair := { a := [], b := [], staged := false }

/-- A die's inactive copy, or charter slot, holds bytes (R399): while it is written, none that verify, and not a staged copy. -/
def Flash.stage (f : Flash) (type slot : Nat) (inactiveB staged : Bool) (bs : List Byte) : Flash :=
  if !f.alive then f
  else if type = 5 then
    let rest := f.stagedCharters.filter (· != slot)
    { f with charters := tblPut f.charters slot bs, stagedCharters := if staged then rest ++ [slot] else rest }
  else
    let x := (tblLook f.images type).getD ImagePair.none
    let y : ImagePair := if inactiveB then { x with b := bs, staged := staged } else { x with a := bs, staged := staged }
    { f with images := tblPut f.images type y }

/-- Both dies take the command's image. -/
def stageBoth (s : State) (c : Cmd) (staged : Bool) (bs : List Byte) : State :=
  let put (f : Flash) : Flash := f.stage (fwType c) (fwSlot c) (!activeB s (fwType c)) staged bs
  { s with bf0 := put s.bf0, bf1 := put s.bf1 }

/-- FW_STAGE: read, verify, and begin to write both dies (R399). -/
def stageImage (c : Cmd) (s : State) : State :=
  copyIn s c (fwSrc c) (fwLength c) fun bs s =>
    if !fwVerifies s (fwType c) bs then refuse s c.uid .notPermitted
    else
      let erased : List Byte := if fwType c = 5 then List.replicate (512 + hssSize) 0xFF else []
      modCmd (stageBoth s c false erased) c.uid fun c => { c with wait := .flash bs }

/-- The last flash write of a FW_STAGE has completed. -/
def stageDone (s : State) (c : Cmd) (bs : List Byte) : State := finish (stageBoth s c true bs) c.uid .ok 0 0 0 0

/-- Staging and commit commands run one at a time, in admission order (R399). -/
def isFw (c : Cmd) : Bool := c.fn == 0x0801 || c.fn == 0x0802
def fwTurn (s : State) (c : Cmd) : Bool := s.cmds.all fun e => !isFw e || decide (c.uid ≤ e.uid)

/-- The queue's command of function fn that writes flash, and what it writes. -/
def fwWriting (s : State) (q fn : Nat) : Option (Cmd × List Byte) :=
  (queueCmds s q).findSome? fun c => match c.wait with
    | .flash bs => if c.fn = fn then some (c, bs) else none
    | _ => none

/-- Refusals of FW_STAGE. -/
def fwStageChecks (s : State) (c : Cmd) : List (Bool × Status) :=
  [(!fwPlaceOk c || decide (fwMost (fwType c) < fwLength c) || fwFloor c != 0 ||
      badDest s (fwSrc c) (fwLength c) 1, .badParam),
   (!(queueAt s c.queue).admin || !inCarve s c.host (fwSrc c) (fwLength c), .notPermitted)]

/-- FW_STAGE (R399, R401): the queue's next command starts and its flash is being written; its next occurrence is the completion of the last
write. -/
def execFwStage (q : Nat) (s : State) : Out :=
  .next (match fwWriting s q 0x0801 with
    | some (c, bs) => stageDone s c bs
    | none => startAs s q (fun c => isFnAny 0x0801 c && fwTurn s c) fun c s =>
        checked c (fwStageChecks s c) (stageImage c) s)

/-- A valid staged copy exists: every die that works holds it. -/
def stagedOk (s : State) (type slot : Nat) : Bool :=
  let held (f : Flash) : Bool :=
    if type = 5 then f.stagedCharters.contains slot
    else match tblLook f.images type with
      | some x => x.staged
      | none => false
  (s.bf0.alive || s.bf1.alive) && (!s.bf0.alive || held s.bf0) && (!s.bf1.alive || held s.bf1)

/-- A die's staged copy is no longer one to commit. -/
def Flash.commit (f : Flash) (type slot : Nat) : Flash :=
  if type = 5 then { f with stagedCharters := f.stagedCharters.filter (· != slot) }
  else match tblLook f.images type with
    | some x => { f with images := tblPut f.images type { x with staged := false } }
    | none => f

/-- SVN of the copy that a commit makes active. -/
def committedSvn (s : State) (type : Nat) : Nat :=
  imageSvn (copyOf (if s.bf0.alive then s.bf0 else s.bf1) type (activeB s type))

/-- The floor of a type rises to an SVN, and no floor action waits for it (R395, R400). -/
def raiseFloor (k : Counter) (type svn : Nat) : Counter :=
  { k with floor := tblSet 0 k.floor type (max (tblGet 0 k.floor type) svn), pending := tblDel k.pending type }

/-- The counter record of a commit (R395, R400): the other copy becomes active, and the floor follows FLOOR. -/
def commitRecord (s : State) (type floor : Nat) : Counter :=
  let k := s.counter
  let active := if activeB s type then k.active.filter (· != type) else k.active ++ [type]
  let k := { k with active := active }
  let svn := committedSvn { s with counter := k } type
  if floor = 0 then { k with pending := tblPut k.pending type 1 }
  else if floor = 1 then raiseFloor k type svn
  else { k with pending := tblDel k.pending type }

/-- FW_COMMIT's write has completed (R400). -/
def commitDone (s : State) (c : Cmd) : State :=
  let type := fwType c
  let s := if type = 5 then s else putRecord s (commitRecord s type (fwFloor c))
  finish { s with bf0 := s.bf0.commit type (fwSlot c), bf1 := s.bf1.commit type (fwSlot c) } c.uid .ok 0 0 0 0

/-- Refusals of FW_COMMIT that its packet and queue show. -/
def fwCommitChecks (s : State) (c : Cmd) : List (Bool × Status) :=
  [(!fwPlaceOk c || fwLength c != 0 || decide (fwFloor c = 3) || (!c.expert && fwFloor c != 0), .badParam),
   (!(queueAt s c.queue).admin, .notPermitted)]

/-- Every refusal of FW_COMMIT: whether a staged copy exists is seen when its turn comes, as an earlier FW_STAGE may make one (R399). -/
def commitChecks (s : State) (c : Cmd) : List (Bool × Status) :=
  fwCommitChecks s c ++ [(!stagedOk s (fwType c) (fwSlot c), .notPermitted)]

/-- FW_COMMIT (R400, R401): as FW_STAGE, with one write. -/
def execFwCommit (q : Nat) (s : State) : Out :=
  .next (match fwWriting s q 0x0802 with
    | some (c, _) => commitDone s c
    | none => startAs s q (fun c => isFnAny 0x0802 c && fwTurn s c) fun c s =>
        checked c (commitChecks s c) (fun s => modCmd s c.uid fun c => { c with wait := .flash [] }) s)

end Sys2Proof.Machine
end

