-- ==== Sys2Proof/Machine/Units.lean ====
section
/-! DEFINITION. What a unit does with a packet as it takes it (Tables 06-5 and 06-6): home slices serve reads and writes (R237–R240,
R247), NIs take their data, cores answer the aperture (R152). The message and reduction kinds are acted on by commands of
their own. -/

namespace Sys2Proof.Machine

/-- The record of an uncorrectable block of a request (R247): it names the task or descriptor that asked. -/
def readRec (s : State) : Asker → FaultRec
  | .task p id => match taskOf (coreAt s p) id with
    | some t => taskRec s p t 0x03 .eccUncorrectable
    | none => coreFault s p 0x03 .core
  | .fetch p => fetchRec s p (fetchNext (coreAt s p))
  | _ => FaultRec.blank 0x03 .device

/-- A slice refuses a request whose block failed twice (R247). -/
def failBlock (s : State) (k : Packet) (who : Asker) (b : Nat) : State :=
  let s := match who with
    | .task p id => modTask s p id fun t => { t with attempts := 2 }
    | _ => s
  reply (ldUe s (readRec s who) b) k 0x10 4 (.nack who .eccUncorrectable)

/-- A slice answers a read (R239, R240). -/
def serveRead (s : State) (k : Packet) (who : Asker) (a n : Nat) (alloc : Bool) : State :=
  let s := dropPacket s k.id
  match firstBad s a n with
  | some b => failBlock s k who b
  | none => let bs := ldRead s a n; reply (ldTouch s a n alloc) k 0x02 n (.rdData who a bs)

/-- A slice makes a write, or drops it where it cannot merge (R239, R240, R247). -/
def serveWrite (s : State) (k : Packet) (who : Asker) (a : Nat) (alloc : Bool) (bs : List Byte) : State :=
  let s := dropPacket s k.id
  match firstUnmerged s a bs.length with
  | some b => failBlock s k who b
  | none => reply (ldWrite s a bs alloc) k 0x04 0 (.wrAck who a)

/-- A core answers an access of its aperture window (R152, Table 06-7). -/
def serveAperture (s : State) (k : Packet) (who : Asker) (offset size : Nat) (data : Option (BitVec 512)) : State :=
  let s := dropPacket s k.id
  match apPlace offset size with
  | some place =>
    let r := apAct s (dstCore k) place size data
    reply r.1 k 0x0F (if data.isSome then 0 else size) (.aptData who r.2)
  | none => s

/-- The bridge takes an aperture's answer, once (R152, R176). -/
def takeAperture (s : State) (who : Asker) (data : Option (BitVec 512)) : State :=
  if s.reqs.any fun r => r.isOf who then
    let s := endReqs s who
    match who with
    | .aperture h hart _ store => if store then s else hostLoad s h hart data
    | _ => s
  else s

/-- A packet that its unit keeps until a command acts on it. -/
def keepPacket (s : State) (k : Packet) : State :=
  { s with packets := s.packets.map fun x => if x.id = k.id then { x with delivered := true } else x }

/-- A refusal has reached a unit that waits for nothing: a slice, a reduction unit, a replicator. -/
def idleNack (k : Packet) : Bool :=
  match k.body with
  | .nack (.aperture ..) _ => false
  | .nack .. => k.dunit != 0
  | _ => false

/-- The destination unit takes a packet. -/
def takePacketAt (s : State) (k : Packet) : State :=
  match k.body with
  | .rdReq who a n alloc => serveRead s k who a n alloc
  | .wrReq who a alloc bs => serveWrite s k who a alloc bs
  | .rdData (.task p id) a bs => takeRead (dropPacket s k.id) p id a bs
  | .wrAck (.task p id) a => takeWritten (dropPacket s k.id) p id a
  | .aptReq who offset size data => serveAperture s k who offset size data
  | .aptData who data => takeAperture (dropPacket s k.id) who data
  | .toPort f who => sendFrame (dropPacket s k.id) f who
  | .fromServer f => serverReply (dropPacket s k.id) (dstCore k) f
  | _ => if idleNack k then dropPacket s k.id else keepPacket s k

end Sys2Proof.Machine
end

