-- ==== Sys2Proof/Machine/Network.lean ====
section
/-! DEFINITION. The on-panel networks (R158–R191): routing, arbitration and delivery, link errors, requests without a reply, drains,
the control and synchronisation networks, and the broadcast bus. -/

namespace Sys2Proof.Machine

/-! ## Losses -/

def countKind (s : State) (t : Nat) : State := countDrop s t fun d => { d with kind := satInc 16 d.kind }

/-- A stream whose row is lost twice ends with TIMEOUT (R176, R234). -/
def loseRow (s : State) (k : Packet) : State :=
  match k.body with
  | .bcData id .. => match s.streams.find? fun x => x.id == id with
    | some x => failStream s x .timeout
    | none => s
  | _ => s

/-- A kind that no waiting request covers. -/
def ownLoss : Body → Bool
  | .announce .. => true
  | .done .. => true
  | .nack .. => true
  | .redPart .. => true
  | .redResult .. => true
  | .bcData .. => true
  | .toPort f _ => f.kind == 0x05 || f.kind == 0x08 || f.kind == 0x10
  | _ => false

/-- A lost packet that no waiting request covers is remembered, to be issued again once (R176, R234). -/
def rememberLost (s : State) (k : Packet) : State :=
  if ownLoss k.body then
    if k.again then loseRow s k
    else { s with reqs := s.reqs ++ [{ id := s.nextId, who := .nobody, packets := [k], frames := [], attempts := 0 }],
                  nextId := s.nextId + 1 }
  else s

/-- A router discards a packet. -/
def losePacket (s : State) (k : Packet) : State := rememberLost (dropPacket s k.id) k

/-- The age of a packet in units of 1.024 µs (R177). -/
def packetAge (s : State) (k : Packet) : Nat := (s.time / 1024 % 256 + 256 - k.stamp) % 256

/-- A packet that has lived too long (R177). -/
def tooOld (s : State) (k : Packet) : Bool := decide (48 ≤ packetAge s k)

/-- It is discarded and counted. -/
def expire (s : State) (k : Packet) : State :=
  losePacket (countDrop s k.tile fun d => { d with lifetime := satInc 16 d.lifetime }) k

/-- A reserved KIND, unit or flit count (R163). -/
def badHeader (k : Packet) : Bool := k.kind == 0 || decide (0x10 < k.kind) || k.dunit == 7 || decide (4 < k.flits)

/-! ## Crossings -/

def linkAt (s : State) (t n : Nat) : NiLink := tblGet NiLink.init (tileAt s t).links n

def modLink (s : State) (t n : Nat) (f : NiLink → NiLink) : State :=
  modTile s t fun x => { x with links := tblMod NiLink.init x.links n f }

/-- Flits discarded at a failed crossing (R175). -/
def addLost (s : State) (t n k : Nat) : State := modLink s t n fun l => { l with lost := satAdd 16 l.lost k }

/-- The crossing that a packet's next hop is: tile and number (Table 06-13). -/
def crossingOf (k : Packet) : Option (Nat × Nat) :=
  match k.place, nextNode k with
  | .router t _, some (.router u _) => if t = u then none else some (t, 4 * (k.route.toNat % 8 - 1) + segmentOf k)
  | _, _ => none

/-- Flit slots of a packet: a header without payload takes one (R162; log 83, DESIGN CHOICE). -/
def flitSlots (k : Packet) : Nat := max k.flits 1

/-! ## Arbitration (R168, R170) -/

/-- Two packets are in one buffer: of a router's input port, virtual channel and buffer set. -/
def sameBuffer (x k : Packet) : Bool := x.place == k.place && inputOf x == inputOf k && x.vc == k.vc && x.bset == k.bset

/-- A buffer is first in, first out (R168). -/
def isHead (s : State) (k : Packet) : Bool :=
  match s.packets.find? fun x => x.moving && sameBuffer x k with
  | some x => x.id == k.id
  | none => false

/-- The buffer set after the next hop: set 1 from the first N or W crossing that follows an S or E crossing (R167). -/
def nextSet (k : Packet) : Bool :=
  let code := k.route.toNat % 8
  k.bset || ((crossingOf k).isSome && (k.lastHop == 2 || k.lastHop == 3) && (code == 1 || code == 4))

/-- Packets that a router holds in the buffers of an input port and virtual channel. -/
def inBuffer (s : State) (at_ : Node) (from_ : Node) (vc : Nat) : List Packet :=
  s.packets.filter fun x => x.moving && x.place == at_ && x.prev == some from_ && x.vc == vc

/-- The next input port has a packet place free (R170): two of a virtual channel and buffer set and what the panel has beyond them, and on
VC1 a further one for URG packets. A destination unit always takes a packet (log 83, DESIGN CHOICE). -/
def hasRoom (s : State) (k : Packet) : Bool :=
  match nextNode k with
  | none => true
  | some n =>
    let port := inBuffer s n k.place k.vc
    let set := port.filter fun x => x.bset == nextSet k
    let used := if k.urg || !set.any (·.urg) then set.length else set.length - 1
    decide (used < 2) || decide (used < 2 + Config.extraPlaces) || (k.vc == 1 && k.urg && !port.any (·.urg))

/-- A packet's next flit can go: it heads its buffer, and it is under way, or finds a place and no packet of its channel, set and level under
way at its output. -/
def canSend (s : State) (k : Packet) : Bool :=
  isHead s k && (decide (0 < k.sent) || (hasRoom s k && !(atOutput s k).any fun x =>
    decide (0 < x.sent) && x.vc == k.vc && x.bset == k.bset && vc0Packet x == vc0Packet k))

/-- The packet that came in by the lowest input port. -/
def lowestPort : List Packet → Option Packet
  | [] => none
  | k :: l => some (l.foldl (fun a x => if inputOf x < inputOf a then x else a) k)

/-- The first level serves input ports round-robin, a whole packet at a time. -/
def pickFirst (a : Arb) (l : List Packet) : Option Packet :=
  match l.find? fun x => decide (0 < x.sent) with
  | some x => some x
  | none => let later := l.filter fun x => decide (a.last < inputOf x); lowestPort (if later.isEmpty then l else later)

/-- A lower level goes on with the packet under way, else takes the one that came first. -/
def pickLower (l : List Packet) : Option Packet := (l.find? fun x => decide (0 < x.sent)).or l.head?

def arbAt (s : State) (o : Nat) : Arb := tblGet Arb.init s.arbs o

/-- The virtual channel that a flit slot is a minimum share of: every fourth slot of a window of 64, VC1's shares first (R170, NI_VCW;
log 83, DESIGN CHOICE). -/
def shareOwner (s : State) (t slot : Nat) : Option Nat :=
  let x := tileAt s t
  let j := slot / 4
  if slot % 4 ≠ 3 then none
  else if j < x.vc1Min then some 1
  else if j < x.vc1Min + x.vc2Min then some 2
  else if j < x.vc1Min + x.vc2Min + x.vc3Min then some 3
  else none

/-- The packet whose flit takes the next slot of an output (R170). -/
def slotPacket (s : State) (k : Packet) : Option Packet :=
  let l := (atOutput s k).filter (canSend s)
  let a := arbAt s (outputOf k)
  let lower (v : Nat) : Option Packet := pickLower (l.filter fun x => x.vc == v && !vc0Packet x)
  ((shareOwner s k.tile a.slot).bind lower).or
    ((pickFirst a (l.filter vc0Packet)).or ((lower 1).or ((lower 2).or (lower 3))))

/-! ## Routing and delivery -/

/-- A packet takes its next hop, or leaves its last router for its unit (R164–R167). -/
def advance (s : State) (k : Packet) : State :=
  let rest := s.packets.filter fun x => x.id != k.id
  match nextNode k with
  | none => { s with packets := rest ++ [{ k with sent := 0, ejected := true }] }
  | some n =>
    let crossed := (crossingOf k).isSome
    let moved : Packet := { k with place := n, prev := some k.place, sent := 0, bset := nextSet k,
                                   route := if crossed then k.route >>> 3 else k.route,
                                   lastHop := if crossed then k.route.toNat % 8 else k.lastHop }
    noteVc0 { s with packets := rest ++ [moved] } moved

/-- One flit of a packet takes a slot of its output. -/
def sendFlit (s : State) (k : Packet) : State :=
  let turn (a : Arb) : Arb := { slot := (a.slot + 1) % 64, last := if vc0Packet k then inputOf k else a.last }
  let s := { s with arbs := tblMod Arb.init s.arbs (outputOf k) turn }
  if k.sent + 1 < flitSlots k then
    { s with packets := modIf (fun x => x.id == k.id) (fun x => { x with sent := x.sent + 1 }) s.packets }
  else advance s k

/-- The router is in a fenced die, whose ports are closed (R339). -/
def inFence (s : State) : Node → Bool
  | .core t d _ => dieFenced s t d
  | .router _ _ => false

/-- The packet's next hop enters a fenced die (R163). -/
def entersFence (s : State) (k : Packet) : Bool :=
  match k.place, nextNode k with
  | .router _ _, some n => inFence s n
  | _, _ => false

/-- One flit slot of the output that a packet waits for, as the packet's router sees it (R163–R167, R170, R175, R177). -/
def routePacket (s : State) (k : Packet) : State :=
  let code := k.route.toNat % 8
  if inFence s k.place then s
  else if tooOld s k then expire s k
  else if badHeader k || decide (4 < code) then countKind (dropPacket s k.id) k.tile
  else if code ≠ 0 ∧ (neighbour k.tile code).isNone then s
  else if entersFence s k then nackPacket (dropPacket s k.id) k .dieLost
  else if (crossingOf k).any fun x => (linkAt s x.1 x.2).state == .failed then
    match crossingOf k with
    | some x => losePacket (addLost s x.1 x.2 (flitSlots k - k.sent)) k
    | none => s
  else match slotPacket s k with
    | some x => if x.id = k.id then sendFlit s k else s
    | none => s

/-- A packet that a router holds. -/
def inNetwork (s : State) (id : Nat) : Option Packet :=
  (packetOf s id).bind fun k => if k.held || k.delivered then none else some k

/-- PACKET_ROUTE (R166): of a packet that a router holds; one that waits at its NI or unit is injected once its router has a place. -/
def execPacketRoute (id : Nat) (s : State) : Out :=
  .next (match inNetwork s id with
    | some k => if k.ejected then s else routePacket s k
    | none => injectHeld s id)

/-- An earlier packet of the same path has not arrived (R168). -/
def behind (s : State) (k : Packet) : Bool :=
  s.packets.any fun x => decide (x.id < k.id) && !x.held && !x.delivered && x.src == k.src && x.sunit == k.sunit &&
    x.dst == k.dst && x.dunit == k.dunit && x.vc == k.vc

/-- The core a packet is addressed to is switched on. -/
def coreOn (s : State) (p : Nat) : Bool := pstateAt s p == .inService || pstateAt s p == .testing

/-- A unit of a partition under reset refuses requests from outside (R333); an edge port serves every partition (log 92, DEDUCED). -/
def refusedByReset (s : State) (k : Packet) : Bool :=
  match partOfTile s k.tile, bodyAsker k.body with
  | some n, some w => k.dunit != 4 && (partAt s n).state.underReset && (w.far || k.part != n)
  | _, _ => false

/-- A packet reaches its NI or unit (R163, R177, R333). -/
def deliverPacket (s : State) (k : Packet) : State :=
  if !k.ejected || behind s k then s
  else if tooOld s k then expire s k
  else if badHeader k then countKind (dropPacket s k.id) k.tile
  else if k.dunit = 0 ∧ dieFenced s k.tile (k.dst / 32 % 16) then nackPacket (dropPacket s k.id) k .dieLost
  else if k.pgen ≠ (partAt s k.part).pgen then
    countDrop (dropPacket s k.id) k.tile fun d => { d with staleGen := satInc 16 d.staleGen }
  else if refusedByReset s k then nackPacket (dropPacket s k.id) k .partitionReset
  else if k.dunit = 0 ∧ !coreOn s (dstCore k) then dropPacket s k.id
  else takePacketAt s k

/-- PACKET_DELIVER (R333). -/
def execPacketDeliver (id : Nat) (s : State) : Out :=
  .next (match inNetwork s id with
    | some k => deliverPacket s k
    | none => s)

/-- What a NI has taken in from a packet for a collective of a later issue is no packet any more (R229). -/
def takenIn (k : Packet) : Bool :=
  k.delivered && (match k.body with
    | .redResult _ _ _ _ _ _ mm _ => mm
    | _ => false)

/-- PACKET_LIFETIME_EXPIRY (R177): every packet that a router, NI or unit holds. -/
def execPacketLifetimeExpiry (id : Nat) (s : State) : Out :=
  .next (match packetOf s id with
    | some k => if !k.held && !takenIn k && tooOld s k then expire s k else s
    | none => s)

/-! ## Requests without a reply (R176) -/

/-- A packet is queued again at its NI or unit, with the header it had. -/
def injectAgain (s : State) (k : Packet) : State :=
  enqueue s { k with id := s.nextId, route := 0, bset := false, place := homeNode k.sunit k.src, prev := none, sent := 0, held := true,
                     ejected := false, delivered := false, lastHop := 0, again := true }

/-- Is a packet of the request still queued at its NI? -/
def reqHeld (s : State) (r : Req) : Bool := s.packets.any fun k => k.held && r.packets.any fun x => x.id == k.id

/-- The record of a request without an answer (R176, R319); a lasting TIMEOUT blames no unit (R338). -/
def unanswered (s : State) (r : Req) : State :=
  let tag := ((r.packets.head?).map (·.tag)).getD 0
  match r.who with
  | .fetch p => addLasting s { fetchRec s p (fetchNext (coreAt s p)) with cls := 0x06, status := some .timeout, detail := tag } none
  | .aperture .. =>
    let p := ((r.packets.head?).map dstCore).getD 0
    addLasting s { coreFault s p 0x06 .core with detail := tag } none
  | _ => s

/-- The request is issued again, once; then its operation ends with TIMEOUT. -/
def replyTimeout (s : State) (r : Req) : State :=
  let gone (s : State) : State := { s with reqs := s.reqs.filter fun x => x.id != r.id }
  if !r.frames.isEmpty || reqHeld s r then s
  else if r.attempts = 0 then each r.packets (fun k s => injectAgain s k) (gone s)
  else if r.attempts = 1 then
    let first := s.nextId
    let s := each r.packets (fun k s => injectAgain s k) s
    let upd (x : Req) : Req := if x.id = r.id then { x with attempts := 2, packets := packetsFrom s first } else x
    { s with reqs := s.reqs.map upd }
  else match r.who with
    | .task p id => match taskOf (coreAt s p) id with
      | some t => gone (taskTimeout s p t)
      | none => gone s
    | who => endAsker (unanswered (gone s) r) who .timeout

/-- REQUEST_REPLY_TIMEOUT (R176). -/
def execRequestReplyTimeout (id : Nat) (s : State) : Out :=
  .next (match s.reqs.find? fun r => r.id == id with
    | some r => replyTimeout s r
    | none => s)

/-! ## Link errors (R173–R175, R182, R259) -/

/-- The crossing carries traffic. -/
def crossingUp (s : State) (t n : Nat) : Bool :=
  let x := (linkAt s t n).state
  x == .up || x == .retraining

def linkInUse (s : State) : LinkRef → Bool
  | .crossing t n => decide (n < 16) && crossingUp s t n
  | .inDie t d a b => decide (t < 16 ∧ d < 13) && dieLinked a b
  | .vertical t d v => decide (t < 16 ∧ d < 13 ∧ v < 4)
  | .baseMesh t a b => decide (t < 16) && meshLinked a b
  | .ctrlDie t d => decide (t < 16 ∧ d < 13)
  | .ctrlTile t code => (neighbour t code).isSome && !linkFailed s t code
  | .ucie h => (hostAt s h).linkUp

/-- FLIT_CRC_FAIL (R173): a replay is asked for. -/
def execFlitCrcFail (link : LinkRef) (s : State) : Out :=
  .next (if linkInUse s link && !s.replays.contains link then { s with replays := s.replays ++ [link] } else s)

/-- A segment and its whole tile link are FAILED, in both tiles (R175). -/
def downLink (s : State) (t n : Nat) : State :=
  let e := n / 4
  let down (t e : Nat) (s : State) : State :=
    each (List.range 4) (fun k s => modLink s t (4 * e + k) fun l => { l with state := .failed, groups := [] }) s
  let s := down t e s
  match neighbour t (e + 1) with
  | some u => down u (opposite (e + 1) - 1) s
  | none => s

/-- A packet waits for the link of an edge of a tile, in either direction. -/
def queuedFor (t e : Nat) (k : Packet) : Bool :=
  k.moving && (match crossingOf k with
    | some (a, n) => (a == t && n / 4 == e) || (neighbour t (e + 1) == some a && n / 4 == opposite (e + 1) - 1)
    | none => false)

/-- Every flit queued for a failed link is discarded and counted (R175). -/
def dropQueued (s : State) (t e : Nat) : State :=
  each (s.packets.filter (queuedFor t e)) (fun k s => match crossingOf k with
    | some x => losePacket (addLost s x.1 x.2 (flitSlots k - k.sent)) k
    | none => s) s

/-- A link fails: what waits for it, its record, and new routes (R175). -/
def failLink (s : State) (t n : Nat) : State :=
  let s := dropQueued (downLink s t n) t (n / 4)
  let s := addLasting s { FaultRec.blank 0x01 .link with
    pcore := some (stackCode t 0xF), part := (partOfTile s t).getD 0, attempts := 2, detail := n } none
  reroute s true

/-- Transient: the count of a crossing, or of a link of the unit (R173, R327). Table 13-5 counts no control or UCIe flit. -/
def linkTransient (s : State) : LinkRef → State
  | .crossing t n => modLink s t n fun l => { l with transient := satInc 32 l.transient }
  | .inDie t d _ _ => modTransient s (stackUnit t d) fun x => { x with link := satInc 32 x.link }
  | .vertical t d _ => modTransient s (stackUnit t d) fun x => { x with link := satInc 32 x.link }
  | .baseMesh t _ _ => modTransient s (tileUnit t) fun x => { x with link := satInc 32 x.link }
  | _ => s

/-- Lasting: a lane group is retrained where one is named and its spare is free, else the link fails (R174, R175). The numbers of links
that are no crossing are the model's (log 45, DESIGN CHOICE), and so is the module that a UCIe flit costs (log 85, DEDUCED). -/
def linkLasting (s : State) (link : LinkRef) (group : Option Nat) : State :=
  match link with
  | .crossing t n =>
    let l := linkAt s t n
    match group with
    | some g =>
      if g < 32 ∧ !l.sparesUsed.contains g ∧ !l.groups.contains g then
        modLink s t n fun l => { l with state := .retraining, groups := l.groups ++ [g] }
      else failLink s t n
    | none => failLink s t n
  | .inDie t d a b => stackFailed s t d 0x01 (32 * a + b)
  | .vertical t d v => stackFailed s t d 0x01 v
  | .ctrlDie t d => stackFailed s t d 0x01 0
  | .baseMesh t a b => tileFailed s t 0x01 (16 * a + b)
  | .ctrlTile t code => failLink s t (4 * (code - 1))
  | .ucie h => moduleFail s h

/-- FLIT_REPLAY_RESULT (R173). -/
def execFlitReplayResult (link : LinkRef) (ok : Bool) (group : Option Nat) (s : State) : Out :=
  .next (
    if s.replays.contains link then
      let s := { s with replays := s.replays.filter (· != link) }
      if ok then linkTransient s link else linkLasting s link group
    else s)

/-- LANE_GROUP_RETRAIN_DONE (R174): the group returns with its spare wire, or the link fails. -/
def execLaneGroupRetrainDone (tile n : Nat) (ok : Bool) (s : State) : Out :=
  .next (
    let l := linkAt s tile n
    match l.state, l.groups with
    | .retraining, g :: rest =>
      let s := modLink s tile n fun l => { l with retrains := satInc 8 l.retrains }
      if ok then modLink s tile n fun l =>
        { l with groups := rest, sparesUsed := l.sparesUsed ++ [g], state := if rest.isEmpty then .up else .retraining }
      else failLink s tile n
    | _, _ => s)

/-! ## Drains (R178, R179, R200) -/

def drainAt (s : State) (id : Nat) : Option Drain := s.drains.find? fun d => d.id == id

def setPhase (s : State) (id : Nat) (x : DrainPhase) : State :=
  let upd (d : Drain) : Drain := if d.id = id then { d with phase := x } else d
  { s with drains := s.drains.map upd }

/-- A change decided too late to join a drain of its scope starts its own when that one releases; a link failure's does not wait
(R179). -/
def drainBehind (s : State) (d : Drain) : Bool :=
  !d.own && s.drains.any fun x => decide (x.id < d.id) && x.scope == d.scope && !x.own

/-- DRAIN_HOLD (R178): every NI and unit of the scope stops injecting. -/
def execDrainHold (id : Nat) (s : State) : Out :=
  .next (match drainAt s id with
    | some d =>
      if d.phase = .decided ∧ !drainBehind s d then
        let s := setPhase s id .held
        { s with cmap := { s.cmap with drainSeen := true } }
      else s
    | none => s)

/-- A packet of the scope injected before the hold is still in the network. -/
def scopeBusy (s : State) (d : Drain) : Bool :=
  s.packets.any fun k => !k.held && !k.delivered && d.scope.contains k.part

/-- The entry written: what was decided, while its route is possible, else the curators' route (R167, R181). -/
def writtenRoute (s : State) (e : Nat × Rte) : Rte :=
  let a := e.1 / 16
  let b := e.1 % 16
  if e.2.valid && !routeClear s (mayCross s a b) a (rteCodes e.2) then curatorRoute s a b else e.2

/-- An override that takes effect is recorded (R349). -/
def writeRoutes (s : State) (l : List (Nat × Rte)) : State :=
  each l (fun e s =>
    let r := writtenRoute s e
    let s := modTile s (e.1 / 16) fun t => { t with rte := tblSet Rte.init t.rte (e.1 % 16) r }
    if r.override then addProv s (overrideEntry s (e.1, r)) else s) s

/-- The entries are written once the scope is empty (Table 06-10), and copies of devices end (Table 09-4). -/
def writeDrain (s : State) (d : Drain) : State :=
  setPhase (each d.copies (fun c s => endCopy s c) (writeCats (writeRoutes s d.routes) d.cats)) d.id .written

/-- DRAIN_TABLE_WRITE (R178). -/
def execDrainTableWrite (id : Nat) (s : State) : Out :=
  .next (match drainAt s id with
    | some d => if d.phase = .held ∧ !scopeBusy s d then writeDrain s d else s
    | none => s)

/-- A command whose change has been released (R181, R287), or whose copy waited (R204, R398). -/
def released (s : State) (uid : Nat) : State :=
  match cmdOf s uid with
  | none => s
  | some c =>
    if c.fn = 0x0A00 then readCatalogue c s
    else if c.fn = 0x0800 then attest c s
    else if c.fn = 0x0103 then finish s uid .ok (lowestStep s (fld c.pkt 71 68) (fld c.pkt 67 64)) 0 0 0
    else if c.fn = 0x0702 then finish s uid .ok s.catVersion 0 0 0
    else finish s uid .ok 0 0 0 0

/-- Accessions whose entries a drain has written are made at its release (R340). -/
def releasedCats (s : State) (d : Drain) : State :=
  each (upTo 16 fun n => d.cats.any fun e => partOfL s e.1 == some n) (fun n s =>
    accessed s n ((d.cats.map (·.1)).filter fun l => partOfL s l == some n)) s

/-- DRAIN_RELEASE (R178): injection resumes, and edge ports pass on the frames they hold (R200). -/
def execDrainRelease (id : Nat) (s : State) : Out :=
  .next (match drainAt s id with
    | some d =>
      if d.phase = .written then
        let s := releaseHeld { s with drains := s.drains.filter fun x => x.id != id }
        each d.cmds (fun u s => released s u) (releasedCats (resumeFrames s) d)
      else s
    | none => s)

/-! ## Control network (R182–R184, R328) -/

/-- The core a message goes to. -/
def ctrlCore : CtrlMsg → Nat
  | .runStart p _ => p
  | .abort p _ => p
  | .stepMark p _ => p
  | .program p _ => p

/-- The command a message belongs to. -/
def ctrlCmd : CtrlMsg → Nat
  | .runStart _ r => r.cmd
  | .abort _ u => u
  | .stepMark _ m => m.cmd
  | .program _ u => u

/-- Class CFG (R183). -/
def ctrlCfg : CtrlMsg → Bool
  | .program _ _ => true
  | _ => false

/-- A message reaches its core. -/
def takeCtrl (s : State) : CtrlMsg → State
  | .runStart p r => modCore s p fun c => { c with pendingStart := some r }
  | .abort p u =>
    -- after the core's commit point the abort is not accepted (R75)
    let c := coreAt s p
    if c.run.any (·.cmd == u) || c.pendingStart.any (·.cmd == u) then modCore s p fun c => { c with abortReq := some u } else s
  | .stepMark p m => modCore s p fun c => { c with marks := c.marks ++ [m] }
  | .program _ _ => s

/-- Messages of one class to one core keep their order, and a CMD message goes before a CFG one (R183). -/
def ctrlWaits (s : State) (k : Nat) (x : CtrlMsg) : Bool :=
  (s.ctrl.take k).any (fun y => ctrlCore y == ctrlCore x && ctrlCfg y == ctrlCfg x) ||
    (ctrlCfg x && s.ctrl.any fun y => ctrlCore y == ctrlCore x && !ctrlCfg y)

/-- The tile whose hub a command's messages start from: its host die's (log 87, DESIGN CHOICE). -/
def ctrlHome (s : State) (x : CtrlMsg) : Nat :=
  match cmdOf s (ctrlCmd x) with
  | some c => hostTile c.host
  | none => s.lead

/-- The message's way is open: a route between the hubs (R182), and the control port of the core's die (R339). -/
def ctrlOpen (s : State) (x : CtrlMsg) : Bool :=
  let p := ctrlCore x
  (ctrlHome s x == tileOf p || routeValid s (ctrlHome s x) (tileOf p)) && !dieFenced s (tileOf p) (siteOf p)

/-- A curator's heartbeat reaches the lead (R328); the one of T0 or T15 that returns is the deputy (R329). -/
def hearCurator (s : State) (t : Nat) : State :=
  let c := curatorAt s t
  if c.state = .posting ∨ c.state = .restarting then
    setCurator { s with hasDeputy := s.hasDeputy || (t != s.lead && (t == 0 || t == 15)) } t
      { state := .posting, lastHeard := s.time }
  else s

/-- CONTROL_MESSAGE (R183). -/
def execControlMessage (m : CtrlRef) (s : State) : Out :=
  .next (match m with
    | .heartbeat t => hearCurator s t
    | .inFlight k =>
      match s.ctrl[k]? with
      | some x => if ctrlWaits s k x || !ctrlOpen s x then s else takeCtrl { s with ctrl := s.ctrl.eraseIdx k } x
      | none => s)

/-- The way of a panel-wide broadcast to a tile: the root's row, then the tile's column (R184). -/
def treeRoute (root t : Nat) : List Nat :=
  List.replicate (root % 4 - t % 4) 4 ++ List.replicate (t % 4 - root % 4) 2 ++
  List.replicate (root / 4 - t / 4) 1 ++ List.replicate (t / 4 - root / 4) 3

/-- The tiles that a broadcast from the lead's hub reaches. -/
def treeTiles (s : State) : List Nat :=
  upTo 16 fun t => !tileOut s s.lead && routeClear s (fun u => !tileOut s u) s.lead (treeRoute s.lead t)

/-- BROADCAST_TREE_MESSAGE (R184): every core that is switched on in the tiles reached receives the message, and each hub all of whose
cores have it acknowledges; a core that fails to receive it twice is a core fault. -/
def execBroadcastTreeMessage (words : List Dword) (failing : List Nat) (s : State) : Out :=
  let bad := failing.filter fun p => coreOn s p && (treeTiles s).contains (tileOf p)
  let acks := (treeTiles s).filter fun t => !bad.any fun p => tileOf p == t
  .next (each bad (fun p s => disposeCore (addLasting s (coreFault s p 0x01 .core) (some (coreUnit p))) p 0x01)
    { s with tree := { words := words, acks := acks } })

/-! ## Synchronisation network (R186) -/

/-- An error in two consecutive samples is lasting: a fault of the die, or of the receiving tile. -/
def syncLasting (s : State) : SyncRef → State
  | .diePort t d => stackFailed s t d 0x0B 0
  | .site t _ => tileFailed s t 0x0B 0
  | .inter t _ => tileFailed s t 0x0B 0

/-- SYNC_SAMPLE_ERROR (R186): the receiver keeps the lane values of the sample before. A sample lasts 2.67 ns (R185). -/
def execSyncSampleError (link : SyncRef) (s : State) : Out :=
  .next (
    let rest := s.syncErr.filter fun e => e.1 != link
    if (badSample s link).isSome then syncLasting { s with syncErr := rest } link
    else { s with syncErr := rest ++ [(link, s.time, liveLanes s link)] })

/-! ## Broadcast bus (R188–R190, R110, R232) -/

def streamOf (s : State) (id : Nat) : Option BStream := s.streams.find? fun x => x.id == id

def modStream (s : State) (id : Nat) (f : BStream → BStream) : State :=
  { s with streams := modIf (fun x => x.id == id) f s.streams }

/-- A die holds a member. -/
def hasMember (x : BStream) (die : Nat) : Bool := x.members.any fun m => coreUnit m.1 == die

/-- The tiles with a member, in the members' order. -/
def memberTiles (x : BStream) : List Nat := (x.members.map fun m => tileOf m.1).eraseDups

/-- Where the replicators take row k from first (R189): the row's home tile, or the tile of the root. -/
def rowTile (s : State) (x : BStream) (k : Nat) : Option Nat :=
  match x.desc, x.root with
  | some d, _ => (homeOf s (streamAddr d k)).map Home.tile
  | none, some r => some (tileOf r.1)
  | none, none => none

/-- The tile before tile t on a path. -/
def tileBefore (t : Nat) : List Nat → Option Nat
  | a :: b :: l => if b = t then some a else tileBefore t (b :: l)
  | _ => none

/-- The tree of a row (R189): the routes in force from its source tile to the member tiles, merged. A tile that two routes reach takes the row
by the first of them in the members' order (log 84, DESIGN CHOICE), so no link carries it twice. -/
def treePaths (s : State) (x : BStream) (src : Nat) : List (List Nat) :=
  ((memberTiles x).filter (· != src)).filterMap fun m =>
    if routeValid s src m then routeTiles src (rteCodes (rteAt s src m)) else none

/-- The replicators that tile t hands a row on to. -/
def treeKids (s : State) (x : BStream) (src t : Nat) : List Nat :=
  let ps := treePaths s x src
  upTo 16 fun u => u != src && ps.findSome? (tileBefore u) == some t

/-- BC_DATA to the next replicators of the tree, on the stream's virtual channel (R189, Table 06-6). -/
def passRow (s : State) (x : BStream) (src t k : Nat) (bs : List Byte) : State :=
  each (treeKids s x src t) (fun u s =>
    inject s x.part x.vc 0x0D 6 (t * 512) 6 (u * 512) 64 false (x.id % 4096) (.bcData x.id k bs)) s

/-- Row k as a replicator takes it from its source: from its home slice for a shared STREAM_IN, from the root's NI for BROADCAST (R189). A row
that cannot be read ends the members (R111, R247, R344). -/
def readRow (s : State) (x : BStream) (k : Nat) : State × Option (List Byte) :=
  match x.desc with
  | none => (s, tblLook x.rows k)
  | some d =>
    let a := streamAddr d k
    let m := x.members.headD (0, 0)
    match pathStop s m.1 a 64, firstBad s a 64 with
    | some st, _ => (failStream s x st, none)
    | none, some b =>
      let s := each x.members (fun m s => modTask s m.1 m.2 fun t => { t with attempts := 2 }) s
      (failStream (ldUe s (readRec s (.task m.1 m.2)) b) x .eccUncorrectable, none)
    | none, none =>
      let bs := ldRead s a 64
      let s := ldTouch s a 64 (!xBypass d)
      (modStream s x.id fun y => { y with rows := tblPut y.rows k bs }, some bs)

/-- A row of the stream that has come to a replicator by BC_DATA. -/
def rowArrived (s : State) (t : Nat) (x : BStream) : Option (Packet × Nat × List Byte) :=
  s.packets.findSome? fun k => if k.delivered && k.dunit == 6 && k.tile == t then (match k.body with
    | .bcData id n bs => if id = x.id then some (k, n, bs) else none
    | _ => none) else none

/-- A replicator serves at most 16 streams at once (R189). -/
def replicatorFull (s : State) (t : Nat) (x : BStream) : Bool :=
  (tblLook x.taken t).isNone && decide (16 ≤ (s.streams.filter fun y => y.id != x.id && (tblLook y.taken t).isSome).length)

/-- The replicator has one more row of the stream. -/
def countRow (s : State) (t : Nat) (x : BStream) : State :=
  modStream s x.id fun y => { y with taken := tblSet 0 y.taken t (tblGet 0 y.taken t + 1) }

/-- The next row that a replicator outside the members' tiles takes from its own slice or NI. -/
def ownRow (s : State) (t : Nat) (x : BStream) : Option Nat :=
  (upTo x.count fun k => rowTile s x k == some t)[tblGet 0 x.taken t]?

/-- A replicator takes its next row and hands it on (R189). -/
def takeRow (s : State) (t : Nat) (x : BStream) : State :=
  let member := (memberTiles x).contains t
  let next := if member then some (tblGet 0 x.taken t) else ownRow s t x
  let mine (k : Nat) : Bool := decide (k < x.count) && rowTile s x k == some t
  if replicatorFull s t x then s
  else match rowArrived s t x, next with
    | some (k, n, bs), _ =>
      if member && next != some n then (if n < tblGet 0 x.taken t then dropPacket s k.id else s)
      else
        let s := passRow (dropPacket s k.id) x ((rowTile s x n).getD t) t n bs
        if member then countRow s t x else s
    | none, some k =>
      if mine k then
        match readRow s x k with
        | (s, some bs) => countRow (passRow s x t t k bs) t x
        | (s, none) => s
      else if k < x.count then
        -- the row's home is dark: no replicator will send it
        match (rowTile s x k).map (tileOut s) with
        | some false => s
        | _ => failStream s x .dieLost
      else s
    | none, none => s

/-- REPLICATOR_ROW (R189). -/
def execReplicatorRow (tile stream : Nat) (s : State) : Out :=
  .next (match streamOf s stream with
    | some x => takeRow s tile x
    | none => s)

/-- Row k of a stream is written by a member: STREAM_IN rows have their stride, BROADCAST bytes are contiguous. -/
def takeStreamRow (s : State) (m : Nat × Nat) (k : Nat) (bs : List Byte) : State :=
  match taskOf (coreAt s m.1) m.2 with
  | none => s
  | some t =>
    let shared := t.opcode = 0x41
    let l := if shared then localRow t (64 * k / xBpr t.desc) else locAt t 1
    let off := if shared then 64 * k % xBpr t.desc else 64 * k
    let s := seeAccesses s m.1 t.id [byteAcc true l.kind (l.word + off / 4) bs.length]
    modCore s m.1 fun c => spdWrite c l.kind l.word off bs

/-- A member has its last byte. -/
def endMember (s : State) (m : Nat × Nat) : State :=
  match taskOf (coreAt s m.1) m.2 with
  | some t => if t.opcode = 0x41 then finishOk s m.1 m.2 0 [] else finishColl s m.1 t false
  | none => s

/-- Every member has written every row: the root commits, or the members of a failed root are told, and the stream ends. -/
def settleStream (s : State) (id : Nat) : State :=
  match streamOf s id with
  | none => s
  | some x =>
    if x.members.all fun m => tblGet 0 x.written m.1 == x.count then
      let s := { s with streams := s.streams.filter fun y => y.id != id }
      match x.root with
      | none => s
      | some (p, r) =>
        if x.failed then
          each x.members (fun m s => sendReply s p m 0x10 4 (x.vc == 0) (.nack (.task m.1 m.2) .eccUncorrectable)) s
        else finishOk s p r 0 []
    else s

/-- Rows in a member's receive buffer (R190). -/
def bufferedRows (x : BStream) (m : Nat × Nat) : Nat := tblGet 0 x.delivered (coreUnit m.1) - tblGet 0 x.written m.1

/-- A member writes n rows of its buffer. -/
def writeRows (s : State) (id : Nat) (m : Nat × Nat) (n : Nat) : State :=
  match streamOf s id with
  | none => s
  | some x =>
    let from_ := tblGet 0 x.written m.1
    let s := each (List.range n) (fun i s => takeStreamRow s m (from_ + i) (tblGet [] x.rows (from_ + i))) s
    modStream s id fun y => { y with written := tblSet 0 y.written m.1 (from_ + n) }

/-- Each member of a die has written some of its buffered rows since the last beat: how many is free, at least one
(R190; log 84, DESIGN CHOICE). -/
def drainBuffers (s : State) (x : BStream) (mine : List (Nat × Nat)) : State :=
  each mine (fun m s =>
    bumpFresh (writeRows s x.id m (min (bufferedRows x m) (1 + Config.freeNat s.fresh % 32))) 1) s

/-- The rows of the next beat to a die: up to four that its replicator has. -/
def beatRows (x : BStream) (die : Nat) : Nat := min 4 (tblGet 0 x.taken (die / 13) - tblGet 0 x.delivered die)

/-- Every member on the die has room for the next beat: each holds 32 rows (R190). -/
def beatFits (x : BStream) (die : Nat) : Bool :=
  (x.members.filter fun m => coreUnit m.1 == die).all fun m => decide (bufferedRows x m + beatRows x die ≤ 32)

/-- A beat of the stream can go to the die. -/
def beatReady (x : BStream) (die : Nat) : Bool := hasMember x die && decide (0 < beatRows x die) && beatFits x die

/-- A die's channel takes beats round-robin by stream (R189): the stream's turn has come. -/
def beatTurn (s : State) (x : BStream) (die : Nat) : Bool :=
  let last := tblGet 0 s.lastBeat die
  let ready := (s.streams.filter fun y => beatReady y die).map (·.id)
  let later := ready.filter fun i => decide (last < i)
  let l := if later.isEmpty then ready else later
  l.all fun i => decide (x.id ≤ i)

/-- A die has the last row: its members write what they hold and end (R232). -/
def endDie (s : State) (x : BStream) (mine : List (Nat × Nat)) : State :=
  let s := each mine (fun m s => writeRows s x.id m (x.count - tblGet 0 x.written m.1)) s
  settleStream (if x.failed then s else each mine (fun m s => endMember s m) s) x.id

/-- The next rows go to the members of a die. -/
def sendBeat (s : State) (x : BStream) (die : Nat) : State :=
  let upto := tblGet 0 x.delivered die + beatRows x die
  let mine := x.members.filter fun m => coreUnit m.1 == die
  let s := modStream { s with lastBeat := tblSet 0 s.lastBeat die x.id } x.id fun y =>
    { y with delivered := tblSet 0 y.delivered die upto, resent := y.resent.filter (· != die) }
  if upto = x.count then endDie s x mine else s

/-- A beat that fails its CRC is resent once (R190). -/
def failBeat (s : State) (x : BStream) (die : Nat) : State :=
  if x.resent.contains die then
    stackFailed (modStream s x.id fun y => { y with resent := y.resent.filter (· != die) }) (die / 13) (die % 13) 0x01 4
  else modStream s x.id fun y => { y with resent := y.resent ++ [die] }

/-- The next beat of a stream to a die, once the members have room and the stream's turn has come; none to a fenced die (R190, R339). -/
def beat (s : State) (x : BStream) (die : Nat) (ok : Bool) : State :=
  let mine := x.members.filter fun m => coreUnit m.1 == die
  let s := drainBuffers s x mine
  match streamOf s x.id with
  | some x =>
    if x.failed ∧ tblGet 0 x.delivered die = x.count then endDie s x mine
    else if beatReady x die && beatTurn s x die then (if ok then sendBeat s x die else failBeat s x die)
    else s
  | none => s

/-- BROADCAST_BEAT (R190). -/
def execBroadcastBeat (tile stream site : Nat) (ok : Bool) (s : State) : Out :=
  .next (match streamOf s stream with
    | none => s
    | some x => if site < 13 ∧ hasMember x (stackUnit tile site) ∧ !dieFenced s tile site then beat s x (stackUnit tile site) ok else s)

end Sys2Proof.Machine
end

