-- ==== Sys2Proof/Machine/PowerOps.lean ====
section
/-! DEFINITION. The power-fail response and its recovery (R416–R421, R438), and the loss of power (R414). -/

namespace Sys2Proof.Machine

/-- Every domain goes to the step it is to run. -/
def retargetAll (s : State) : State := each (List.range 16) (fun n s => if partDefined s n then retargetPart s n else s) s

/-- The provenance entry of a power event (Table 18-4). -/
def powerEntry (s : State) (cause us commands : Nat) : State :=
  addProv s { Prov.blank 0x0B with
    detail := min s.power.vmin (2 ^ 16 - 1) * 2 ^ 208 + min s.power.eventPin (2 ^ 16 - 1) * 2 ^ 192 +
      min us (2 ^ 32 - 1) * 2 ^ 160 + commands % 2 ^ 32 * 2 ^ 128 + cause }

/-- Partitions that are defined and not withdrawn. -/
def activeParts (s : State) : List Nat := upTo 16 fun n => partDefined s n && (partAt s n).state != .withdrawn

/-- A STEP_MARK that has passed its commit point completes with its own status though its cores are reset (R418). -/
def endMarks (s : State) (n : Nat) : State :=
  each (s.cmds.filter fun c => c.started && c.fn == 0x0103 && cmdPart s c.fn c.pkt == some n)
    (fun c s => finish s c.uid .ok (lowestStep s n (fld c.pkt 67 64)) 0 0 0) s

/-- A partition joins a response: its reset begins and is not counted, a reset in progress is not counted again, and accessions
in progress begin again at the release (R418, R420). -/
def powerReset (s : State) (n : Nat) (st : Status) : State :=
  let before := partAt s n
  let s := endMarks (settleGroups (failRuns s n st)) n
  let s := each (before.pending.filterMap (·.spare)) (fun p s => emptyCore (setPstate s p .spare) p) s
  let again (e : Pending) : Pending := { e with spare := none, passed := false }
  let s := modPart (startResetAs s n st) n fun p =>
    { p with pending := before.pending.map again,
             resetsTotal := if before.state = .resetting then before.resetsTotal else p.resetsTotal,
             decidedAt := if before.state = .resetting then before.decidedAt else s.time }
  each (pcoresOf s n) (fun p s => modCore s p fun c => { c with stages := 0 }) s

/-- A command that a power-fail response ends: one short of its commit point, and a FW_STAGE or FW_COMMIT whose last flash write has not
completed (R401, R418). -/
def powerFails (c : Cmd) : Bool := !pastCommit c || (match c.wait with
  | .flash _ => true
  | _ => false)

/-- A response, or the 100 ms wait after it, is in progress: a further cause joins it (R420). -/
def responding (s : State) : Bool := s.power.pfw && !s.power.recovering

/-- The power-fail response (Table 18-2). In FENCED only the entry is written; a second cause joins the response in progress
(R420). -/
def powerFail (s : State) (cause us : Nat) : State :=
  if s.service.ph = 3 then
    if responding s then s else powerEntry { s with power := { s.power with orderly := true } } cause us 0
  else if s.service.ph ≠ 2 ∨ responding s then s
  else
    let s := stopStart s
    let hit := (s.cmds.filter powerFails).length
    let s := { s with power := { s.power with pfw := true, pfwSeen := true, recovering := false, pfwSince := s.time,
                                              pfwHighSince := none, failed := hit, orderly := true } }
    let s := each (activeParts s) (fun n s => powerReset s n .powerFail) s
    let s := each (s.cmds.filter powerFails) (fun c s => stopCmd s c .powerFail) s
    powerEntry s cause us hit

/-- The event's figures: the lowest voltage and the input power when it began; a voltage that the event's row does not give is
free (log 6, DESIGN CHOICE). -/
def powerEvent (s : State) (mv : Option Nat) : State :=
  let v := mv.getD (Config.freeNat s.fresh % 2 ^ 16)
  bumpFresh { s with power := { s.power with vmin := v, eventPin := s.power.pin } } 1

/-- The recovery ends with the release of the last partition (R419). -/
def endRecovery (s : State) : State :=
  if s.power.pfw && s.power.recovering && (List.range 16).all fun n => (partAt s n).state != .resetting then
    let us := (s.power.pfwHighSince.getD s.time - s.power.pfwSince) / 1000
    let s := { s with power := { s.power with pfw := false, recovering := false, orderly := false } }
    retargetAll (powerEntry s 4 us s.power.failed)
  else s

/-- The wait is over: compute stacks are switched on and the resets go on (R419). A start that stopped does not resume. -/
def beginRecovery (s : State) : State :=
  if s.power.pfw && s.power.pfwN && !s.power.sag && !s.power.recovering && s.service.ph == 2 && s.start.stage == .released then
    let s := { s with power := { s.power with recovering := true } }
    let on := upTo 3744 fun p => pstateAt s p == .inService
    endRecovery (each on (fun p s => modCore s p fun c => { c with stages := 8 }) s)
  else s

/-- The wiring that training found, while the training cache holds it (R174, R378). -/
def keptWires (s : State) : Tbl TileNet :=
  let wires (t : TileNet) : TileNet := { TileNet.init with links := t.links.map fun e =>
    (e.1, { NiLink.init with sparesUsed := e.2.sparesUsed }) }
  if s.trainCache.isSome then (s.tiles.map fun e => (e.1, wires e.2)).filter fun e => e.2 != TileNet.init else []

/-- What a loss of the supply leaves: boot flash, with its logs, records and counters, the wiring that training found, and the
model's own fields (R367, R420). -/
def powerLoss (s : State) : State :=
  { State.reset with
    pending := s.pending, fresh := s.fresh, order1T := s.order1T, provBF0 := s.provBF0, provBF1 := s.provBF1,
    provNext := s.provNext, retired := s.retired, replaced := s.replaced, bf0 := { s.bf0 with alive := true },
    bf1 := { s.bf1 with alive := true }, counter := s.counter, trainCache := s.trainCache, tiles := keptWires s,
    power := { State.reset.power with pwrGood := false, pfwN := s.power.pfwN, orderly := s.power.orderly },
    start := { State.reset.start with stage := .off } }

/-- A panel reset with the rails up (R367): the LPDDR5X contents stay too, with their check bytes and poison; what is written
in caches is lost. -/
def panelReset (s : State) : State :=
  let kept := (s.devices.map fun e => (e.1, { Device.init with poison := e.2.poison })).filter fun e => e.2 != Device.init
  { powerLoss s with
    mem := s.mem, bad := s.bad, devices := kept,
    power := { State.reset.power with pwrGood := s.power.pwrGood, pfwN := s.power.pfwN, vin := s.power.vin, orderly := true },
    start := { State.reset.start with stage := if s.power.pwrGood then .inReset else .off, fromPower := s.start.fromPower } }

end Sys2Proof.Machine
end

