-- ==== Sys2Proof/Machine/Reset.lean ====
section
/-! DEFINITION. The events of partition resets, accessions, fences, curators and the lead, and the hourly summary (R322,
R328, R329, R336–R342, R348, R349, R359). -/

namespace Sys2Proof.Machine

/-! ## Resets -/

/-- A decided reset starts (Table 13-9). -/
def startDecided (s : State) (n : Nat) : State :=
  let p := partAt s n
  if p.decided.isSome && p.state != .withdrawn && p.state != .undefined && !s.power.pfw then startReset s n else s

/-- PARTITION_RESET_START (R334–R336). -/
def execPartitionResetStart (part : Nat) (s : State) : Out := .next (startDecided s part)

/-- The reset check has run; `failing` are the catalogue cores that did not pass it, `second` those that passed its second run
(R319, R336, R340). From a power-fail response to
its recovery no reset goes on (R419). -/
def releaseReset (s : State) (n : Nat) (failing second : List Nat) : State :=
  if (partAt s n).state = .resetting && (!s.power.pfw || s.power.recovering) then
    endRecovery (releasePart s n ((catCores s n).filter fun p => failing.contains p &&
      !(partAt s n).failedCores.contains p && !(partAt s n).failedStacks.contains (coreUnit p))
      ((catCores s n).filter fun p => second.contains p && !failing.contains p))
  else s

/-- PARTITION_RESET_RELEASE (R336). -/
def execPartitionResetRelease (part : Nat) (failing second : List Nat) (s : State) : Out :=
  .next (releaseReset s part failing second)

/-- The end of a hold for debug (R348): its reset was counted when it began. -/
def endHold (s : State) (n : Nat) : State :=
  let p := partAt s n
  if p.state = .held ∧ p.decided = none then
    modPart s n fun p => { p with decided := some (true, false), decidedAt := s.time }
  else s

/-- HOLD_LIMIT_EXPIRY (R348). -/
def execHoldLimitExpiry (part : Nat) (s : State) : Out := .next (endHold s part)

/-! ## Accessions (R340) -/

/-- The logical core whose spare is under test. -/
def underTest (s : State) (n l : Nat) : Option (Pending × Nat) :=
  if (partAt s n).state = .accessioning then
    ((partAt s n).pending.find? fun e => e.lcore == l && !e.passed).bind fun e => e.spare.map fun c => (e, c)
  else none

/-- A spare has passed: its entry is to be written in a drain, those of one lost stack in one (R200, R340). -/
def accessionDone (s : State) (n l : Nat) (second : Bool) : State :=
  match underTest s n l with
  | none => s
  | some (e, c) =>
    let s := if second then katAgain s c else s
    let mark (x : Pending) : Pending := if x.lcore = l then { x with passed := true } else x
    let s := modPart s n fun p => { p with pending := p.pending.map mark }
    if !e.stack then addDrain s false [] [(l, catEntry l c)] [] []
    else
      let mates := (partAt s n).pending.filter fun x => x.stack && coreUnit x.former == coreUnit e.former
      if mates.all (·.passed) then
        addDrain s false [] (mates.filterMap fun x => x.spare.map fun c => (x.lcore, catEntry x.lcore c)) [] []
      else s

/-- ACCESSION_COMPLETE (R340). -/
def execAccessionComplete (part l : Nat) (second : Bool) (s : State) : Out := .next (accessionDone s part l second)

/-- Spares for the accessions of a partition that have none; without one the partition escalates (R340). -/
def spareOrEscalate (s : State) (n former : Nat) : State :=
  let r := stageSpares s n
  if 0 < r.2 then exhausted r.1 n former else r.1

/-- The accessions of a logical core have no spare. -/
def unspare (l : Nat) (x : Pending) : Pending := if x.lcore = l then { x with spare := none } else x

/-- A spare has failed its known-answer run: it is deaccessioned, and the next spare of R201 is tried (R340). -/
def accessionFail (s : State) (n l word : Nat) : State :=
  match underTest s n l with
  | none => s
  | some (e, c) =>
    let s := retireCore (katFail s c (some word)) c
    spareOrEscalate (modPart s n fun p => { p with pending := p.pending.map (unspare l) }) n e.former

/-- ACCESSION_KAT_FAIL (R340, R342). -/
def execAccessionKatFail (part l word : Nat) (s : State) : Out := .next (accessionFail s part l word)

/-- Staging of a spare for a straggler (R359 step 1): the known-answer run of the spare that R201 chooses, capped spares passed
over. -/
def stageStraggler (s : State) (p : Nat) (run : KatResult) : State :=
  match logOf s p with
  | none => s
  | some l =>
    let n := (partOfL s l).getD 0
    let q := partAt s n
    if q.state = .inService ∧ q.auto ∧ capped s p ∧ !(q.staged.any fun x => x.1 == p) then
      match chooseSpare s l p false (capped s) with
      | some c =>
        let s := if run = .second then katAgain s c else s
        if run ≠ .fail then modPart (noteSpares (setPstate s c .testing) (tileOf c)) n fun q => { q with staged := q.staged ++ [(p, c)] }
        else retireCore (katFail s c none) c
      | none => s
    else s

/-- STRAGGLER_STAGING (R359). -/
def execStragglerStaging (p : Nat) (run : KatResult) (s : State) : Out := .next (stageStraggler s p run)

/-! ## Units -/

/-- The curator's check of a word that failed twice (R322), once the core is IDLE: written with zero and read back. -/
def rewriteCheck (s : State) (p : Nat) (k : MemKind) (w : Nat) (clean : Bool) : State :=
  let c := coreAt s p
  if c.seq = .idle ∧ c.failing.contains (k, w) then
    if clean then modCore s p fun c => spdWrite c k w 0 [0, 0, 0, 0]
    else
      let zero (c : Core) : Core := setSpd c k (memWrite (spd c k) (4 * w) [0, 0, 0, 0])
      let s := modCore s p zero
      let s := addLasting s { coreFault s p 0x02 .core with memkind := memCode k, addr := w } (some (coreUnit p))
      disposeCore s p 0x02
  else s

/-- SPD_WORD_REWRITE_CHECK (R322). -/
def execSpdWordRewriteCheck (p : Nat) (kind : MemKind) (word : Nat) (clean : Bool) (s : State) : Out :=
  .next (rewriteCheck s p kind word clean)

/-- The class recorded for a fence (Table 13-3); the spec does not say which class a further fault of die scope carries
(log 6, DESIGN CHOICE). -/
def fenceClass (s : State) : FenceCause → Nat
  | .lossOfLock => 0x09
  | .lossOfFraming => 0x0A
  | .dieReset => 0x0A
  | .dieFault => 1 + Config.freeNat s.fresh % 0x13

/-- The die runs: a core of it is in service, spare or under test. -/
def diePowered (s : State) (t d : Nat) : Bool :=
  decide (t < 16 ∧ d < 13) && (siteCores t d).any fun p =>
    pstateAt s p == .inService || pstateAt s p == .spare || pstateAt s p == .testing

/-- A die is fenced, recorded and disposed of (R338, R339). -/
def fenceFor (s : State) (t d : Nat) (cause : FenceCause) : State :=
  if diePowered s t d && !dieFenced s t d then stackFailed (bumpFresh s 1) t d (fenceClass s cause) 0 else s

/-- DIE_FENCE (R339). -/
def execDieFence (tile site : Nat) (cause : FenceCause) (s : State) : Out := .next (fenceFor s tile site cause)

/-! ## Curators and the lead (R328, R329) -/

/-- The lead has heard nothing for 10 ms: it restarts the curator. A lead without a deputy that falls silent stays silent. -/
def silence (s : State) (t : Nat) : State :=
  if (curatorAt s t).state != .posting then s
  else if t != s.lead then
    modCurator { s with hasDeputy := s.hasDeputy && !(t == 0 || t == 15) } t fun c => { c with state := .restarting }
  else if s.hasDeputy then s
  else modCurator s t fun c => { c with state := .lost }

/-- CURATOR_SILENCE (R328). -/
def execCuratorSilence (tile : Nat) (s : State) : Out := .next (silence s tile)

/-- The restarted curator has not posted within 200 ms: a lasting fault of its tile. -/
def restartTimeout (s : State) (t : Nat) : State :=
  if (curatorAt s t).state = .restarting then
    tileFailed (modCurator s t fun c => { c with state := .lost }) t 0x0D 0
  else s

/-- CURATOR_RESTART_TIMEOUT (R328). -/
def execCuratorRestartTimeout (tile : Nat) (s : State) : Out := .next (restartTimeout s tile)

/-- The new lead restarts a reset in progress from its start: the generation advances again (R337). -/
def restartReset (s : State) (n : Nat) : State :=
  let before := partAt s n
  if before.state = .resetting then
    modPart (startReset s n) n fun p =>
      { p with resetsTotal := before.resetsTotal, decided := before.decided, accessions := before.accessions }
  else s

/-- Quotes in progress are taken again by the new lead (R397). -/
def retakeQuotes (s : State) : State :=
  let again (c : Cmd) : Cmd := if c.fn = 0x0800 ∧ c.started then { c with retried := true } else c
  { s with cmds := s.cmds.map again }

/-- The deputy takes the lead (R329): resets in progress begin again, quotes in progress are taken again (R397), the former lead's
curator is restarted, and too many takeovers end service (R342). -/
def takeover (s : State) : State :=
  if !s.hasDeputy then s
  else
    let old := s.lead
    let new := 15 - old
    let s := modCurator { s with lead := new, hasDeputy := false } old fun c =>
      { c with state := if (tpwrAt s old).dark then .lost else .restarting }
    let s := addProv (retakeQuotes s) { Prov.blank 0x09 with detail := new }
    let s := each (List.range 16) (fun n s => restartReset s n) s
    let recent := (s.leadFails ++ [s.time]).filter fun t => decide (s.time < t + s.limits.leadWindow * 60000000000)
    let s := { s with leadFails := recent }
    if s.limits.leadLimit ≤ recent.length then outOfService s 0x0D else s

/-- LEAD_TAKEOVER (R329). -/
def execLeadTakeover (s : State) : Out := .next (takeover s)

/-! ## The hourly summary (R248, R349) -/

/-- The hour's increments of a unit. -/
def hourIncrements (s : State) (u : Nat) : Transient :=
  let a := transientAt s u
  let b := tblGet Transient.init s.hourly u
  { lasting := a.lasting - b.lasting, timeout := a.timeout - b.timeout, kat := a.kat - b.kat, task := a.task - b.task,
    ecc := a.ecc - b.ecc, link := a.link - b.link }

/-- A unit had transient errors in the hour. -/
def hadTransient (t : Transient) : Bool := t.timeout + t.kat + t.task + t.ecc + t.link != 0

/-- One unit's summary entry. -/
def summarise (s : State) (u : Nat) : State :=
  let d := hourIncrements s u
  if hadTransient d then
    let stack : Bool := u < 208
    let t := if stack then u / 13 else u - 208
    addProv s { Prov.blank 0x02 with
      scope := if stack then 1 else 2, pcore := stackCode t (if stack then u % 13 else 0xF),
      part := (partOfTile s t).getD 0, detail := transientWord d }
  else s

/-- TRANSIENT_SUMMARY (R349): an entry for each unit, and a new hour begins, for the devices' corrected errors too (R248). -/
def execTransientSummary (s : State) : Out :=
  .next (
    let s := each (List.range 224) (fun u s => summarise s u) s
    let s := { s with hourly := s.transients }
    each (s.devices.map (·.1)) (fun d s => modDevice s d fun x => { x with ceHourStart := x.ce }) s)

end Sys2Proof.Machine
end

