-- ==== Sys2Proof/Machine/Service.lean ====
section
/-! DEFINITION. The service contacts: phase TEST with its TAP (R471, R472) and the I3C management target (R473). -/

namespace Sys2Proof.Machine

/-! ## Contacts (R464–R470) -/

/-- Tile rails are up: PWR_GOOD holds (R366). -/
def railsUp (s : State) : Bool := s.power.pwrGood

/-- FLOW_REQ at this instant: high for f × 1.25 µs of every 100 µs (R470). -/
def flowLevel (s : State) : Bool := decide (s.time % 100000 < 1250 * s.thermal.flow)

/-- What the panel drives on contact SVC i (Table 21-4, R465, R470); none where it drives nothing, and TDO and the I3C bus as their shifts
and transfers go. -/
def contactOut (s : State) (i : Nat) : Option Bool :=
  let v := s.service
  if !railsUp s then none
  else if i = 46 then some (v.ph % 2 == 1)
  else if i = 47 then some (v.ph / 2 % 2 == 1)
  else if i = 45 then some v.faultN
  else if v.ph < 2 then none
  else if i = 2 then some (serviceReqN s)
  else if i = 3 then some !s.thermal.warn
  else if i = 4 then some v.heartbeat
  else if i = 5 then (if v.ph = 2 then some (flowLevel s) else none)
  else if 6 ≤ i ∧ i ≤ 9 then some true
  else none

/-! ## TEST -/

def inTest (s : State) : Bool := s.service.ph == 1 && s.rstN

/-- Header-switch stages of a compute stack. -/
def setStack (s : State) (t d stages : Nat) : State :=
  each (siteCores t d) (fun p s => modCore s p fun c => { c with stages := stages }) s

/-- TEST_PHASE_EMERGENCY (R471): every compute-stack header switch opens; PH stays 01 and nothing is written. -/
def execTestPhaseEmergency (s : State) : Out :=
  .next (if inTest s then
      let s := each (List.range 16) (fun t s => each (List.range 13) (fun d s => setStack s t d 0) s) s
      { s with service := { s.service with stacksOn := [] } }
    else s)

/-! ## The TAP -/

/-- Bits of a number, the first to be shifted out first. -/
def scanBits (n w : Nat) : List Bool := (List.range w).map fun i => bit n i

/-- The level that boundary-scan cell i captures: SVC00–SVC45, PANEL_RST_N, PWR_GOOD (R472). -/
def cellLevel (s : State) (i : Nat) : Bool :=
  if i = 44 then s.power.pfwN
  else if i = 45 then (if s.service.extest then s.service.pins[45]! else s.service.faultN)
  else if i = 46 then s.rstN
  else if i = 47 then s.power.pwrGood
  else Config.contactLevel i

/-- An instruction is scanned in, and the data register shifts out some bits. -/
def tapScan (s : State) (ir : Nat) (out : List Bool) : State :=
  { s with service := { s.service with tapIr := ir, extest := ir == 0, tdo := out } }

/-- What a data register that the panel only takes from the tray shifts out is not stated: free bits (log 8, PRESUMED). -/
def tapTake (s : State) (ir w : Nat) : State :=
  let out := (freeBytes s (ceilDiv w 8)).flatMap fun b => scanBits b.toNat 8
  bumpFresh (tapScan s ir (out.take w)) (ceilDiv w 8)

/-- A boundary scan captures the cells and updates them. -/
def boundaryScan (s : State) (ir : Nat) (b : BitVec 48) : State :=
  let s := tapScan s ir ((List.range 48).map (cellLevel s))
  { s with service := { s.service with pins := b } }

/-- EXTEST (R472): the cells drive the contacts. -/
def execExtest (b : BitVec 48) (s : State) : Out := .next (if inTest s then boundaryScan s 0x00 b else s)

/-- SAMPLE/PRELOAD (R472): the cells are captured and loaded and drive nothing. -/
def execSamplePreload (b : BitVec 48) (s : State) : Out := .next (if inTest s then boundaryScan s 0x01 b else s)

/-- The IDCODE word (R472). -/
def idcodeWord : Nat := Config.panelRevision.toNat * 2 ^ 28 + 0x3072 * 2 ^ 12 + Config.jtagVendor.toNat * 2 + 1

/-- IDCODE (R472). -/
def execIdcode (s : State) : Out := .next (if inTest s then tapScan s 0x02 (scanBits idcodeWord 32) else s)

/-- DIE_SELECT (R472): a reserved number selects no die (Table 21-7). -/
def execDieSelect (die : Nat) (s : State) : Out :=
  .next (if inTest s then
      let s := tapTake s 0x10 9
      let n := die % 512
      { s with service := { s.service with tapDie := if n < 454 then some n else none } }
    else s)

/-- DIE_STANDALONE (R472): the selected die is isolated from its neighbours. -/
def execDieStandalone (s : State) : Out :=
  .next (if inTest s then
      let s := tapTake s 0x11 1
      match s.service.tapDie with
      | some d =>
        let l := s.service.standalone
        { s with service := { s.service with standalone := if l.contains d then l else l ++ [d] } }
      | none => s
    else s)

/-- LOOPBACK (R472): a port of the selected die returns its transmit to its receive. -/
def execLoopback (port : Nat) (s : State) : Out :=
  .next (if inTest s then
      let s := tapTake s 0x12 8
      match s.service.tapDie with
      | some d =>
        let l := s.service.loopbacks
        let x := (d, port % 256)
        { s with service := { s.service with loopbacks := if l.contains x then l else l ++ [x] } }
      | none => s
    else s)

/-- STACK_POWER (R472): a request sooner than 50 µs after the previous one, whose 8 stages it would meet, is refused. -/
def execStackPower (on : Bool) (tile site : Nat) (s : State) : Out :=
  .next (if inTest s then
      let s := tapTake s 0x13 9
      let early : Bool := match s.service.lastStack with
        | some t => decide (s.time < t + 50000)
        | none => false
      if early ∨ 16 ≤ tile ∨ 13 ≤ site then s
      else
        let k := stackUnit tile site
        let rest := s.service.stacksOn.filter (· != k)
        let s := setStack s tile site (if on then 8 else 0)
        { s with service := { s.service with stacksOn := if on then rest ++ [k] else rest, lastStack := some s.time } }
    else s)

/-- What FLASH_ACCESS writes in a die. A copy written so is not one staged for FW_COMMIT. -/
def Flash.write (f : Flash) (activeB : Nat → Bool) : FlashWrite → Flash
  | .image kind b bs =>
    let x := (tblLook f.images kind).getD ImagePair.none
    let staged := x.staged && b == activeB kind
    let y : ImagePair := if b then { x with b := bs, staged := staged } else { x with a := bs, staged := staged }
    { f with images := tblPut f.images kind y }
  | .charter slot bs =>
    { f with charters := tblPut f.charters slot bs, stagedCharters := f.stagedCharters.filter (· != slot) }

/-- FLASH_ACCESS (R370, R472). -/
def execFlashAccess (die : Nat) (write : FlashWrite) (s : State) : Out :=
  .next (if inTest s then
      let s := tapTake s 0x14 1
      if die = 0 then { s with bf0 := if s.bf0.alive then s.bf0.write (activeB s) write else s.bf0 }
      else { s with bf1 := if s.bf1.alive then s.bf1.write (activeB s) write else s.bf1 }
    else s)

/-- BYPASS (R472), which the reserved instructions act as: the one-bit bypass register captures 0, and the TAP of a selected
die shifts out before it. -/
def execBypass (code : Nat) (s : State) : Out :=
  .next (if inTest s then
      match s.service.tapDie with
      | some d => bumpFresh (tapScan s (code % 256) [Config.dieTap d s.fresh, false]) 1
      | none => tapScan s (code % 256) [false]
    else s)

/-- TAP_TEST_LOGIC_RESET (R472): IDCODE is selected. -/
def execTapTestLogicReset (s : State) : Out := .next (if inTest s then tapScan s 0x02 [] else s)

/-! ## The I3C target (R473) -/

/-- The target works in RUN and FENCED, from the tile that drives the contacts (R463). -/
def i3cOn (s : State) : Bool := s.rstN && decide (2 ≤ s.service.ph) && !(tpwrAt s s.lead).dark

def setI3cAddr (s : State) (a : Option (BitVec 7)) : State := { s with service := { s.service with i3cAddr := a } }

/-- Bytes the target sends. -/
def i3cSend (s : State) (bs : List Byte) : State := { s with service := { s.service with i3cReply := bs } }

/-- The provisional ID. -/
def i3cPid (s : State) : Nat :=
  Config.mipiVendor.toNat * 2 ^ 33 + 0x3072 * 2 ^ 16 + s.straps.traySlot % 256 * 2 ^ 8

/-- ENTDAA (R473): a target without a dynamic address sends its identity and takes the address. -/
def execEntdaa (addr : BitVec 7) (s : State) : Out :=
  .next (if i3cOn s ∧ s.service.i3cAddr = none then
      setI3cAddr (i3cSend s (beBytes 6 (i3cPid s) ++ [Config.i3cBcr, Config.i3cDcr])) (some addr)
    else s)

/-- SETDASA (R473): the static address 0x5A takes a dynamic one. -/
def execSetdasa (target addr : BitVec 7) (s : State) : Out :=
  .next (if i3cOn s ∧ target = 0x5A ∧ s.service.i3cAddr = none then setI3cAddr s (some addr) else s)

/-- RSTDAA (R473). -/
def execRstdaa (s : State) : Out := .next (if i3cOn s then setI3cAddr s none else s)

/-- The target answers to its dynamic address. -/
def i3cAddressed (s : State) : Bool := i3cOn s && s.service.i3cAddr.isSome

/-- GETPID (R473). -/
def execGetpid (s : State) : Out := .next (if i3cAddressed s then i3cSend s (beBytes 6 (i3cPid s)) else s)

/-- GETBCR (R473): a value the spec leaves to the part (log 8, PRESUMED). -/
def execGetbcr (s : State) : Out := .next (if i3cAddressed s then i3cSend s [Config.i3cBcr] else s)

/-- GETDCR (R473): likewise. -/
def execGetdcr (s : State) : Out := .next (if i3cAddressed s then i3cSend s [Config.i3cDcr] else s)

/-- GETSTATUS (R473): two bytes that the spec does not lay out (log 8, PRESUMED). -/
def execGetstatus (s : State) : Out :=
  .next (if i3cAddressed s then bumpFresh (i3cSend s (freeBytes s 2)) 2 else s)

/-- Events that the target has: in-band interrupts (bit 0) and Hot-Join (bit 3); log 8, PRESUMED. -/
def i3cEventMask : BitVec 8 := 0x09

/-- ENEC (R473). -/
def execEnec (b : BitVec 8) (s : State) : Out :=
  .next (if i3cOn s then
      { s with service := { s.service with i3cEvents := s.service.i3cEvents ||| (b &&& i3cEventMask) } }
    else s)

/-- DISEC (R473). -/
def execDisec (b : BitVec 8) (s : State) : Out :=
  .next (if i3cOn s then { s with service := { s.service with i3cEvents := s.service.i3cEvents &&& ~~~b } } else s)

/-- I3C_PRIVATE_WRITE (R473): a register index. -/
def execI3cPrivateWrite (index : BitVec 8) (s : State) : Out :=
  .next (if i3cAddressed s then { s with service := { s.service with i3cIndex := index.toNat } } else s)

/-- The register of an index. -/
def i3cRegister (s : State) (i : Nat) : Nat :=
  if i = 0 then idWord s
  else if i = 1 then s.time
  else if i = 2 then stateWord s
  else if i = 3 then startWord s
  else if i = 4 then pwrWord s
  else if i = 5 then thermWord s
  else if i = 6 then clkStatus s
  else if i = 7 then svcWord s
  else if i = 8 then (mailboxAt s 0).hbeat.toNat
  else if 16 ≤ i ∧ i < 32 then partStatus s (i - 16)
  else 0

/-- I3C_PRIVATE_READ (R473): 8 bytes, little-endian; the index advances. -/
def execI3cPrivateRead (s : State) : Out :=
  .next (if i3cAddressed s then
      let i := s.service.i3cIndex
      let s := i3cSend s (leBytes 8 (i3cRegister s i))
      { s with service := { s.service with i3cIndex := (i + 1) % 256 } }
    else s)

/-- I3C_HOT_JOIN (R473): once after the entry into RUN, without a dynamic address. -/
def execI3cHotJoin (s : State) : Out :=
  .next (if i3cOn s ∧ s.service.ph = 2 ∧ s.service.i3cAddr = none ∧ s.service.i3cEvents.getLsbD 3 ∧
      !s.service.hotJoined then
      { s with service := { s.service with hotJoined := true } }
    else s)

/-- PST_SVC[18:16] and SR_CAUSE, which interrupts follow. -/
def ibiLevels (s : State) : BitVec 11 :=
  BitVec.ofNat 11 (s.service.srCause.toNat * 8 + flagAt (!s.thermal.warn) 2 + flagAt (serviceReqN s) 1 +
    flagAt s.service.faultN 0)

/-- The data byte: what is asserted. -/
def ibiByte (s : State) : Byte :=
  BitVec.ofNat 8 (flagAt (!s.service.faultN) 0 + flagAt (!serviceReqN s) 1 + flagAt s.thermal.warn 2)

/-- I3C_IBI (R473): one interrupt for every change since the last one. -/
def execI3cIbi (s : State) : Out :=
  .next (if i3cAddressed s ∧ s.service.i3cEvents.getLsbD 0 ∧ s.service.ibiState ≠ ibiLevels s then
      { s with service := { s.service with ibi := some (ibiByte s), ibiState := ibiLevels s } }
    else s)

end Sys2Proof.Machine
end

