-- ==== Sys2Proof/Machine/BringUp.lean ====
section
/-! DEFINITION. Bring-up: from the release of PANEL_RST_N to the release of the host dies (R366–R387, R396, R400, R500). Each
event of the start finds the stage before it, or changes nothing (log 1, DESIGN CHOICE). -/

namespace Sys2Proof.Machine

def setStage (s : State) (x : Stage) : State := { s with start := { s.start with stage := x } }

/-- PANEL_RST_N_ASSERT (R367, R465). -/
def execPanelRstNAssert (s : State) : Out := .next (panelReset s)

/-- PANEL_RST_N_RELEASE (R366, R369): the tray presents a stable reference and an input voltage in the operating range, which is
a measurement and free (log 6, DESIGN CHOICE). -/
def execPanelRstNRelease (s : State) : Out :=
  .next (if s.start.stage = .inReset ∧ s.power.pwrGood then
      let vin := Config.freeNat s.fresh % 2 ^ 16
      let s := bumpFresh { s with rstN := true, refclk := { s.refclk with priOk := true, altOk := true },
                                  power := { s.power with vin := vin } } 1
      { s with start := { s.start with stage := .strap, origin := s.time } }
    else s)

/-- The strap bits of Table 21-2. -/
def strapsOf (b : BitVec 44) : Straps :=
  { panelId := fld b 16 0, compact := b.getLsbD 17, flashSel := b.getLsbD 18, charterSel := fld b 20 19,
    fullTrain := b.getLsbD 21, testEn := b.getLsbD 22, traySlot := fld b 30 23, rsvd := fld b 43 31 != 0 }

/-- The interrupt target watches the contacts from the entry into RUN on (R473). -/
def enterRun (s : State) : State := { s with service := { s.service with ibiState := ibiLevels s } }

/-- STRAP_LATCH (R368, R464). -/
def execStrapLatch (straps : BitVec 44) (s : State) : Out :=
  .next (if s.start.stage = .strap then
      let x := strapsOf straps
      let s := { s with straps := x, service := { s.service with ph := if x.testEn then 1 else 2 } }
      let s := { s with start := { s.start with stage := if x.testEn then .test else .rom, profile := x.compact } }
      if x.testEn then s else enterRun s
    else s)

/-! ## Measurements (R394) -/

/-- The next stage of the chain: its type byte and what is measured. -/
def extendChain (s : State) (type : Nat) (bs : List Byte) : State :=
  let h := sha256 bs
  let before := if s.ident.chain.isEmpty then List.replicate 32 0 else s.ident.chain
  { s with ident := { s.ident with chain := sha256 (before ++ [BitVec.ofNat 8 type] ++ h), stages := s.ident.stages + 1,
                                   hashes := s.ident.hashes ++ [h] } }

/-- Something that the lead records and Table 13-17 has no type for: the type is free (log 6, DESIGN CHOICE). -/
def recordOther (s : State) : State := bumpFresh (addProv s (Prov.blank (1 + Config.freeNat s.fresh % 12))) 1

/-! ## The first stage (R370, R371) -/

/-- The image of a type that a start takes. -/
def bootImage (s : State) (bf1First : Bool) (type : Nat) : Option (List Byte × Bool) :=
  pickImage s (flashOrder s bf1First) type (imageOk s s.ident.ownerKey type)

/-- The mask ROM of the lead reads and verifies: owner certificate, then first stage. The answer is the die and the image. A secret that
does not unwrap is as no valid first stage (R388). -/
def romVerify (s : State) (bf1First : Bool) : Option (Bool × List Byte × List Byte) :=
  let key := ownerKey s bf1First
  let on (bf1 : Bool) : Option (Bool × List Byte × List Byte) :=
    (pickImage s [if bf1 then s.bf1 else s.bf0] 1 (imageOk s key 1)).map fun x => (bf1, x.1, key)
  if Config.pufUnwraps s.lead then (on bf1First).or (on (!bf1First)) else none

/-- A start without a valid first stage: FENCED, FAULT_N, no release. -/
def noFirstStage (s : State) : State :=
  let s := { s with service := { s.service with ph := 3, faultN := false } }
  { s with start := { s.start with stage := .stopped, duration := 0xFFFFFFFF } }

/-- R370, by the lead of this start. -/
def runRom (s : State) (bf1First : Bool) : State :=
  let s := loadRecord s
  match romVerify s bf1First with
  | none => noFirstStage s
  | some (bf1, bs, key) =>
    let s := { s with ident := { s.ident with ownerKey := key, ownerHash := sha256 key } }
    let s := extendChain s 1 (imagePayload bs)
    { s with start := { s.start with stage := .firstStage, firstDie := if bf1 then 1 else 0, bf1Boot := bf1 } }

/-- FIRST_STAGE_VERIFY (R370). -/
def execFirstStageVerify (s : State) : Out :=
  .next (if s.start.stage = .rom then runRom s s.straps.flashSel else s)

/-- DEPUTY_START_TAKEOVER (R371): the deputy's mask ROM runs R370 itself, from the start of the chain; one lead-role failure
(R342). A start that R370 has stopped stays stopped (log 94, DEDUCED). -/
def execDeputyStartTakeover (s : State) : Out :=
  .next (if (s.start.stage = .rom ∨ s.start.stage = .firstStage) ∧ s.lead = 0 ∧ !s.sealed then
      let s := { s with lead := 15, hasDeputy := false, leadFails := s.leadFails ++ [s.time], charter := [],
                        ident := State.reset.ident }
      runRom (setCurator s 0 { state := .lost, lastHeard := 0 }) true
    else s)

/-! ## The charter (R375) -/

/-- The images tried, each with its slot and whether it is the fall-back to slot 0. -/
def charterTries (s : State) : List (List Byte × Nat × Bool) :=
  let dies := (flashOrder s s.start.bf1Boot).filter (·.alive)
  let image (f : Flash) (slot : Nat) : List Byte := if f.stagedCharters.contains slot then [] else charterSlot f slot
  (dies.map fun f => (image f s.straps.charterSel, s.straps.charterSel, false)) ++ dies.map fun f => (image f 0, 0, true)

/-- How many images are rejected, and the first that is accepted. -/
def charterChoice (s : State) : List (List Byte × Nat × Bool) → Nat × Option (List Byte × Nat × Bool)
  | [] => (0, none)
  | x :: l =>
    if charterImageOk s s.ident.ownerKey x.1 then (0, some x)
    else let r := charterChoice s l; (r.1 + 1, r.2)

/-- Every partition the charter defines has generation 1 (R375). -/
def firstGen (s : State) : State :=
  each (upTo 16 (partDefined s)) (fun n s => modPart s n fun p => { p with pgen := 1 }) s

/-- Write and seal a charter: CHARTER_SEAL is set, and every partition has generation 1. -/
def sealCharter (s : State) (c : Charter) : State :=
  firstGen { s with charter := tblSet (0 : Dword) c 1 1, sealed := true }

/-- Select, check, write and seal (R375, R387); the number of rejected images. Boot code may have written and sealed the
registers itself (R372). -/
def chooseCharter (s : State) : State × Nat :=
  if s.sealed then (firstGen s, 0)
  else if s.straps.compact then
    (sealCharter { s with start := { s.start with compactCharter := true } } compactCharter, 0)
  else
    let (k, r) := charterChoice s (charterTries s)
    match r with
    | some (bs, slot, fall) =>
      (sealCharter { s with start := { s.start with slot := slot, factory := fall } } (charterOf (bs.take 512)), k)
    | none =>
      let s := sealCharter { s with start := { s.start with compactCharter := true } } compactCharter
      let s := modPart s 0 fun p => { p with state := .withdrawn }
      ({ s with service := { s.service with ph := 3, faultN := false } }, k)

/-- One record write: BOOT, and the identity leaf of this start while one is left (R396). -/
def countBoot (s : State) : State :=
  let k := s.counter
  let leaf : Option (Nat × List Byte) := if k.idNext < 2 ^ 20 then some (k.idNext, []) else none
  let s := putRecord s { k with boot := (k.boot + 1) % 2 ^ 32, idNext := min (k.idNext + 1) (2 ^ 20) }
  { s with ident := { s.ident with cert := leaf, attLeaf := 0 } }

/-- The last boot ended without an entry and without an orderly reset (R421). -/
def recordLoss (s : State) : State :=
  let s' := if s.power.orderly then s
    else { addProv { s with time := 0 } { Prov.blank 0x0B with detail := 3 } with time := s.time }
  { s' with power := { s'.power with orderly := false } }

/-- Curator firmware runs in every tile; after a takeover T0 is a tile with a lasting fault (R371, R372). -/
def startCurators (s : State) : State :=
  let up := (List.range 16).filter fun t => !(s.lead == 15 && t == 0)
  { each up (fun t s => setCurator s t { state := .posting, lastHeard := s.time }) s with hasDeputy := s.lead == 0 }

/-- No curator firmware verifies: every tile fails, and with it every partition (R385). -/
def noCurators (s : State) : State :=
  let s := each (upTo 16 (partDefined s)) (fun n s => withdrawPart s n 0x0C) s
  stopStart s

/-- Load and measure the microcode (R372); without one no core passes its check (R380). -/
def loadMicrocode (s : State) : State :=
  match bootImage s s.start.bf1Boot 3 with
  | some (bs, old) =>
    let s := extendChain { s with microcode := imageRelease bs } 3 (imagePayload bs)
    if old then recordOther s else s
  | none => s

/-- The records of T0's lost curator. -/
def recordFirstTile (s : State) : State :=
  let r := { FaultRec.blank 0x0C .tile with
    pcore := some (stackCode 0 0xF), part := (partOfTile s 0).getD 0, attempts := 2 }
  addProv (addLasting s r (some (tileUnit 0))) { Prov.blank 0x09 with detail := 15 }

/-- The partition of tile t, if it has one, is withdrawn. -/
def withdrawTile (s : State) (t cls : Nat) : State :=
  match partOfTile s t with
  | some n => withdrawPart s n cls
  | none => s

/-- The mask ROM passed over the active copy of the owner certificate or of the first stage (R400). -/
def romFellBack (s : State) : Bool :=
  let bf1First := s.lead == 15 || s.straps.flashSel
  ((ownerCert s bf1First).map (·.2)).getD false ||
    ((pickImage s [if s.start.bf1Boot then s.bf1 else s.bf0] 1 (imageOk s s.ident.ownerKey 1)).map (·.2)).getD false

/-- The partition of T0 after a start that the deputy took over. -/
def loseFirstTile (s : State) : State := if s.lead = 0 then s else withdrawTile (recordFirstTile s) 0 0x0C

/-- The start after the seal (R372, R375): the curator firmware and the microcode; what the start found goes into the log once
curator firmware runs. -/
def afterSeal (s : State) (rejected : Nat) : State :=
  let s := countBoot (extendChain s 5 (charterBytes s.charter))
  let s := each (upTo 3744 s.retired.contains) (fun p s => setPstate s p .deaccessioned) (setStage s .charter)
  match bootImage s s.start.bf1Boot 2 with
  | none => noCurators s
  | some (bs, old) =>
    let s := extendChain { s with firmware := imageRelease bs } 2 (imagePayload bs)
    let s := startCurators s
    let s := each (List.range rejected) (fun _ s => recordOther s) (recordLoss s)
    let s := if romFellBack s then recordOther s else s
    let s := loadMicrocode (if old then recordOther s else s)
    loseFirstTile s

/-- The whole command: the charter is chosen and sealed, and the start goes on. -/
def sealStage (s : State) : State := afterSeal (chooseCharter s).1 (chooseCharter s).2

/-- CHARTER_SEAL (R375). -/
def execCharterSeal (s : State) : Out := .next (if s.start.stage = .firstStage then sealStage s else s)

/-! ## Training (R378, R250) -/

/-- Full training of every item is forced, or there are no saved settings (R378). -/
def allTrained (s : State) (r : TrainingResult) : Bool :=
  r.full || s.straps.fullTrain || bit (cht s 3) 11 || s.trainCache.isNone

/-- What the training cache matches a device by (R250): its identity registers, and its switch: for a spare the device it
serves, for another the spare that serves it. -/
def deviceKey (s : State) (d : Nat) : Nat × Option Nat :=
  (Config.deviceIdentity d, if isSpareDev d then (deviceAt s d).serves else
    (s.replaced.find? fun e => e.2 == d).map (·.1))

/-- A device starts on saved settings: the cache's entry matches it (R250). -/
def cacheMatches (s : State) (d : Nat) : Bool :=
  match s.trainCache with
  | some l => tblLook l d == some (deviceKey s d)
  | none => false

/-- The cache that a start writes after the host dies are released (R378): an entry for every device that trained. -/
def newCache (s : State) : Tbl (Nat × Option Nat) :=
  ((List.range 68).filter fun d => (deviceAt s d).state != .failed && (deviceAt s d).state != .notMapped).map fun d =>
    (d, deviceKey s d)

/-- A crossing leads to a neighbour. -/
def crossingExists (t n : Nat) : Bool := (neighbour t (n / 4 + 1)).isSome

/-- The record of a crossing that fails (R175). -/
def crossingFails (s : State) (t n : Nat) : State :=
  if crossingExists t n then
    addLasting (downLink s t n) { FaultRec.blank 0x01 .link with
      pcore := some (stackCode t 0xF), part := (partOfTile s t).getD 0, attempts := 2, detail := n } none
  else s

/-- A die whose vertical or control port fails has a lasting fault (R378). -/
def dieFails (s : State) (t d : Nat) : State :=
  if (siteCores t d).all fun p => pstateAt s p == .deaccessioned then s
  else retireStack (addLasting s (stackFault s t d 0x01 .die) (some (stackUnit t d))) (stackUnit t d)

/-- Does a tile belong to a VALID partition that has not been withdrawn? -/
def tileStarts (s : State) (t : Nat) : Bool := match partOfTile s t with
  | some n => (partAt s n).state != .withdrawn
  | none => false

/-- A device's state after training (Table 09-5), before replacements and failures. -/
def trainedState (s : State) (d : Nat) : DevState :=
  if isSpareDev d then (match sparePart s d with
    | some n => if partDefined s n then .spare else .notMapped
    | none => .notMapped)
  else if (partOfTile s (deviceTile d)).isSome then .inUse else .notMapped

/-- The collection record's replacements are applied again (R243, R383). -/
def replaceAgain (s : State) : State :=
  each s.replaced (fun e s =>
    if (deviceAt s e.1).state = .spare then
      modDevice (modDevice s e.1 fun x => { x with state := .inUse, serves := some e.2 }) e.2 fun x =>
        { x with state := .failed }
    else s) s

/-- A device with a channel that fails at both rates: its spare serves without a copy (R250). A spare that served is lost, and its
numbered device with it. -/
def deviceFailsTraining (s : State) (d : Nat) : State :=
  if (deviceAt s d).state = .inUse ∧ !isSpareDev d then
    match partOfTile s (deviceTile d) with
    | some n => finishReplacements (replaceLost s n d) n
    | none => s
  else modDevice s d fun x => { x with state := .failed, serves := none }

/-- Links, devices and UCIe links are trained. -/
def trained (s : State) (r : TrainingResult) : State :=
  let full := allTrained s r
  let up (s : State) (t n : Nat) : State := if crossingExists t n then modLink s t n fun l => { l with state := .up } else s
  let s := each (List.range 16) (fun t s => each (List.range 16) (fun n s => up s t n) s) s
  let s := each r.crossings (fun x s => crossingFails s x.1 x.2) s
  let s := each r.dies (fun x s => dieFails s x.1 x.2) s
  let s := each (List.range 68) (fun d s => modDevice s d fun x =>
    { x with state := trainedState s d, slow := r.slow.contains d }) s
  let s := replaceAgain s
  let deviceFull (d : Nat) : Bool := full || r.slow.contains d || r.reverified.contains d || !cacheMatches s d
  let s := each (List.range 68) (fun d s => modDevice s d fun x => { x with fullTrained := deviceFull d }) s
  let s := each r.failed (fun d s => deviceFailsTraining s d) s
  let s := each (List.range 4) (fun h s => modHost s h fun d => { d with linkUp := !r.ucie.contains h, modules := 8 }) s
  let one : Bool := full || (List.range 68).any (fun d => (deviceAt s d).state != .notMapped && deviceFull d) ||
    !(r.crossings.isEmpty && r.dies.isEmpty && r.failed.isEmpty && r.ucie.isEmpty)
  setStage { s with start := { s.start with fullTrained := one } } .trained

/-- LINK_TRAINING_DONE (R378). -/
def execLinkTrainingDone (r : TrainingResult) (s : State) : Out := .next (if s.start.stage = .charter then trained s r else s)

/-! ## Waves, microcode and memory -/

/-- A catalogue core of the home mapping (R15). -/
def isHome (p : Nat) : Bool := decide (siteOf p < 12 ∧ coreOf p < 16)

/-- The domains that waves switch on, in physical order (R379). -/
def waveCores (s : State) : List Nat :=
  let spares := !s.straps.compact && !bit (cht s 3) 10
  upTo 3744 fun p => tileStarts s (tileOf p) && (isHome p || spares) && pstateAt s p != .deaccessioned

/-- One wave of up to 256 domains. -/
def waveOn (s : State) : State :=
  let l := waveCores s
  let k := s.start.wave
  let s := each ((l.drop (256 * k)).take 256) (fun p s =>
    modCore (setPstate s p .testing) p fun c => { c with stages := 8 }) s
  let s := { s with start := { s.start with wave := k + 1 } }
  if l.length ≤ 256 * (k + 1) then setStage s .waved else s

/-- STACK_WAVE (R379); in FENCED no stack is switched on. -/
def execStackWave (s : State) : Out := .next (if s.start.stage = .trained ∧ s.service.ph = 2 then waveOn s else s)

/-- Domains that are switched on and under test. -/
def poweredCores (s : State) : List Nat := upTo 3744 fun p => pstateAt s p == .testing

/-- A core that failed a start test twice (R380, R381). -/
def startFail (s : State) (p : Nat) : State :=
  let s := retireCore (katFail s p none) p
  { s with start := { s.start with failedKat := satInc 8 s.start.failedKat } }

/-- MICROCODE_BROADCAST (R380): a core whose image is the measured one enters IDLE, its scratchpads zero (R137). -/
def broadcastMicrocode (s : State) (failing : List Nat) : State :=
  let on := poweredCores s
  let bad := on.filter fun p => failing.contains p || decide (s.ident.stages < 4)
  let load (c : Core) : Core := { Core.init with nextId := c.nextId, seq := .idle, microcode := s.microcode, stages := 8 }
  let s := each (on.filter fun p => !bad.contains p) (fun p s => modCore s p load) s
  setStage (each bad (fun p s => startFail s p) s) .microcode

/-- MICROCODE_BROADCAST (R380). -/
def execMicrocodeBroadcast (failing : List Nat) (s : State) : Out :=
  .next (if s.start.stage = .waved then broadcastMicrocode s failing else s)

/-- The devices have been trained in this start. -/
def devicesTrained (s : State) : Bool := match s.start.stage with
  | .trained => true
  | .waved => true
  | .microcode => true
  | .berChecked => true
  | .katDone => true
  | _ => false

/-- Every byte of LPDDR5X is zero, no block is poisoned, and no slice holds a line. -/
def zeroMemory (s : State) : State :=
  { s with
    mem := [], bad := [], slices := [],
    devices := (s.devices.map fun e => (e.1, { e.2 with poison := none })).filter fun e => e.2 != Device.init,
    start := { s.start with fromPower := false } }

/-- LPDDR_INITIALISE (R500): zeros, and no poison, after a rise of PWR_GOOD. -/
def execLpddrInitialise (s : State) : Out :=
  .next (if devicesTrained s ∧ s.start.fromPower then zeroMemory s else s)

/-! ## Tests (R381) -/

/-- A link fails the error-rate check a second time. -/
def berFails (s : State) : LinkRef → State
  | .crossing t n => crossingFails s t n
  | .vertical t d _ => dieFails s t d
  | _ => s

/-- The links that the check covers: every one, and with the compact profile T0's vertical ports and the crossings between T0 and its
neighbours. -/
def berCovers (s : State) : LinkRef → Bool
  | .crossing t n => !s.straps.compact || t == 0 || neighbour t (n / 4 + 1) == some 0
  | .vertical t _ _ => !s.straps.compact || t == 0
  | _ => false

/-- LINK_BER_CHECK_DONE (R381). -/
def execLinkBerCheckDone (failing : List LinkRef) (s : State) : Out :=
  .next (if s.start.stage = .microcode then
      setStage (each (failing.filter (berCovers s)) (fun l s => berFails s l) s) .berChecked
    else s)

/-- START_KAT_DONE (R381): the full profile's known-answer runs; `failing` failed twice, `second` passed the second run
(R319). -/
def execStartKatDone (failing second : List Nat) (s : State) : Out :=
  .next (if s.start.stage = .berChecked ∧ !s.straps.compact then
      let again := (poweredCores s).filter fun p => second.contains p && !failing.contains p
      setStage (each ((poweredCores s).filter failing.contains) (fun p s => startFail s p)
        (each again (fun p s => katAgain s p) s)) .katDone
    else s)

/-! ## Catalogue (R383) -/

/-- A start that can build its catalogue: every test of its profile has run, and the memory is initialised. -/
def catalogueDue (s : State) : Bool :=
  s.service.ph == 2 && !s.start.fromPower &&
    (s.start.stage == .katDone || (s.start.stage == .berChecked && s.straps.compact))

/-- A home core enters service, and one that is capped is deaccessioned (R362); every other core of a partition's tiles is a spare,
switched off (R20). -/
def placeHome (s : State) (p : Nat) : State :=
  if pstateAt s p = .deaccessioned then s
  else if isHome p && pstateAt s p == .testing && capped s p then retireAs s p (homeOfCore p)
  else if isHome p && pstateAt s p == .testing then
    let s := setPstate s p .inService
    modCore s p fun c => clearedCore s p c
  else emptyCore (setPstate s p .spare) p

/-- Is a physical core the home core of a logical core in service? -/
def homeServes (s : State) (l : Nat) : Bool := pstateAt s (homePhys l) == .inService

/-- Spares that R201 finds for a logical core are tried in turn: one that fails the known-answer run of its first use is
deaccessioned (R340, R383); none is exhaustion (R342). -/
def trySpares (s : State) (n l h : Nat) (stack : Bool) (failing : List Nat) : Nat → State
  | 0 => exhausted s n h
  | k + 1 =>
    match chooseSpare s l h stack (capped s) with
    | some c =>
      if failing.contains c then trySpares (retireCore (katFail s c none) c) n l h stack failing k else enterCore s l h c
    | none => exhausted s n h

/-- A logical core without its home core. -/
def accessionAtStart (s : State) (n l : Nat) (failing : List Nat) : State :=
  if (partAt s n).state = .withdrawn ∨ s.service.ph = 3 then s
  else
    let h := homePhys l
    let stack := (siteCores (tileOf h) (siteOf h)).all fun p => pstateAt s p == .deaccessioned
    trySpares s n l h stack failing (failing.length + 1)

/-- A device of a partition without a spare (R248, R342). -/
def missingDevice (s : State) (n : Nat) : State :=
  let lost := (partDevices s n).filter fun d => (deviceAt s d).state == .failed &&
    !(match spareFor d with
      | some sp => (deviceAt s sp).serves == some d
      | none => false)
  match lost with
  | [] => s
  | d :: _ => deviceExhausted s n d

/-- The partitions that still start. -/
def startParts (s : State) : List Nat := upTo 16 fun n => partDefined s n && (partAt s n).state != .withdrawn

/-- One partition's cores and devices. -/
def buildPart (s : State) (n : Nat) (failing : List Nat) : State :=
  let s := each (lcoresOf s n) (fun l s =>
    if homeServes s l then setCat s l (catEntry l (homePhys l)) else accessionAtStart s n l failing) s
  if (partAt s n).state = .withdrawn ∨ s.service.ph = 3 then s else missingDevice s n

/-- The curators' routes in every NI (R167). -/
def buildRoutes (s : State) : State :=
  each (List.range 16) (fun a s => each (List.range 16) (fun b s =>
    let r := curatorRoute s a b
    modTile s a fun t => { t with rte := tblSet Rte.init t.rte b r }) s) s

/-- The catalogue is written; the partitions are in service. -/
def buildCatalogue (s : State) (failing : List Nat) : State :=
  let s := each (upTo 3744 fun p => tileStarts s (tileOf p)) (fun p s => placeHome s p) s
  let s := buildRoutes s
  let cut := (startParts s).filter (noRoute s)
  let s := each cut (fun n s => withdrawPart (addLasting s (noRouteFault s n) none) n 0x0E) s
  let s := each (startParts s) (fun n s => buildPart s n failing) s
  if s.service.ph = 3 then s
  else
    let s := { s with catVersion := 1, catReady := true }
    let s := each (startParts s) (fun n s =>
      retargetPart (modPart s n fun p => { p with state := .inService }) n) s
    setStage (each (List.range 16) (fun t s => noteSpares s t) s) .catalogue

/-- CATALOGUE_BUILD (R383); `failing` are the untested spares that fail their known-answer run. -/
def execCatalogueBuild (failing : List Nat) (s : State) : Out :=
  .next (if catalogueDue s then buildCatalogue s failing else s)

/-! ## Release (R384, R386) -/

/-- The admin queue that the charter gives host die h (R264, R384); its context is that of a CRCCFG of 0 (R305). -/
def adminOf (s : State) (h : Nat) : Queue :=
  let sq := chtHost s h 1
  let cq := chtHost s h 2
  { Queue.init with
    state := .enabled, owner := h, admin := true, pinned := true, ext := bit cq 53, sqBase := bits sq 47 0,
    sqLog := bits sq 52 48, cqBase := bits cq 47 0, cqLog := bits cq 52 48, msi := msiOf (chtHost s h 3 % 2 ^ 32),
    crc := (crcPreset 0).map CrcCtx.new, unit := some h }

/-- The image of the last 64 MiB of the carve-out, the admin queue, and the harts. -/
def releaseHost (s : State) (h : Nat) (image : List Byte) : State :=
  let s := ldWrite s (carveEnd s h - 2 ^ 26) image true
  let s := setQueue s (adminQueue s h) (adminOf s h)
  modHost s h fun d => { d with released := true }

/-- The floors that a good start with the new images raises (R400), by one record write. -/
def raiseFloors (s : State) : State :=
  let f := if s.bf0.alive then s.bf0 else s.bf1
  let good (type : Nat) : Bool := imageOk s s.ident.ownerKey type (copyOf f type (activeB s type))
  let due := (s.counter.pending.map (·.1)).filter good
  if due.isEmpty then s
  else
    putRecord s (due.foldl (fun k type => raiseFloor k type (imageSvn (copyOf f type (activeB s type)))) s.counter)

/-- Ports of working edge-port dies train after host release (R494). -/
def trainPorts (s : State) : State :=
  each (List.range 32) (fun n s =>
    if (portAt s n).state = .down ∧ !(tpwrAt s (edgeDieTile (n / 2))).dark then
      modPort s n fun q => { q with state := .training }
    else s) s

/-- The start may release hosts: the catalogue is built, or the panel is FENCED and its links are trained (R375, R385). -/
def releaseDue (s : State) : Bool :=
  if s.service.ph = 3 then devicesTrained s || s.start.stage == .catalogue
  else s.service.ph == 2 && s.start.stage == .catalogue && !s.power.pfw

/-- What ends a start: the report, the signature, the training cache, the floors (R378, R386, R396, R400). -/
def endStart (s : State) : State :=
  let s := signBoot { s with hostsReleased := true, trainCache := some (newCache s) }
  raiseFloors (setStage { s with start := { s.start with duration := (s.time - s.start.origin) / 1000000 } } .released)

/-- HOST_RELEASE (R384): a VALID host die that cannot be released is lost at release. -/
def releaseHosts (s : State) (ucieDown : BitVec 4) : State :=
  let image := bootImage s s.start.bf1Boot 4
  let s := match image with
    | some (bs, old) => let s := extendChain s 4 (imagePayload bs); if old then recordOther s else s
    | none => s
  let payload : List Byte := match image with
    | some (bs, _) => imagePayload bs
    | none => []
  let ok (h : Nat) : Bool := image.isSome && (hostAt s h).linkUp && !ucieDown.getLsbD h
  let able := (validHosts s).filter ok
  let chosen := if s.service.ph = 3 then able.take 1 else able
  let s := each chosen (fun h s => releaseHost s h payload) s
  if s.service.ph = 3 then endStart s
  else
    let s := each ((validHosts s).filter fun h => !able.contains h) (fun h s => loseHost s h) s
    let s := each (startParts s) (fun n s => markRebalance s n) s
    trainPorts (endStart s)

/-- HOST_RELEASE (R384). -/
def execHostRelease (ucieDown : BitVec 4) (s : State) : Out := .next (if releaseDue s then releaseHosts s ucieDown else s)

end Sys2Proof.Machine
end

