-- ==== Sys2Proof/Machine/Clocks.lean ====
section
/-! DEFINITION. Reference clocks, die PLLs, margin monitors, step changes and STEP_SET (R402–R413). -/

namespace Sys2Proof.Machine

/-! ## References (R403) -/

/-- Every selector takes the other reference, and the switch is counted. -/
def switchRef (s : State) (alt : Bool) : State :=
  let r := s.refclk
  if r.sel = alt then s else { s with refclk := { r with sel := alt, switches := satInc 32 r.switches } }

/-- A reference is lost: the other one is taken, or the cleaning PLLs hold over. -/
def loseRef (s : State) (alt : Bool) : State :=
  let r := s.refclk
  if !(if alt then r.altOk else r.priOk) then s
  else
    let r := if alt then { r with altOk := false } else { r with priOk := false }
    let s := { s with refclk := { r with holdover := !r.priOk && !r.altOk } }
    if r.sel = alt ∧ (if alt then r.priOk else r.altOk) then switchRef s (!alt) else s

/-- REFCLK_LOSS (R403). -/
def execRefclkLoss (alt : Bool) (s : State) : Out := .next (if s.rstN then loseRef s alt else s)

/-- The primary has been valid for 1 s. -/
def primaryBack (s : State) : State :=
  if s.refclk.priOk then s
  else switchRef { s with refclk := { s.refclk with priOk := true, holdover := false } } false

/-- REFCLK_PRIMARY_RETURN (R403). -/
def execRefclkPrimaryReturn (s : State) : Out := .next (if s.rstN then primaryBack s else s)

/-- PLL_LOSS_OF_LOCK (R407): the die is fenced. -/
def execPllLossOfLock (tile site : Nat) (s : State) : Out := .next (fenceFor s tile site .lossOfLock)

/-! ## Margin monitors (R411) -/

/-- A sample of MARGIN; the code saturates at 63. -/
def marginTaken (d : ClkDom) (code : Nat) : ClkDom :=
  let m := min code 63
  let d := { d with margin := m, windowMin := min d.windowMin m }
  if m ≤ d.thrStretch ∧ !d.stretching then { d with stretching := true, stretches := satInc 16 d.stretches } else d

/-- MARGIN_SAMPLE (R411), of a domain that is switched on. -/
def execMarginSample (p code : Nat) (s : State) : Out :=
  .next (if coreOn s p then modClk s p fun d => marginTaken d code else s)

/-- MARGIN_STRETCH_END (R411). -/
def execMarginStretchEnd (p : Nat) (s : State) : Out :=
  .next (modClk s p fun d => if d.thrStretch < d.margin then { d with stretching := false } else d)

/-- A domain's cap has changed: it goes to the step it is to run, and a straggler in a partition with AUTO = 0 permits
rebalancing (R358, R363). -/
def recapped (s : State) (p : Nat) : State :=
  let s := retarget s p
  match partOfP s p with
  | some n => settleSteps (if !(partAt s n).auto && capped s p then markRebalance s n else s) n
  | none => s

/-- The window's lowest code is at or below THR_STEP: a cap one step slower than CURRENT; a domain already capped at F5 loses its
engines. -/
def marginCapped (s : State) (p : Nat) : State :=
  if (clkAt s p).marginCap = 5 then
    each (upTo 8 fun e => engineOnline s p e) (fun e s => engineOff s p e true) s
  else
    let c := min 5 (currentStep (coreAt s p) + 1)
    recapped (modClk s p fun d => { d with marginCap := if d.marginCap = 7 then c else max d.marginCap c }) p

/-- MARGIN_WINDOW (R411): a 100 µs window ends, and its lowest code is counted (R451). -/
def execMarginWindow (p : Nat) (s : State) : Out :=
  .next (
    if coreOn s p then
      let d := clkAt s p
      let s := sampleMargin (modClk s p fun d => { d with windowMin := 63 }) p d.windowMin
      if d.windowMin ≤ d.thrStep then marginCapped s p else s
    else s)

/-- The regulator of a step-up has settled: the divider change is requested (R409). -/
def regSettled (s : State) (p : Nat) : State :=
  match (clkAt s p).settling with
  | some _ =>
    let s := requestStep (modClk s p fun d => { d with settling := none }) p (domainStep s p)
    settleDomain s p
  | none => s

/-- REGULATOR_SETTLED (R409). -/
def execRegulatorSettled (p : Nat) (s : State) : Out := .next (regSettled s p)

/-! ## STEP_SET (R413) -/

def ssPart (c : Cmd) : Nat := fld c.pkt 67 64
def ssAction (c : Cmd) : Nat := fld c.pkt 73 72
def ssPolicy (c : Cmd) : Nat := fld c.pkt 81 80
def ssStep (c : Cmd) : Nat := fld c.pkt 90 88
def ssPcore (c : Cmd) : Nat := fld c.pkt 108 96
def ssAll (c : Cmd) : Bool := fld c.pkt 109 109 = 1
def ssWarn (c : Cmd) : Nat := fld c.pkt 133 128
def ssThrStep (c : Cmd) : Nat := fld c.pkt 141 136
def ssStretch (c : Cmd) : Nat := fld c.pkt 149 144
def ssDest (c : Cmd) : Nat := fld c.pkt 255 192
def ssFirst (c : Cmd) : Nat := fld c.pkt 271 256
def ssCount (c : Cmd) : Nat := fld c.pkt 287 272

/-- The command is a STEP_SET with this ACTION. -/
def isStepSet (action : Nat) (c : Cmd) : Bool := c.fn == 0x0601 && ssAction c == action

/-- STEP_SETs on one partition take effect in admission order: no earlier one waits to start. -/
def stepTurn (s : State) (c : Cmd) : Bool :=
  s.cmds.all fun e => e.started || e.fn != 0x0601 || ssPart e != ssPart c || decide (c.uid ≤ e.uid)

/-- Start a queue's STEP_SET with this ACTION in its turn. -/
def startStepSet (s : State) (q action : Nat) (run : Cmd → State → State) : State :=
  startAs s q (fun c => isStepSet action c && stepTurn s c) run

/-- The domains of FIX and THRESHOLDS: every one of PART, those of a stack, or one. -/
def ssDomains (s : State) (c : Cmd) : List Nat :=
  if ssAll c then pcoresOf s (ssPart c)
  else
    let t := ssPcore c / 512
    let d := ssPcore c / 32 % 16
    if ssPcore c % 32 = 31 then siteCores t d else [physNum t d (ssPcore c % 32)]

/-- PCORE lies outside PART, or is not 0 beside ALL = 1. -/
def ssBadPlace (s : State) (c : Cmd) : Bool :=
  if ssAll c then ssPcore c != 0 else partOfTile s (ssPcore c / 512) != some (ssPart c)

/-- A change of the steps of PART: it replaces those still waiting, and completes when every engine runs its new step. -/
def changeSteps (s : State) (c : Cmd) (change : State → State) : State :=
  let n := ssPart c
  let s := change (endStepSets s n true)
  retargetPart (modCmd s c.uid fun c => { c with wait := .stepSet n }) n

/-- POLICY. -/
def setPolicy (c : Cmd) (s : State) : State :=
  changeSteps s c fun s => modPart s (ssPart c) fun p => { p with policy := ssPolicy c }

/-- Refusals of POLICY. -/
def ssPolicyChecks (c : Cmd) : List (Bool × Status) := [(ssPolicy c == 3, .badParam)]

/-- STEP_SET POLICY (R413), in either form. -/
def execStepSetPolicy (q : Nat) (s : State) : Out :=
  .next (startStepSet s q 0 fun c s => checked c (ssPolicyChecks c) (setPolicy c) s)

/-- The CLK_DOM records of a READ. -/
def ssBytes (s : State) (c : Cmd) : List Byte :=
  (List.range (ssCount c)).flatMap fun i => leBytes 8 (clkWord s (ssFirst c + i))

/-- READ: CLK_DOM records. -/
def readClk (c : Cmd) (s : State) : State :=
  let bs := ssBytes s c
  copyOut s c (ssDest c) bs fun s => stepFinish s c.uid (ssPart c) (ssCount c) false

/-- Refusals of READ. -/
def ssReadChecks (s : State) (c : Cmd) : List (Bool × Status) :=
  [(ssCount c == 0 || decide (3744 < ssFirst c + ssCount c) || badDest s (ssDest c) (8 * ssCount c) 64, .badParam),
   (!inCarve s c.host (ssDest c) (8 * ssCount c), .notPermitted)]

/-- STEP_SET READ (R413). -/
def execStepSetRead (q : Nat) (s : State) : Out :=
  .next (startStepSet s q 1 fun c s => checked c (ssReadChecks s c) (readClk c) s)

/-- FIX, or with STEP = 7 the return to the partition's set step. -/
def fixSteps (c : Cmd) (s : State) : State :=
  changeSteps s c fun s => each (ssDomains s c) (fun p s => modClk s p fun d =>
    if ssStep c = 7 then { d with fixed := false } else { d with fixed := true, target := ssStep c }) s

/-- Refusals of FIX. -/
def ssFixChecks (s : State) (c : Cmd) : List (Bool × Status) :=
  [(!c.expert || ssStep c == 6 || ssBadPlace s c, .badParam)]

/-- STEP_SET FIX (R413): expert. -/
def execStepSetFix (q : Nat) (s : State) : Out :=
  .next (startStepSet s q 2 fun c s => checked c (ssFixChecks s c) (fixSteps c) s)

/-- The thresholds are in range and in order. -/
def thresholdsOk (c : Cmd) : Bool :=
  decide (1 ≤ ssStretch c ∧ ssStretch c ≤ 20 ∧ 2 ≤ ssThrStep c ∧ ssThrStep c ≤ 40 ∧ 3 ≤ ssWarn c ∧ ssWarn c ≤ 63 ∧
    ssStretch c < ssThrStep c ∧ ssThrStep c < ssWarn c)

/-- THRESHOLDS. -/
def writeThresholds (c : Cmd) (s : State) : State :=
  let s := each (ssDomains s c) (fun p s => modClk s p fun d =>
    { d with thrStretch := ssStretch c, thrStep := ssThrStep c, thrWarn := ssWarn c }) s
  stepFinish s c.uid (ssPart c) (setStep (partAt s (ssPart c))) false

/-- Refusals of THRESHOLDS. -/
def ssThrChecks (s : State) (c : Cmd) : List (Bool × Status) :=
  [(!c.expert || !thresholdsOk c || ssBadPlace s c, .badParam)]

/-- STEP_SET THRESHOLDS (R413): expert. -/
def execStepSetThresholds (q : Nat) (s : State) : Out :=
  .next (startStepSet s q 3 fun c s => checked c (ssThrChecks s c) (writeThresholds c) s)

end Sys2Proof.Machine
end

