-- ==== Sys2Proof/Machine/Admit.lean ====
section
/-! DEFINITION. Admission of a fetched packet (R273, R274): the functions, their lengths and parameter bits, and the refusals of
steps 1 to 5. -/

namespace Sys2Proof.Machine

/-- Functions of Table 10-11, and whether an expert form is provided. -/
def functions : List (Nat × Bool) :=
  [(0x0001, true), (0x0010, true), (0x0011, true), (0x0012, false), (0x0013, true), (0x0100, false), (0x0101, true),
   (0x0102, false), (0x0103, true), (0x0200, true), (0x0201, true), (0x0202, true), (0x0203, true), (0x0300, true),
   (0x0301, true), (0x0400, true), (0x0401, true), (0x0402, true), (0x0403, true), (0x0500, true)] ++
  [(0x0501, true), (0x0502, true), (0x0600, true), (0x0601, true), (0x0602, true), (0x0603, true), (0x0700, true),
   (0x0701, true), (0x0702, true), (0x0703, true), (0x0704, true), (0x0800, true), (0x0801, true), (0x0802, true),
   (0x0900, true), (0x0901, true), (0x0A00, true), (0x0A01, true)]

/-- A function that exists, in a form that is provided (R274 step 1). -/
def opcodeKnown (fn : Nat) (expert : Bool) : Bool :=
  match tblLook functions fn with
  | some x => x || !expert
  | none => false

/-- Length in 16-byte units: FW_STAGE is extended (Table 16-8). -/
def lengthOf (fn : Nat) : Nat := if fn = 0x0801 then 8 else 4

/-- Parameter fields of the host functions: every other bit from 64 on is reserved (R7, R274 step 2). -/
def hostFields (fn : Nat) (expert : Bool) : List (Nat × Nat) :=
  if fn = 0x0001 then (if expert then [(127, 64)] else [(191, 64)])
  else if fn = 0x0010 then [(508, 480), (319, 256), (243, 237), (225, 215), (191, 64)]
  else if fn = 0x0011 ∨ fn = 0x0013 then [(79, 64)]
  else if fn = 0x0012 then [(243, 237), (225, 215), (79, 64)]
  else if fn = 0x0100 then [(326, 160), (145, 128), (112, 96), (69, 64)]
  else if fn = 0x0101 then [(313, 288), (241, 224), (208, 96), (71, 64)]
  else if fn = 0x0102 then [(127, 96), (79, 64)]
  else if fn = 0x0103 then (if expert then [(127, 96), (71, 64)] else [(71, 64)])
  else if fn = 0x0200 ∨ fn = 0x0201 then [(255, 64)]
  else if fn = 0x0202 then [(101, 96), (89, 80), (75, 64)]
  else if fn = 0x0203 then [(119, 108), (101, 96), (75, 64)]
  else if fn = 0x0300 then [(191, 128), (111, 104), (99, 96), (83, 80), (69, 64)]
  else if fn = 0x0301 then [(83, 80), (69, 64)]
  else if fn = 0x0400 then [(255, 192), (135, 128), (111, 104), (97, 96), (71, 68)]
  else if fn = 0x0401 then [(223, 112), (97, 96), (71, 64)]
  else if fn = 0x0402 then [(255, 128), (79, 64)]
  else [(255, 192), (79, 64)]

/-- ROUTE_UPDATE's fields follow TARGET (Table 06-15). -/
def routeFields (target : Nat) : List (Nat × Nat) :=
  if target = 1 then [(159, 128), (96, 80), (71, 64)]
  else if target = 2 then [(127, 104), (87, 80), (71, 64)]
  else [(159, 128), (96, 96), (88, 80), (71, 64)]

/-- Parameter fields of the functions of chapters 13 to 22. -/
def panelFields (fn : Nat) (expert : Bool) (pkt : BitVec 1024) : List (Nat × Nat) :=
  if fn = 0x0500 then [(223, 160), (157, 128), (117, 112), (107, 91), (87, 80), (73, 72), (64, 64)]
  else if fn = 0x0501 then [(255, 160), (72, 72), (65, 64)]
  else if fn = 0x0502 then [(148, 64)]
  else if fn = 0x0600 then [(255, 136), (131, 112), (73, 72)]
  else if fn = 0x0601 then
    [(287, 192), (149, 144), (141, 136), (133, 128), (109, 96), (90, 88), (81, 80), (73, 72), (67, 64)]
  else if fn = 0x0602 then [(79, 72), (65, 64)]
  else if fn = 0x0603 then [(79, 64)]
  else if fn = 0x0700 then [(191, 80), (72, 64)]
  else if fn = 0x0701 then (if expert then [(68, 64)] else [(67, 64)])
  else if fn = 0x0702 then [(111, 104), (91, 80), (76, 64)]
  else if fn = 0x0703 then [(319, 216), (194, 192), (73, 72), (71, 68)]
  else if fn = 0x0704 then [(207, 64)]
  else if fn = 0x0800 then [(384, 64)]
  else if fn = 0x0801 then [(575, 512), (201, 128), (71, 64)]
  else if fn = 0x0802 then [(201, 128), (71, 64)]
  else if fn = 0x0900 then [(319, 224), (212, 206), (201, 193), (191, 160), (74, 72)]
  else if fn = 0x0901 then routeFields (fld pkt 71 64)
  else if fn = 0x0A00 then [(191, 96), (91, 80), (71, 64)]
  else [(191, 128), (67, 64)]

def fieldsOf (fn : Nat) (expert : Bool) (pkt : BitVec 1024) : List (Nat × Nat) :=
  if fn < 0x0500 then hostFields fn expert else panelFields fn expert pkt

/-- A packet with its fields cleared. -/
def clearFields (pkt : Nat) : List (Nat × Nat) → Nat
  | [] => pkt
  | (hi, lo) :: t => clearFields (pkt - bits pkt hi lo * 2 ^ lo) t

/-- Every reserved bit of header and parameters is zero. -/
def reservedOk (fn : Nat) (expert : Bool) (pkt : BitVec 1024) : Bool :=
  fld pkt 23 20 == 0 && clearFields (pkt.toNat / 2 ^ 64 * 2 ^ 64) (fieldsOf fn expert pkt) == 0

/-- A 13-bit field that names a physical core, or with core 0x1F a whole stack (Table 13-2). -/
def pcoreNamed (code : Nat) : Bool := decide (code / 32 % 16 < 13 ∧ (code % 32 < 18 ∨ code % 32 = 31))

/-- Every item named is one that exists (R274 step 2). -/
def numbered (fn : Nat) (pkt : BitVec 1024) : Bool :=
  if fn = 0x0202 ∨ fn = 0x0203 then decide (fld pkt 75 64 < 3072)
  else if fn = 0x0500 then decide (fld pkt 107 96 < 3072)
  else if fn = 0x0601 then pcoreNamed (fld pkt 108 96)
  else if fn = 0x0702 then
    decide (fld pkt 91 80 < 3072) && pcoreNamed (fld pkt 76 64)
  else if fn = 0x0A00 then decide (fld pkt 91 80 < 3072)
  else true

/-- The queue a command names. -/
def namedQueue (fn : Nat) (pkt : BitVec 1024) : Option Nat :=
  if fn = 0x0011 ∨ fn = 0x0012 ∨ fn = 0x0013 ∨ fn = 0x0102 ∨ fn = 0x0402 ∨ fn = 0x0403 then some (fld pkt 79 64) else none

/-- The charter assigns the queue's number to host die h, or to a die it stands for. -/
def assignedQueue (s : State) (h q : Nat) : Bool := (List.range 4).any fun h' => standsFor s h h' && inRanges s h' q

/-- What the command names is the host die's (R274 step 3). -/
def assigned (s : State) (h fn : Nat) (pkt : BitVec 1024) : Bool :=
  (match cmdPart s fn pkt with
   | some n => serves s h n
   | none => true) &&
  (match namedQueue fn pkt with
   | some q => assignedQueue s h q
   | none => true)

/-- A rank that FINGERPRINT_READ names has no core in service (R317). -/
def deadRank (s : State) (pkt : BitVec 1024) : Bool :=
  let n := fld pkt 71 68
  let segs := tblGet [] (partAt s n).rmaps (fld pkt 67 64)
  (List.range (fld pkt 127 112)).any fun i => match rankTarget segs (fld pkt 223 192 + i) with
    | some (pan, l) => pan == s.straps.panelId && partOfL s l == some n && (physOf s l).isNone
    | none => false

/-- The partition's state refuses the command (R274 step 5): RUN and PARTITION_RESET have orders of their own
(R285, R337), and FINGERPRINT_READ of a rank with VALID = 0 ends with DIE_LOST while its partition is ACCESSIONING (R317). -/
def partRefusal (s : State) (fn : Nat) (pkt : BitVec 1024) : Option Status :=
  match cmdPart s fn pkt with
  | some n =>
    if fn = 0x0101 then none
    else if (partAt s n).state = .withdrawn then some .notPermitted
    else if fn = 0x0401 ∧ (partAt s n).state = .accessioning ∧ deadRank s pkt then none
    else if (partAt s n).state.underReset ∧ fn ≠ 0x0701 then some .partitionReset
    else none
  | none => none

/-- The refusal at admission, if any. -/
def admission (s : State) (h : Nat) (pkt : BitVec 1024) : Option Status :=
  let fn := fld pkt 14 0
  let expert := fld pkt 15 15 = 1
  firstOf [(!opcodeKnown fn expert, .badOpcode),
    (fld pkt 31 24 != lengthOf fn || !reservedOk fn expert pkt || !numbered fn pkt, .badParam),
    (!assigned s h fn pkt, .notPermitted),
    (s.service.ph == 3 && !fencedFn fn, .outOfService)] |>.or (partRefusal s fn pkt)

end Sys2Proof.Machine
end

