-- ==== Sys2Proof/Machine/Monitors.lean ====
section
/-! DEFINITION. Histogram monitors (R449–R457) and congestion maps (R458–R461). -/

namespace Sys2Proof.Machine

/-! ## Samples -/

/-- MONITOR_SAMPLE (R450): a sample of a source that no other row brings (log 95, DESIGN CHOICE). -/
def execMonitorSample (mon : MonRef) (v : BitVec 32) (excess : Bool) (s : State) : Out :=
  .next (match mon with
    | .core l m =>
      if l < 3072 ∧ m < 4 ∧ !coreMonLost s l then
        setCoreMon s (4 * l + m) ((coreMonAt s (4 * l + m)).take v.toNat excess)
      else s
    | .tile t m =>
      if t < 16 ∧ m < 64 ∧ !(tpwrAt s t).dark then
        setTileMon s (64 * t + m) ((tileMonAt s (64 * t + m)).take v.toNat excess)
      else s)

/-! ## MONITOR_CONFIG -/

def mcWidth (c : Cmd) : Nat := fld c.pkt 223 192
def mcBase (c : Cmd) : Nat := fld c.pkt 191 160
def mcMode (c : Cmd) : Bool := fld c.pkt 157 157 = 1
def mcVc (c : Cmd) : Nat := fld c.pkt 156 153
def mcInst (c : Cmd) : Nat := fld c.pkt 152 136
def mcSource (c : Cmd) : Nat := fld c.pkt 135 128
def mcMon (c : Cmd) : Nat := fld c.pkt 117 112
def mcLcore (c : Cmd) : Nat := fld c.pkt 107 96
def mcTile (c : Cmd) : Nat := fld c.pkt 95 92
def mcAll (c : Cmd) : Bool := fld c.pkt 91 91 = 1
def mcPart (c : Cmd) : Nat := fld c.pkt 87 84
def mcPreset (c : Cmd) : Nat := fld c.pkt 83 80
def mcAction (c : Cmd) : Nat := fld c.pkt 73 72
def mcTiles (c : Cmd) : Bool := fld c.pkt 64 64 = 1

/-- The tiles, or logical cores, that a MONITOR_CONFIG names. -/
def mcNamed (s : State) (c : Cmd) : List Nat :=
  if mcTiles c then (if mcAll c then partTiles s (mcPart c) else [mcTile c])
  else if mcAll c then lcoresOf s (mcPart c) else [mcLcore c]

/-- What is named lies in PART, and the fields that do not name it are zero. -/
def mcTargetOk (s : State) (c : Cmd) : Bool :=
  if mcAll c then mcLcore c == 0 && mcTile c == 0
  else if mcTiles c then mcLcore c == 0 && partOfTile s (mcTile c) == some (mcPart c)
  else mcTile c == 0 && partOfL s (mcLcore c) == some (mcPart c)

/-- Instances that a source has (Table 20-1); for a source without instances any value may stand. -/
def instOk (tiles : Bool) (source inst : Nat) : Bool :=
  inst == allInst ||
  (if source = 0x01 then decide (inst < 0x10000)
   else if source = 0x02 ∨ source = 0x0B ∨ (source = 0x09 ∧ tiles) then decide (inst < 16)
   else if source = 0x04 then decide (inst < 64)
   else if source = 0x05 then decide (inst < 3)
   else true)

/-- Sources offered to the target (Table 20-1). -/
def sourceOffered (tiles : Bool) (source : Nat) : Bool :=
  source == 0 || source == 0x09 ||
  (if tiles then source == 0x01 || source == 0x02 || source == 0x07 || source == 0x0B
   else source == 0x03 || source == 0x04 || source == 0x05 || source == 0x06 || source == 0x08 || source == 0x0A)

/-- The fields of SET (R450, R451, R455). -/
def mcSetOk (s : State) (c : Cmd) : Bool :=
  c.expert && mcPreset c == 0 && sourceOffered (mcTiles c) (mcSource c) && instOk (mcTiles c) (mcSource c) (mcInst c) &&
    (mcSource c != 0x01 || (mcNamed s c).all isCorner) &&
    (if mcMode c then decide (mcWidth c ≤ 31) else decide (1 ≤ mcWidth c ∧ mcWidth c ≤ 2 ^ 24)) &&
    (mcVc c == 0 || mcSource c == 0x02 || mcSource c == 0x03) && (mcTiles c || decide (mcMon c < 4))

/-- Fields that only SET uses. -/
def mcSetFields (c : Cmd) : Bool := fld c.pkt 223 128 != 0 || mcMon c != 0

/-- ACTION and the fields it uses. -/
def mcActionOk (s : State) (c : Cmd) : Bool :=
  if mcAction c = 0 then !mcSetFields c && decide (mcPreset c < 3)
  else if mcAction c = 1 then !mcSetFields c && mcPreset c == 0
  else if mcAction c = 2 then mcSetOk s c
  else false

/-- QUEUE_LAT names a queue of another host die. -/
def mcForeign (s : State) (c : Cmd) : Bool :=
  mcAction c == 2 && mcSource c == 0x01 && mcInst c != allInst &&
    (List.range 4).any (fun h => inRanges s h (mcInst c)) && !assignedQueue s c.host (mcInst c)

/-- Refusals of MONITOR_CONFIG (R455); PART's own are met at admission. -/
def mcChecks (s : State) (c : Cmd) : List (Bool × Status) :=
  [(!mcActionOk s c || !mcTargetOk s c, .badParam),
   (mcForeign s c, .notPermitted),
   ((mcNamed s c).any (fun x => if mcTiles c then (tpwrAt s x).dark else coreMonLost s x), .dieLost)]

/-- Write every named monitor: those of each named core or tile, or with `one` monitor MON of each. -/
def mcApply (c : Cmd) (one : Bool) (f : Nat → Nat → Monitor → Monitor) (s : State) : State :=
  let named := mcNamed s c
  let per := if one then [mcMon c] else List.range (if mcTiles c then 64 else 4)
  let write (x m : Nat) (s : State) : State :=
    if mcTiles c then setTileMon s (64 * x + m) ((f x m (tileMonAt s (64 * x + m))).emptied s.time)
    else setCoreMon s (4 * x + m) ((f x m (coreMonAt s (4 * x + m))).emptied s.time)
  let s := each named (fun x s => each per (write x) s) s
  finish s c.uid .ok (named.length * per.length) 0 0 0

/-- The monitors that a MONITOR_CONFIG or a MONITOR_READ acts on: whether they are tile monitors, the first, and how many of the target. -/
def monTargets (s : State) (c : Cmd) : Bool × List Nat :=
  if c.fn = 0x0500 then (mcTiles c, (mcNamed s c).flatMap fun x => (List.range (if mcTiles c then 64 else 4)).map fun m =>
    (if mcTiles c then 64 else 4) * x + m)
  else (fld c.pkt 65 64 = 1, (List.range (fld c.pkt 191 176)).map (fld c.pkt 175 160 + ·))

/-- Commands on one monitor take effect in admission order (R452): no earlier one on a monitor of this one waits to start. -/
def monTurn (s : State) (c : Cmd) : Bool :=
  s.cmds.all fun e => decide (c.uid ≤ e.uid) || e.started || !(e.fn == 0x0500 || (e.fn == 0x0501 && fld e.pkt 65 64 < 2)) ||
    (let a := monTargets s c
     let b := monTargets s e
     a.1 != b.1 || !a.2.any b.2.contains)

/-- The row's command: an ACTION of MONITOR_CONFIG. The reserved ACTION is refused as PRESET would be. -/
def isMc (a : Nat) (c : Cmd) : Bool := c.fn == 0x0500 && (mcAction c == a || (a == 0 && mcAction c == 3))

/-- MONITOR_CONFIG PRESET (R454, R455). -/
def execMonitorConfigPreset (q : Nat) (s : State) : Out :=
  .next (startAs s q (fun c => isMc 0 c && monTurn s c) fun c s => checked c (mcChecks s c)
    (mcApply c false fun x m _ => if mcTiles c then tilePreset (mcPreset c) x m else corePreset (mcPreset c) m) s)

/-- MONITOR_CONFIG CLEAR (R455). -/
def execMonitorConfigClear (q : Nat) (s : State) : Out :=
  .next (startAs s q (fun c => isMc 1 c && monTurn s c) fun c s => checked c (mcChecks s c) (mcApply c false fun _ _ m => m) s)

/-- The configuration that SET writes. -/
def mcMonitor (c : Cmd) : Monitor :=
  { Monitor.made (mcSource c) (mcInst c) (mcMode c) (mcBase c) (mcWidth c) (mcVc c) with preset := false }

/-- MONITOR_CONFIG SET (R455). -/
def execMonitorConfigSet (q : Nat) (s : State) : Out :=
  .next (startAs s q (fun c => isMc 2 c && monTurn s c) fun c s => checked c (mcChecks s c) (mcApply c true fun _ _ _ => mcMonitor c) s)

/-! ## MONITOR_READ -/

/-- A bin or SUM has reached its largest value (R449). -/
def Monitor.sat (m : Monitor) : Bool := m.sum == 2 ^ 64 - 1 || m.bins.any fun e => e.2 == 2 ^ 32 - 1

/-- A record (Table 20-7) of a monitor held by a tile, for section 0 with its logical and physical core. -/
def monRecord (s : State) (m : Monitor) (lcore tile mon pcore : Nat) : Nat :=
  let bins := (List.range 32).foldl (fun a i => a + tblGet 0 m.bins i * 2 ^ (512 + 32 * i)) 0
  bins + m.sum * 2 ^ 448 + m.count * 2 ^ 384 + m.max * 2 ^ 352 + m.min * 2 ^ 320 + m.start % 2 ^ 64 * 2 ^ 256 +
    s.time % 2 ^ 64 * 2 ^ 192 + m.inst * 2 ^ 175 + m.source * 2 ^ 167 + flagAt m.mode 166 + m.vcmask * 2 ^ 162 +
    flagAt m.sat 161 + flagAt m.preset 160 + m.base * 2 ^ 128 + m.width * 2 ^ 96 + m.dropped * 2 ^ 64 +
    lcore * 2 ^ 52 + tile * 2 ^ 48 + mon * 2 ^ 42 + pcore * 2 ^ 19

/-- NI_LINKn (Table 06-13). -/
def LinkState.code : LinkState → Nat
  | .up => 0 | .retraining => 1 | .failed => 2 | .none => 3

def niLinkWord (k : NiLink) : Nat :=
  k.state.code * 2 ^ 62 + k.sparesUsed.length % 64 * 2 ^ 56 + k.retrains % 256 * 2 ^ 48 + k.lost % 2 ^ 16 * 2 ^ 32 +
    k.transient % 2 ^ 32

/-- NI_DROP (Table 06-14). -/
def niDropWord (d : NiDrop) : Nat :=
  d.lifetime % 2 ^ 16 * 2 ^ 48 + d.staleGen % 2 ^ 16 * 2 ^ 32 + d.kind % 2 ^ 16 * 2 ^ 16 + d.vc0Over % 2 ^ 16

def mrDest (c : Cmd) : Nat := fld c.pkt 255 192
def mrCount (c : Cmd) : Nat := fld c.pkt 191 176
def mrFirst (c : Cmd) : Nat := fld c.pkt 175 160
def mrClear (c : Cmd) : Bool := fld c.pkt 72 72 = 1
def mrSection (c : Cmd) : Nat := fld c.pkt 65 64

/-- Records and their bytes by section (Table 20-6). -/
def mrSize (sec : Nat) : Nat := if sec = 0 then 12288 else if sec = 1 then 1024 else if sec = 2 then 16 else 3072
def mrBytes (sec : Nat) : Nat := if sec = 3 then 8 else 192

/-- The monitor of a record of sections 0 and 1. -/
def mrMonitor (s : State) (sec i : Nat) : Monitor := if sec = 0 then coreMonAt s i else tileMonAt s i

/-- One record's bytes. -/
def mrRecord (s : State) (sec i : Nat) : List Byte :=
  if sec = 0 then
    let p := (physOf s (i / 4)).getD 0
    leBytes 192 (monRecord s (coreMonAt s i) (i / 4) (tileOf p) (i % 4) (pcoreCode p))
  else if sec = 1 then leBytes 192 (monRecord s (tileMonAt s i) 0 (i / 64) (i % 64) 0)
  else if sec = 2 then
    let t := tileAt s i
    (List.range 16).flatMap (fun n => leBytes 8 (niLinkWord (tblGet NiLink.init t.links n))) ++
      leBytes 8 (niDropWord t.drop) ++ List.replicate 56 0
  else
    let w := winsAt s i
    leBytes 8 (w.dropped % 2 ^ 32 * 2 ^ 32 + w.refused % 2 ^ 32)

/-- The partition that a record belongs to. -/
def mrPart (s : State) (sec i : Nat) : Option Nat :=
  if sec = 0 then partOfL s (i / 4) else if sec = 1 then partOfTile s (i / 64) else if sec = 2 then partOfTile s i
  else partOfL s i

/-- The record's tile is dark, or nothing holds its core. -/
def mrLost (s : State) (sec i : Nat) : Bool :=
  if sec = 0 then coreMonLost s (i / 4) else if sec = 1 then (tpwrAt s (i / 64)).dark
  else if sec = 2 then (tpwrAt s i).dark else coreMonLost s i

/-- Indexes asked for. -/
def mrRange (c : Cmd) : List Nat := (List.range (mrCount c)).map (mrFirst c + ·)

/-- Refusals of MONITOR_READ (R456). -/
def mrChecks (s : State) (c : Cmd) : List (Bool × Status) :=
  let sec := mrSection c
  let n := mrBytes sec * mrCount c
  [(decide (mrCount c < 1 ∨ 4096 < mrCount c ∨ mrSize sec < mrFirst c + mrCount c) || (!c.expert && decide (2 ≤ sec)) ||
     (mrClear c && decide (2 ≤ sec)) || badDest s (mrDest c) n 64, .badParam),
   ((mrRange c).any (fun i => match mrPart s sec i with
      | some p => !serves s c.host p
      | none => false) || !inCarve s c.host (mrDest c) n, .notPermitted),
   ((mrRange c).any (mrLost s sec), .dieLost)]

/-- CLEAR empties each monitor at its snapshot (R452). -/
def mrClearAll (c : Cmd) (s : State) : State :=
  if mrClear c then
    each (mrRange c) (fun i s =>
      if mrSection c = 0 then setCoreMon s i ((coreMonAt s i).emptied s.time)
      else setTileMon s i ((tileMonAt s i).emptied s.time)) s
  else s

/-- The copy. -/
def mrCopy (c : Cmd) (s : State) : State :=
  let sec := mrSection c
  let bs := (mrRange c).flatMap (mrRecord s sec)
  let sat := if sec < 2 then ((mrRange c).filter fun i => (mrMonitor s sec i).sat).length else 0
  copyOut s c (mrDest c) bs fun s => finish (mrClearAll c s) c.uid .ok (mrCount c) sat 0 0

/-- MONITOR_READ (R456), in either form. -/
def execMonitorRead (q : Nat) (s : State) : Out :=
  .next (startAs s q (fun c => isFnAny 0x0501 c && (decide (2 ≤ mrSection c) || monTurn s c)) fun c s => checked c (mrChecks s c) (mrCopy c) s)

/-! ## Congestion maps -/

/-- Some core of the die is in service: the site is neither spare nor unpowered (R460). -/
def siteServes (s : State) (t d : Nat) : Bool := (siteCores t d).any fun p => pstateAt s p == .inService

/-- A tile's levels as the map holds them (R458, R460). -/
def mapLevels (s : State) (x : TileLevels) : TileLevels :=
  { tile := x.tile,
    routers := (List.range 128).map fun i => min (x.routers.getD i 0) 15,
    dies := (List.range 52).map fun i => if siteServes s x.tile (i / 4) then min (x.dies.getD i 0) 15 else 0 }

def cmDest (c : Cmd) : Nat := fld c.pkt 127 64
def cmInterval (c : Cmd) : Nat := fld c.pkt 143 128
def cmVcsel (c : Cmd) : Nat := fld c.pkt 146 144
def cmMode (c : Cmd) : Bool := fld c.pkt 147 147 = 1
def cmSet (c : Cmd) : Bool := fld c.pkt 148 148 = 1

/-- Four-bit levels, two to a byte. -/
def levelBytes : List Nat → List Byte
  | a :: b :: t => BitVec.ofNat 8 (a + 16 * b) :: levelBytes t
  | [a] => [BitVec.ofNat 8 a]
  | [] => []

/-- A tile's 128 bytes (R460). -/
def mapTile (x : TileLevels) : List Byte := levelBytes x.routers ++ levelBytes x.dies ++ List.replicate 38 0

/-- Tiles in a partition not assigned to the reading host die. -/
def mapHidden (s : State) (h : Nat) : Nat :=
  (List.range 16).foldl (fun a t => a + flagAt (match partOfTile s t with
    | some n => !serves s h n
    | none => false) t) 0

/-- The latest map, as host die h may see it (R460). -/
def mapBytes (s : State) (h : Nat) : List Byte :=
  let m := s.cmap
  let hid := mapHidden s h
  let head := m.time % 2 ^ 64 * 2 ^ 192 + m.seq * 2 ^ 160 + m.mapInterval * 2 ^ 144 + hid * 2 ^ 112 +
    m.dark.toNat * 2 ^ 96 + m.mapVcsel * 2 ^ 93 + flagAt m.mapPeak 92 + flagAt m.drain 91
  leBytes 64 head ++ (List.range 16).flatMap fun t =>
    match m.levels.find? fun x => x.tile == t with
    | some x => if bit hid t then List.replicate 128 0 else mapTile x
    | none => List.replicate 128 0

/-- Copy the latest map; with none complete the command waits for the first (R461). -/
def mapCopy (s : State) (c : Cmd) : State :=
  if s.cmap.seq = 0 then modCmd s c.uid fun c => { c with wait := .map }
  else copyOut s c (cmDest c) (mapBytes s c.host) fun s => finish s c.uid .ok s.cmap.seq s.cmap.interval 0 0

/-- The commands that wait for the first map. -/
def serveMaps (s : State) : State :=
  let waits (c : Cmd) : Bool := match c.wait with
    | .map => true
    | _ => false
  each (s.cmds.filter waits) (fun c s => mapCopy s c) s

/-- CONGESTION_INTERVAL_END (R459): the curators' levels become the latest map, and the settings written last take effect. -/
def intervalEnd (s : State) (levels : List TileLevels) : State :=
  let on (t : Nat) : Bool := !(tpwrAt s t).dark && (curatorAt s t).state == .posting
  let told := levels.filter fun x => decide (x.tile < 16) && on x.tile
  let dark := (List.range 16).foldl (fun a t => a + flagAt (!told.any fun x => x.tile == t) t) 0
  let m := s.cmap
  let running := s.drains.any fun d => d.phase != .decided
  let next : CMap :=
    { m with interval := m.nextInterval, vcsel := m.nextVcsel, peak := m.nextPeak, seq := (m.seq + 1) % 2 ^ 32,
             time := s.time, mapInterval := m.interval, mapVcsel := m.vcsel, mapPeak := m.peak,
             dark := BitVec.ofNat 16 dark, drain := m.drainSeen || running, drainSeen := running,
             levels := told.map (mapLevels s) }
  serveMaps { s with cmap := next }

/-- CONGESTION_INTERVAL_END (R459), while the lead curator runs. -/
def execCongestionIntervalEnd (levels : List TileLevels) (s : State) : Out :=
  .next (if (curatorAt s s.lead).state = .posting then intervalEnd s levels else s)

/-- Refusals of CONGESTION_MAP_READ (R461). -/
def cmChecks (s : State) (c : Cmd) : List (Bool × Status) :=
  [((!c.expert && fld c.pkt 148 128 != 0) || (!cmSet c && fld c.pkt 147 128 != 0) ||
     (cmSet c && decide (cmInterval c < 1 ∨ 10000 < cmInterval c ∨ 4 < cmVcsel c)) || badDest s (cmDest c) 2112 64,
    .badParam),
   ((cmSet c && !(queueAt s c.queue).admin) || !inCarve s c.host (cmDest c) 2112, .notPermitted)]

/-- Settings are written before the copy. -/
def cmRun (c : Cmd) (s : State) : State :=
  if cmSet c then
    let m := { s.cmap with nextInterval := cmInterval c, nextVcsel := cmVcsel c, nextPeak := cmMode c }
    mapCopy { s with cmap := m } c
  else mapCopy s c

/-- CONGESTION_MAP_READ (R461), in either form. -/
def execCongestionMapRead (q : Nat) (s : State) : Out :=
  .next (startAs s q (isFnAny 0x0502) fun c s => checked c (cmChecks s c) (cmRun c) s)

end Sys2Proof.Machine
end

