-- ==== Sys2Proof/Machine/Power.lean ====
section
/-! DEFINITION. The 50 V input, tile converters, core regulators, switching on, the slew limit and the power caps
(R414–R438). -/

namespace Sys2Proof.Machine

/-- Curators run and the panel is not out of service. -/
def inRun (s : State) : Bool := s.service.ph == 2

/-! ## Input voltage (R414–R420) -/

/-- A sag begins: ride-through at F5. A lower reading of the same sag lowers its minimum. -/
def beginSag (s : State) (mv : Nat) : State :=
  if !(s.service.ph == 2 || s.service.ph == 3) || decide (43000 ≤ mv) then s
  else if s.power.sag then
    { s with power := { s.power with vmin := min s.power.vmin mv, vin := min s.power.vin mv } }
  else
    let s := powerEvent s (some mv)
    retargetAll { s with power := { s.power with sag := true, sagSince := s.time, sags := satInc 8 s.power.sags, vin := mv } }

/-- SAG_DETECT (R416). -/
def execSagDetect (mv : Nat) (s : State) : Out := .next (beginSag s mv)

/-- A voltage within the operating range, which the row does not give (log 6, DESIGN CHOICE). -/
def operatingVin (s : State) : State :=
  bumpFresh { s with power := { s.power with vin := 44000 + Config.freeNat s.fresh % 12001 } } 1

/-- The sag ends; one that was ridden through is recorded. -/
def endSag (s : State) : State :=
  if s.power.sag then
    let us := (s.time - s.power.sagSince) / 1000
    let s := operatingVin { s with power := { s.power with sag := false } }
    retargetAll (if s.power.pfw then s else powerEntry s 5 us 0)
  else s

/-- SAG_END (R416). -/
def execSagEnd (s : State) : Out := .next (endSag s)

/-- SAG_LIMIT_EXPIRY (R416): a sag of 10 ms. -/
def execSagLimitExpiry (s : State) : Out :=
  .next (if s.power.sag then powerFail s 1 ((s.time - s.power.sagSince) / 1000) else s)

/-- HIGH_INPUT (R414). -/
def execHighInput (s : State) : Out := .next (if responding s then s else powerFail (powerEvent s none) 2 0)

/-- INPUT_LOCKOUT (R414): every converter stops. -/
def execInputLockout (s : State) : Out := .next (if s.power.pwrGood then powerLoss s else s)

/-- A power-fail warning is accepted. How long PFW_N had been low when the entry was written is free, within its 4 ms
(log 6, DESIGN CHOICE). -/
def pfwAssert (s : State) : State :=
  let s := { s with power := { s.power with pfwN := false, pfwHighSince := none } }
  if responding s then s
  else
    let us := Config.freeNat s.fresh % 4001
    powerFail (powerEvent (bumpFresh s 1) none) 0 us

/-- PFW_N_ASSERT (R417, R418). -/
def execPfwNAssert (s : State) : Out := .next (pfwAssert s)

/-- PFW_N_DEASSERT (R419). -/
def execPfwNDeassert (s : State) : Out :=
  .next { s with power := { s.power with pfwN := true, pfwHighSince := if s.power.pfw then some s.time else none } }

/-- PFW_RECOVERY (R419). -/
def execPfwRecovery (s : State) : Out := .next (beginRecovery s)

/-- PWR_GOOD_RISE (R366): the tile rails come up, and the panel is held in reset. -/
def execPwrGoodRise (s : State) : Out :=
  .next (
    if s.power.pwrGood then s
    else { s with power := { s.power with pwrGood := true }, start := { s.start with stage := .inReset, fromPower := true } })

/-! ## Load slew (R422–R425) -/

/-- What one grant interval may give, in W (R422). -/
def grantBudget (s : State) : Nat := s.power.slew / 10

/-- The requests in the order of R422 step 3: checks by partition, then the others round-robin after the last tile served. -/
def grantOrder (s : State) (demand : List SlewDemand) : List SlewDemand :=
  ((List.range 16).flatMap fun n => demand.filter fun d => d.check && partOfTile s d.tile == some n) ++
  (List.range 16).flatMap fun i => demand.filter fun d => !d.check && d.tile == (s.power.lastServed + 1 + i) % 16

/-- Serve the requests in order: what is left, and the last tile served in turn. -/
def serveGrants (s : State) (left : Nat) : List SlewDemand → State
  | [] => s
  | d :: t =>
    let w := min d.watts left
    let s := modTpwr s d.tile fun x => { x with granted := x.granted + w }
    let s := if !d.check && 0 < w then { s with power := { s.power with lastServed := d.tile } } else s
    serveGrants s (left - w) t

/-- One interval's grants; unused ones of the last have lapsed. None is issued in a sag (R416). -/
def grantSlew (s : State) (demand : List SlewDemand) : State :=
  if !inRun s || s.power.sag then s
  else
    let s := each (List.range 16) (fun t s => modTpwr s t fun x => { x with granted := 0 }) s
    serveGrants s (grantBudget s) (grantOrder s (demand.filter fun d => d.tile < 16))

/-- SLEW_GRANT (R422). -/
def execSlewGrant (demand : List SlewDemand) (s : State) : Out := .next (grantSlew s demand)

def slRate (c : Cmd) : Nat := fld c.pkt 79 64

/-- Refusals of the two forms. -/
def slReadChecks (c : Cmd) : List (Bool × Status) := [(slRate c != 0, .badParam)]

def slSetChecks (s : State) (c : Cmd) : List (Bool × Status) :=
  [(decide (slRate c < 500 ∨ 20000 < slRate c), .badParam), (!(queueAt s c.queue).admin, .notPermitted)]

/-- SLEW_LIMIT (R425): reads L. -/
def execSlewLimit (q : Nat) (s : State) : Out :=
  .next (startAs s q (isFn 0x0603 false) fun c s => checked c (slReadChecks c)
    (fun s => finish s c.uid .ok s.power.slew 0 0 0) s)

/-- SLEW_LIMIT expert form (R425): sets L. -/
def execSlewLimitExpert (q : Nat) (s : State) : Out :=
  .next (startAs s q (isFn 0x0603 true) fun c s => checked c (slSetChecks s c)
    (fun s => finish { s with power := { s.power with slew := slRate c } } c.uid .ok (slRate c) 0 0 0) s)

/-! ## Converters (R426–R428) -/

/-- Rating at the output, W. -/
def outputRating (s : State) (t : Nat) : Nat := 400 * phasesOf s t

/-- A record of class POWER. -/
def powerRecord (s : State) (t detail : Nat) : FaultRec :=
  { FaultRec.blank 0x12 .tile with
    pcore := some (stackCode t 0xF), part := (partOfTile s t).getD 0, detail := detail }

/-- A converter phase is taken out of service; with five or fewer left the tile has a lasting fault. -/
def losePhase (s : State) (t phase : Nat) : State :=
  let x := tpwrAt s t
  if 16 ≤ t ∨ 8 ≤ phase ∨ x.dark ∨ !bit x.phases.toNat phase then s
  else
    let s := modTpwr s t fun x => { x with phases := x.phases &&& ~~~(BitVec.ofNat 8 (2 ^ phase)) }
    let s := raiseCause s 0
    let r := powerRecord s t (1 + phase * 256)
    if phasesOf s t ≤ 5 then disposeTile (addLasting s { r with attempts := 2 } (some (tileUnit t))) t 0x12
    else addFault s r

/-- CONVERTER_PHASE_FAULT (R427). -/
def execConverterPhaseFault (tile phase : Nat) (s : State) : Out := .next (losePhase s tile phase)

/-- The curators and boot-flash dies of T0 and T15 go with their tiles (Table 18-5). -/
def loseCorner (s : State) (t : Nat) : State :=
  let s := modCurator s t fun c => { c with state := .lost }
  if t = 0 then
    raiseCause { s with bf0 := { s.bf0 with alive := false }, hasDeputy := s.hasDeputy && s.lead == 0 } 1
  else if t = 15 then
    raiseCause { s with bf1 := { s.bf1 with alive := false }, hasDeputy := s.hasDeputy && s.lead == 15 } 1
  else s

/-- A tile goes dark (Table 18-5). -/
def darkTile (s : State) (t detail : Nat) : State :=
  if 16 ≤ t ∨ (tpwrAt s t).dark then s
  else
    let s := modTpwr s t fun x => { x with dark := true, pin := 0, budget := 0, granted := 0, standing := 0, warming := 0 }
    let s := { s with power := { s.power with trips := satInc 8 s.power.trips } }
    let s := loseCorner s t
    let s := addLasting s { powerRecord s t detail with cls := 0x0C, attempts := 2 } (some (tileUnit t))
    let s := disposeTile s t 0x0C
    let s := each ((List.range 13).flatMap (siteCores t)) (fun p s => darkCore s p) s
    let s := match hostOfTile t with
      | some h => loseHost s h
      | none => s
    let s := each ((tileEdgeDies t).filter (edgeDieOk s)) (fun d s => losePorts s d) s
    reroute s false

/-- BREAKER_TRIP (R428): a breaker (DETAIL 3) or an input eFuse (DETAIL 4). -/
def execBreakerTrip (tile : Nat) (efuse : Bool) (s : State) : Out :=
  .next (if s.power.pwrGood then darkTile s tile (if efuse then 4 else 3) else s)

/-! ## Core regulators (R429–R432) -/

/-- Phases of a domain's regulator in service. -/
def regPhases (s : State) (p : Nat) : Nat := ((List.range 4).filter fun i => bit (pwrAt s p).phasesOk.toNat i).length

/-- A domain that is switched on. -/
def domainOn (s : State) (p : Nat) : Bool := pstateAt s p != .dark && pstateAt s p != .deaccessioned && pstateAt s p != .spare

/-- A phase of a core regulator is lost: a cap, or a dark domain (Table 18-7, R431). -/
def loseRegPhase (s : State) (p phase : Nat) : State :=
  if 4 ≤ phase ∨ !domainOn s p ∨ !bit (pwrAt s p).phasesOk.toNat phase then s
  else
    let s := modPwr s p fun d =>
      { d with phasesOk := d.phasesOk &&& ~~~(BitVec.ofNat 4 (2 ^ phase)), phaseFails := satInc 8 d.phaseFails }
    let s := addFault s { coreFault s p 0x12 .core with attempts := 1, detail := 2 + phase * 256 }
    let left := regPhases s p
    if left = 3 then recapped (modClk s p fun d => { d with regCap := 1 }) p
    else if left = 2 then recapped (modClk s p fun d => { d with regCap := 3 }) p
    else
      let s := modCore s p fun c => { c with stages := 0 }
      disposeCore (addLasting s (coreFault s p 0x08 .core) (some (coreUnit p))) p 0x08

/-- A base tile's own regulator loses a phase: 14 of its 16 are needed (R431). -/
def loseTileReg (s : State) (t : Nat) : State :=
  let n := tblGet 0 s.tileReg t
  if 16 ≤ t ∨ 16 ≤ n then s
  else
    let s := { s with tileReg := tblSet 0 s.tileReg t (n + 1) }
    if n + 1 = 3 then tileFailed s t 0x0C 0 else s

/-- REGULATOR_PHASE_FAULT (R430, R431): p is a core domain, or 3744 + tile for a base tile's own regulator (log 26, DESIGN CHOICE). -/
def execRegulatorPhaseFault (p phase : Nat) (s : State) : Out :=
  .next (if p < 3744 then loseRegPhase s p phase else loseTileReg s (p - 3744))

/-! ## Switching on (R433) -/

/-- The converter's output is at or below STAGE_THR of its rating. -/
def stageRoom (s : State) (p output : Nat) : Bool :=
  decide (output * 100 ≤ s.power.stageThr * outputRating s (tileOf p))

/-- A header switch that is closing: a core switched on and not yet at its eighth stage. -/
def staging (s : State) (p : Nat) : Bool := pstateAt s p == .testing && decide ((coreAt s p).stages < 8)

/-- A stage closes, and a pause ends. -/
def closeStage (s : State) (p n : Nat) : State :=
  modCore s p fun c => { c with stages := min 8 (c.stages + n), pausedSince := none }

/-- HEADER_STAGE (R433): the next stage, or the start of a pause. -/
def execHeaderStage (p output : Nat) (s : State) : Out :=
  .next (
    if !staging s p || (coreAt s p).pausedSince.isSome then s
    else if stageRoom s p output then closeStage s p 1
    else modCore s p fun c => { c with pausedSince := some s.time })

/-- STAGE_PAUSE_RECHECK (R433): the pause ends once the output is at or below the threshold. -/
def execStagePauseRecheck (p output : Nat) (s : State) : Out :=
  .next (if staging s p && (coreAt s p).pausedSince.isSome && stageRoom s p output then closeStage s p 1 else s)

/-- STAGE_PAUSE_LIMIT (R433): the remaining stages close regardless. -/
def execStagePauseLimit (p : Nat) (s : State) : Out :=
  .next (
    if staging s p && (coreAt s p).pausedSince.isSome then
      modTpwr (closeStage s p 8) (tileOf p) fun x => { x with pauses := satInc 8 x.pauses }
    else s)

/-! ## Power caps (R435) -/

/-- Full-load input of a tile, W (Table 18-3). -/
def fullInput (t : Nat) : Nat :=
  if t = 0 ∨ t = 3 ∨ t = 12 ∨ t = 15 then 2963 else if t = 5 ∨ t = 6 ∨ t = 9 ∨ t = 10 then 2685 else 2761

/-- The full-load input of the sixteen tiles. -/
def fullPanel : Nat := 44680

/-- A tile's rating expressed at its input, W (R435). -/
def inputRating (s : State) (t : Nat) : Nat := outputRating s t * 100 / 96

/-- What limits a tile whatever it asks for: its rating, its cap, and its share while the demand does not fit. -/
def tileLimit (s : State) (fits : Bool) (t : Nat) : Nat :=
  let cap := (tpwrAt s t).cap
  let a := if cap = 0 then inputRating s t else min cap (inputRating s t)
  if fits then a else min a (s.power.panelCap * fullInput t / fullPanel)

/-- The load of a control-loop partition's tile in the last second is held up (R423). -/
def standingLoad (s : State) (t pin old : Nat) : Nat :=
  match (partOfTile s t).bind fun n => (partAt s n).lastControl with
  | some x => if s.time ≤ x + 1000000000 then max old pin else 0
  | none => 0

/-- One tile's budget for the next millisecond. How much of its dispatch a limited tile withholds is free (log 6, DESIGN CHOICE). -/
def divideTile (fits : Bool) (demand : Nat → Nat) (t : Nat) (s : State) : State :=
  if (tpwrAt s t).dark then s
  else
    let lim := tileLimit s fits t
    let budget := if fits then min lim (demand t) else lim
    let pin := min budget (demand t)
    let held := decide (lim ≤ demand t)
    let withheld := if lim < demand t then Config.freeNat s.fresh % 101 else 0
    bumpFresh (modTpwr s t fun x =>
      { x with budget := budget, pin := pin, atBudget := held, withheld := withheld,
               warming := if held then 0 else x.warming, standing := standingLoad s t pin x.standing }) 1

/-- The lead divides the panel cap among the tiles by their measured demand. -/
def dividePower (s : State) (demand : List Nat) : State :=
  if !inRun s then s
  else
    let d (t : Nat) : Nat := demand.getD t 0
    let fits := decide (((List.range 16).map d).sum ≤ s.power.panelCap)
    let s := each (List.range 16) (divideTile fits d) s
    let pin := ((List.range 16).map fun t => (tpwrAt s t).pin).sum
    let capped := (List.range 16).any fun t => (tpwrAt s t).atBudget && decide (tileLimit s fits t < inputRating s t)
    { s with power := { s.power with pin := pin, atCap := capped },
             thermal := { s.thermal with kwLoad := ((List.range 16).map fun t => (tpwrAt s t).warming).sum } }

/-- POWER_CAP_DIVISION (R435). -/
def execPowerCapDivision (demand : List Nat) (s : State) : Out := .next (dividePower s demand)

/-- A partition's power-cap step goes down or up by one. -/
def powerCapStep (s : State) (n : Nat) (lower : Bool) : State :=
  if !inRun s || (partAt s n).state == .undefined || (partAt s n).state == .withdrawn then s
  else retargetPart (modPart s n fun p =>
    { p with powerCap := if lower then min 5 (p.powerCap + 1) else p.powerCap - 1 }) n

/-- POWER_CAP_STEP_CHANGE (R435). -/
def execPowerCapStepChange (part : Nat) (lower : Bool) (s : State) : Out := .next (powerCapStep s part lower)

/-! ## POWER_POLICY (R436) -/

def ppAction (c : Cmd) : Nat := fld c.pkt 73 72
def ppCap (c : Cmd) : Nat := fld c.pkt 127 112
def ppTile (c : Cmd) : Nat := fld c.pkt 131 128
def ppThr (c : Cmd) : Nat := fld c.pkt 143 136
def ppPause (c : Cmd) : Nat := fld c.pkt 159 144
def ppFirst (c : Cmd) : Nat := fld c.pkt 175 160
def ppCount (c : Cmd) : Nat := fld c.pkt 191 176
def ppDest (c : Cmd) : Nat := fld c.pkt 255 192

/-- The command is a POWER_POLICY with this ACTION. -/
def isPowerPolicy (action : Nat) (c : Cmd) : Bool := c.fn == 0x0600 && ppAction c == action

/-- The fields of the other actions are zero. -/
def ppUnused (c : Cmd) (cap tile staging read : Bool) : Bool :=
  (cap || ppCap c == 0) && (tile || ppTile c == 0) && (staging || (ppThr c == 0 && ppPause c == 0)) &&
    (read || (ppFirst c == 0 && ppCount c == 0 && ppDest c == 0))

/-- Completion; word 0 is `w0`. -/
def ppFinish (s : State) (uid w0 : Nat) : State :=
  let atBudget := ((List.range 16).filter fun t => (tpwrAt s t).atBudget).length
  let short := ((List.range 16).filter fun t => decide (phasesOf s t < 8)).length
  finish s uid .ok w0 s.power.pin (atBudget + short * 2 ^ 16) (s.power.stageThr + s.power.stagePause * 2 ^ 16)

/-- An admin queue. -/
def ppAdmin (s : State) (c : Cmd) : Bool := (queueAt s c.queue).admin

/-- Refusals of PANEL_CAP. -/
def ppCapChecks (s : State) (c : Cmd) : List (Bool × Status) :=
  [(!ppUnused c true false false false || decide (ppCap c < 12000 ∨ 46000 < ppCap c), .badParam),
   (!ppAdmin s c, .notPermitted)]

/-- POWER_POLICY PANEL_CAP (R436), in either form. -/
def execPowerPolicyPanelCap (q : Nat) (s : State) : Out :=
  .next (startAs s q (isPowerPolicy 0) fun c s => checked c (ppCapChecks s c)
    (fun s => ppFinish { s with power := { s.power with panelCap := ppCap c } } c.uid (ppCap c)) s)

/-- Voltage of a step, mV (Table 18-6). -/
def stepVolts (st : Nat) : Nat :=
  if st = 0 then 850 else if st = 1 then 780 else if st = 2 then 740 else if st = 3 then 700 else if st = 4 then 660 else 620

/-- The fastest step an engine of the domain runs. -/
def fastestStep (c : Core) : Nat := c.engines.foldl (fun a e => min a e.step) 5

/-- The domain's voltage: that of the fastest step an engine runs; a margin cap keeps the voltage of the step before it
(R409). -/
def domainVolts (s : State) (p : Nat) : Nat :=
  let d := clkAt s p
  let before := max (max (setStep (domainPart s p)) (targetOf s p)) (if d.regCap = 7 then 0 else d.regCap)
  let st := fastestStep (coreAt s p)
  stepVolts (if d.marginCap ≠ 7 then min before st else st)

/-- A domain's record is brought up to date: its power is a measurement, and free (log 6, DESIGN CHOICE). -/
def measureDomain (s : State) (p : Nat) : State :=
  let on := domainOn s p && decide ((coreAt s p).stages = 8)
  bumpFresh (modPwr s p fun d =>
    { d with power := if on then Config.freeNat s.fresh % 2 ^ 12 else 0, vout := if on then domainVolts s p else 0 }) 1

/-- PWR_DOM (Table 18-8). -/
def pwrDomWord (d : PwrDom) : Nat :=
  d.power % 2 ^ 12 * 2 ^ 28 + d.vout % 2 ^ 12 * 2 ^ 16 + min d.phaseFails 255 * 2 ^ 8 + d.phasesOk.toNat

/-- The records of a READ are brought up to date. -/
def ppMeasured (s : State) (c : Cmd) : State :=
  each ((List.range (ppCount c)).map (ppFirst c + ·)) (fun p s => measureDomain s p) s

/-- The PWR_DOM records of a READ. -/
def ppBytes (s : State) (c : Cmd) : List Byte :=
  (List.range (ppCount c)).flatMap fun i => leBytes 8 (pwrDomWord (pwrAt s (ppFirst c + i)))

/-- READ: PWR_DOM records. -/
def readPwr (c : Cmd) (s : State) : State :=
  let s := ppMeasured s c
  let bs := ppBytes s c
  copyOut s c (ppDest c) bs fun s => ppFinish s c.uid (ppCount c)

/-- Refusals of READ. -/
def ppReadChecks (s : State) (c : Cmd) : List (Bool × Status) :=
  [(!ppUnused c false false false true || ppCount c == 0 || decide (3744 < ppFirst c + ppCount c) ||
      badDest s (ppDest c) (8 * ppCount c) 64, .badParam),
   (!inCarve s c.host (ppDest c) (8 * ppCount c), .notPermitted)]

/-- POWER_POLICY READ (R436). -/
def execPowerPolicyRead (q : Nat) (s : State) : Out :=
  .next (startAs s q (isPowerPolicy 1) fun c s => checked c (ppReadChecks s c) (readPwr c) s)

/-- The tile of TILE_CAP is in a partition that the charter assigns to the host die. -/
def tileServed (s : State) (h t : Nat) : Bool :=
  match partOfTile s t with
  | some n => serves s h n
  | none => false

/-- Refusals of TILE_CAP. -/
def ppTileChecks (s : State) (c : Cmd) : List (Bool × Status) :=
  [(!c.expert || !ppUnused c true true false false || (ppCap c != 0 && decide (ppCap c < 400 ∨ 3400 < ppCap c)), .badParam),
   (!tileServed s c.host (ppTile c), .notPermitted)]

/-- POWER_POLICY TILE_CAP (R436): expert. -/
def execPowerPolicyTileCap (q : Nat) (s : State) : Out :=
  .next (startAs s q (isPowerPolicy 2) fun c s => checked c (ppTileChecks s c)
    (fun s => ppFinish (modTpwr s (ppTile c) fun x => { x with cap := ppCap c }) c.uid s.power.panelCap) s)

/-- Refusals of STAGING. -/
def ppStagingChecks (s : State) (c : Cmd) : List (Bool × Status) :=
  [(!c.expert || !ppUnused c false false true false || decide (ppThr c < 70 ∨ 95 < ppThr c) ||
      decide (ppPause c < 100 ∨ 2000 < ppPause c), .badParam),
   (!ppAdmin s c, .notPermitted)]

/-- POWER_POLICY STAGING (R436): expert. -/
def execPowerPolicyStaging (q : Nat) (s : State) : Out :=
  .next (startAs s q (isPowerPolicy 3) fun c s => checked c (ppStagingChecks s c)
    (fun s => ppFinish { s with power := { s.power with stageThr := ppThr c, stagePause := ppPause c } } c.uid
      s.power.panelCap) s)

end Sys2Proof.Machine
end

