-- ==== Sys2Proof/Machine/Thermal.lean ====
section
/-! DEFINITION. Junction sensors, thermal thresholds and shutdown, the flow request and keep-warm (R439–R447). -/

namespace Sys2Proof.Machine

/-! ## Sensors (R441) -/

/-- The other sensor of a sensor's die; none for a die that has one. -/
def otherSensor (k : Nat) : Option Nat := if k < 28 then some (if k % 2 = 0 then k + 1 else k - 1) else none

/-- The reading is in range, and within 15 K of the other sensor's. -/
def sensorOk (s : State) (t k : Nat) (r : Int) : Bool :=
  decide (0 ≤ r ∧ r ≤ 125) && (match (otherSensor k).bind fun j => (sensorAt s t j).reading with
    | some x => decide ((x : Int) - 15 ≤ r ∧ r ≤ x + 15)
    | none => true)

/-- The die exists: T0, T3, T12 and T15 feed a host die, and the edge tiles one or two edge-port dies. -/
def sensorThere (t k : Nat) : Bool :=
  decide (t < 16 ∧ k < 28) || (decide (t < 16) && k == 28 && (hostOfTile t).isSome) ||
    (decide (t < 16) && (k == 29 && !(tileEdgeDies t).isEmpty || k == 30 && decide (1 < (tileEdgeDies t).length)))

def setSensor (s : State) (t k : Nat) (x : Sensor) : State :=
  { s with thermal := { s.thermal with sensors := tblSet Sensor.init s.thermal.sensors (64 * t + k) x } }

/-- A die is left with no valid sensor: a lasting fault of the die (R338, R441). -/
def blindDie (s : State) (t k : Nat) : State :=
  if k < 2 then tileFailed s t 0x13 0
  else if k < 28 then
    let d := (k - 2) / 2
    if diePowered s t d && !dieFenced s t d then stackFailed s t d 0x13 0 else s
  else if k = 28 then (match hostOfTile t with
    | some h => if (hostAt s h).released then loseHost s h else s
    | none => s)
  else match (tileEdgeDies t)[k - 29]? with
    | some d => edgeDieFault s d 0x13
    | none => s

/-- A reading is discarded. -/
def badReading (s : State) (t k : Nat) : State :=
  let s := setSensor s t k { reading := none, bad := true, shut := 0 }
  let s := { s with thermal := { s.thermal with badSensor := true } }
  let blind : Bool := match otherSensor k with
    | some j => (sensorAt s t j).bad
    | none => true
  if blind then blindDie s t k else s

/-! ## Thresholds (R443–R445) -/

/-- A record of class THERMAL. -/
def thermalRecord (s : State) (t : Nat) (scope : Scope) (detail : Nat) : FaultRec :=
  { FaultRec.blank 0x13 scope with
    pcore := some (stackCode t 0xF), part := (partOfTile s t).getD 0, detail := detail }

/-- Keep-warm load stops (R443, R446). -/
def stopWarming (s : State) : State :=
  let s := each (List.range 16) (fun t s => modTpwr s t fun x => { x with warming := 0 }) s
  { s with thermal := { s.thermal with kwLoad := 0 } }

/-- T_WARN. -/
def warnTile (s : State) (t : Nat) : State :=
  if tileHot s t < 95 ∨ s.thermal.warn then s
  else
    let s := stopWarming { s with thermal := { s.thermal with warn := true, flow := 80 } }
    addFault s (thermalRecord s t .tile 1)

/-- A partition's thermal cap changes, and its domains follow; CAPS counts the steps. -/
def setThermalCap (s : State) (n cap : Nat) : State :=
  let old := (partAt s n).thermalCap
  let s := { s with thermal := { s.thermal with caps := satAdd 8 s.thermal.caps (cap - old) } }
  let s := modPart s n fun p => { p with thermalCap := cap }
  retargetPart (if cap = 0 then s else stopWarming s) n

/-- T_CAP is noted for the window; T_CRIT takes the partition to F5 at once. -/
def capTile (s : State) (t before : Nat) : State :=
  match partOfTile s t with
  | none => s
  | some n =>
    let s := if 100 ≤ tileHot s t ∧ !s.thermal.hot.contains n then
        { s with thermal := { s.thermal with hot := s.thermal.hot ++ [n] } } else s
    if 105 ≤ tileHot s t then
      let s := if before < 105 then addFault s (thermalRecord s t .partition 3) else s
      if (partAt s n).thermalCap = 5 then s else setThermalCap s n 5
    else s

/-- Controlled shutdown (Table 19-2). -/
def thermalShutdown (s : State) (t : Nat) : State :=
  if s.service.ph ≠ 2 then s
  else
    let s := addFault s (thermalRecord s t .panel 4)
    let s := stopStart s
    let s := each (activeParts s) (fun n s => powerReset s n .thermalLimit) s
    leaveService s 0x13 .thermalLimit .thermalLimit

/-- A sample: the reading is taken or discarded, and the thresholds act on the tile's hottest valid reading. -/
def sampleSensor (s : State) (t k : Nat) (r : Int) : State :=
  if !sensorThere t k || !s.rstN then s
  else if !sensorOk s t k r then badReading s t k
  else
    let before := tileHot s t
    let shut := if 110 ≤ r then (sensorAt s t k).shut + 1 else 0
    let s := setSensor s t k { reading := some r.toNat, bad := false, shut := min shut 2 }
    if !(s.service.ph == 2 || s.service.ph == 3) then s
    else
      let s := capTile (warnTile s t) t before
      if 2 ≤ shut then thermalShutdown s t else s

/-- SENSOR_SAMPLE (R441, R443, R445); sensors are numbered as `tileSensors` says. -/
def execSensorSample (tile sensor : Nat) (reading : Int) (s : State) : Out := .next (sampleSensor s tile sensor reading)

/-- A 10 ms window in which a tile of the partition reached T_CAP ends. -/
def capWindow (s : State) (n : Nat) : State :=
  if s.thermal.hot.contains n then
    let s := { s with thermal := { s.thermal with hot := s.thermal.hot.filter (· != n) } }
    let cap := (partAt s n).thermalCap
    let t := ((partTiles s n).find? fun t => decide (100 ≤ tileHot s t)).getD ((partTiles s n).headD 0)
    let s := if cap = 0 then addFault s (thermalRecord s t .partition 2) else s
    if cap = 5 then s else setThermalCap s n (cap + 1)
  else s

/-- THERMAL_CAP_WINDOW (R443). -/
def execThermalCapWindow (part : Nat) (s : State) : Out := .next (if inRun s then capWindow s part else s)

/-- Every tile of the partition has stayed at or below 95 °C for a second. -/
def capRecovery (s : State) (n : Nat) : State :=
  let cap := (partAt s n).thermalCap
  if cap = 0 ∨ (partTiles s n).any fun t => decide (95 < tileHot s t) then s else setThermalCap s n (cap - 1)

/-- THERMAL_CAP_RECOVERY (R444). -/
def execThermalCapRecovery (part : Nat) (s : State) : Out := .next (if inRun s then capRecovery s part else s)

/-- THERMAL_WARN_CLEAR (R444). -/
def execThermalWarnClear (s : State) : Out :=
  .next (if s.thermal.warn && !anyTileAt s 91 then { s with thermal := { s.thermal with warn := false } } else s)

/-! ## Flow (R442) -/

/-- The request for a panel input power, L/min. -/
def flowFor (s : State) (watts : Nat) : Nat :=
  if anyTileAt s 95 then 80 else min 80 (max 20 (ceilDiv (66 * watts) 44700))

/-- FLOW_REQUEST_UPDATE (R442). -/
def execFlowRequestUpdate (watts : Nat) (s : State) : Out :=
  .next (if inRun s then { s with thermal := { s.thermal with flow := flowFor s watts } } else s)

/-! ## Keep-warm (R446, R447) -/

/-- Coldest compute-die reading of a tile's catalogue stacks. -/
def catalogueCold (s : State) (t : Nat) : Option Nat :=
  let ds := (List.range 13).filter fun d => (siteCores t d).any fun p => pstateAt s p == .inService
  match ds.flatMap (dieReadings s t) with
  | [] => none
  | a :: l => some (l.foldl min a)

/-- The most that keep-warm draws over the panel, W. -/
def warmLimit : Nat := 3000

/-- Tiles with warming load, the coldest first. -/
def coldestFirst (s : State) : List Nat :=
  (List.range 126).flatMap fun c => upTo 16 fun t => catalogueCold s t == some c

/-- The tiles share the limit, the coldest first. -/
def shareWarmth (s : State) (left : Nat) : List Nat → State
  | [] => s
  | t :: ts =>
    let w := min (tpwrAt s t).warming left
    shareWarmth (modTpwr s t fun x => { x with warming := w }) (left - w) ts

/-- Keep-warm may run in the tile. -/
def mayWarm (s : State) (t : Nat) : Bool :=
  s.thermal.kwOn && inRun s && !s.power.sag && !s.power.pfw && !anyTileAt s 95 && !s.thermal.warn && !anyThermalCap s &&
    (match partOfTile s t with
     | some n => (partAt s n).state == .inService
     | none => false) &&
    (match catalogueCold s t with
     | some c => decide (c < s.thermal.kwTarget)
     | none => false)

/-- One tile's evaluation: it asks for `load`, of which an increase takes its slew grant. -/
def evaluateWarmth (s : State) (t load : Nat) : State :=
  let old := (tpwrAt s t).warming
  let w := if mayWarm s t then min load (old + (tpwrAt s t).granted) else 0
  let s := modTpwr s t fun x => { x with warming := w, granted := x.granted - (w - old) }
  let s := shareWarmth s warmLimit (coldestFirst s)
  { s with thermal := { s.thermal with kwLoad := ((List.range 16).map fun t => (tpwrAt s t).warming).sum } }

/-- KEEP_WARM_EVALUATE (R446). -/
def execKeepWarmEvaluate (tile load : Nat) (s : State) : Out :=
  .next (if tile < 16 then evaluateWarmth s tile load else s)

def kwEnable (c : Cmd) : Bool := fld c.pkt 64 64 = 1
def kwWrite (c : Cmd) : Bool := fld c.pkt 65 65 = 1
def kwTarget (c : Cmd) : Nat := fld c.pkt 79 72

/-- Result words of KEEP_WARM. -/
def kwFinish (s : State) (uid : Nat) : State :=
  finish s uid .ok (if s.thermal.kwOn then 1 else 0) s.thermal.kwTarget s.thermal.kwLoad (tjMin s)

/-- Refusals of KEEP_WARM (R447). -/
def kwChecks (s : State) (c : Cmd) : List (Bool × Status) :=
  [((!c.expert && kwTarget c != 0) || (c.expert && kwWrite c && decide (kwTarget c < 35 ∨ 60 < kwTarget c)) ||
      (kwEnable c && !kwWrite c), .badParam),
   (kwWrite c && !(queueAt s c.queue).admin, .notPermitted)]

/-- KEEP_WARM with WRITE = 0 (R447). -/
def execKeepWarmRead (q : Nat) (s : State) : Out :=
  .next (startAs s q (fun c => c.fn == 0x0602 && !kwWrite c) fun c s => checked c (kwChecks s c)
    (fun s => kwFinish s c.uid) s)

/-- The settings are written. -/
def writeWarmth (c : Cmd) (s : State) : State :=
  kwFinish { s with thermal := { s.thermal with
    kwOn := kwEnable c, kwTarget := if c.expert then kwTarget c else s.thermal.kwTarget } } c.uid

/-- KEEP_WARM with WRITE = 1 (R447). -/
def execKeepWarmWrite (q : Nat) (s : State) : Out :=
  .next (startAs s q (fun c => c.fn == 0x0602 && kwWrite c) fun c s => checked c (kwChecks s c) (writeWarmth c) s)

end Sys2Proof.Machine
end

