-- ==== Sys2Proof/Machine/Fetch.lean ====
section
/-! DEFINITION. The fetch of commands (R266) and the whole of their admission (R274): a command's remaining checks, step 6, are
those its chapter lays out. A command that waits behind a fence meets the same checks again when it starts: the state they ask
about may have changed (log 73, DESIGN CHOICE). -/

namespace Sys2Proof.Machine

/-! ## The remaining checks (R274 step 6) -/

/-- Refusals of QUEUE_ENABLE, QUEUE_DISABLE and QUEUE_DESTROY (R281, R282, R291). -/
def queueChecks (s : State) (c : Cmd) : List (Bool × Status) :=
  if c.fn = 0x0012 then
    let zero : Bool := fld c.pkt 243 237 == 0 && fld c.pkt 225 215 == 0
    let ok : Bool := match (queueAt s (qTarget c)).state with
      | .disabled => zero
      | .held => adoptsAdmin s c && msiOk (qcMsi c)
      | _ => false
    targetChecks s c true ++ [(!ok, .badParam)]
  else targetChecks s c false ++ [(!c.expert && disabling s (qTarget c), .badParam)]

/-- Refusals of PROGRAM_LOAD, of which the rank map's follow from its bytes; a map that cannot be read is met at the load. -/
def programChecks (s : State) (c : Cmd) : List (Bool × Status) :=
  let n := 16 * plSegs c
  plChecks s c ++
    (if onDark s (plMap c) n || (firstBad s (plMap c) n).isSome then []
     else
      let ws := entries16 (ldRead s (plMap c) n) (plSegs c)
      (!rmapOk s ws, .badParam) :: loadChecks s c ws)

/-- Refusals of the window and group commands. -/
def shareChecks (s : State) (c : Cmd) : List (Bool × Status) :=
  if c.fn = 0x0202 then woChecks s c
  else if c.fn = 0x0203 then wcChecks s c
  else if c.fn = 0x0300 then [((newMembers s c).isNone, .badParam)]
  else [(match groupAt s (destroyKey c) with
    | none => true
    | some g => !c.expert && g.closing.isSome, .badParam)]

/-- Refusals of the fingerprint and context commands. -/
def checkValueChecks (s : State) (c : Cmd) : List (Bool × Status) :=
  if c.fn = 0x0400 then (if fcAction c = 1 ∨ fcAction c = 2 then fcSwitchChecks s c else fcSetChecks s c)
  else if c.fn = 0x0401 then frChecks s c
  else match ccContext s c with
    | none => [(true, .badParam)]
    | some x => if c.fn = 0x0402 then csChecks s c x else cgChecks s c

/-- Refusals of POWER_POLICY, STEP_SET, KEEP_WARM and SLEW_LIMIT. -/
def powerChecks (s : State) (c : Cmd) : List (Bool × Status) :=
  if c.fn = 0x0600 then
    if ppAction c = 0 then ppCapChecks s c
    else if ppAction c = 1 then ppReadChecks s c
    else if ppAction c = 2 then ppTileChecks s c
    else ppStagingChecks s c
  else if c.fn = 0x0601 then
    if ssAction c = 0 then ssPolicyChecks c
    else if ssAction c = 1 then ssReadChecks s c
    else if ssAction c = 2 then ssFixChecks s c
    else ssThrChecks s c
  else if c.fn = 0x0602 then kwChecks s c
  else if c.expert then slSetChecks s c
  else slReadChecks c

/-- Refusals of the commands of chapter 13. -/
def faultChecks (s : State) (c : Cmd) : List (Bool × Status) :=
  if c.fn = 0x0700 then flChecks s c (if flSection c = 1 then 32 else 64)
  else if c.fn = 0x0701 then prChecks s c
  else if c.fn = 0x0702 then (if acAction c = 1 then plcChecks s c else rtChecks s c)
  else if c.fn = 0x0703 then (if c.expert then epSetChecks s c else epReadChecks c)
  else pvChecks s c

/-- Refusals of the commands of chapters 15, 16, 21 and 22. -/
def panelChecks (s : State) (c : Cmd) : List (Bool × Status) :=
  if c.fn = 0x0800 then atChecks s c
  else if c.fn = 0x0801 then fwStageChecks s c
  else if c.fn = 0x0802 then fwCommitChecks s c
  else if c.fn = 0x0900 then pcChecks s c
  else if c.fn = 0x0901 then
    if ruExpert 1 c then ruRouteChecks s c else if ruExpert 2 c then ruShareChecks s c else ruPortChecks s c
  else if c.fn = 0x0A00 then catChecks s c
  else chChecks s c

/-- A command's remaining checks, in the order of its chapter. -/
def remaining (s : State) (c : Cmd) : List (Bool × Status) :=
  if c.fn = 0x0001 then []
  else if c.fn = 0x0010 then createChecks s c
  else if c.fn < 0x0100 then queueChecks s c
  else if c.fn = 0x0100 then programChecks s c
  else if c.fn = 0x0101 then runChecks s c
  else if c.fn = 0x0102 then abChecks s c
  else if c.fn = 0x0103 then smChecks s c
  else if c.fn < 0x0202 then memChecks s c (c.fn == 0x0200)
  else if c.fn < 0x0400 then shareChecks s c
  else if c.fn < 0x0500 then checkValueChecks s c
  else if c.fn = 0x0500 then mcChecks s c
  else if c.fn = 0x0501 then mrChecks s c
  else if c.fn = 0x0502 then cmChecks s c
  else if c.fn < 0x0700 then powerChecks s c
  else if c.fn < 0x0800 then faultChecks s c
  else panelChecks s c

/-! ## Fetch (R266, R274) -/

/-- Bytes of n slots from SQ_HEAD on, with the address of each. -/
def slotAddrs (q : Queue) (n : Nat) : List Nat := (List.range n).map fun i => q.sqBase + 64 * ((q.sqHead + i) % ringSize q.sqLog)

def slotBytes (s : State) (l : List Nat) : List Byte := l.flatMap fun a => ldRead s a 64

/-- Slots that a packet of LEN units takes; a LEN that no packet has still takes the slots it spans. -/
def slotsOf (len : Nat) : Nat := max 1 (min 4 (ceilDiv len 4))

/-- Admitted, uncompleted commands of a queue: those that run or wait, and those whose record is not written (R266, R273). -/
def uncompleted (s : State) (n : Nat) : Nat :=
  (queueCmds s n).length + ((queueAt s n).records.filter (·.admitted)).length

/-- Fetching pauses at either limit, while the completion ring is full (R266, R267), and from a power-fail response to the end
of its recovery (R418, R419). -/
def mayFetch (s : State) (n : Nat) : Bool :=
  let q := queueAt s n
  !s.power.pfw && q.state == .enabled && !q.cqFull && decide (uncompleted s n < 64) && (match q.unit with
    | some u => decide ((((s.queues.filter fun e => e.2.unit == some u).map fun e => uncompleted s e.1).sum) < 4096)
    | none => false)

/-- The command of a packet. -/
def cmdFrom (s : State) (n : Nat) (pkt : BitVec 1024) : Cmd :=
  { uid := s.nextCmd, queue := n, host := (queueAt s n).owner, fn := fld pkt 14 0, expert := fld pkt 15 15 = 1,
    tag := BitVec.ofNat 32 (fld pkt 63 32), comp := fld pkt 16 16 = 1, doorbell := fld pkt 19 19 = 1,
    fenceBefore := fld pkt 17 17 = 1, fenceAfter := fld pkt 18 18 = 1, pkt := pkt, started := false, admitted := true,
    retried := false, wait := .none, rungAt := (queueAt s n).lastRung }

/-- The packet leaves the ring and is admitted, or refused with a record. -/
def takePacket (s : State) (n slots : Nat) (pkt : BitVec 1024) (early : Option Status) : State :=
  let c := cmdFrom s n pkt
  let s := modQueue s n fun q => { q with sqHead := (q.sqHead + slots) % ringSize q.sqLog }
  let s := { s with cmds := s.cmds ++ [c], nextCmd := s.nextCmd + 1 }
  match (early.or (admission s c.host pkt)).or (firstOf (remaining s c)) with
  | some st => refuse (modCmd s c.uid fun c => { c with admitted := false }) c.uid st
  | none => s

/-- A RUN on a partition whose straggler swap is in progress is held at admission (R361). -/
def heldAtAdmission (s : State) (pkt : BitVec 1024) : Bool :=
  fld pkt 14 0 == 0x0101 && swapping s (fld pkt 71 68)

/-- The header of a packet that cannot be read is not known (log 5, DESIGN CHOICE). -/
def unreadable (s : State) : BitVec 1024 := BitVec.ofNat 1024 (leNat (freeBytes s 64))

/-- One packet is fetched through its home slices. -/
def fetchPacket (s : State) (n : Nat) : State :=
  let q := queueAt s n
  let waiting := slotsWaiting q
  if !mayFetch s n || waiting = 0 then s
  else
    let hd := slotAddrs q 1
    let len := fld (BitVec.ofNat 512 (leNat (slotBytes s hd)) : BitVec 512) 31 24
    let k := slotsOf len
    let addrs := slotAddrs q (if (hd.any fun a => blockBad s a) then 1 else k)
    match addrs.find? fun a => blockBad s a with
    | some a =>
      let r : FaultRec := { FaultRec.blank 0x03 .device with
        queue := some n, status := some .eccUncorrectable, part := ((homeOf s a).map (·.part)).getD 0 }
      bumpFresh (takePacket (ldUe s r a) n (min addrs.length waiting) (unreadable s) (some .eccUncorrectable)) 64
    | none =>
      if waiting < k then s
      else
        let pkt := BitVec.ofNat 1024 (leNat (slotBytes s addrs))
        if heldAtAdmission s pkt then s
        else takePacket (each addrs (fun a s => ldTouch s a 64 true) s) n k pkt none

/-- COMMAND_FETCH (R266, R274). -/
def execCommandFetch (q : Nat) (s : State) : Out := .next (fetchPacket s q)

end Sys2Proof.Machine
end

