-- ==== Sys2Proof/Machine/MemoryEvents.lean ====
section
/-! DEFINITION. Host accesses to LPDDR5X, its errors, and device sparing (R239, R240, R246–R251). -/

namespace Sys2Proof.Machine

/-- A host access of 1 to 64 bytes to LPDDR5X that is there (R260, R344). -/
def ldTarget (s : State) (addr size : Nat) : Bool := aligned addr size && populated s addr

/-- A host load: served by its home slice, which allocates (R240). From a block that fails, the hart's data is unspecified
(log 10, DESIGN CHOICE), and the lasting read is recorded (R247). A load outside LPDDR5X reads its register. -/
def sliceRead (s : State) (h hart addr size : Nat) : State :=
  if (regionOf s addr).isNone then ioLoad s h hart addr size
  else if !ldTarget s addr size then hostLoad s h hart none
  else match firstBad s addr size with
    | some _ =>
      let bs := freeBytes s size
      let r : FaultRec := { FaultRec.blank 0x03 .device with part := ((homeOf s addr).map (·.part)).getD 0 }
      hostLoad (bumpFresh (ldUe s r addr) size) h hart (some (loadData bs))
    | none => hostLoad (ldTouch s addr size true) h hart (some (loadData (ldRead s addr size)))

/-- SLICE_READ (R239), and the status page over the sideband (R263). -/
def execSliceRead (h hart addr size : Nat) (s : State) : Out :=
  .next (if hostOn s h || sideband s h addr then sliceRead s h hart addr size else s)

/-- A host store: merged in its home slice; one that cannot be merged is dropped and recorded (R239, R247). A store
to a register has a row of its own. -/
def sliceWrite (s : State) (h hart addr size : Nat) (data : BitVec 512) : State :=
  if (regionOf s addr).isNone && addrMapped s addr then s
  else if !ldTarget s addr size then unpopStore s h hart addr
  else match firstUnmerged s addr size with
    | some _ =>
      ldUe s { FaultRec.blank 0x03 .device with part := ((homeOf s addr).map (·.part)).getD 0 } addr
    | none => ldWrite s addr (storeBytes data size) true

/-- SLICE_WRITE (R239). -/
def execSliceWrite (h hart addr size : Nat) (data : BitVec 512) (s : State) : Out :=
  .next (if hostOn s h then sliceWrite s h hart addr size data else s)

/-! ## Errors (R247) -/

/-- The block at b fails from now on, until it is written whole. -/
def markBad (s : State) (b : Nat) : State :=
  if blockBad s b then s else { s with bad := tblPut s.bad (b / 64) false }

/-- A clean second read is counted as transient against the base tile of the device (R327). -/
def eccTransient (s : State) (h : Home) : State :=
  modTransient s (tileUnit (deviceTile h.device)) fun x => { x with ecc := satInc 32 x.ecc }

/-- The read's second attempt was clean: a task or command carries ATTEMPTS = 2. -/
def cleanRead (s : State) : MemReader → State
  | .task p id => modTask s p id fun t => if t.status.good then { t with attempts := 2 } else t
  | .command q => match nextStart s q with
    | some c => modCmd s c.uid fun c => { c with retried := true }
    | none => s
  | .host _ _ => s

/-- The read failed twice: a transfer that has not committed ends with ECC_UNCORRECTABLE; any other reader meets the failing
block when it reads. -/
def failedRead (s : State) (b : Nat) : MemReader → State
  | .task p id =>
    match taskOf (coreAt s p) id with
    | some t =>
      if (t.opcode = 0x41 ∨ t.opcode = 0x42) ∧ t.status.good then
        let s := modTask s p id fun t => { t with attempts := 2 }
        failTask (ldUe s (taskRec s p t 0x03 .eccUncorrectable) b) p id .eccUncorrectable
      else s
    | none => s
  | _ => s

/-- Errors that link, on-die or inline ECC corrected are counted against the device that serves the block (R247, R252). -/
def correctedErrors (s : State) (d k : Nat) : State := modDevice s (servingDevice s d) fun x => { x with ce := satAdd 32 x.ce k }

/-- LPDDR_UNCORRECTABLE_READ (R247): an access to a device, made for a reader, meets an error of Table 09-3; one served by a slice
reaches no device. -/
def execLpddrUncorrectableRead (addr : Nat) (who : MemReader) (error : ReadError) (s : State) : Out :=
  .next (
    let b := addr / 64 * 64
    match homeOf s b with
    | some h =>
      if (cached s b).isSome then s
      else match error with
        | .corrected k => correctedErrors s h.device k
        | .transient => cleanRead (eccTransient s h) who
        | .lasting => failedRead (markBad s b) b who
    | none => s)

/-! ## Device sparing (R243, R248, R249) -/

/-- The device serves its region. -/
def devInUse (s : State) (d : Nat) : Bool := (deviceAt s d).state == .inUse

/-- A predictive trigger: corrected errors have risen by more than the limit within the hour (R248). The hour is the one that the
last TRANSIENT_SUMMARY began (log 75, DESIGN CHOICE: the spec does not say from when 'one hour' counts). -/
def predictive (s : State) (d : Nat) : Bool :=
  let x := deviceAt s d
  x.wanted || decide (x.ceHourStart + s.limits.ceLimit < x.ce)

/-- The copy to a spare begins, or waits while the spare copies another device; with the spare used, nothing can replace it. -/
def startCopy (s : State) (n d : Nat) : State :=
  let s := if (deviceAt s d).wanted then s else
    addFault s { FaultRec.blank 0x10 .device with device := some d, part := n }
  let s := modDevice s d fun x => { x with wanted := true }
  match spareFor d with
  | some sp =>
    if (deviceAt s sp).state = .spare ∧ sparePart s sp = some n then
      modDevice s sp fun x => { x with state := .copying, serves := some d }
    else s
  | none => s

/-- DEVICE_PREDICTIVE_TRIGGER (R248). -/
def execDevicePredictiveTrigger (dev : Nat) (s : State) : Out :=
  .next (match devicePart s dev with
    | some n =>
      if devInUse s dev && predictive s dev && (partAt s n).state != .resetting && (partAt s n).state != .withdrawn then
        startCopy s n dev
      else s
    | none => s)

/-- DEVICE_COPY_DONE (R248): everything is copied, and the drain of the partition that ends the copy is decided; a block that was
uncorrectable on both attempts is in `poisoned`. -/
def execDeviceCopyDone (spare : Nat) (poisoned : List Nat) (s : State) : Out :=
  .next (match (deviceAt s spare).serves with
    | some d =>
      if (deviceAt s spare).state = .copying ∧ (deviceAt s d).state = .inUse ∧ !(s.drains.any fun x => x.copies.any fun c => c.1 == spare)
      then addDrain s false [] [] [(spare, d, poisoned)] []
      else s
    | none => s)

/-- A lasting fault of a device that the panel uses: its record, then its replacement (R248). -/
def deviceFault (s : State) (d channel : Nat) : State :=
  let x := (deviceAt s d).state
  if x = .failed ∨ x = .notMapped then s
  else
    let r : FaultRec := { FaultRec.blank 0x03 .device with
      device := some d, channel := channel, memkind := 4, part := (devicePart s d).getD 0, attempts := 2 }
    deviceLost (addLasting s r none) d

/-- DEVICE_LASTING_FAULT (R248). -/
def execDeviceLastingFault (dev : Nat) (s : State) : Out := .next (deviceFault s dev 0)

/-- WCK_TRACKING (R251): a channel that tracking cannot hold is lost (R247). -/
def execWckTracking (dev channel : Nat) (ok : Bool) (s : State) : Out :=
  .next (if s.service.ph = 2 ∧ !ok then deviceFault s dev channel else s)

/-- DEVICE_TEMPERATURE_REPORT (R246): above 85 °C the refresh rate doubles. -/
def execDeviceTemperatureReport (dev temp : Nat) (s : State) : Out :=
  .next (
    let x := (deviceAt s dev).state
    if x = .failed ∨ x = .notMapped then s
    else modDevice s dev fun d => { d with refrate := if 85 < temp then 1 else 0 })

/-- ECS_RESULT_READ (R244, R252): corrected errors are counted. -/
def execEcsResultRead (dev corrected : Nat) (s : State) : Out :=
  .next (
    let x := (deviceAt s dev).state
    if x = .failed ∨ x = .notMapped then s
    else modDevice s dev fun d => { d with ce := satAdd 32 d.ce corrected })

end Sys2Proof.Machine
end

