-- ==== Sys2Proof/Machine/Dispatch.lean ====
section
/-! DEFINITION. The effect of each command on everything but the queue: one arm per constructor of Instr. -/

namespace Sys2Proof.Machine

def exec (i : Instr) (s : State) : Host.Outcome State Fault Refusal :=
  match i with
  | .mma p => Sys2Proof.Machine.execMma p s
  | .mmaAt p => Sys2Proof.Machine.execMmaAt p s
  | .mmaBt p => Sys2Proof.Machine.execMmaBt p s
  | .mmaAcc p => Sys2Proof.Machine.execMmaAcc p s
  | .mmaAccAt p => Sys2Proof.Machine.execMmaAccAt p s
  | .mmaAccBt p => Sys2Proof.Machine.execMmaAccBt p s
  | .mmaKsplit p => Sys2Proof.Machine.execMmaKsplit p s
  | .mmaKsplitBt p => Sys2Proof.Machine.execMmaKsplitBt p s
  | .vecMap p => Sys2Proof.Machine.execVecMap p s
  | .vecReduce p => Sys2Proof.Machine.execVecReduce p s
  | .vecScan p => Sys2Proof.Machine.execVecScan p s
  | .vecSoftmax p => Sys2Proof.Machine.execVecSoftmax p s
  | .vecNorm p => Sys2Proof.Machine.execVecNorm p s
  | .vecConvert p => Sys2Proof.Machine.execVecConvert p s
  | .gather p => Sys2Proof.Machine.execGather p s
  | .gatherSum p => Sys2Proof.Machine.execGatherSum p s
  | .scatter p => Sys2Proof.Machine.execScatter p s
  | .scatterAdd p => Sys2Proof.Machine.execScatterAdd p s
  | .dmaCopy p => Sys2Proof.Machine.execDmaCopy p s
  | .streamIn p => Sys2Proof.Machine.execStreamIn p s
  | .sharedStreamFetchStart part share => Sys2Proof.Machine.execSharedStreamFetchStart part share s
  | .streamOut p => Sys2Proof.Machine.execStreamOut p s
  | .fabricIn p => Sys2Proof.Machine.execFabricIn p s
  | .fabricOut p => Sys2Proof.Machine.execFabricOut p s
  | .send p => Sys2Proof.Machine.execSend p s
  | .recv p => Sys2Proof.Machine.execRecv p s
  | .put p => Sys2Proof.Machine.execPut p s
  | .windowWait p => Sys2Proof.Machine.execWindowWait p s
  | .reduce p => Sys2Proof.Machine.execReduce p s
  | .allreduce p => Sys2Proof.Machine.execAllreduce p s
  | .broadcast p => Sys2Proof.Machine.execBroadcast p s
  | .barrier p => Sys2Proof.Machine.execBarrier p s
  | .waitFlag p => Sys2Proof.Machine.execWaitFlag p s
  | .setFlag p => Sys2Proof.Machine.execSetFlag p s
  | .clearFlag p => Sys2Proof.Machine.execClearFlag p s
  | .loop p => Sys2Proof.Machine.execLoop p s
  | .branchCount p => Sys2Proof.Machine.execBranchCount p s
  | .endRun p => Sys2Proof.Machine.execEndRun p s
  | .fingerprintMark p => Sys2Proof.Machine.execFingerprintMark p s
  | .fingerprintClear p => Sys2Proof.Machine.execFingerprintClear p s
  | .fingerprintStore p => Sys2Proof.Machine.execFingerprintStore p s
  | .handleBind p => Sys2Proof.Machine.execHandleBind p s
  | .handleFree p => Sys2Proof.Machine.execHandleFree p s
  | .baseBoundSet p => Sys2Proof.Machine.execBaseBoundSet p s
  | .descriptorFetch p => Sys2Proof.Machine.execDescriptorFetch p s
  | .refusedDescriptorCommit p => Sys2Proof.Machine.execRefusedDescriptorCommit p s
  | .taskCommit p id => Sys2Proof.Machine.execTaskCommit p id s
  | .tileDispatch p => Sys2Proof.Machine.execTileDispatch p s
  | .engineTileDone p e => Sys2Proof.Machine.execEngineTileDone p e s
  | .engineTileError p e => Sys2Proof.Machine.execEngineTileError p e s
  | .engineKatTileDone p e pass => Sys2Proof.Machine.execEngineKatTileDone p e pass s
  | .engineOffline p e => Sys2Proof.Machine.execEngineOffline p e s
  | .taskFaultDetect p id => Sys2Proof.Machine.execTaskFaultDetect p id s
  | .waitLimitExpiry p who => Sys2Proof.Machine.execWaitLimitExpiry p who s
  | .waitFurtherLimitExpiry p who => Sys2Proof.Machine.execWaitFurtherLimitExpiry p who s
  | .coreRunStart p => Sys2Proof.Machine.execCoreRunStart p s
  | .coreAbort p => Sys2Proof.Machine.execCoreAbort p s
  | .stepBoundary p => Sys2Proof.Machine.execStepBoundary p s
  | .streamedListRefetch p => Sys2Proof.Machine.execStreamedListRefetch p s
  | .spdCorrectedWriteback p kind word superseded => Sys2Proof.Machine.execSpdCorrectedWriteback p kind word superseded s
  | .spdUncorrectableRead p who kind word clean => Sys2Proof.Machine.execSpdUncorrectableRead p who kind word clean s
  | .patrolScrubRead p corrected failing => Sys2Proof.Machine.execPatrolScrubRead p corrected failing s
  | .coalescingBufferClose p write => Sys2Proof.Machine.execCoalescingBufferClose p write s
  | .arbitrationStarvationPriority p kind bank stream => Sys2Proof.Machine.execArbitrationStarvationPriority p kind bank stream s
  | .apertureRead h hart addr size => Sys2Proof.Machine.execApertureRead h hart addr size s
  | .apertureWrite h hart addr size data => Sys2Proof.Machine.execApertureWrite h hart addr size data s
  | .packetRoute id => Sys2Proof.Machine.execPacketRoute id s
  | .packetDeliver id => Sys2Proof.Machine.execPacketDeliver id s
  | .flitCrcFail link => Sys2Proof.Machine.execFlitCrcFail link s
  | .flitReplayResult link ok group => Sys2Proof.Machine.execFlitReplayResult link ok group s
  | .laneGroupRetrainDone tile n ok => Sys2Proof.Machine.execLaneGroupRetrainDone tile n ok s
  | .requestReplyTimeout id => Sys2Proof.Machine.execRequestReplyTimeout id s
  | .packetLifetimeExpiry id => Sys2Proof.Machine.execPacketLifetimeExpiry id s
  | .drainHold id => Sys2Proof.Machine.execDrainHold id s
  | .drainTableWrite id => Sys2Proof.Machine.execDrainTableWrite id s
  | .drainRelease id => Sys2Proof.Machine.execDrainRelease id s
  | .controlMessage m => Sys2Proof.Machine.execControlMessage m s
  | .broadcastTreeMessage words failing => Sys2Proof.Machine.execBroadcastTreeMessage words failing s
  | .syncSampleError link => Sys2Proof.Machine.execSyncSampleError link s
  | .broadcastBeat tile stream site ok => Sys2Proof.Machine.execBroadcastBeat tile stream site ok s
  | .replicatorRow tile stream => Sys2Proof.Machine.execReplicatorRow tile stream s
  | .msgAnnounce id => Sys2Proof.Machine.execMsgAnnounce id s
  | .msgPull id => Sys2Proof.Machine.execMsgPull id s
  | .msgData id => Sys2Proof.Machine.execMsgData id s
  | .msgDone id => Sys2Proof.Machine.execMsgDone id s
  | .nack id => Sys2Proof.Machine.execNack id s
  | .windowOpen q => Sys2Proof.Machine.execWindowOpen q s
  | .windowClose q => Sys2Proof.Machine.execWindowClose q s
  | .windowCloseExpert q => Sys2Proof.Machine.execWindowCloseExpert q s
  | .windowCloseWaitExpiry l slot => Sys2Proof.Machine.execWindowCloseWaitExpiry l slot s
  | .windowGenAdvance l slot => Sys2Proof.Machine.execWindowGenAdvance l slot s
  | .putData id => Sys2Proof.Machine.execPutData id s
  | .putAck id => Sys2Proof.Machine.execPutAck id s
  | .putResendTimer p id => Sys2Proof.Machine.execPutResendTimer p id s
  | .windowTransferSilence l src tag => Sys2Proof.Machine.execWindowTransferSilence l src tag s
  | .catalogueRead q => Sys2Proof.Machine.execCatalogueRead q s
  | .catalogueReadExpert q => Sys2Proof.Machine.execCatalogueReadExpert q s
  | .barrierGroupCreate q => Sys2Proof.Machine.execBarrierGroupCreate q s
  | .barrierGroupDestroy q => Sys2Proof.Machine.execBarrierGroupDestroy q s
  | .barrierGroupDestroyExpert q => Sys2Proof.Machine.execBarrierGroupDestroyExpert q s
  | .barrierRelease p group => Sys2Proof.Machine.execBarrierRelease p group s
  | .redPart id => Sys2Proof.Machine.execRedPart id s
  | .redResult id => Sys2Proof.Machine.execRedResult id s
  | .fastReductionCombine id => Sys2Proof.Machine.execFastReductionCombine id s
  | .sliceRead h hart addr size => Sys2Proof.Machine.execSliceRead h hart addr size s
  | .sliceWrite h hart addr size data => Sys2Proof.Machine.execSliceWrite h hart addr size data s
  | .lpddrUncorrectableRead addr who error => Sys2Proof.Machine.execLpddrUncorrectableRead addr who error s
  | .devicePredictiveTrigger dev => Sys2Proof.Machine.execDevicePredictiveTrigger dev s
  | .deviceCopyDone spare poisoned => Sys2Proof.Machine.execDeviceCopyDone spare poisoned s
  | .deviceLastingFault dev => Sys2Proof.Machine.execDeviceLastingFault dev s
  | .wckTracking dev channel ok => Sys2Proof.Machine.execWckTracking dev channel ok s
  | .deviceTemperatureReport dev temp => Sys2Proof.Machine.execDeviceTemperatureReport dev temp s
  | .ecsResultRead dev corrected => Sys2Proof.Machine.execEcsResultRead dev corrected s
  | .dblSqTail h hart q tail => Sys2Proof.Machine.execDblSqTail h hart q tail s
  | .dblCqHead h hart q head => Sys2Proof.Machine.execDblCqHead h hart q head s
  | .commandFetch q => Sys2Proof.Machine.execCommandFetch q s
  | .completionRecordWrite q => Sys2Proof.Machine.execCompletionRecordWrite q s
  | .contextLoadDone u q => Sys2Proof.Machine.execContextLoadDone u q s
  | .spillWriteAck u q => Sys2Proof.Machine.execSpillWriteAck u q s
  | .ucieModuleFail h => Sys2Proof.Machine.execUcieModuleFail h s
  | .ucieLinkDownTimeout h => Sys2Proof.Machine.execUcieLinkDownTimeout h s
  | .unpopulatedAccess h hart addr kind => Sys2Proof.Machine.execUnpopulatedAccess h hart addr kind s
  | .registerWrite agent reg value => Sys2Proof.Machine.execRegisterWrite agent reg value s
  | .echo q => Sys2Proof.Machine.execEcho q s
  | .echoExpert q => Sys2Proof.Machine.execEchoExpert q s
  | .queueCreate q => Sys2Proof.Machine.execQueueCreate q s
  | .queueDestroy q => Sys2Proof.Machine.execQueueDestroy q s
  | .queueDestroyExpert q => Sys2Proof.Machine.execQueueDestroyExpert q s
  | .queueEnable q => Sys2Proof.Machine.execQueueEnable q s
  | .queueDisable q => Sys2Proof.Machine.execQueueDisable q s
  | .queueDisableExpert q => Sys2Proof.Machine.execQueueDisableExpert q s
  | .programLoad q commit => Sys2Proof.Machine.execProgramLoad q commit s
  | .run q => Sys2Proof.Machine.execRun q s
  | .abort q => Sys2Proof.Machine.execAbort q s
  | .stepMark q => Sys2Proof.Machine.execStepMark q s
  | .stepMarkExpert q => Sys2Proof.Machine.execStepMarkExpert q s
  | .memCopy q k blocks => Sys2Proof.Machine.execMemCopy q k blocks s
  | .memCopyExpert q k blocks => Sys2Proof.Machine.execMemCopyExpert q k blocks s
  | .memFill q k blocks => Sys2Proof.Machine.execMemFill q k blocks s
  | .memFillExpert q k blocks => Sys2Proof.Machine.execMemFillExpert q k blocks s
  | .mbxThPush h hart m word => Sys2Proof.Machine.execMbxThPush h hart m word s
  | .mbxThPop h hart m => Sys2Proof.Machine.execMbxThPop h hart m s
  | .mbxTpPush h hart m word => Sys2Proof.Machine.execMbxTpPush h hart m word s
  | .mbxRing h hart m bits => Sys2Proof.Machine.execMbxRing h hart m bits s
  | .mbxMask h hart m mask => Sys2Proof.Machine.execMbxMask h hart m mask s
  | .mbxMsi h hart m value => Sys2Proof.Machine.execMbxMsi h hart m value s
  | .heartbeatPost => Sys2Proof.Machine.execHeartbeatPost s
  | .consoleOutput m words => Sys2Proof.Machine.execConsoleOutput m words s
  | .consolePop => Sys2Proof.Machine.execConsolePop s
  | .fingerprintFeed p id words => Sys2Proof.Machine.execFingerprintFeed p id words s
  | .fingerprintConfigure q => Sys2Proof.Machine.execFingerprintConfigure q s
  | .fingerprintEnable q => Sys2Proof.Machine.execFingerprintEnable q s
  | .fingerprintDisable q => Sys2Proof.Machine.execFingerprintDisable q s
  | .fingerprintDisableExpert q => Sys2Proof.Machine.execFingerprintDisableExpert q s
  | .fingerprintRead q => Sys2Proof.Machine.execFingerprintRead q s
  | .crcContextSet q => Sys2Proof.Machine.execCrcContextSet q s
  | .crcContextGet q => Sys2Proof.Machine.execCrcContextGet q s
  | .faultLogReadRecords q => Sys2Proof.Machine.execFaultLogReadRecords q s
  | .faultLogReadCounters q => Sys2Proof.Machine.execFaultLogReadCounters q s
  | .partitionReset q => Sys2Proof.Machine.execPartitionReset q s
  | .partitionResetStart part => Sys2Proof.Machine.execPartitionResetStart part s
  | .partitionResetRelease part failing second => Sys2Proof.Machine.execPartitionResetRelease part failing second s
  | .accessionComplete part l second => Sys2Proof.Machine.execAccessionComplete part l second s
  | .accessionKatFail part l word => Sys2Proof.Machine.execAccessionKatFail part l word s
  | .accessionRetest q failing second => Sys2Proof.Machine.execAccessionRetest q failing second s
  | .accessionPlace q run => Sys2Proof.Machine.execAccessionPlace q run s
  | .escalationPolicyRead q => Sys2Proof.Machine.execEscalationPolicyRead q s
  | .escalationPolicySet q => Sys2Proof.Machine.execEscalationPolicySet q s
  | .provenanceRead q => Sys2Proof.Machine.execProvenanceRead q s
  | .transientSummary => Sys2Proof.Machine.execTransientSummary s
  | .curatorSilence tile => Sys2Proof.Machine.execCuratorSilence tile s
  | .curatorRestartTimeout tile => Sys2Proof.Machine.execCuratorRestartTimeout tile s
  | .leadTakeover => Sys2Proof.Machine.execLeadTakeover s
  | .dieFence tile site cause => Sys2Proof.Machine.execDieFence tile site cause s
  | .holdLimitExpiry part => Sys2Proof.Machine.execHoldLimitExpiry part s
  | .spdWordRewriteCheck p kind word clean => Sys2Proof.Machine.execSpdWordRewriteCheck p kind word clean s
  | .stragglerStaging p run => Sys2Proof.Machine.execStragglerStaging p run s
  | .panelRstNAssert => Sys2Proof.Machine.execPanelRstNAssert s
  | .panelRstNRelease => Sys2Proof.Machine.execPanelRstNRelease s
  | .strapLatch straps => Sys2Proof.Machine.execStrapLatch straps s
  | .firstStageVerify => Sys2Proof.Machine.execFirstStageVerify s
  | .deputyStartTakeover => Sys2Proof.Machine.execDeputyStartTakeover s
  | .charterSeal => Sys2Proof.Machine.execCharterSeal s
  | .linkTrainingDone r => Sys2Proof.Machine.execLinkTrainingDone r s
  | .stackWave => Sys2Proof.Machine.execStackWave s
  | .microcodeBroadcast failing => Sys2Proof.Machine.execMicrocodeBroadcast failing s
  | .lpddrInitialise => Sys2Proof.Machine.execLpddrInitialise s
  | .linkBerCheckDone failing => Sys2Proof.Machine.execLinkBerCheckDone failing s
  | .startKatDone failing second => Sys2Proof.Machine.execStartKatDone failing second s
  | .catalogueBuild failing => Sys2Proof.Machine.execCatalogueBuild failing s
  | .hostRelease ucieDown => Sys2Proof.Machine.execHostRelease ucieDown s
  | .attest q => Sys2Proof.Machine.execAttest q s
  | .fwStage q => Sys2Proof.Machine.execFwStage q s
  | .fwCommit q => Sys2Proof.Machine.execFwCommit q s
  | .charterRead q => Sys2Proof.Machine.execCharterRead q s
  | .refclkLoss alt => Sys2Proof.Machine.execRefclkLoss alt s
  | .refclkPrimaryReturn => Sys2Proof.Machine.execRefclkPrimaryReturn s
  | .pllLossOfLock tile site => Sys2Proof.Machine.execPllLossOfLock tile site s
  | .marginSample p code => Sys2Proof.Machine.execMarginSample p code s
  | .marginStretchEnd p => Sys2Proof.Machine.execMarginStretchEnd p s
  | .marginWindow p => Sys2Proof.Machine.execMarginWindow p s
  | .regulatorSettled p => Sys2Proof.Machine.execRegulatorSettled p s
  | .stepSetPolicy q => Sys2Proof.Machine.execStepSetPolicy q s
  | .stepSetRead q => Sys2Proof.Machine.execStepSetRead q s
  | .stepSetFix q => Sys2Proof.Machine.execStepSetFix q s
  | .stepSetThresholds q => Sys2Proof.Machine.execStepSetThresholds q s
  | .sagDetect mv => Sys2Proof.Machine.execSagDetect mv s
  | .sagEnd => Sys2Proof.Machine.execSagEnd s
  | .sagLimitExpiry => Sys2Proof.Machine.execSagLimitExpiry s
  | .highInput => Sys2Proof.Machine.execHighInput s
  | .inputLockout => Sys2Proof.Machine.execInputLockout s
  | .pfwNAssert => Sys2Proof.Machine.execPfwNAssert s
  | .pfwRecovery => Sys2Proof.Machine.execPfwRecovery s
  | .slewGrant demand => Sys2Proof.Machine.execSlewGrant demand s
  | .slewLimit q => Sys2Proof.Machine.execSlewLimit q s
  | .slewLimitExpert q => Sys2Proof.Machine.execSlewLimitExpert q s
  | .powerCapDivision demand => Sys2Proof.Machine.execPowerCapDivision demand s
  | .powerCapStepChange part lower => Sys2Proof.Machine.execPowerCapStepChange part lower s
  | .powerPolicyPanelCap q => Sys2Proof.Machine.execPowerPolicyPanelCap q s
  | .powerPolicyRead q => Sys2Proof.Machine.execPowerPolicyRead q s
  | .powerPolicyTileCap q => Sys2Proof.Machine.execPowerPolicyTileCap q s
  | .powerPolicyStaging q => Sys2Proof.Machine.execPowerPolicyStaging q s
  | .converterPhaseFault tile phase => Sys2Proof.Machine.execConverterPhaseFault tile phase s
  | .breakerTrip tile efuse => Sys2Proof.Machine.execBreakerTrip tile efuse s
  | .regulatorPhaseFault p phase => Sys2Proof.Machine.execRegulatorPhaseFault p phase s
  | .headerStage p output => Sys2Proof.Machine.execHeaderStage p output s
  | .stagePauseRecheck p output => Sys2Proof.Machine.execStagePauseRecheck p output s
  | .stagePauseLimit p => Sys2Proof.Machine.execStagePauseLimit p s
  | .sensorSample tile sensor reading => Sys2Proof.Machine.execSensorSample tile sensor reading s
  | .thermalCapWindow part => Sys2Proof.Machine.execThermalCapWindow part s
  | .thermalCapRecovery part => Sys2Proof.Machine.execThermalCapRecovery part s
  | .thermalWarnClear => Sys2Proof.Machine.execThermalWarnClear s
  | .flowRequestUpdate watts => Sys2Proof.Machine.execFlowRequestUpdate watts s
  | .keepWarmEvaluate tile load => Sys2Proof.Machine.execKeepWarmEvaluate tile load s
  | .keepWarmRead q => Sys2Proof.Machine.execKeepWarmRead q s
  | .keepWarmWrite q => Sys2Proof.Machine.execKeepWarmWrite q s
  | .monitorSample mon v excess => Sys2Proof.Machine.execMonitorSample mon v excess s
  | .monitorConfigPreset q => Sys2Proof.Machine.execMonitorConfigPreset q s
  | .monitorConfigClear q => Sys2Proof.Machine.execMonitorConfigClear q s
  | .monitorConfigSet q => Sys2Proof.Machine.execMonitorConfigSet q s
  | .monitorRead q => Sys2Proof.Machine.execMonitorRead q s
  | .congestionIntervalEnd levels => Sys2Proof.Machine.execCongestionIntervalEnd levels s
  | .congestionMapRead q => Sys2Proof.Machine.execCongestionMapRead q s
  | .testPhaseEmergency => Sys2Proof.Machine.execTestPhaseEmergency s
  | .extest bits => Sys2Proof.Machine.execExtest bits s
  | .samplePreload bits => Sys2Proof.Machine.execSamplePreload bits s
  | .idcode => Sys2Proof.Machine.execIdcode s
  | .dieSelect die => Sys2Proof.Machine.execDieSelect die s
  | .dieStandalone => Sys2Proof.Machine.execDieStandalone s
  | .loopback port => Sys2Proof.Machine.execLoopback port s
  | .stackPower on tile site => Sys2Proof.Machine.execStackPower on tile site s
  | .flashAccess die write => Sys2Proof.Machine.execFlashAccess die write s
  | .bypass code => Sys2Proof.Machine.execBypass code s
  | .entdaa addr => Sys2Proof.Machine.execEntdaa addr s
  | .setdasa target addr => Sys2Proof.Machine.execSetdasa target addr s
  | .rstdaa => Sys2Proof.Machine.execRstdaa s
  | .getpid => Sys2Proof.Machine.execGetpid s
  | .getbcr => Sys2Proof.Machine.execGetbcr s
  | .getdcr => Sys2Proof.Machine.execGetdcr s
  | .getstatus => Sys2Proof.Machine.execGetstatus s
  | .enec bits => Sys2Proof.Machine.execEnec bits s
  | .disec bits => Sys2Proof.Machine.execDisec bits s
  | .i3cPrivateWrite index => Sys2Proof.Machine.execI3cPrivateWrite index s
  | .i3cPrivateRead => Sys2Proof.Machine.execI3cPrivateRead s
  | .i3cHotJoin => Sys2Proof.Machine.execI3cHotJoin s
  | .i3cIbi => Sys2Proof.Machine.execI3cIbi s
  | .fabricDataFrame port f => Sys2Proof.Machine.execFabricDataFrame port f s
  | .fabricAckFrame port f => Sys2Proof.Machine.execFabricAckFrame port f s
  | .fabricAckTimer flow => Sys2Proof.Machine.execFabricAckTimer flow s
  | .fabricRetransmitTimer flow => Sys2Proof.Machine.execFabricRetransmitTimer flow s
  | .fabricRequestTimeout id => Sys2Proof.Machine.execFabricRequestTimeout id s
  | .portConfigEnable q => Sys2Proof.Machine.execPortConfigEnable q s
  | .portConfigDisable q => Sys2Proof.Machine.execPortConfigDisable q s
  | .portConfigDisableExpert q => Sys2Proof.Machine.execPortConfigDisableExpert q s
  | .portConfigRead q => Sys2Proof.Machine.execPortConfigRead q s
  | .portConfigSet q => Sys2Proof.Machine.execPortConfigSet q s
  | .portConfigEndpoint q => Sys2Proof.Machine.execPortConfigEndpoint q s
  | .portDisableDrainExpiry port => Sys2Proof.Machine.execPortDisableDrainExpiry port s
  | .edgePortDieFault die => Sys2Proof.Machine.execEdgePortDieFault die s
  | .routeUpdatePortset q => Sys2Proof.Machine.execRouteUpdatePortset q s
  | .routeUpdatePanelRoute q => Sys2Proof.Machine.execRouteUpdatePanelRoute q s
  | .routeUpdateShares q => Sys2Proof.Machine.execRouteUpdateShares q s
  | .pwrGoodRise => Sys2Proof.Machine.execPwrGoodRise s
  | .pfwNDeassert => Sys2Proof.Machine.execPfwNDeassert s
  | .portTrainingDone port up => Sys2Proof.Machine.execPortTrainingDone port up s
  | .portLinkDown port => Sys2Proof.Machine.execPortLinkDown port s
  | .flowEpochAdvance flow => Sys2Proof.Machine.execFlowEpochAdvance flow s
  | .tapTestLogicReset => Sys2Proof.Machine.execTapTestLogicReset s

end Sys2Proof.Machine
end

