-- ==== Sys2Proof/Machine/Step.lean ====
section
/-! DEFINITION. One step: the command at the front of the queue runs on the state with the queue's rest; on an empty
queue the block idles and panel time counts (log 1, DESIGN CHOICE). -/

namespace Sys2Proof.Machine

/-- One nanosecond of panel time while PANEL_RST_N is high (R187, log 1, DESIGN CHOICE). -/
def idle (s : State) : State := if s.rstN then { s with time := (s.time + 1) % 2 ^ 64 } else s

def step (s : State) : Host.Outcome State Fault Refusal :=
  match s.pending with
  | [] => .next (idle s)
  | c :: rest => exec c { s with pending := rest }

/-- The table gives no row any bits, so a word spells no command and the state is unchanged. -/
def State.withFetchWord (s : State) (nbits w : Nat) : State :=
  match Sys2Proof.decodeTableWord nbits w with
  | some c => { s with pending := c :: s.pending }
  | none => s

end Sys2Proof.Machine
end

