-- ==== Sys2Proof/Safety.lean ====
section
/-! DEFINITION. What counts as a safe step: one that answers a next state, neither a fault nor a refusal. -/

namespace Sys2Proof.Machine

/-- The command completes in the state: exec answers a next state. -/
def Completes (c : Instr) (s : State) : Prop := ∃ t, exec c s = .next t

/-! ## What statements about the commands say -/

/-- The head of core p's issue is descriptor `f` of opcode `op`: it can issue, its operands resolve to `x`, and it passes the
checks of its issue (R63, R85). -/
structure Ready (s : State) (p op : Nat) (isRoot : Core → Desc → Bool) (more : Core → Desc → Option Status) (f : Fetched)
    (x : Resolved) : Prop where
  head : headOf (coreAt s p) = some f
  op : dOpcode f.desc = op
  can : canIssue (coreAt s p) f = true
  places : resolveAll (coreAt s p) f.desc (isRoot (coreAt s p) f.desc) = some x
  checks : issueChecks (coreAt s p) f.desc (some x) = none
  more : more (coreAt s p) f.desc = none

/-- Descriptor `f` has issued on core p: its WAITSET is cleared, its start is counted, and a task of the next issue number
stands in the window beside those that stood there (R63, R72). -/
structure Issued (s t : State) (p : Nat) (f : Fetched) : Prop where
  flags : (coreAt t p).flags = (coreAt s p).flags &&& ~~~(dWaitset f.desc)
  starts : ∀ i, tblGet 0 (coreAt t p).startCount i =
    if i = f.index then (tblGet 0 (coreAt s p).startCount i + 1) % 2 ^ 16 else tblGet 0 (coreAt s p).startCount i
  nextId : (coreAt t p).nextId = (coreAt s p).nextId + 1
  task : ∃ u ∈ (coreAt t p).window, u.id = (coreAt s p).nextId ∧ u.index = f.index ∧ u.desc = f.desc ∧
    u.inst = tblGet 0 (coreAt s p).startCount f.index
  others : ∀ u ∈ (coreAt s p).window, ∃ v ∈ (coreAt t p).window, v.id = u.id ∧ v.index = u.index ∧ v.desc = u.desc

/-! ## What changes, and what stays -/

/-- Nothing changes but core p and the transient counters. -/
structure OnlyCore (s t : State) (p : Nat) : Prop where
  cores : ∀ k, k ≠ p → coreAt t k = coreAt s k
  rest : { t with cores := s.cores, transients := s.transients } = s

/-- A request has been formed: its packet is queued or under way, and it is remembered until its answer (R169, R176). -/
def Asked (t : State) (who : Asker) (vc kind : Nat) (body : Body) : Prop :=
  ∃ k ∈ t.packets, k.vc = vc ∧ k.kind = kind ∧ k.body = body ∧ ∃ r ∈ t.reqs, r.who = who ∧ r.attempts = 1 ∧ k ∈ r.packets

/-- A packet has reached its unit, and nothing stands in the way of its being taken (R163, R168, R177, R333). -/
structure Deliverable (s : State) (id : Nat) (k : Packet) : Prop where
  here : inNetwork s id = some k
  ejected : k.ejected = true
  first : behind s k = false
  young : tooOld s k = false
  good : badHeader k = false
  current : k.pgen = (partAt s k.part).pgen
  free : refusedByReset s k = false
  core : k.dunit = 0 → dieFenced s k.tile (k.dst / 32 % 16) = false ∧ coreOn s (dstCore k) = true

/-- No block of LPDDR5X fails. -/
def NoBad (s : State) : Prop := s.bad = [] ∧ ∀ d, (deviceAt s d).poison = none ∧ deviceDead s d = false

/-- A copy of n bytes to `dest` goes through: no byte is homed on a dark tile (R344), and no failing block stands in its way
(R247). -/
def CanCopy (s : State) (dest n : Nat) : Prop := onDark s dest n = false ∧ firstUnmerged s dest n = none

/-- The commands that store nothing in LPDDR5X: they complete in every state without a word to it. -/
def storesNothing : Instr → Bool
  | .mma _ | .mmaAt _ | .mmaBt _ | .mmaAcc _ | .mmaAccAt _ | .mmaAccBt _ | .mmaKsplit _ | .mmaKsplitBt _ | .send _
  | .recv _ | .windowWait _ | .broadcast _ | .barrier _ | .setFlag _ | .clearFlag _ | .loop _ | .branchCount _
  | .endRun _ | .fingerprintMark _ | .fingerprintClear _ | .fingerprintStore _ | .handleBind _ | .handleFree _
  | .baseBoundSet _ | .tileDispatch _ | .waitLimitExpiry _ _ | .coreRunStart _ | .spdCorrectedWriteback _ _ _ _
  | .arbitrationStarvationPriority _ _ _ _ | .apertureRead _ _ _ _ | .apertureWrite _ _ _ _ _
  | .streamedListRefetch _ | .flitCrcFail _ | .drainHold _ | .controlMessage _ | .msgAnnounce _ | .msgDone _
  | .nack _ | .putAck _ | .barrierRelease _ _ | .redPart _ | .fastReductionCombine _ | .deviceCopyDone _ _
  | .deviceTemperatureReport _ _ | .ecsResultRead _ _ | .dblSqTail _ _ _ _ | .dblCqHead _ _ _ _ | .contextLoadDone _ _
  | .unpopulatedAccess _ _ _ _ | .mbxThPush _ _ _ _ | .mbxThPop _ _ _ | .mbxTpPush _ _ _ _ | .mbxRing _ _ _ _
  | .mbxMask _ _ _ _ | .mbxMsi _ _ _ _ | .heartbeatPost | .consoleOutput _ _ | .consolePop | .transientSummary
  | .curatorSilence _ | .holdLimitExpiry _ | .panelRstNRelease | .strapLatch _ | .firstStageVerify | .stackWave
  | .refclkLoss _ | .refclkPrimaryReturn | .marginSample _ _ | .marginStretchEnd _ | .slewGrant _
  | .powerCapDivision _ | .headerStage _ _ | .stagePauseRecheck _ _ | .stagePauseLimit _ | .thermalWarnClear
  | .flowRequestUpdate _ | .keepWarmEvaluate _ _ | .monitorSample _ _ _ | .testPhaseEmergency | .extest _
  | .samplePreload _ | .idcode | .dieSelect _ | .dieStandalone | .loopback _ | .stackPower _ _ _ | .flashAccess _ _
  | .bypass _ | .entdaa _ | .setdasa _ _ | .rstdaa | .getpid | .getbcr | .getdcr | .getstatus | .enec _ | .disec _
  | .i3cPrivateWrite _ | .i3cPrivateRead | .i3cHotJoin | .i3cIbi | .fabricDataFrame _ _ | .fabricAckTimer _
  | .accessionComplete _ _ _ | .pwrGoodRise | .pfwNDeassert | .flowEpochAdvance _ | .tapTestLogicReset => true
  | _ => false

/-- A row of the descriptors: its command, its opcode, who is root, and its own checks at issue. -/
abbrev IssueRow := Instr × Nat × (Core → Desc → Bool) × (Core → Desc → Option Status)

/-! ## Commands from queues -/

/-- No disable or destroy, and no disable whose feeds have ended, waits to be ended (R283, R315). -/
def quiet (s : State) : Bool := s.cmds.all fun c => match c.wait with
  | .queue .. => false
  | .feeds _ [] => false
  | _ => true

/-- Commands in flight in rising number, each below the next one to be given. -/
def cmdsOk (s : State) : Prop := (s.cmds.map (·.uid)).Pairwise (· < ·) ∧ ∀ c ∈ s.cmds, c.uid < s.nextCmd

/-- Command `c`, which asks for a record, is the next of queue q to start (R266), and is one of the row's. -/
structure Begins (s : State) (q : Nat) (c : Cmd) (mine : Cmd → Bool) : Prop where
  next : nextStart s q = some c
  mine : mine c = true
  comp : c.comp = true
  first : c.retried = false
  fresh : c.wait = .none
  quiet : quiet s = true
  cmds : cmdsOk s

/-- Command `c`, which asks for a record, has started and waits for what `wait` says. -/
structure Waits (s : State) (q : Nat) (c : Cmd) (wait : CmdWait) : Prop where
  here : c ∈ s.cmds
  queue : c.queue = q
  started : c.started = true
  wait : c.wait = wait
  comp : c.comp = true
  first : c.retried = false
  quiet : quiet s = true
  cmds : cmdsOk s

/-- The command has completed: its record, with its status and result words, is the newest of its queue, and the command is no
longer in flight (R275). Records without COMP in front of it take their turn while the ring has room (R273). -/
structure Answered (s t : State) (c : Cmd) (st : Status) (r0 r1 r2 r3 : Nat) : Prop where
  record : (queueAt t c.queue).records = (passSilent (queueAt s c.queue)).records ++
    [{ uid := c.uid, queue := c.queue, tag := c.tag, status := st, attempts := 1, r0 := r0, r1 := r1, r2 := r2, r3 := r3,
       time := s.time, doorbell := c.doorbell, rungAt := c.rungAt, admitted := c.admitted, fenceAfter := c.fenceAfter,
       silent := false, follows := none }]
  gone : ∀ e ∈ t.cmds, e.uid ≠ c.uid

/-- Nothing changes but the command's queue and the commands in flight. -/
structure AnswerFrame (s t : State) (c : Cmd) : Prop where
  rest : { t with queues := s.queues, cmds := s.cmds } = s
  queues : ∀ n, n ≠ c.queue → queueAt t n = queueAt s n

/-- Beside them, n bytes of LPDDR5X from `dest` on are written: no other byte changes, nor any register. -/
structure CopyFrame (s t : State) (c : Cmd) (dest n : Nat) : Prop where
  rest : { t with queues := s.queues, cmds := s.cmds, mem := s.mem, bad := s.bad, slices := s.slices,
                  devices := s.devices } = s
  queues : ∀ n, n ≠ c.queue → queueAt t n = queueAt s n
  bytes : partsApart s = true → slicesOk s → ∀ a, a < dest ∨ dest + n ≤ a → ldByte t a = ldByte s a

/-- Every command in the queue completes, one after the other, and leaves the block with an empty queue. -/
def RunsSafely : Nat → State → Prop
  | 0, s => s.pending = []
  | n + 1, s => ∃ t, step s = .next t ∧ RunsSafely n t

/-- Entries of a provenance log in rising NUMBER, each below the next one to be given (R350). -/
def provRising (l : List Prov) (next : Nat) : Prop :=
  l.Pairwise (fun a b => a.number < b.number) ∧ ∀ e ∈ l, e.number < next

/-- Both copies of the provenance log. -/
def provOk (s : State) : Prop := provRising s.provBF0 s.provNext ∧ provRising s.provBF1 s.provNext

/-- A later counter record: no rollback floor is lower, and no identity leaf comes back (R395, R396). -/
structure CounterLater (k k' : Counter) : Prop where
  floor : ∀ type, tblGet 0 k.floor type ≤ tblGet 0 k'.floor type
  leaf : k.idNext ≤ 2 ^ 20 → k.idNext ≤ k'.idNext ∧ k'.idNext ≤ 2 ^ 20

end Sys2Proof.Machine
end

