-- ==== Sys2Proof/Certificates/Slice0/Obligations.lean ====
section
/-! DEFINITION. The statements for the provers. -/

open Sys2Proof Sys2Proof.Machine

/-- R63, R72: a descriptor that issues clears its WAITSET, counts its start modulo 2^16, takes the next issue number, and
enters the window beside the tasks that stand there. Every task command but WAIT_FLAG. -/
def Obligations.IssueRecordsTheStart : Prop :=
  ∀ (s : State) (p : Nat) (f : Fetched) (x : Resolved),
    ∀ e ∈ ([(.mma p, 0x10, noRoot, noMore), (.mmaAt p, 0x11, noRoot, noMore), (.mmaBt p, 0x12, noRoot, noMore),
      (.mmaAcc p, 0x13, noRoot, noMore), (.mmaAccAt p, 0x14, noRoot, noMore), (.mmaAccBt p, 0x15, noRoot, noMore),
      (.mmaKsplit p, 0x16, noRoot, noMore), (.mmaKsplitBt p, 0x17, noRoot, noMore), (.vecMap p, 0x20, noRoot, noMore),
      (.vecReduce p, 0x21, noRoot, noMore), (.vecScan p, 0x22, noRoot, noMore), (.vecSoftmax p, 0x23, noRoot, noMore),
      (.vecNorm p, 0x24, noRoot, noMore), (.vecConvert p, 0x25, noRoot, noMore), (.gather p, 0x30, noRoot, noMore),
      (.gatherSum p, 0x31, noRoot, noMore), (.scatter p, 0x32, noRoot, noMore), (.scatterAdd p, 0x33, noRoot, noMore),
      (.dmaCopy p, 0x40, noRoot, noMore), (.streamIn p, 0x41, noRoot, grantCheck s p),
      (.streamOut p, 0x42, noRoot, grantCheck s p), (.fabricIn p, 0x43, noRoot, endpointCheck s p),
      (.fabricOut p, 0x44, noRoot, endpointCheck s p), (.send p, 0x50, noRoot, rankCheck s p),
      (.recv p, 0x51, noRoot, rankCheck s p), (.put p, 0x52, noRoot, rankCheck s p),
      (.windowWait p, 0x53, noRoot, slotCheck s p), (.reduce p, 0x60, isRootRank, collCheck s p),
      (.allreduce p, 0x61, isRootRank, collCheck s p), (.broadcast p, 0x62, isRootRank, collCheck s p),
      (.barrier p, 0x63, noRoot, collCheck s p), (.setFlag p, 0x71, noRoot, noMore), (.clearFlag p, 0x72, noRoot, noMore),
      (.loop p, 0x73, noRoot, noMore), (.branchCount p, 0x74, noRoot, noMore), (.endRun p, 0x75, noRoot, noMore),
      (.fingerprintMark p, 0x80, noRoot, noMore), (.fingerprintClear p, 0x81, noRoot, noMore),
      (.fingerprintStore p, 0x82, noRoot, noMore), (.handleBind p, 0x90, noRoot, noMore),
      (.handleFree p, 0x91, noRoot, noMore), (.baseBoundSet p, 0x92, noRoot, noMore)] : List IssueRow),
    Ready s p e.2.1 e.2.2.1 e.2.2.2 f x → ∃ t, exec e.1 s = .next t ∧ Issued s t p f

/-- R67, R91, R92: a matrix descriptor that issues puts every work item of its output before the engines; nothing of it is
finished, and nothing but the core changes beside the stack's transient counters. -/
def Obligations.MatrixIssueMakesItsWorkItems : Prop :=
  ∀ (s : State) (p : Nat) (f : Fetched) (x : Resolved),
    ∀ e ∈ ([(.mma p, 0x10), (.mmaAt p, 0x11), (.mmaBt p, 0x12), (.mmaAcc p, 0x13), (.mmaAccAt p, 0x14), (.mmaAccBt p, 0x15),
      (.mmaKsplit p, 0x16), (.mmaKsplitBt p, 0x17)] : List (Instr × Nat)),
    Ready s p e.2 noRoot noMore f x → ∃ t, exec e.1 s = .next t ∧
      (∃ u ∈ (coreAt t p).window, u.id = (coreAt s p).nextId ∧ u.desc = f.desc ∧ u.undispatched = workItems f.desc ∧
        u.reads = x.reads ∧ u.writes = x.writes ∧ u.finished = false) ∧
      OnlyCore s t p

/-- R123, R129: the control family and BASE_BOUND_SET end at their issue, whose next descriptor is the next of the list
or, for a branch that is taken, TARGET; END enters ENDING. Then (R127, R128, R150): a HANDLE_BIND that no condition of R127
refuses puts the handle into the lowest free entry and ends OK; with none free it ends NO_RESOURCE and issue goes on at
FALLBACK. HANDLE_FREE of a bound name that no entry names as its scale and no window uses leaves no entry of that name. -/
def Obligations.ControlAndHandleFamiliesEndAtIssue : Prop :=
  (∀ (s : State) (p : Nat) (f : Fetched) (x : Resolved),
    let c := coreAt s p
    let n := tblGet 0 c.startCount f.index
    let count := fld f.desc 127 96
    let done (t : State) : Prop := OnlyCore s t p ∧ ∃ u ∈ (coreAt t p).window, u.id = c.nextId ∧ u.desc = f.desc ∧
      u.finished = true ∧ u.status = .ok
    (Ready s p 0x71 noRoot noMore f x → ∃ t, exec (.setFlag p) s = .next t ∧ done t ∧
      (coreAt t p).nextIndex = c.nextIndex + 1) ∧
    (Ready s p 0x72 noRoot noMore f x → ∃ t, exec (.clearFlag p) s = .next t ∧ done t ∧
      (coreAt t p).nextIndex = c.nextIndex + 1) ∧
    (Ready s p 0x73 noRoot noMore f x → ∃ t, exec (.loop p) s = .next t ∧ done t ∧
      (coreAt t p).nextIndex = if n % count = count - 1 then c.nextIndex + 1 else fld f.desc 79 64) ∧
    (Ready s p 0x74 noRoot noMore f x → ∃ t, exec (.branchCount p) s = .next t ∧ done t ∧
      (coreAt t p).nextIndex = if n % count = fld f.desc 159 128 then fld f.desc 79 64 else c.nextIndex + 1) ∧
    (Ready s p 0x75 noRoot noMore f x → ∃ t, exec (.endRun p) s = .next t ∧ done t ∧ (coreAt t p).seq = .ending) ∧
    (Ready s p 0x92 noRoot noMore f x → ∃ t, exec (.baseBoundSet p) s = .next t ∧ done t ∧
      baseBound (coreAt t p) (kindOf (fld f.desc 81 80)) = ⟨fld f.desc 127 96, fld f.desc 159 128⟩)) ∧
  (∀ (s : State) (p : Nat) (f : Fetched) (x : Resolved),
    let c := coreAt s p
    let ends (t : State) (st : Status) : Prop := OnlyCore s t p ∧ ∃ u ∈ (coreAt t p).window, u.id = c.nextId ∧
      u.desc = f.desc ∧ u.finished = true ∧ u.status = st
    (Ready s p 0x90 noRoot noMore f x → bindBad c (bindHandle f.desc) = false →
      ∃ t, exec (.handleBind p) s = .next t ∧
        match freeEntry c with
        | some k => ends t .ok ∧ (coreAt t p).handles = tblPut c.handles k (bindHandle f.desc)
        | none => ends t .noResource ∧ (coreAt t p).handles = c.handles ∧ (coreAt t p).nextIndex = fld f.desc 191 176) ∧
    (Ready s p 0x91 noRoot noMore f x → (handleOf c (fld f.desc 73 64)).isSome = true →
      (∀ e ∈ c.handles, e.2.scale ≠ some (fld f.desc 73 64)) → inWindow s p (fld f.desc 73 64) = false →
      ∃ t, exec (.handleFree p) s = .next t ∧ ends t .ok ∧ handleOf (coreAt t p) (fld f.desc 73 64) = none))

/-- R65, R123: WAIT_FLAG consumes its flags and commits in its issue cycle: its WAITSET is cleared before its SETSET is
set, and no task of it stays in the window. Then (R64, R65, R123): the commit of a finished task sets its SETSET, a
CLEAR_FLAG then clears its CLEARSET, and the window's entry is free. -/
def Obligations.FlagsAreConsumedAndSet : Prop :=
  (∀ (s : State) (p : Nat) (f : Fetched) (x : Resolved), Ready s p 0x70 noRoot noMore f x →
    ∃ t, exec (.waitFlag p) s = .next t ∧
      (coreAt t p).flags = ((coreAt s p).flags &&& ~~~(dWaitset f.desc)) |||
        (if dSetOnDone f.desc then dSetset f.desc else 0) ∧
      (∀ u ∈ (coreAt t p).window, u.id ≠ (coreAt s p).nextId) ∧
      (coreAt t p).nextIndex = (coreAt s p).nextIndex + 1 ∧ (coreAt t p).seq = .running) ∧
  (∀ (s : State) (p id : Nat) (u : Task), taskOf (coreAt s p) id = some u → committing (coreAt s p) = true →
    canCommit (coreAt s p) u = true → isCheck u = false →
    ∃ t, exec (.taskCommit p id) s = .next t ∧
      (coreAt t p).flags = (if u.opcode = 0x72 then
          ((coreAt s p).flags ||| (if dSetOnDone u.desc then dSetset u.desc else 0)) &&&
            ~~~(BitVec.ofNat 16 (fld u.desc 175 160))
        else (coreAt s p).flags ||| (if dSetOnDone u.desc then dSetset u.desc else 0)) ∧
      ∀ v ∈ (coreAt t p).window, v.id ≠ id)

/-- R55, R57, R62: the next descriptor of a RESIDENT list enters the buffer with the outcome of its checks; one of a STREAMED
list is asked for on VC0 for a control-loop RUN and on VC3 otherwise, also from a branch target outside the buffer, and enters the
buffer, checked, when its data has come; a refused one commits at the head, and the core issues nothing more. Then
(R72, R75, R77, R313): a RUN that reaches an IDLE core clears its flags and start counts and sets descriptor 0 next to
issue; an abort of the core's RUN before the commit point empties it; a step mark gives the next step number and clears the
start counts. -/
def Obligations.TheSequencerFetchesStartsAndStops : Prop :=
  (∀ (s : State) (p : Nat) (sl : Slot),
    let c := coreAt s p
    let b := fitBuffer c
    let n := fetchNext b
    let entry (d : Desc) : Fetched := { index := n, desc := d, refused := loadCheck s.order1T n sl.count d }
    (c.seq = .running → runSlot c = some sl → sl.streamed = false → b.fetchBuf.length < 64 → n < sl.count →
      ∀ d, readDesc s c sl n = some d → ∃ t, exec (.descriptorFetch p) s = .next t ∧
        (coreAt t p).fetchBuf = b.fetchBuf ++ [entry d]) ∧
    (c.seq = .running → runSlot c = some sl → sl.streamed = true → b.fetchBuf.length < 64 → n < sl.count →
      ∀ i, (i = Instr.descriptorFetch p ∧ bufferFits c = true) ∨ (i = Instr.streamedListRefetch p ∧ headOf c = none) →
      (∀ h, fetchArrived s p = none → s.reqs.any (·.isOf (.fetch p)) = false → homeOf s (sl.list + 64 * n) = some h →
        (tpwrAt s h.tile).dark = false → routeValid s (tileOf p) h.tile = true →
        ∃ t, exec i s = .next t ∧ Asked t (.fetch p) (if c.run.any (·.control) then 0 else 3) 0x01
          (.rdReq (.fetch p) (sl.list + 64 * n) 64 true)) ∧
      (∀ id bs, fetchArrived s p = some (id, sl.list + 64 * n, bs) → s.reqs.any (·.isOf (.fetch p)) = true →
        ∃ t, exec i s = .next t ∧ (coreAt t p).fetchBuf.take (b.fetchBuf.length + 1) =
          b.fetchBuf ++ [entry (BitVec.ofNat 512 (leNat bs))])) ∧
    (c.seq = .running → ∀ f st, headOf c = some f → f.refused = some st → st.good = false →
      ∃ t, exec (.refusedDescriptorCommit p) s = .next t ∧ (coreAt t p).seq ≠ .running ∧
        (coreAt t p).nextId = c.nextId + 1)) ∧
  (∀ (s : State) (p : Nat),
    let c := coreAt s p
    (∀ r, c.seq = .idle → c.pendingStart = some r → c.marks = [] →
      ∃ t, exec (.coreRunStart p) s = .next t ∧ (∀ k, k ≠ p → coreAt t k = coreAt s k) ∧
        { t with cores := s.cores, reqs := s.reqs } = s ∧
        (coreAt t p).seq = .running ∧ (coreAt t p).run = some r ∧ (coreAt t p).flags = 0 ∧ (coreAt t p).startCount = [] ∧
        (coreAt t p).nextIndex = 0 ∧ (coreAt t p).window = [] ∧ (coreAt t p).step = r.step.getD c.step) ∧
    (∀ r, c.run = some r → c.abortReq = some r.cmd → c.seq ≠ .faulted →
      ∃ t, exec (.coreAbort p) s = .next t ∧ (coreAt t p).seq = .idle ∧ (coreAt t p).run = none ∧
        (coreAt t p).window = []) ∧
    (∀ m rest, c.seq = .idle → c.marks = m :: rest →
      ∃ t, exec (.stepBoundary p) s = .next t ∧ (coreAt t p).seq = .idle ∧ (coreAt t p).marks = rest ∧
        (coreAt t p).startCount = [] ∧ (coreAt t p).step = m.set.getD ((c.step + 1) % 2 ^ 32)))

/-- R67, R68, R70, R321: work goes to the lowest-numbered free online engine; a finished tile frees it, at the step it was
asked to take; an error sends the item to another engine and holds this one; a known-answer tile returns it or takes
it offline. -/
def Obligations.EnginesTakeAndGiveBackWork : Prop :=
  ∀ (s : State) (p e : Nat) (g : Engine) (w : TileWork),
    let c := coreAt s p
    (committing c = true → freeEngine c = some e → ∀ id item again, nextWork c = some (id, item, again) →
      ∃ t, exec (.tileDispatch p) s = .next t ∧ OnlyCore s t p ∧
        ((coreAt t p).engines[e]?).bind (·.work) =
          some ⟨id, item, if !again then 1 else if onlineEngines c = 1 then 3 else 2⟩) ∧
    (c.engines[e]? = some g → g.work = some w → c.failing = [] →
      ∃ t, exec (.engineTileDone p e) s = .next t ∧
        (coreAt t p).engines[e]? = some { g with work := none, step := g.req.getD g.step, req := none }) ∧
    (c.engines[e]? = some g → g.work = some w → w.attempt = 1 → (taskOf c w.task).isSome = true →
      ∃ t, exec (.engineTileError p e) s = .next t ∧
        (∃ u ∈ (coreAt t p).window, u.id = w.task ∧ u.attempts = 2 ∧ u.retryItems.getLast? = some w.item) ∧
        (∃ h, (coreAt t p).engines[e]? = some h ∧ h.work = none ∧
          ((∃ i h', i ≠ e ∧ c.engines[i]? = some h' ∧ h'.online = true) → h.held = true))) ∧
    (c.engines[e]? = some g → g.held = true → ∃ t, exec (.engineKatTileDone p e true) s = .next t ∧
      (coreAt t p).engines[e]? = some { g with held := false }) ∧
    (c.engines[e]? = some g → g.held = true → (∃ i h', i ≠ e ∧ c.engines[i]? = some h' ∧ h'.online = true) →
      ∃ t, exec (.engineKatTileDone p e false) s = .next t ∧
        (coreAt t p).engines[e]? = some { g with online := false, held := false }) ∧
    (c.engines[e]? = some g → g.online = true → (∃ i h', i ≠ e ∧ c.engines[i]? = some h' ∧ h'.online = true) →
      ∃ t, exec (.engineOffline p e) s = .next t ∧
        (coreAt t p).engines[e]? = some { g with online := false, held := false })

/-- R66, R320: an error in a unit's task makes it a retried one; a wait limit, of a task or of the descriptor at the head of
issue, lets a further one begin; when that passes the operation ends with TIMEOUT, and a descriptor at the head commits with it
and stops the core. -/
def Obligations.TasksRetryAndTimeOut : Prop :=
  ∀ (s : State) (p : Nat),
    let c := coreAt s p
    (∀ id u, taskOf c id = some u →
      (opMatrix u.opcode = false → u.status.good = true → unfed u = true → u.refault = false →
        ∃ t, exec (.taskFaultDetect p id) s = .next t ∧ (c.failing = [] → OnlyCore s t p) ∧
          ∃ v ∈ (coreAt t p).window, v.id = id ∧ v.desc = u.desc ∧ v.refault = true ∧ v.attempts = 2) ∧
      (waitsNow s p u = true → ∃ t, exec (.waitLimitExpiry p (.task id)) s = .next t ∧ OnlyCore s t p ∧
        ∃ v ∈ (coreAt t p).window, v.id = id ∧ v.desc = u.desc ∧ v.further = true) ∧
      (waitsNow s p u = true → u.further = true → ∃ t, exec (.waitFurtherLimitExpiry p (.task id)) s = .next t ∧
        ∃ v ∈ (coreAt t p).window, v.id = id ∧ v.desc = u.desc ∧ v.finished = true ∧ v.status = .timeout ∧ v.attempts = 2)) ∧
    (∀ f, headOf c = some f → c.seq = .running → f.refused = none →
      (canIssue c f = false → ∃ t, exec (.waitLimitExpiry p .head) s = .next t ∧ OnlyCore s t p ∧
        (coreAt t p).headFurther = true) ∧
      (c.headFurther = true → dWaitset f.desc &&& c.flags ≠ dWaitset f.desc →
        ∃ t, exec (.waitFurtherLimitExpiry p .head) s = .next t ∧ (coreAt t p).seq ≠ .running ∧
          (coreAt t p).nextId = c.nextId + 1))

/-- R113, R114, R163: an announcement that no RECV expects is held, and one that a RECV expects makes the sender its peer; a
pull makes the receiver the sender's peer; data in order moves the receiver on; MSG_DONE ends the SEND; a NACK ends what waits
for the answer with the status it carries: a task, a fetch, whose descriptor is refused with it, or a load through the aperture,
which gets no data. The fields of each message are the model's (log 9, DESIGN CHOICE), and so is the aperture's part (log
79, DESIGN CHOICE). -/
def Obligations.MessagesReachTheirTasks : Prop :=
  ∀ (s : State) (id : Nat) (k : Packet), arrived s id = some k →
    (∀ src r tag n nth, k.body = .announce src r tag n nth →
      let a : Announce := ⟨src, r, tag, n, urgent k, nth⟩
      (((coreAt s (dstCore k)).window.find? fun u => matches_ u a) = none →
        (coreAt s (dstCore k)).announces.length < 64 →
        ∃ t, exec (.msgAnnounce id) s = .next t ∧
          (coreAt t (dstCore k)).announces = (coreAt s (dstCore k)).announces ++ [a] ∧ arrived t id = none) ∧
      (∀ u, ((coreAt s (dstCore k)).window.find? fun u => matches_ u a) = some u →
        ∃ t, exec (.msgAnnounce id) s = .next t ∧
          ∃ v ∈ (coreAt t (dstCore k)).window, v.id = u.id ∧ v.desc = u.desc ∧ v.peer = some src)) ∧
    (∀ recv sender cap u, k.body = .pull recv sender cap → taskOf (coreAt s sender.1) sender.2 = some u →
      u.opcode = 0x50 → u.finished = false →
      ∃ t, exec (.msgPull id) s = .next t ∧ ∃ v ∈ (coreAt t sender.1).window, v.id = u.id ∧ v.peer = some recv) ∧
    (∀ recv sender off bs last u, k.body = .data recv sender off bs last → taskOf (coreAt s recv.1) recv.2 = some u →
      u.opcode = 0x51 → u.finished = false → u.peer = some sender → off ≤ u.progress →
      ∃ t, exec (.msgData id) s = .next t ∧
        ∃ v ∈ (coreAt t recv.1).window, v.id = u.id ∧ v.progress = max u.progress (off + bs.length) ∧
          (last = true → u.progress ≤ off + bs.length → v.finished = true)) ∧
    (∀ sender st u, k.body = .done sender st → u ∈ (coreAt s sender.1).window → u.id = sender.2 → u.opcode = 0x50 →
      u.finished = false →
      ∃ t, exec (.msgDone id) s = .next t ∧ { u with finished := true, status := st } ∈ (coreAt t sender.1).window) ∧
    (∀ p i st u, k.body = .nack (.task p i) st → isRemote p = false → u ∈ (coreAt s p).window → u.id = i →
      u.finished = false →
      ∃ t, exec (.nack id) s = .next t ∧
        ∃ v ∈ (coreAt t p).window, v.id = u.id ∧ v.desc = u.desc ∧ v.finished = true ∧ v.status = st) ∧
    (∀ p st, k.body = .nack (.fetch p) st → s.reqs.any (·.isOf (.fetch p)) = true → (coreAt s p).seq = .running →
      ∃ t, exec (.nack id) s = .next t ∧ ((coreAt t p).fetchBuf.getLast?).bind (·.refused) = some st) ∧
    (∀ h hart n st, k.body = .nack (.aperture h hart n false) st → s.reqs.any (·.isOf (.aperture h hart n false)) = true →
      ∃ t, exec (.nack id) s = .next t ∧
        t.loads.getLast? = some { host := h, hart := hart, fetch := false, data := none })

/-- R213, R215, R216: the first packet of a window transfer is admitted with its token, and a transfer of one packet is complete;
an outcome OK ends the PUT; a transfer that found no token is sent again; one that falls silent is cut, and so is one that a
close has waited for; a held advance of the generation takes place. -/
def Obligations.WindowTransfersAreAdmittedAndEnd : Prop :=
  ∀ (s : State) (id : Nat) (k : Packet),
    (∀ sender l slot off total srank bs last reg, arrived s id = some k →
      k.body = .putData sender l slot (winAt s l slot).gen off total srank true last bs →
      (winAt s l slot).isOpen = true → (winAt s l slot).closing = false → winRegion s l slot = some reg →
      off + total ≤ reg.2.2.2 → (winsAt s l).transfers.length < 64 →
      (∀ x ∈ (winsAt s l).transfers, x.sender = sender → x.slot ≠ slot) → (∀ e ∈ (winsAt s l).served, e.1 ≠ sender) →
      ∃ t, exec (.putData id) s = .next t ∧
        (last = false → (winsAt t l).transfers = (winsAt s l).transfers ++
          [{ tag := k.tag, urg := urgent k, slot := slot, sender := sender, srank := srank, base := off, total := total,
             written := bs.length, lastSeen := s.time }]) ∧
        (last = true → (winsAt t l).transfers = (winsAt s l).transfers ∧
          (winsAt t l).served = ((sender, .ok) :: (winsAt s l).served).take 64)) ∧
    (∀ sender srank u, arrived s id = some k → k.body = .putAck sender .ok srank →
      taskOf (coreAt s sender.1) sender.2 = some u → u.opcode = 0x52 → u.finished = false →
      ∃ t, exec (.putAck id) s = .next t ∧
        ∃ v ∈ (coreAt t sender.1).window, v.id = u.id ∧ v.desc = u.desc ∧ v.finished = true ∧ v.status = .ok) ∧
    (∀ p u peer, taskOf (coreAt s p) id = some u → u.opcode = 0x52 → u.finished = false →
      u.pendingStatus = some .noResource → (coreAt s p).failing = [] → 0 < pBytes u.desc →
      (rankPlace s p (coreAt s p) (pRank u.desc)).bind (placeCoreOf s) = some peer → reachable s p peer = true →
      ∃ t, exec (.putResendTimer p id) s = .next t ∧
        ∃ r, t.reqs = s.reqs ++ [r] ∧ r.who = .task p id ∧ r.attempts = 1) ∧
    (∀ l src tag x, (winsAt s l).transfers.find? (fun y => y.sender.1 == src && y.tag == tag) = some x →
      ∃ t, exec (.windowTransferSilence l src tag) s = .next t ∧
        ∀ y ∈ (winsAt t l).transfers, y.sender = x.sender → y.slot ≠ x.slot) ∧
    (∀ l slot, (winAt s l slot).held = true → ∃ t, exec (.windowGenAdvance l slot) s = .next t ∧
        (winAt t l slot).gen = nextGen (winAt s l slot).gen ∧ (winAt t l slot).isOpen = false ∧
        (winAt t l slot).held = false) ∧
    (∀ l slot, (winAt s l slot).closing = true → (winAt s l slot).closer.isSome = true → slotTransfers s l slot ≠ [] →
      ∃ t, exec (.windowCloseWaitExpiry l slot) s = .next t ∧ slotTransfers t l slot = [])

/-- R224, R228, R230, R233: a contribution waits at its node until its sibling comes; a fast unit keeps a running value; a
result packet moves its member on, and one at a node's unit is passed on; a release phase equal to the arrive phase ends the
member's BARRIERs. Then (R223, R224): a BARRIER that issues toggles its member's arrive phase, and the root's phase becomes the
members' once they agree; in a group of one it ends. -/
def Obligations.CollectivesMoveOn : Prop :=
  (∀ (s : State) (id : Nat) (k : Packet),
    (∀ key seq node elem m left v g, arrived s id = some k → k.body = .redPart key seq node elem m left v false →
      node < fastTile 0 → groupAt s key = some g → redOf s key seq node elem = none → otherMode s key seq v = false →
      nodeFull s key seq node elem = false →
      ∃ t, exec (.redPart id) s = .next t ∧ redOf t key seq node elem = some
        { group := key, seq := seq, node := node, elem := elem, left := if left then some v else none,
          right := if left then none else some v, taken := 0, from_ := [], answered := false }) ∧
    (∀ key seq node elem m left v g, arrived s id = some k → k.body = .redPart key seq node elem m left v false →
      fastTile 0 ≤ node → groupAt s key = some g → redOf s key seq node elem = none → otherMode s key seq v = false →
      1 < fastWanted s g node →
      ∃ t, exec (.fastReductionCombine id) s = .next t ∧ redOf t key seq node elem = some
        { group := key, seq := seq, node := node, elem := elem, left := some v, right := none, taken := 1, from_ := [m],
          answered := false }) ∧
    (∀ key seq m elem v g u, arrived s id = some k → k.body = .redResult key seq 0 m elem v false false →
      groupAt s key = some g → u ∈ (coreAt s (dstCore k)).window → u.opcode = 0x61 → kGroup u.desc = key % 64 →
      u.collSeq = seq → u.finished = false →
      ((coreAt s (dstCore k)).window.filter fun x => decide (0x60 ≤ x.opcode ∧ x.opcode ≤ 0x62)) = [u] →
      ∃ t, exec (.redResult id) s = .next t ∧
        ∃ w ∈ (coreAt t (dstCore k)).window, w.id = u.id ∧ w.desc = u.desc ∧ w.progress = u.progress + v.vals.length) ∧
    (∀ key seq node m elem v g q, arrived s id = some k → k.body = .redResult key seq node m elem v false false →
      node ≠ 0 → groupAt s key = some g → k.id < s.nextId →
      ∃ t, exec (.redResult id) s = .next t ∧ packetOf t id = none ∧
        (RedKid.member q ∈ nodeKids s g node → ∀ p, physOf s (g.members.getD q 0) = some p →
          routeValid s (k.dst / 512) (tileOf p) = true →
          ∃ x ∈ t.packets, x.dst = pcoreCode p ∧ x.body = .redResult key seq 0 q elem v false false) ∧
        (RedKid.node q ∈ nodeKids s g node → routeValid s (k.dst / 512) (nodePlace s g q elem).1 = true →
          ∃ x ∈ t.packets, x.body = .redResult key seq q 0 elem v false false)) ∧
    (∀ p n g m, groupAt s (groupKey (corePart s p) n) = some g → memberIndex s g p = some m → s.syncErr = [] →
      groupFenced s g = false →
      combined ((List.range g.members.length).map fun i => g.arrive.getD i false) g.phase = g.arrive.getD m false →
      ∃ t, exec (.barrierRelease p n) s = .next t ∧
        ∀ u ∈ (coreAt t p).window, u.opcode = 0x63 → kGroup u.desc = n → u.finished = true)) ∧
  (∀ (s : State) (p : Nat) (f : Fetched) (x : Resolved) (key : Nat) (g : Group) (m : Nat),
    Ready s p 0x63 noRoot (collCheck s p) f x → memberOf s p (coreAt s p) f.desc = some (key, g, m) →
      groupFenced s g = false → s.syncErr = [] →
      ∃ t, exec (.barrier p) s = .next t ∧
        (∃ h, groupAt t key = some h ∧ h.arrive = g.arrive.set m (!(g.arrive.getD m false)) ∧
          h.phase = combined ((List.range g.members.length).map fun i => h.arrive.getD i false) g.phase) ∧
        (g.members.length = 1 → ∃ u ∈ (coreAt t p).window, u.id = (coreAt s p).nextId ∧ u.finished = true ∧ u.status = .ok))

/-- R135, R136, R138, R140, R143: a corrected word is counted; a read that is clean on its second attempt makes its task a
retried one, and one that fails twice ends it with ECC_UNCORRECTABLE; a word that no task needs is counted and recorded; the
scrubber goes on to its next row; a buffer closes; a starved request takes its bank's priority in its direction. -/
def Obligations.ScratchpadEventsCountAndRepair : Prop :=
  ∀ (s : State) (p : Nat) (kind : MemKind) (word : Nat),
    (powered s p = true → word < kind.words → (kind, word) ∉ (coreAt s p).failing → ∀ superseded,
      ∃ t, exec (.spdCorrectedWriteback p kind word superseded) s = .next t ∧ OnlyCore s t p ∧
        (coreAt t p).ceCount = satInc 32 (coreAt s p).ceCount ∧ ∀ k, spd (coreAt t p) k = spd (coreAt s p) k) ∧
    (powered s p = true → word < kind.words →
      (∀ id u, taskOf (coreAt s p) id = some u → needsWord s p u kind word = true →
        (∃ t, exec (.spdUncorrectableRead p (some id) kind word true) s = .next t ∧ OnlyCore s t p ∧
          (transientAt t (coreUnit p)).ecc = satInc 32 (transientAt s (coreUnit p)).ecc ∧
          ∃ v ∈ (coreAt t p).window, v.id = id ∧ v.desc = u.desc ∧ v.attempts = 2) ∧
        (∃ t, exec (.spdUncorrectableRead p (some id) kind word false) s = .next t ∧
          ∃ v ∈ (coreAt t p).window, v.id = id ∧ v.desc = u.desc ∧ v.finished = true ∧ v.status = .eccUncorrectable ∧
            v.attempts = 2)) ∧
      ∃ t, exec (.spdUncorrectableRead p none kind word false) s = .next t ∧
        (kind, word) ∈ (coreAt t p).failing ∧ (coreAt t p).ueCount = satInc 32 (coreAt s p).ueCount) ∧
    (s.service.ph = 2 → powered s p = true → ∀ corrected failing,
      ∃ t, exec (.patrolScrubRead p corrected failing) s = .next t ∧
        (coreAt t p).scrubRow = ((coreAt s p).scrubRow + 1) % scrubRows) ∧
    (∀ write b, (coreAt s p).bufs.find? (fun x => x.write == write) = some b →
      ∃ t, exec (.coalescingBufferClose p write) s = .next t ∧
        (coreAt t p).bufs = (coreAt s p).bufs.filter (· != b)) ∧
    (∀ bank stream, bank < banksOf kind → stream < 41 → powered s p = true →
      ∃ t, exec (.arbitrationStarvationPriority p kind bank stream) s = .next t ∧ OnlyCore s t p ∧
        (kind, bank, decide (24 ≤ stream), stream) ∈ (coreAt t p).starved)

/-- R141, R152, Tables 05-4 to 05-6: an aperture access of a host that is on becomes a request to the core; a read of a place that the
aperture does not give is an access fault, and a write to one that it does not give or that is read only leaves its place in
PST_UNPOP. Then (R152): the core answers a read of scratchpad words and of its registers, gathers the bytes of a write in a
buffer of their row and clears the flags it is written 1 to, and the answer gives the hart its data. -/
def Obligations.ApertureReadsAndWrites : Prop :=
  (∀ (s : State) (h hart addr size : Nat), hostOn s h = true →
    let request (store : Bool) (data : Option (BitVec 512)) : Body :=
      .aptReq (.aperture h hart s.nextId store) ((addr - apBase) % 0x2000000) size data
    let frame (t : State) : Prop :=
      { t with packets := s.packets, reqs := s.reqs, nextId := s.nextId, tiles := s.tiles } = s
    (∀ p place, apTarget s h addr size false = some (p, place) → routeValid s (hostTile h) (tileOf p) = true →
      ∃ t, exec (.apertureRead h hart addr size) s = .next t ∧ frame t ∧
        Asked t (.aperture h hart s.nextId false) 3 0x0E (request false none)) ∧
    (∀ p place data, apTarget s h addr size true = some (p, place) → apWritable place = true →
      routeValid s (hostTile h) (tileOf p) = true →
      ∃ t, exec (.apertureWrite h hart addr size data) s = .next t ∧ frame t ∧
        Asked t (.aperture h hart s.nextId true) 3 0x0E (request true (some data))) ∧
    (apTarget s h addr size false = none → ∃ t, exec (.apertureRead h hart addr size) s = .next t ∧
      t.loads.getLast? = some { host := h, hart := hart, fetch := false, data := none } ∧ { t with loads := s.loads } = s) ∧
    (∀ data, (∀ p place, apTarget s h addr size true = some (p, place) → apWritable place = false) →
      ∃ t, exec (.apertureWrite h hart addr size data) s = .next t ∧ { t with hosts := s.hosts } = s ∧
        (hostAt t h).unpop = (hostAt s h).unpop.or (some (hart, addr)))) ∧
  (∀ (s : State) (id : Nat) (k : Packet), Deliverable s id k → k.id < s.nextId →
    let p := dstCore k
    let answers (t : State) (who : Asker) (d : Option (BitVec 512)) : Prop :=
      ∃ x ∈ t.packets, x.kind = 0x0F ∧ x.vc = 1 ∧ x.body = .aptData who d
    (∀ who offset size kind b, k.body = .aptReq who offset size none → apPlace offset size = some (.mem kind b) →
      (coreAt s p).failing = [] → bufOf (coreAt s p) true kind (b / 64) = none →
      routeValid s (k.dst / 512) (k.src / 512) = true →
      ∃ t, exec (.packetDeliver id) s = .next t ∧
        answers t who (some (loadData (memRead (spd (coreAt s p) kind) b size)))) ∧
    (∀ who offset size b, k.body = .aptReq who offset size none → apPlace offset size = some (.regs b) →
      routeValid s (k.dst / 512) (k.src / 512) = true →
      ∃ t, exec (.packetDeliver id) s = .next t ∧
        answers t who (some (loadData (((spdRegs (coreAt s p)).drop b).take size)))) ∧
    (∀ who offset size data kind b, k.body = .aptReq who offset size (some data) → apPlace offset size = some (.mem kind b) →
      size ∣ 32 → size ∣ b → (coreAt s p).bufs = [] →
      ∃ t, exec (.packetDeliver id) s = .next t ∧
        ∃ x, (coreAt t p).bufs = [x] ∧ x.write = true ∧ x.kind = kind ∧ x.row = b / 64 ∧ x.accesses = ceilDiv size 4 ∧
          ∀ i, i < size → tblLook x.bytes (b % 64 + i) = (storeBytes data size)[i]?) ∧
    (∀ who data, k.body = .aptReq who 0x1801024 4 (some data) →
      ∃ t, exec (.packetDeliver id) s = .next t ∧
        (coreAt t p).scrubLate = ((coreAt s p).scrubLate && !data.getLsbD 1) ∧
        (coreAt t p).apertureUe = ((coreAt s p).apertureUe && !data.getLsbD 0)) ∧
    (∀ h hart n d, k.body = .aptData (.aperture h hart n false) d → s.reqs.any (·.isOf (.aperture h hart n false)) = true →
      ∃ t, exec (.packetDeliver id) s = .next t ∧
        t.loads.getLast? = some { host := h, hart := hart, fetch := false, data := d }))


/-- R209 to R211: WINDOW_OPEN opens a closed slot on a bound handle and answers its generation; a close of a slot without
transfers advances the generation and leaves the slot closed; the basic close waits for the transfers it finds, the
expert one cuts them. Then (R219, R220): a group is created over the members its ranks name, with every phase 0, its root in the tile
nearest their corner or, in the expert form, in the tile named, and is removed once no collective of it is left, or at once by
the expert destroy, which aborts those it finds. -/
def Obligations.WindowsAndGroupsAreMadeAndEnded : Prop :=
  (∀ (s : State) (q : Nat) (c : Cmd),
    let l := wLcore c
    let slot := wSlot c
    let w := winAt s l slot
    (Begins s q c (isFnAny 0x0202) → l < 3072 → w.isOpen = false → w.closing = false → boundOn s l (wHandle c) = true →
      ∃ t, exec (.windowOpen q) s = .next t ∧ Answered s t c .ok w.gen 0 0 0 ∧
        winAt t l slot = { w with isOpen := true, handle := wHandle c, done := 0 }) ∧
    (Begins s q c (isFn 0x0203 false) → l < 3072 → w.isOpen = true → w.closing = false → wGen c = w.gen →
      ∃ t, exec (.windowClose q) s = .next t ∧
        (slotTransfers s l slot ≠ [] → winAt t l slot = { w with closing := true, closer := some c.uid }) ∧
        (slotTransfers s l slot = [] → w.lastAdvance = none →
          (winAt t l slot).isOpen = false ∧ (winAt t l slot).closing = false ∧ (winAt t l slot).gen = nextGen w.gen)) ∧
    (Begins s q c (isFn 0x0203 true) → l < 3072 → w.isOpen = true → w.expertCloser = none → wGen c = w.gen →
      ∃ t, exec (.windowCloseExpert q) s = .next t ∧ slotTransfers t l slot = [] ∧
        (w.lastAdvance = none →
          (winAt t l slot).isOpen = false ∧ (winAt t l slot).closing = false ∧ (winAt t l slot).gen = nextGen w.gen))) ∧
  (∀ (s : State) (q : Nat) (c : Cmd),
    let part := fld c.pkt 83 80
    let count := fld c.pkt 191 160
    let root := fld c.pkt 111 104
    (∀ l, Begins s q c (isFnAny 0x0300) → groupAt s (groupKey part (fld c.pkt 69 64)) = none →
      (root = 0xFF ∨ (c.expert = true ∧ root < 16 ∧ partOfTile s root = some part)) → 1 ≤ count → count ≤ 3072 →
      memberList s part (fld c.pkt 99 96) (fld c.pkt 159 128) count = some l →
      let tile := if root = 0xFF then cornerTile s l else root
      ∃ t, exec (.barrierGroupCreate q) s = .next t ∧
        (∃ span, Answered s t c .ok (fld c.pkt 69 64) tile span (ceilLog2 count)) ∧
        ∃ g, groupAt t (groupKey part (fld c.pkt 69 64)) = some g ∧ g.members = l ∧
          g.first = fld c.pkt 159 128 ∧ g.slot = fld c.pkt 99 96 ∧ g.phase = false ∧ g.closing = none ∧
          g.rootTile = tile ∧ g.arrive = l.map (fun _ => false) ∧ g.seqs = l.map (fun _ => 0)) ∧
    (∀ g, Begins s q c (isFn 0x0301 false) → groupAt s (destroyKey c) = some g → (∀ e ∈ s.groups, e.2.closing = none) →
      groupTasks s (destroyKey c) = [] →
      ∃ t, exec (.barrierGroupDestroy q) s = .next t ∧ Answered s t c .ok 0 0 0 0 ∧ groupAt t (destroyKey c) = none) ∧
    (∀ g, Begins s q c (isFn 0x0301 true) → groupAt s (destroyKey c) = some g → g.closing = none →
      (∀ e ∈ s.cmds, ∀ n left, e.wait ≠ .feeds n left) →
      ∃ t, exec (.barrierGroupDestroyExpert q) s = .next t ∧ groupAt t (destroyKey c) = none ∧
        Answered s t c (if groupTasks s (destroyKey c) = [] then .ok else .aborted) (groupTasks s (destroyKey c)).length
          0 0 0))

/-- R295 to R297: a push appends to a queue of eight, or replaces its newest word and says so; a pop takes the oldest; a
ring sets the bits that are not the panel's; a mask and an MSI target are written, a target with EN = 1 and identity 0
not. Then (R295, R299, R300, R470): the lead's heartbeat counts, shows in all four HEARTBEAT mailboxes and toggles its
contact; console output enters TH while it has room; the lead takes the oldest input word of each CONSOLE mailbox. -/
def Obligations.MailboxesServeHostsAndLead : Prop :=
  (∀ (s : State) (h hart m : Nat), hostOn s h = true → m < 256 →
    let x := mailboxAt s m
    (∀ w, boxKind m = 2 → ∃ t, exec (.mbxThPush h hart m w) s = .next t ∧
      (mailboxAt t m).th = (if x.th.length < 8 then x.th ++ [w] else x.th.take 7 ++ [w]) ∧
      (mailboxAt t m).collTh = (x.collTh || decide (8 ≤ x.th.length)) ∧
      (mailboxAt t m).lostTh = if x.th.length < 8 then x.lostTh else satInc 16 x.lostTh) ∧
    (∀ w, boxKind m = 1 → ownsBox s h m = true → ∃ t, exec (.mbxTpPush h hart m w) s = .next t ∧
      (mailboxAt t m).tp = (if x.tp.length < 8 then x.tp ++ [w] else x.tp.take 7 ++ [w]) ∧
      (mailboxAt t m).collTp = (x.collTp || decide (8 ≤ x.tp.length))) ∧
    (ownsBox s h m = true → ∃ t, exec (.mbxThPop h hart m) s = .next t ∧
      t.loads.getLast? = some { host := h, hart := hart, fetch := false, data := some ((x.th.headD 0).setWidth 512) } ∧
      (x.console = [] → (mailboxAt t m).th = x.th.tail)) ∧
    (∀ bits, (ownsBox s h m = true ∨ boxKind m = 2) → ∃ t, exec (.mbxRing h hart m bits) s = .next t ∧
      mailboxAt t m = { x with dbell := x.dbell ||| (bits &&& 0xFFFFFFF8) }) ∧
    (∀ mask, ownsBox s h m = true → ∃ t, exec (.mbxMask h hart m mask) s = .next t ∧
      mailboxAt t m = { x with mask := mask }) ∧
    (∀ v : BitVec 32, ownsBox s h m = true → ∃ t, exec (.mbxMsi h hart m v) s = .next t ∧
      mailboxAt t m = if v.getLsbD 31 && fld v 10 0 == 0 then x else { x with msi := msiOf v.toNat })) ∧
  (∀ (s : State),
    ((curatorAt s s.lead).state = .posting → ∃ t, exec .heartbeatPost s = .next t ∧
      t.hbSeq = (s.hbSeq + 1) % 2 ^ 32 ∧ t.hbValid = true ∧ t.service.heartbeat = !s.service.heartbeat ∧
      ∀ m ∈ [0, 64, 128, 192], (mailboxAt t m).hbeat = hbeatWord t ∧ (mailboxAt t m).dbell.getLsbD 2 = true) ∧
    (∀ m words, s.hostsReleased = true → m < 256 → boxKind m = 1 → (mailboxAt s m).console = [] →
      (mailboxAt s m).th.length + words.length ≤ 8 → (mailboxAt s m).lostTh < 2 ^ 16 →
      ∃ t, exec (.consoleOutput m words) s = .next t ∧ (mailboxAt t m).th = (mailboxAt s m).th ++ words ∧
        (mailboxAt t m).lostTh = (mailboxAt s m).lostTh) ∧
    (∃ t, exec .consolePop s = .next t ∧
      ∀ m, (mailboxAt t m).tp = if m % 64 = 1 ∧ m < 256 then (mailboxAt s m).tp.tail else (mailboxAt s m).tp))

/-- R397 to R400: a quote is answered with its length, its leaf and the boot it speaks of, and no later one takes that
leaf; an image that verifies goes to the copy that is not active, and its command is answered once the last write has completed; one
that does not verify is refused; a commit makes the other copy active by one counter record. -/
def Obligations.IdentityCommandsComplete : Prop :=
  ∀ (s : State) (q : Nat) (c : Cmd),
    (Begins s q c (isFnAny 0x0800) → firstOf (attestChecks s c) = none → s.ident.cert.isSome = true →
      s.ident.attLeaf < 1024 → s.drains = [] →
      CanCopy s (atDest c) (quoteBytes s (fld c.pkt 319 64) (bit c.pkt.toNat 384)).length →
      ∃ t, exec (.attest q) s = .next t ∧ t.ident.attLeaf = s.ident.attLeaf + 1 ∧
        Answered s t c .ok (quoteBytes s (fld c.pkt 319 64) (bit c.pkt.toNat 384)).length s.ident.attLeaf (idLeaf s)
          s.counter.boot) ∧
    (Begins s q c (fun c => isFnAny 0x0801 c && fwTurn s c) → fwWriting s q 0x0801 = none →
      firstOf (fwStageChecks s c) = none → onDark s (fwSrc c) (fwLength c) = false →
      firstBad s (fwSrc c) (fwLength c) = none →
      let bs := ldRead s (fwSrc c) (fwLength c)
      ∃ t, exec (.fwStage q) s = .next t ∧
        (fwVerifies s (fwType c) bs = true → (cmdOf t c.uid).map (·.wait) = some (.flash bs) ∧ t.queues = s.queues ∧
          stagedOk t (fwType c) (fwSlot c) = false) ∧
        (fwVerifies s (fwType c) bs = false → Answered s t c .notPermitted 0 0 0 0 ∧ t.bf0 = s.bf0 ∧ t.bf1 = s.bf1)) ∧
    (∀ bs, Waits s q c (.flash bs) → fwWriting s q 0x0801 = some (c, bs) →
      ∃ t, exec (.fwStage q) s = .next t ∧ Answered s t c .ok 0 0 0 0 ∧
        t.bf0 = s.bf0.stage (fwType c) (fwSlot c) (!activeB s (fwType c)) true bs ∧
        t.bf1 = s.bf1.stage (fwType c) (fwSlot c) (!activeB s (fwType c)) true bs) ∧
    (Begins s q c (fun c => isFnAny 0x0802 c && fwTurn s c) → fwWriting s q 0x0802 = none →
      firstOf (commitChecks s c) = none →
      ∃ t, exec (.fwCommit q) s = .next t ∧ (cmdOf t c.uid).map (·.wait) = some (.flash []) ∧
        { t with cmds := s.cmds } = s) ∧
    (∀ bs, Waits s q c (.flash bs) → fwWriting s q 0x0802 = some (c, bs) →
      ∃ t, exec (.fwCommit q) s = .next t ∧ Answered s t c .ok 0 0 0 0 ∧
        (fwType c ≠ 5 → activeB t (fwType c) = !activeB s (fwType c) ∧ t.counter.seq = (s.counter.seq + 1) % 2 ^ 32) ∧
        (fwType c = 5 → t.counter = s.counter))

/-- R163 to R168, R170, R177, R333: a queued packet that its router can take enters it; the packet that the next slot of its output is
for sends a flit, and with its last flit goes on to its next router, where a crossing takes a code off its route, or leaves its last
router for its unit; one that waits for a failed crossing is discarded, its flits counted; a packet at its unit is held there for
the command that acts on it, or discarded and counted when its PGEN is stale; a packet of 48 units or more is discarded and counted, and a
younger one is not. -/
def Obligations.PacketsCrossAndArrive : Prop :=
  (∀ (s : State) (id : Nat) (k : Packet), packetOf s id = some k → k.held = true → canInject s k = true →
    routeValid s (k.src / 512) (k.dst / 512) = true →
    ∃ t, exec (.packetRoute id) s = .next t ∧ packetOf t id = some (launched s k)) ∧
  (∀ (s : State) (id : Nat) (k : Packet), inNetwork s id = some k →
    let code := k.route.toNat % 8
    let lost := ownLoss k.body = false ∨ k.again = false
    (k.ejected = false → inFence s k.place = false → tooOld s k = false → badHeader k = false → code ≤ 4 →
      (code ≠ 0 → (neighbour k.tile code).isSome = true) → entersFence s k = false →
      ((∀ x, crossingOf k = some x → (linkAt s x.1 x.2).state ≠ .failed) →
        (slotPacket s k).map (·.id) = some id →
        ∃ t, exec (.packetRoute id) s = .next t ∧
          (k.sent + 1 < flitSlots k → packetOf t id = some { k with sent := k.sent + 1 }) ∧
          (flitSlots k ≤ k.sent + 1 → nextNode k = none → packetOf t id = some { k with sent := 0, ejected := true }) ∧
          (flitSlots k ≤ k.sent + 1 → ∀ n, nextNode k = some n → ∃ x, packetOf t id = some x ∧ x.place = n ∧
            x.prev = some k.place ∧ x.dst = k.dst ∧ x.body = k.body ∧
            x.route = if (crossingOf k).isSome then k.route >>> 3 else k.route)) ∧
      (∀ x, crossingOf k = some x → (linkAt s x.1 x.2).state = .failed → lost →
        ∃ t, exec (.packetRoute id) s = .next t ∧ packetOf t id = none ∧
          (linkAt t x.1 x.2).lost = satAdd 16 (linkAt s x.1 x.2).lost (flitSlots k - k.sent))) ∧
    (k.ejected = true → behind s k = false → tooOld s k = false → badHeader k = false →
      (k.dunit = 0 → dieFenced s k.tile (k.dst / 32 % 16) = false) →
      (Deliverable s id k → (∃ r x tag n nth, k.body = .announce r x tag n nth) ∨ (∃ r x n, k.body = .pull r x n) ∨
          (∃ r x o bs l, k.body = .data r x o bs l) ∨ (∃ x st, k.body = .done x st) ∨
          (∃ x l sl g o n r a b bs, k.body = .putData x l sl g o n r a b bs) ∨ (∃ x st r, k.body = .putAck x st r) ∨
          (∃ key q nd el m lf v mm, k.body = .redPart key q nd el m lf v mm) ∨
          (∃ key q nd m el v mm f, k.body = .redResult key q nd m el v mm f) ∨ (∃ x n bs, k.body = .bcData x n bs) →
        ∃ t, exec (.packetDeliver id) s = .next t ∧ packetOf t id = some { k with delivered := true }) ∧
      (k.pgen ≠ (partAt s k.part).pgen → ∃ t, exec (.packetDeliver id) s = .next t ∧ packetOf t id = none ∧
        (tileAt t k.tile).drop.staleGen = satInc 16 (tileAt s k.tile).drop.staleGen)) ∧
    (tooOld s k = true → lost → ∃ t, exec (.packetLifetimeExpiry id) s = .next t ∧ packetOf t id = none ∧
      (tileAt t k.tile).drop.lifetime = satInc 16 (tileAt s k.tile).drop.lifetime) ∧
    (tooOld s k = false → ∃ t, exec (.packetLifetimeExpiry id) s = .next t ∧ t = s))

/-- R173, R174, R176: a failed flit asks for a replay; a good replay is transient, a bad one retrains its lane group; a
retrained group is back with its spare wire; a request that gets no reply is issued again once, and then its task ends with
TIMEOUT. -/
def Obligations.LinksReplayAndRetrain : Prop :=
  ∀ (s : State),
    (∀ link, linkInUse s link = true → link ∉ s.replays →
      ∃ t, exec (.flitCrcFail link) s = .next t ∧ t = { s with replays := s.replays ++ [link] }) ∧
    (∀ tile n group, LinkRef.crossing tile n ∈ s.replays →
      ∃ t, exec (.flitReplayResult (.crossing tile n) true group) s = .next t ∧
        LinkRef.crossing tile n ∉ t.replays ∧
        linkAt t tile n = { linkAt s tile n with transient := satInc 32 (linkAt s tile n).transient }) ∧
    (∀ tile n g, LinkRef.crossing tile n ∈ s.replays → g < 32 → g ∉ (linkAt s tile n).sparesUsed →
      g ∉ (linkAt s tile n).groups →
      ∃ t, exec (.flitReplayResult (.crossing tile n) false (some g)) s = .next t ∧
        LinkRef.crossing tile n ∉ t.replays ∧ linkAt t tile n =
          { linkAt s tile n with state := .retraining, groups := (linkAt s tile n).groups ++ [g] }) ∧
    (∀ tile n g rest, (linkAt s tile n).state = .retraining → (linkAt s tile n).groups = g :: rest →
      ∃ t, exec (.laneGroupRetrainDone tile n true) s = .next t ∧ linkAt t tile n =
        { linkAt s tile n with
          retrains := satInc 8 (linkAt s tile n).retrains, groups := rest,
          sparesUsed := (linkAt s tile n).sparesUsed ++ [g],
          state := if rest = [] then .up else .retraining }) ∧
    (∀ id r, s.reqs.find? (fun x => x.id == id) = some r → r.frames = [] → reqHeld s r = false →
      (r.attempts = 1 → (∀ k ∈ r.packets, routeValid s (k.src / 512) (k.dst / 512) = true) →
        ∃ t, exec (.requestReplyTimeout id) s = .next t ∧ t.packets.length = s.packets.length + r.packets.length ∧
          ∃ x ∈ t.reqs, x.id = id ∧ x.who = r.who ∧ x.attempts = 2) ∧
      (∀ p i u, r.attempts = 2 → r.who = .task p i → taskOf (coreAt s p) i = some u →
        ∃ t, exec (.requestReplyTimeout id) s = .next t ∧ (∀ x ∈ t.reqs, x.id ≠ id) ∧
          ∃ v ∈ (coreAt t p).window, v.id = i ∧ v.desc = u.desc ∧ v.finished = true ∧ v.status = .timeout))

/-- R178, R179: a drain holds injection once no earlier drain of its scope is left, writes its entries once the scope is
empty, and is over at its release. Then (R181, R493): ROUTE_UPDATE writes a port set at once when no flow has to move, and otherwise
waits for the drain of those that do; it writes shares at once, and a route entry in a drain. -/
def Obligations.DrainsWriteRoutes : Prop :=
  (∀ (s : State) (id : Nat) (d : Drain), drainAt s id = some d →
    (d.phase = .decided → drainBehind s d = false →
      ∃ t, exec (.drainHold id) s = .next t ∧ drainAt t id = some { d with phase := .held }) ∧
    (d.phase = .held → scopeBusy s d = false → d.copies = [] → ∃ t, exec (.drainTableWrite id) s = .next t ∧
      (∀ e, d.routes = [e] → d.cats = [] → drainAt t id = some { d with phase := .written } ∧
        rteAt t (e.1 / 16) (e.1 % 16) = writtenRoute s e) ∧
      (d.cats ≠ [] → t.catVersion = (s.catVersion + 1) % 2 ^ 32)) ∧
    (d.phase = .written → d.cats = [] → ∃ t, exec (.drainRelease id) s = .next t ∧ drainAt t id = none)) ∧
  (∀ (s : State) (q : Nat) (c : Cmd),
    let m : BitVec 32 := if ruClear c then 0xFFFFFFFF else BitVec.ofNat 32 (ruWord c)
    (Begins s q c (fun c => c.fn == 0x0901 && !ruExpert 1 c && !ruExpert 2 c) → firstOf (ruPortChecks s c) = none →
      s.fabric.changes = [] → (∀ x ∈ s.fabric.tx, x.move = none) →
      (groupMoves s (ruGroup c) m = [] → ∃ t, exec (.routeUpdatePortset q) s = .next t ∧ Answered s t c .ok 0 0 0 0 ∧
        ∀ g, portset t g = if g = ruGroup c then m else portset s g) ∧
      (∀ k x, k ∈ groupMoves s (ruGroup c) m → txFlow s k = some x → x.unacked ≠ [] →
        ∃ t, exec (.routeUpdatePortset q) s = .next t ∧ (cmdOf t c.uid).map (·.wait) = some .flows ∧
          (∀ g, portset t g = portset s g) ∧
          (c.uid, groupMoves s (ruGroup c) m, .portset (ruGroup c) m) ∈ t.fabric.changes)) ∧
    (Begins s q c (ruExpert 1) → firstOf (ruRouteChecks s c) = none → (∀ d ∈ s.drains, c.uid ∉ d.cmds) →
      ∃ t, exec (.routeUpdatePanelRoute q) s = .next t ∧ { t with drains := s.drains, nextId := s.nextId, cmds := s.cmds } = s ∧
        ∃ d ∈ t.drains, (cmdOf t c.uid).map (·.wait) = some (.drain d.id) ∧ c.uid ∈ d.cmds ∧
          (16 * ruTile c + ruDtile c,
            if ruClear c then curatorRoute s (ruTile c) (ruDtile c) else ruEntry c) ∈ d.routes) ∧
    (Begins s q c (ruExpert 2) → firstOf (ruShareChecks s c) = none →
      ∃ t, exec (.routeUpdateShares q) s = .next t ∧ Answered s t c .ok 0 0 0 0 ∧
        { t with queues := s.queues, cmds := s.cmds, tiles := s.tiles } = s ∧
        ∀ x, tileAt t x = if x ∈ ruTiles c then
            { tileAt s x with vc1Min := ruVc c 0, vc2Min := ruVc c 1, vc3Min := ruVc c 2 }
          else tileAt s x))

/-- R183, R184, R186, R328: a control message whose way is open reaches its core, in order; an abort is taken only by the RUN it names; a
heartbeat is heard; a broadcast reaches every tile whose way is open, and the hubs whose cores have it acknowledge; the first error
of a synchronisation sample is only remembered, with the lanes of the sample before. -/
def Obligations.ControlAndSyncMessagesArrive : Prop :=
  ∀ (s : State),
    (∀ k x, s.ctrl[k]? = some x → ctrlWaits s k x = false → ctrlOpen s x = true →
      ∃ t, exec (.controlMessage (.inFlight k)) s = .next t ∧ t.ctrl = s.ctrl.eraseIdx k ∧
        match x with
        | .runStart p r => (coreAt t p).pendingStart = some r
        | .abort p u => (coreAt t p).abortReq =
            if (coreAt s p).run.any (·.cmd == u) || (coreAt s p).pendingStart.any (·.cmd == u) then some u
            else (coreAt s p).abortReq
        | .stepMark p m => (coreAt t p).marks = (coreAt s p).marks ++ [m]
        | .program _ _ => { t with ctrl := s.ctrl } = s) ∧
    (∀ tile, (curatorAt s tile).state = .posting ∨ (curatorAt s tile).state = .restarting →
      ∃ t, exec (.controlMessage (.heartbeat tile)) s = .next t ∧
        curatorAt t tile = { state := .posting, lastHeard := s.time }) ∧
    (∀ words failing, ∃ t, exec (.broadcastTreeMessage words failing) s = .next t ∧ t.tree.words = words ∧
      (∀ n, n ∈ t.tree.acks ↔ n ∈ treeTiles s ∧ ∀ p ∈ failing, coreOn s p = true → tileOf p ≠ n) ∧
      ((∀ p ∈ failing, coreOn s p = false) → { t with tree := s.tree } = s)) ∧
    (∀ link, badSample s link = none → ∃ t, exec (.syncSampleError link) s = .next t ∧
      { t with syncErr := s.syncErr } = s ∧ (link, s.time, liveLanes s link) ∈ t.syncErr)

/-- R189, R190: a replicator with members on its tile takes the stream's next row, from its own NI or slice or as the row comes to it
on the tree; a beat gives a die with room the rows taken, at most four; a beat that fails its CRC once is to be sent again. Then
(R110): the fetch of a shared stream begins when its members have gathered, as one stream for all of them, and reads its rows
one by one: the read of a row changes no byte of LPDDR5X. -/
def Obligations.SharedStreamsAreFetchedAndDelivered : Prop :=
  (∀ (s : State) (tile site id : Nat) (x : BStream), streamOf s id = some x →
    let n := tblGet 0 x.taken tile
    let die := stackUnit tile site
    let takes (row : List Byte → State → Prop) : Prop :=
      ∃ t, exec (.replicatorRow tile id) s = .next t ∧ ∃ y, streamOf t id = some y ∧ tblGet 0 y.taken tile = n + 1 ∧
        row (tblGet [] y.rows n) t
    ((memberTiles x).contains tile = true → replicatorFull s tile x = false →
      (∀ k bs, rowArrived s tile x = some (k, n, bs) → k.id < s.nextId → takes fun _ t => packetOf t k.id = none) ∧
      (∀ bs, rowArrived s tile x = none → n < x.count → rowTile s x n = some tile → x.desc = none →
        tblLook x.rows n = some bs → takes fun r _ => r = bs) ∧
      (∀ d, rowArrived s tile x = none → n < x.count → rowTile s x n = some tile → x.desc = some d →
        pathStop s (x.members.headD (0, 0)).1 (streamAddr d n) 64 = none → firstBad s (streamAddr d n) 64 = none →
        takes fun r t => r = ldRead s (streamAddr d n) 64 ∧
          (partsApart s = true → slicesOk s → ∀ a, ldByte t a = ldByte s a))) ∧
    (site < 13 → dieFenced s tile site = false → beatReady x die = true → beatTurn s x die = true →
      let upto := tblGet 0 x.delivered die + beatRows x die
      (upto < x.count → ∃ t, exec (.broadcastBeat tile id site true) s = .next t ∧
        ∃ y, streamOf t id = some y ∧ tblGet 0 y.delivered die = upto) ∧
      (die ∉ x.resent → tblGet 0 x.delivered die < x.count → ∃ t, exec (.broadcastBeat tile id site false) s = .next t ∧
        ∃ y, streamOf t id = some y ∧ y.resent = x.resent ++ [die] ∧
          tblGet 0 y.delivered die = tblGet 0 x.delivered die))) ∧
  (∀ (s : State) (part share : Nat) (g : Gather),
    s.gathers.find? (fun g => g.part == part && g.share == share && decide (xMembers g.desc ≤ g.members.length)) = some g →
    (∀ r, r < xRows g.desc → pathStop s (g.members.headD (0, 0)).1 (remoteRow g.desc r) (xBpr g.desc) = none) →
    ∃ t, exec (.sharedStreamFetchStart part share) s = .next t ∧ g ∉ t.gathers ∧
      { t with gathers := s.gathers, streams := s.streams, nextId := s.nextId, cores := s.cores,
               transients := s.transients } = s ∧
      ∃ x, t.streams = s.streams ++ [x] ∧ x.id = s.nextId ∧ x.part = part ∧ x.members = g.members ∧
        x.desc = some g.desc ∧ x.count = xRows g.desc * xBpr g.desc / 64 ∧ x.rows = [] ∧ x.taken = [] ∧
        x.delivered = [] ∧ x.root = none)

/-- R239, R240: a load of LPDDR5X answers the bytes its home slices hold and changes no byte; a store puts its bytes there
and changes no other byte, of memory or of what the slices serve. -/
def Obligations.LoadsReadAndStoresWriteTheirBytes : Prop :=
  ∀ (s : State) (h hart addr size : Nat) (data : BitVec 512), partsApart s = true → slicesOk s → hostOn s h = true →
    (regionOf s addr).isSome = true → ldTarget s addr size = true →
    (firstBad s addr size = none → ∃ t, exec (.sliceRead h hart addr size) s = .next t ∧
      t.loads.getLast? = some { host := h, hart := hart, fetch := false, data := some (loadData (ldRead s addr size)) } ∧
      ∀ a, ldByte t a = ldByte s a) ∧
    (firstUnmerged s addr size = none → ∃ t, exec (.sliceWrite h hart addr size data) s = .next t ∧
      (∀ i, i < size → ldByte t (addr + i) = (leBytes size data.toNat).getD i 0) ∧
      ∀ a, a < addr ∨ addr + size ≤ a → ldByte t a = ldByte s a)

/-- R244 to R251: corrected errors of a device are counted, its temperature sets the refresh rate, a clean second read is transient
and makes its task a retried one, a failing one marks its block and ends the transfer that made it; a predicted failure starts a copy to
the spare, and when everything is copied the drain of the partition is decided in whose write the spare takes over; a
lasting fault of a device in use whose spare is ready takes the device down and puts it among those its partition's reset
replaces. -/
def Obligations.DevicesCountCopyAndFail : Prop :=
  ∀ (s : State) (dev : Nat),
    let x := deviceAt s dev
    (∀ corrected, x.state ≠ .failed → x.state ≠ .notMapped → ∃ t, exec (.ecsResultRead dev corrected) s = .next t ∧
      deviceAt t dev = { x with ce := satAdd 32 x.ce corrected }) ∧
    (∀ temp, x.state ≠ .failed → x.state ≠ .notMapped → ∃ t, exec (.deviceTemperatureReport dev temp) s = .next t ∧
      deviceAt t dev = { x with refrate := if 85 < temp then 1 else 0 }) ∧
    (∀ channel, ∃ t, exec (.wckTracking dev channel true) s = .next t ∧ t = s) ∧
    (∀ addr h hart home, homeOf s (addr / 64 * 64) = some home → cached s (addr / 64 * 64) = none →
      let served := servingDevice s home.device
      let counted (t : State) : Prop := (transientAt t (tileUnit (deviceTile home.device))).ecc =
        satInc 32 (transientAt s (tileUnit (deviceTile home.device))).ecc
      (∀ who k, ∃ t, exec (.lpddrUncorrectableRead addr who (.corrected k)) s = .next t ∧
        deviceAt t served = { deviceAt s served with ce := satAdd 32 (deviceAt s served).ce k }) ∧
      (∃ t, exec (.lpddrUncorrectableRead addr (.host h hart) .transient) s = .next t ∧ counted t) ∧
      (∃ t, exec (.lpddrUncorrectableRead addr (.host h hart) .lasting) s = .next t ∧
        blockBad t (addr / 64 * 64) = true) ∧
      (∀ p id u, taskOf (coreAt s p) id = some u → u.status.good = true →
        (∃ t, exec (.lpddrUncorrectableRead addr (.task p id) .transient) s = .next t ∧ counted t ∧
          ∃ v ∈ (coreAt t p).window, v.id = id ∧ v.desc = u.desc ∧ v.attempts = 2) ∧
        (u.opcode = 0x41 ∨ u.opcode = 0x42 → (deviceAt s served).ue ≠ 7 →
          ∃ t, exec (.lpddrUncorrectableRead addr (.task p id) .lasting) s = .next t ∧
            ∃ v ∈ (coreAt t p).window, v.id = id ∧ v.desc = u.desc ∧ v.finished = true ∧ v.status = .eccUncorrectable ∧
              v.attempts = 2))) ∧
    (∀ n sp, devicePart s dev = some n → devInUse s dev = true → predictive s dev = true →
      (partAt s n).state ≠ .resetting → (partAt s n).state ≠ .withdrawn → spareFor dev = some sp →
      (deviceAt s sp).state = .spare → sparePart s sp = some n →
      ∃ t, exec (.devicePredictiveTrigger dev) s = .next t ∧ (deviceAt t sp).state = .copying ∧
        (deviceAt t sp).serves = some dev ∧ (deviceAt t dev).wanted = true) ∧
    (∀ d poisoned, x.state = .copying → x.serves = some d → (deviceAt s d).state = .inUse → d ≠ dev →
      ((∀ y ∈ s.drains, ∀ c ∈ y.copies, c.1 ≠ dev) → ∃ t, exec (.deviceCopyDone dev poisoned) s = .next t ∧
        { t with drains := s.drains, nextId := s.nextId } = s ∧ ∃ y ∈ t.drains, (dev, d, poisoned) ∈ y.copies) ∧
      (∀ id y, drainAt s id = some y → y.phase = .held → scopeBusy s y = false → y.routes = [] → y.cats = [] →
        y.copies = [(dev, d, poisoned)] → (∀ o, spareFor o = some dev → (deviceAt s o).down = false) →
        ∃ t, exec (.drainTableWrite id) s = .next t ∧ (deviceAt t dev).state = .inUse ∧
          (deviceAt t d).state = .failed ∧ (dev, d) ∈ t.replaced)) ∧
    (∀ n sp, devicePart s dev = some n → x.state = .inUse → x.down = false → isSpareDev dev = false →
      spareReady s n dev = some sp → (partAt s n).state = .inService → (countReset s n).2 = false →
      ∃ t, exec (.deviceLastingFault dev) s = .next t ∧ dev ∈ (partAt t n).failedDevices ∧ (deviceAt t dev).down = true)

/-- R265 to R267, R270, R273 to R275: a tail or head inside its ring is taken, another sets RANGE_ERR, and a store to a page that is
not the die's leaves its place in PST_UNPOP; a fetched packet that nothing refuses is the queue's newest command, and one that is
refused has its record; the oldest record enters a ring with room, but not before the record that it follows; a context loads,
and leaves its spill buffer. -/
def Obligations.DoorbellsFetchAndRecords : Prop :=
  ∀ (s : State) (q : Nat),
    let x := queueAt s q
    (∀ h hart (tail : BitVec 32), hostOn s h = true → q < 65536 →
      ∃ t, exec (.dblSqTail h hart q tail) s = .next t ∧
        (ownsPage s h q = true → tail.toNat % 65536 < ringSize x.sqLog → (queueAt t q).tail = tail.toNat % 65536 ∧
          (queueAt t q).lastRung = s.time ∧ (queueAt t q).rangeErr = x.rangeErr) ∧
        (ownsPage s h q = true → ringSize x.sqLog ≤ tail.toNat % 65536 → queueAt t q = { x with rangeErr := true }) ∧
        (ownsPage s h q = false → (hostAt t h).unpop = (hostAt s h).unpop.or (some (hart, 0x400000000000 + 4096 * q)) ∧
          { t with hosts := s.hosts } = s)) ∧
    (∀ h hart (head : BitVec 32), hostOn s h = true → q < 65536 →
      ∃ t, exec (.dblCqHead h hart q head) s = .next t ∧
        (ownsPage s h q = true → head.toNat % 65536 < ringSize x.cqLog → (queueAt t q).cqHead = head.toNat % 65536 ∧
          (queueAt t q).cqFull = cqFullNow { x with cqHead := head.toNat % 65536 }) ∧
        (ownsPage s h q = true → ringSize x.cqLog ≤ head.toNat % 65536 → queueAt t q = { x with rangeErr := true }) ∧
        (ownsPage s h q = false → (hostAt t h).unpop = (hostAt s h).unpop.or (some (hart, 0x400000000004 + 4096 * q)) ∧
          { t with hosts := s.hosts } = s)) ∧
    (∀ r rest, x.records = r :: rest → x.state ≠ .free →
      let next := (x.cqTail + 1) % ringSize x.cqLog
      ∃ t, exec (.completionRecordWrite q) s = .next t ∧
        (mustFollow s r = false → cqFullNow x = false →
          (queueAt t q).records = (passSilent { x with records := rest, cqTail := next }).records ∧
          (queueAt t q).cqTail = next ∧ (queueAt t q).phase = (if next = 0 then !x.phase else x.phase)) ∧
        (mustFollow s r = false → cqFullNow x = true → queueAt t q = { x with cqFull := true }) ∧
        (mustFollow s r = true → t = s)) ∧
    (mayFetch s q = true → NoBad s →
      let k := slotsOf (fld (BitVec.ofNat 512 (leNat (slotBytes s (slotAddrs x 1)))) 31 24)
      let pkt := BitVec.ofNat 1024 (leNat (slotBytes s (slotAddrs x k)))
      let c := cmdFrom s q pkt
      let read := each (slotAddrs x k) (fun a s => ldTouch s a 64 true) s
      let u := { modQueue read q (fun y => { y with sqHead := (y.sqHead + k) % ringSize y.sqLog }) with
                 cmds := s.cmds ++ [c], nextCmd := s.nextCmd + 1 }
      0 < slotsWaiting x → k ≤ slotsWaiting x → heldAtAdmission s pkt = false →
      (admission u x.owner pkt = none → firstOf (remaining u c) = none →
        ∃ t, exec (.commandFetch q) s = .next t ∧ t = u) ∧
      (∀ st, (admission u x.owner pkt).or (firstOf (remaining u c)) = some st → st.good = false → quiet s = true →
        cmdsOk s → ∃ t, exec (.commandFetch q) s = .next t ∧ t.cmds = s.cmds ∧
          ∃ r, (queueAt t q).records = (passSilent x).records ++ [r] ∧ r.uid = s.nextCmd ∧ r.tag = c.tag ∧ r.status = st ∧
            r.silent = false)) ∧
    (∀ u, q ∈ (unitAt s u).loading → (unitAt s u).pending = [] →
      ∃ t, exec (.contextLoadDone u q) s = .next t ∧ q ∉ (unitAt t u).loading ∧ (queueAt t q).unit.isSome = true) ∧
    (∀ u, q ∈ (unitAt s u).spilling → (unitAt s u).pending = [] →
      ∃ t, exec (.spillWriteAck u q) s = .next t ∧ q ∉ (unitAt t u).spilling)

/-- R259, R261, R272: a module that fails is out of service, and with fewer than four left its die is lost, as after 10 ms
without a link; an access to an unpopulated address faults a load or a fetch, and a store leaves its place in PST_UNPOP. Then
(R7, R178, R180, R263, R372): the curator writes the shares of NI_VCW at once and an NI_RTE entry in a drain; boot code writes a
register of an unsealed charter, whose reserved bits it cannot set, and seals it; a host store clears what it writes as 1, and one
to a read-only register leaves its place in PST_UNPOP. -/
def Obligations.HostLinksAndRegistersAnswer : Prop :=
  (∀ (s : State) (h hart addr : Nat),
    ((hostAt s h).linkUp = true → 0 < (hostAt s h).modules → ∃ t, exec (.ucieModuleFail h) s = .next t ∧
      (hostAt t h).modules = (hostAt s h).modules - 1 ∧
      ((hostAt s h).modules ≤ 4 → h < 4 → (hostAt t h).lost = true) ∧
      (5 ≤ (hostAt s h).modules → (hostAt t h).lost = (hostAt s h).lost)) ∧
    ((hostAt s h).released = true → h < 4 → ∃ t, exec (.ucieLinkDownTimeout h) s = .next t ∧
      (hostAt t h).lost = true) ∧
    (hostOn s h = true → reachableAddr s addr .store = false →
      ∃ t, exec (.unpopulatedAccess h hart addr .store) s = .next t ∧
        (hostAt t h).unpop = (hostAt s h).unpop.or (some (hart, addr))) ∧
    (hostOn s h = true → reachableAddr s addr .load = false →
      ∃ t, exec (.unpopulatedAccess h hart addr .load) s = .next t ∧
        t.loads.getLast? = some { host := h, hart := hart, fetch := false, data := none }) ∧
    (hostOn s h = true → reachableAddr s addr .fetch = false →
      ∃ t, exec (.unpopulatedAccess h hart addr .fetch) s = .next t ∧
        t.loads.getLast? = some { host := h, hart := hart, fetch := true, data := none })) ∧
  (∀ (s : State) (v : BitVec 64) (tile : Nat), tile < 16 →
    (∀ a, sharesOk (fld v 7 0) (fld v 15 8) (fld v 23 16) = true →
      ∃ t, exec (.registerWrite (.curator a) (.niVcw tile) v) s = .next t ∧
        tileAt t tile = { tileAt s tile with vc1Min := fld v 7 0, vc2Min := fld v 15 8, vc3Min := fld v 23 16 }) ∧
    (∀ a d, d < 16 → ∃ t, exec (.registerWrite (.curator a) (.niRte tile d) v) s = .next t ∧
      { t with drains := s.drains, nextId := s.nextId } = s ∧
      ∃ x ∈ t.drains, (16 * tile + d, { valid := v.getLsbD 31, override := v.getLsbD 30, hops := fld v 27 24,
                                        route := BitVec.ofNat 24 v.toNat }) ∈ x.routes) ∧
    (s.sealed = false → (s.start.stage = .rom ∨ s.start.stage = .firstStage) → ∀ n, n < 64 →
      ∃ t, exec (.registerWrite .firstStage (.charter (8 * n)) v) s = .next t ∧
        chtOf t.charter n = (chtReserved n).foldl (fun v b => v - bits v b.1 b.2 * 2 ^ b.2) v.toNat ∧
        t.sealed = (n == 1 && v.getLsbD 0)) ∧
    (∀ h hart, hostOn s h = true → (regionOf s 0x400010010030).isNone = true →
      ∃ t, exec (.registerWrite (.host h hart) (.mapped 0x400010010030 8) v) s = .next t ∧
        (hostAt t h).unpop = if v.getLsbD 63 then none else (hostAt s h).unpop) ∧
    (∀ h hart, hostOn s h = true → (regionOf s 0x400010010000).isNone = true →
      ∃ t, exec (.registerWrite (.host h hart) (.mapped 0x400010010000 8) v) s = .next t ∧
        (hostAt t h).unpop = (hostAt s h).unpop.or (some (hart, 0x400010010000))))

/-- R288: ECHO answers its parameters, in its expert form with panel time. Then (R204, R377): CATALOGUE_READ and
CHARTER_READ whose destination takes the copy answer OK; the basic CATALOGUE_READ waits for a drain in progress. -/
def Obligations.EchoAndCopiesAreAnswered : Prop :=
  (∀ (s : State) (q : Nat) (c : Cmd),
    (Begins s q c (isFn 0x0001 false) → ∃ t, exec (.echo q) s = .next t ∧
      Answered s t c .ok (fld c.pkt 95 64) (fld c.pkt 127 96) (fld c.pkt 159 128) (fld c.pkt 191 160) ∧
      { t with queues := s.queues, cmds := s.cmds } = s) ∧
    (Begins s q c (isFn 0x0001 true) → ∃ t, exec (.echoExpert q) s = .next t ∧
      Answered s t c .ok (fld c.pkt 95 64) (fld c.pkt 127 96) (s.time % 2 ^ 32) (s.time / 2 ^ 32 % 2 ^ 32) ∧
      { t with queues := s.queues, cmds := s.cmds } = s)) ∧
  (∀ (s : State) (q : Nat) (c : Cmd),
    let rows (cmd : Instr) : Prop := firstOf (catChecks s c) = none → CanCopy s (crDest c) (catBytes s c).length →
      ∃ t, exec cmd s = .next t ∧ Answered s t c .ok s.catVersion s.catVersion 0 0
    (Begins s q c (isFn 0x0A00 false) → s.drains = [] → rows (.catalogueRead q)) ∧
    (Begins s q c (isFn 0x0A00 false) → firstOf (catChecks s c) = none → ∀ d rest, s.drains = d :: rest →
      ∃ t, exec (.catalogueRead q) s = .next t ∧ (cmdOf t c.uid).map (·.wait) = some (.drain d.id)) ∧
    (Begins s q c (isFn 0x0A00 true) → rows (.catalogueReadExpert q)) ∧
    (Begins s q c (isFnAny 0x0A01) → firstOf (chChecks s c) = none → CanCopy s (chDest c) (charterCopy s c).length →
      ∃ t, exec (.charterRead q) s = .next t ∧
        ∃ r0 r3, Answered s t c .ok r0 (charterInForce s) (charterCopy s c).length r3))

/-- R280 to R283, R290, R291: a queue is created DISABLED and empty, enabled, a HELD admin queue by the backup that adopts it, disabled
once no command of it is left, and freed; the expert forms abort the commands that have not started. -/
def Obligations.QueuesAreCreatedEnabledAndEnded : Prop :=
  ∀ (s : State) (q : Nat) (c : Cmd),
    let x := queueAt s (qTarget c)
    (∀ n, Begins s q c (isFnAny 0x0010) → firstOf (createChecks s c) = none → n ≠ q →
      (if c.expert then some (qcQueue c) else lowestFree s c.host) = some n →
      ∃ t, exec (.queueCreate q) s = .next t ∧ Answered s t c .ok n 0 0 0 ∧ (queueAt t n).state = .disabled ∧
        (queueAt t n).owner = c.host ∧ (queueAt t n).sqBase = qcSqBase c ∧ (queueAt t n).cqBase = qcCqBase c ∧
        (queueAt t n).tail = 0 ∧ (queueAt t n).sqHead = 0 ∧ (queueAt t n).records = []) ∧
    (Begins s q c (isFn 0x0012 false) → firstOf (targetChecks s c true) = none →
      (x.state = .disabled → fld c.pkt 243 237 = 0 → fld c.pkt 225 215 = 0 →
        ∃ t, exec (.queueEnable q) s = .next t ∧ Answered s t c .ok 0 0 0 0 ∧
          (queueAt t (qTarget c)).state = .enabled ∧ (queueAt t (qTarget c)).owner = x.owner) ∧
      (x.state = .held → adoptsAdmin s c = true → msiOk (qcMsi c) = true →
        ∃ t, exec (.queueEnable q) s = .next t ∧ Answered s t c .ok 0 0 0 0 ∧
          (queueAt t (qTarget c)).state = .enabled ∧ (queueAt t (qTarget c)).owner = c.host ∧
          (queueAt t (qTarget c)).msi = qcMsi c)) ∧
    (Begins s q c (isFn 0x0013 false) → firstOf (targetChecks s c false) = none →
      ∃ t, exec (.queueDisable q) s = .next t ∧
        (queueCmds s (qTarget c) = [] → Answered s t c .disabled 0 0 0 0 ∧
          (queueAt t (qTarget c)).state = if x.state = .held then .held else .disabled) ∧
        (queueCmds s (qTarget c) ≠ [] →
          (queueAt t (qTarget c)).state = if x.state = .held then .held else .disabling)) ∧
    (Begins s q c (isFn 0x0013 true) → firstOf (targetChecks s c false) = none →
      (∀ e ∈ queueCmds s (qTarget c), e.started = false) →
      ∃ t, exec (.queueDisableExpert q) s = .next t ∧ queueCmds t (qTarget c) = [] ∧ (∀ e ∈ t.cmds, e.uid ≠ c.uid) ∧
        (queueAt t (qTarget c)).state = if x.state = .held then .held else .disabled) ∧
    (Begins s q c (isFn 0x0011 false) → firstOf (targetChecks s c false) = none → queueCmds s (qTarget c) = [] →
      ∃ t, exec (.queueDestroy q) s = .next t ∧ Answered s t c .ok 0 (slotsWaiting x) 0 0 ∧
        queueAt t (qTarget c) = Queue.init) ∧
    (Begins s q c (isFn 0x0011 true) → firstOf (targetChecks s c false) = none →
      (∀ e ∈ queueCmds s (qTarget c), e.started = false) →
      ∃ t, exec (.queueDestroyExpert q) s = .next t ∧ queueAt t (qTarget c) = Queue.init ∧ ∀ e ∈ t.cmds, e.uid ≠ c.uid)

/-- R55, R194, R284: PROGRAM_LOAD of a list that nothing refuses installs it in the slot of every core of its map, whose
step number is 0 again, or empties the slot when the list is empty; short of its commit point it has sent its contents to those
cores (how its time is cut is the model's, log 23, DESIGN CHOICE). Then (R183, R285, R287, R292, R293): a RUN that nothing refuses
sends its start to every core of the rank set, and a step mark its mark; an ABORT ends a command short of its commit point, whose
record goes before its own, and tells the cores of a RUN to stop. -/
def Obligations.ProgramsAreLoadedAndRun : Prop :=
  (∀ (s : State) (q : Nat) (c : Cmd),
    let ws := entries16 (ldRead s (plMap c) (16 * plSegs c)) (plSegs c)
    let cores := (rmapCores s.straps.panelId (ws.map segOf)).filterMap fun e => physOf s e.2
    (Begins s q c (isFn 0x0100 false) → firstOf (plChecks s c) = none →
      ∃ t, exec (.programLoad q false) s = .next t ∧ (cmdOf t c.uid).map (·.wait) = some .load ∧
        t.ctrl = s.ctrl ++ ((mapCores s c.pkt).filterMap (physOf s)).map fun p => CtrlMsg.program p c.uid) ∧
    ((Begins s q c (isFn 0x0100 false) ∧ underWay s q (isFn 0x0100 false) CmdWait.isLoad = none) ∨
        (Waits s q c .load ∧ underWay s q (isFn 0x0100 false) CmdWait.isLoad = some c ∧ programOut s c.uid = false) →
      partsApart s = true → slicesOk s → NoBad s → firstOf (plChecks s c) = none →
      onDark s (plMap c) (16 * plSegs c) = false → rmapOk s ws = true → firstOf (loadChecks s c ws) = none →
      onDark s (plList c) (64 * plCount c) = false →
      firstRefused s (plCount c) (descsOf (ldRead s (plList c) (64 * plCount c)) (plCount c)) = none →
      ∃ t, exec (.programLoad q true) s = .next t ∧ Answered s t c .ok 0xFFFFFFFF cores.length 0 0 ∧
        ∀ p ∈ cores, (coreAt t p).step = 0 ∧ tblLook (coreAt t p).slots (plSlot c) =
          if plCount c = 0 then none
          else some { streamed := plStreamed c, arow := plRow c, list := plList c, count := plCount c,
                      cls := fld c.pkt 69 69 = 1 })) ∧
  (∀ (s : State) (q : Nat) (c : Cmd),
    let cores := rankCores s (ruPart c) (ruSlot c)
    (Begins s q c (fun x => x.fn == 0x0101 && !swapping s (ruPart x)) → firstOf (runChecks s c) = none →
      ∃ t, exec (.run q) s = .next t ∧ (cmdOf t c.uid).map (·.wait) = some .run ∧
        t.ctrl = s.ctrl ++ cores.map (fun e => CtrlMsg.runStart e.2 (runStartOf s c e.1)) ∧
        ∃ r, t.runs = s.runs ++ [r] ∧ r.cmd = c.uid ∧ r.cores = cores ∧ r.reports = []) ∧
    (Begins s q c (isFn 0x0103 false) → cores ≠ [] → ∃ t, exec (.stepMark q) s = .next t ∧
      t.ctrl = s.ctrl ++ cores.map (fun e => CtrlMsg.stepMark e.2 { cmd := c.uid, set := none }) ∧
      (cmdOf t c.uid).map (·.wait) = some (.step (cores.map (·.2)))) ∧
    (Begins s q c (isFn 0x0103 true) → cores ≠ [] → ∃ t, exec (.stepMarkExpert q) s = .next t ∧
      t.ctrl = s.ctrl ++ cores.map (fun e => CtrlMsg.stepMark e.2 { cmd := c.uid, set := some (fld c.pkt 127 96) }) ∧
      (cmdOf t c.uid).map (·.wait) = some (.step (cores.map (·.2)))) ∧
    (∀ x, Begins s q c (isFn 0x0102 false) → firstOf (abChecks s c) = none → abortTarget s c = some x → x.uid ≠ c.uid →
      (uncommitted x = true → ∃ t, exec (.abort q) s = .next t ∧ (∀ e ∈ t.cmds, e.uid ≠ c.uid ∧ e.uid ≠ x.uid) ∧
        ∃ y r, y.uid = x.uid ∧ y.status = .aborted ∧ r.uid = c.uid ∧ r.tag = c.tag ∧ r.status = .ok ∧
          r.follows = some x.uid ∧
          (x.queue ≠ q → (queueAt t x.queue).records = (passSilent (queueAt s x.queue)).records ++ [y] ∧
            (queueAt t q).records = (passSilent (queueAt s q)).records ++ [r]) ∧
          (x.queue = q → (queueAt t q).records = (passSilent (queueAt s q)).records ++ [y, r])) ∧
      (∀ r, uncommitted x = false → s.runs.find? (fun r => r.cmd == x.uid) = some r →
        ∃ t, exec (.abort q) s = .next t ∧ t.ctrl = s.ctrl ++ r.cores.map (fun e => CtrlMsg.abort e.2 r.cmd) ∧
          (cmdOf t c.uid).map (·.wait) = some (.abort x.uid))))

/-- R239, R289: MEM_COPY and MEM_FILL between places of LPDDR5X move the bytes from where they stand as far as their blocks go, answer
the bytes moved at the end, and change no byte outside that range (how their time is cut is the model's, log 23, DESIGN
CHOICE); a fill of a core's window writes its scratchpads and changes no byte of LPDDR5X. -/
def Obligations.CopiesAndFillsStayInTheirDestination : Prop :=
  ∀ (s : State) (q : Nat) (c : Cmd), partsApart s = true → slicesOk s →
    let d := meDst c
    let o := meSrc c
    let n := meBytes c
    let place (copy : Bool) (done : Nat) : Prop := memError s copy c done = none ∧
      classOf s (d + done) = .ld ∧ classOf s (d + n - 1) = .ld ∧ lostRange s (d + done) (n - done) = false ∧
      (copy = true → classOf s (o + done) = .ld ∧ classOf s (o + n - 1) = .ld ∧ lostRange s (o + done) (n - done) = false ∧
        apart d n o n = true)
    let moves (copy : Bool) (done : Nat) (blocks : Option Nat) (cmd : Instr) : Prop :=
      let stop := moveEnd c done blocks
      ∃ t, exec cmd s = .next t ∧
        (stop = n → Answered s t c .ok (n % 2 ^ 32) (n / 2 ^ 32 % 2 ^ 32) 0 0) ∧
        (stop ≠ n → (cmdOf t c.uid).map (·.wait) = some (.move stop)) ∧
        (∀ i, done ≤ i → i < stop → ldByte t (d + i) =
          if copy then ldByte s (o + i) else BitVec.ofNat 8 (o / 2 ^ (8 * (i % 8)))) ∧
        ∀ a, a < d + done ∨ d + stop ≤ a → ldByte t a = ldByte s a
    let form (copy expert : Bool) (fn : Nat) (cmd : Option Nat → Option Nat → Instr) : Prop :=
      (∀ blocks, Begins s q c (isFn fn expert) → firstOf (memChecks s c copy) = none → place copy 0 →
        moves copy 0 blocks (cmd none blocks)) ∧
      (∀ i blocks done, Waits s q c (.move done) → moving s q i (isFn fn expert) = some (c, done) → done ≤ n → 0 < n →
        place copy done → moves copy done blocks (cmd (some i) blocks))
    let fills (expert : Bool) (cmd : Option Nat → Option Nat → Instr) : Prop := ∀ p,
      Begins s q c (isFn 0x0201 expert) → firstOf (memChecks s c false) = none → classOf s d = .aperture →
      physOf s (apWindow d) = some p → (coreAt s p).bufs = [] →
      ∃ t, exec (cmd none none) s = .next t ∧ Answered s t c .ok (n % 2 ^ 32) (n / 2 ^ 32 % 2 ^ 32) 0 0 ∧
        coreAt t p = apPut (apOffset d) (fillBytes c 0 n) (coreAt s p) ∧ ∀ a, ldByte t a = ldByte s a
    form true false 0x0200 (.memCopy q) ∧ form true true 0x0200 (.memCopyExpert q) ∧
    form false false 0x0201 (.memFill q) ∧ form false true 0x0201 (.memFillExpert q) ∧
    fills false (.memFill q) ∧ fills true (.memFillExpert q)

/-- R311, R312, R314, R315: a feed takes whole words of its task's stream into its channel; CONFIGURE resets the named
channels of PART's catalogue cores, ENABLE and DISABLE switch them; the basic DISABLE waits for the feeds in progress
and the expert one cuts them. -/
def Obligations.FingerprintChannelsAreFedAndSwitched : Prop :=
  ∀ (s : State) (q : Nat) (c : Cmd),
    let sets (t : State) (g : FpChan → FpChan) : Prop :=
      (∀ p ∈ catCores s (fcPart c), ∀ n ∈ fcChannels c, ∀ f, (coreAt s p).fps[n]? = some f →
        (coreAt t p).fps[n]? = some (g f)) ∧
      (∀ p, p ∉ catCores s (fcPart c) → coreAt t p = coreAt s p) ∧
      (∀ p n, n ∉ fcChannels c → (coreAt t p).fps[n]? = (coreAt s p).fps[n]?)
    (∀ p id words t taken saved f, taskOf (coreAt s p) id = some t → t.feed = .due taken saved →
      (coreAt s p).fps[dFpch t.desc]? = some f → t.finished = true →
      feedBlocked (coreAt s p) t (dFpch t.desc) = false → (0 < taken ∨ f.enabled = true) →
      let n := min (4 * words) (t.stream.length - taken)
      ∃ u, exec (.fingerprintFeed p id words) s = .next u ∧
        (coreAt u p).fps[dFpch t.desc]? = some { f with reg := crcRun f.cfg f.reg ((t.stream.drop taken).take n) }) ∧
    (Begins s q c (fun c => isFc 0 none c || isFc 3 none c) → firstOf (fcSetChecks s c) = none →
      ∃ t, exec (.fingerprintConfigure q) s = .next t ∧ Answered s t c .ok 0 0 0 0 ∧
        sets t (fun f => f.configure ((fcConfig s c).getD CrcCfg.ecma))) ∧
    (Begins s q c (isFc 1 none) → firstOf (fcSwitchChecks s c) = none →
      ∃ t, exec (.fingerprintEnable q) s = .next t ∧ Answered s t c .ok 0 0 0 0 ∧
        sets t (fun f => { f with enabled := true })) ∧
    (Begins s q c (isFc 2 (some false)) → firstOf (fcSwitchChecks s c) = none →
      ∃ t, exec (.fingerprintDisable q) s = .next t ∧ sets t (fun f => { f with enabled := false }) ∧
        (feedsNow s c = [] → Answered s t c .disabled 0 0 0 0) ∧
        (feedsNow s c ≠ [] → (cmdOf t c.uid).map (·.wait) = some (.feeds 0 (feedsNow s c)))) ∧
    (Begins s q c (isFc 2 (some true)) → firstOf (fcSwitchChecks s c) = none → (∀ e ∈ s.cmds, ∀ n l, e.wait ≠ .feeds n l) →
      ∃ t, exec (.fingerprintDisableExpert q) s = .next t ∧
        Answered s t c (if feedsNow s c = [] then .disabled else .aborted) (feedsNow s c).length 0 0 0 ∧
        ∀ p ∈ catCores s (fcPart c), ∀ n ∈ fcChannels c, ∀ f, (coreAt t p).fps[n]? = some f → f.enabled = false)

/-- R306, R308, R317: FINGERPRINT_READ copies a record for each rank and answers their digest; CRC_CONTEXT_SET puts a
check value and a count into a queue's context and answers what stood there; CRC_CONTEXT_GET answers them. -/
def Obligations.FingerprintsAndContextsAreRead : Prop :=
  ∀ (s : State) (q : Nat) (c : Cmd),
    let recs := frRecords s c
    let dig := fpDigest recs
    let val (x : CrcCtx) : Nat := crcValue x.cfg x.reg
    (Begins s q c (isFnAny 0x0401) → firstOf (frChecks s c) = none → CanCopy s (frDest c) recs.flatten.length →
      ∃ t, exec (.fingerprintRead q) s = .next t ∧ CopyFrame s t c (frDest c) recs.flatten.length ∧
        Answered s t c .ok (dig % 2 ^ 32) (dig / 2 ^ 32 % 2 ^ 32) recs.length
          (recs.filter fun r => (r.drop 7).head? != some 0).length) ∧
    (∀ x, Begins s q c (isFnAny 0x0402) → ccContext s c = some x → firstOf (csChecks s c x) = none →
      ∃ t, exec (.crcContextSet q) s = .next t ∧
        Answered s t c .ok (val x % 2 ^ 32) (val x / 2 ^ 32 % 2 ^ 32) (x.bytes % 2 ^ 32) (x.bytes / 2 ^ 32 % 2 ^ 32) ∧
        { t with queues := s.queues, cmds := s.cmds } = s ∧
        (queueAt t (ccQueue c)).crc = some { x with reg := crcUnvalue x.cfg (ccValue c), bytes := ccBytes c }) ∧
    (∀ x, Begins s q c (isFnAny 0x0403) → ccContext s c = some x → firstOf (cgChecks s c) = none →
      (c.expert = true → CanCopy s (ccBytes c) 32) →
      ∃ t, exec (.crcContextGet q) s = .next t ∧
        Answered s t c .ok (val x % 2 ^ 32) (val x / 2 ^ 32 % 2 ^ 32) (x.bytes % 2 ^ 32) (x.bytes / 2 ^ 32 % 2 ^ 32) ∧
        (c.expert = false → AnswerFrame s t c) ∧ (c.expert = true → CopyFrame s t c (ccBytes c) 32) ∧
        (queueAt t (ccQueue c)).crc = some x)

/-- R248, R326, R327, R349: FAULT_LOG_READ copies the records from FIRST on, or waits for the first of them, and its
section 1 copies transient counters; the hourly summary begins a new hour. Then (R346, R350, R351): ESCALATION_POLICY
answers the limits and the policy of a partition, which its expert form writes first; PROVENANCE_READ copies entries
and answers the oldest NUMBER and the next. -/
def Obligations.LogsAndPoliciesAreRead : Prop :=
  (∀ (s : State) (q : Nat) (c : Cmd),
    let rs := (s.faults.filter fun r => decide (flFirst c ≤ r.seq)).take (flCount c)
    (Begins s q c (fun c => c.fn == 0x0700 && flSection c != 1) → firstOf (flChecks s c 64) = none →
      (flWait c = true → rs = [] → ∃ t, exec (.faultLogReadRecords q) s = .next t ∧ AnswerFrame s t c ∧
        (cmdOf t c.uid).map (·.wait) = some (.faultLog (flFirst c))) ∧
      (rs ≠ [] ∨ flWait c = false → (rs ≠ [] → rangePopulated s (flDest c) (64 * rs.length) = true) →
        writeOk s (flDest c) (64 * rs.length) = true →
        ∃ t, exec (.faultLogReadRecords q) s = .next t ∧
          Answered s t c .ok rs.length ((rs.getLast?.map fun r => r.seq + 1).getD (flFirst c)) (hostAt s c.host).faultLost 0 ∧
          (hostAt t c.host).faultRead = (rs.getLast?.map fun r => max (hostAt s c.host).faultRead r.seq).getD
            (hostAt s c.host).faultRead ∧
          (partsApart s = true → slicesOk s → ∀ a, a < flDest c ∨ flDest c + 64 * rs.length ≤ a → ldByte t a = ldByte s a))) ∧
    (Begins s q c (fun c => c.fn == 0x0700 && flSection c == 1) → firstOf (flChecks s c 32) = none →
      CanCopy s (flDest c) (flBytes s c).length →
      ∃ t, exec (.faultLogReadCounters q) s = .next t ∧ Answered s t c .ok (flCount c) 0 0 0 ∧
        CopyFrame s t c (flDest c) (flBytes s c).length) ∧
    (∃ t, exec .transientSummary s = .next t ∧ t.hourly = s.transients ∧ t.transients = s.transients ∧
      (∀ d, (deviceAt t d).ceHourStart = (deviceAt t d).ce ∧ (deviceAt t d).ce = (deviceAt s d).ce) ∧
      t.provNext = s.provNext + ((List.range 224).filter fun u => hadTransient (hourIncrements s u)).length)) ∧
  (∀ (s : State) (q : Nat) (c : Cmd),
    let words (t : State) : Prop := Answered s t c .ok
      (t.limits.resetLimit + t.limits.withdrawLimit * 2 ^ 8 + t.limits.leadLimit * 2 ^ 16 +
        flagAt (partAt t (epPart c)).auto 24 + flagAt (partAt t (epPart c)).hold 25 + flagAt t.limits.exhaustWithdraws 26)
      (t.limits.resetWindow + t.limits.leadWindow * 2 ^ 16) t.limits.ceLimit (partAt t (epPart c)).holdLimit
    (Begins s q c (isFn 0x0703 false) → firstOf (epReadChecks c) = none →
      ∃ t, exec (.escalationPolicyRead q) s = .next t ∧ words t ∧ AnswerFrame s t c) ∧
    (Begins s q c (isFn 0x0703 true) → firstOf (epSetChecks s c) = none →
      ∃ t, exec (.escalationPolicySet q) s = .next t ∧ words t ∧
        { t with queues := s.queues, cmds := s.cmds, limits := s.limits, parts := s.parts } = s ∧
        t.limits = (if epPanel c then epLimits c else s.limits) ∧
        (∀ n, n ≠ epPart c → partAt t n = partAt s n) ∧
        (epPartSet c = false → partAt t (epPart c) = partAt s (epPart c)) ∧
        (epPartSet c = true → (partAt t (epPart c)).holdLimit = epHold c ∧
          (partAt t (epPart c)).hold = c.pkt.getLsbD 193 ∧ (partAt t (epPart c)).auto = c.pkt.getLsbD 192)) ∧
    (Begins s q c (isFnAny 0x0704) → firstOf (pvChecks s c) = none →
      CanCopy s (pvDest c) ((provPick (pvLog s c) c).flatMap provBytes).length →
      ∃ t, exec (.provenanceRead q) s = .next t ∧
        Answered s t c .ok (pvOldest s c % 2 ^ 32) (pvOldest s c / 2 ^ 32 % 2 ^ 32) (s.provNext % 2 ^ 32)
          (s.provNext / 2 ^ 32 % 2 ^ 32) ∧
        CopyFrame s t c (pvDest c) ((provPick (pvLog s c) c).flatMap provBytes).length))

/-- R334 to R337, R342, R347, R348: a command, or the end of a hold, has a reset decided, which the expert form may have counted; one
that brings the count to its limit withdraws the partition. A decided reset starts, under a new generation; its release opens the
partition again when nothing failed. -/
def Obligations.PartitionsAreReset : Prop :=
  ∀ (s : State) (q n : Nat) (c : Cmd),
    let p := partAt s n
    (Begins s q c (isFnAny 0x0701) → firstOf (prChecks s c) = none → n = fld c.pkt 67 64 →
      let counts : Bool := fld c.pkt 68 68 == 1
      (counts = false ∨ (countReset s n).2 = false → ∃ t, exec (.partitionReset q) s = .next t ∧
        (cmdOf t c.uid).map (·.wait) = some (.reset n) ∧
        (p.state = .inService → p.decided = none → (partAt t n).decided = some (counts, false) ∧
          (partAt t n).decidedAt = s.time ∧ (partAt t n).state = .inService ∧
          (partAt t n).counted = if counts then countedNow s p ++ [s.time] else p.counted)) ∧
      (counts = true → (countReset s n).2 = true → p.state = .inService → p.decided = none →
        ∃ t, exec (.partitionReset q) s = .next t ∧ (partAt t n).state = .withdrawn)) ∧
    (p.state = .held → p.decided = none → ∃ t, exec (.holdLimitExpiry n) s = .next t ∧
      (partAt t n).decided = some (true, false) ∧ (partAt t n).decidedAt = s.time ∧ { t with parts := s.parts } = s) ∧
    (p.decided.isSome = true → p.state ≠ .withdrawn → p.state ≠ .undefined → s.power.pfw = false →
      ∃ t, exec (.partitionResetStart n) s = .next t ∧ (partAt t n).state = .resetting ∧ (partAt t n).decided = none ∧
        (partAt t n).pgen = nextPgen p.pgen ∧ (partAt t n).rmaps = [] ∧ (partAt t n).resetsTotal = satInc 16 p.resetsTotal) ∧
    (p.state = .resetting → s.power.pfw = false → p.failedCores = [] → p.failedStacks = [] → p.pending = [] →
      cappedCores s n = [] → ∃ t, exec (.partitionResetRelease n [] []) s = .next t ∧ (partAt t n).state = .inService ∧
        (partAt t n).releasedAt = s.time ∧ (partAt t n).holdAt = 0 ∧ (partAt t n).pgen = p.pgen ∧ t.catVersion = s.catVersion)

/-- R319, R322, R340, R341, R359: a spare that passes its known-answer run waits for a drain, which writes its entry and whose release makes
the accession; one that fails is deaccessioned. RETEST and PLACE of a core, and the staging of a spare for a straggler, likewise; a run
passed the second time is a transient error, and its command a retried one. A word that reads back clean is zero and in use again. -/
def Obligations.SparesAreTestedAndPlaced : Prop :=
  ∀ (s : State) (n l q p : Nat) (c : Cmd),
    let again (x : Nat) (t : State) (second : Bool) : Prop := (transientAt t (coreUnit x)).kat =
      if second then satInc 32 (transientAt s (coreUnit x)).kat else (transientAt s (coreUnit x)).kat
    let noWaits : Prop := ∀ e ∈ s.cmds, ∀ k, e.wait ≠ .faultLog k
    (∀ e core second, underTest s n l = some (e, core) → e.stack = false →
      ∃ t, exec (.accessionComplete n l second) s = .next t ∧ again core t second ∧
        (∃ d ∈ t.drains, (l, catEntry l core) ∈ d.cats) ∧
        (partAt t n).pending = (partAt s n).pending.map (fun x => if x.lcore = l then { x with passed := true } else x) ∧
        { t with parts := s.parts, drains := s.drains, nextId := s.nextId, transients := s.transients } = s) ∧
    (∀ d core, drainAt s d.id = some d → d.phase = .held → scopeBusy s d = false → d.routes = [] → d.copies = [] →
      d.cats = [(l, catEntry l core)] → (∀ x ∈ (partAt s ((partOfL s l).getD 0)).staged, x.2 ≠ core) →
      ∃ t, exec (.drainTableWrite d.id) s = .next t ∧ catAt t l = catEntry l core ∧ pstateAt t core = .inService ∧
        t.catVersion = (s.catVersion + 1) % 2 ^ 32 ∧ core ∉ t.retired ∧ s.provNext < t.provNext) ∧
    (∀ d e, drainAt s d.id = some d → d.phase = .written → d.cmds = [] → d.cats = [(l, e)] → partOfL s l = some n → n < 16 →
      s.fabric.held = [] → (partAt s n).state = .accessioning →
      (∃ x, (partAt s n).pending = [x] ∧ x.lcore = l ∧ x.passed = true) →
      ∃ t, exec (.drainRelease d.id) s = .next t ∧ (partAt t n).state = .inService ∧ (partAt t n).pending = [] ∧
        (partAt t n).accessions = (partAt s n).accessions + 1) ∧
    (∀ e core word, underTest s n l = some (e, core) → partDefined s n = true →
      ∃ t, exec (.accessionKatFail n l word) s = .next t ∧ core ∈ t.retired ∧ s.provNext + 2 ≤ t.provNext ∧
        ((partAt t n).state = .accessioning → pstateAt t core = .deaccessioned)) ∧
    (∀ failing second, Begins s q c (fun c => c.fn == 0x0702 && acAction c != 1) → firstOf (rtChecks s c) = none →
      ((∀ x ∈ retestCores c, x ∉ failing) →
        ∃ t, exec (.accessionRetest q failing second) s = .next t ∧
          ((∀ x ∈ retestCores c, x ∉ second) → Answered s t c .ok s.catVersion (retestCores c).length 0 0) ∧
          ((∃ x ∈ retestCores c, x ∈ second) → ∃ r ∈ (queueAt t c.queue).records, r.uid = c.uid ∧ r.status = .okAfterRetry ∧
            r.attempts = 2 ∧ r.r0 = s.catVersion ∧ r.r1 = (retestCores c).length) ∧
          { t with queues := s.queues, cmds := s.cmds, pstates := s.pstates, retired := s.retired, fenced := s.fenced,
                   transients := s.transients } = s ∧
          ∀ x, (x ∈ retestCores c → pstateAt t x = .spare ∧ x ∉ t.retired) ∧
            (x ∉ retestCores c → pstateAt t x = pstateAt s x)) ∧
      (acStack c = false → acCore c ∈ failing → noWaits → ∃ t, exec (.accessionRetest q failing second) s = .next t ∧
        Answered s t c .katMismatch 0 0 0 0 ∧ pstateAt t (acCore c) = pstateAt s (acCore c) ∧ t.retired = s.retired)) ∧
    (Begins s q c (fun c => c.fn == 0x0702 && acAction c == 1) → firstOf (plcChecks s c) = none →
      (∀ d ∈ s.drains, c.uid ∉ d.cmds) →
      (∀ run, run ≠ .fail → ∃ t, exec (.accessionPlace q run) s = .next t ∧ pstateAt t (acCore c) = .testing ∧
        again (acCore c) t (decide (run = .second)) ∧
        (cmdOf t c.uid).map (·.retried) = some (decide (run = .second)) ∧
        ∃ d ∈ t.drains, (cmdOf t c.uid).map (·.wait) = some (.drain d.id) ∧ c.uid ∈ d.cmds ∧
          (acLcore c, catEntry (acLcore c) (acCore c)) ∈ d.cats) ∧
      (noWaits → ∃ t, exec (.accessionPlace q .fail) s = .next t ∧ pstateAt t (acCore c) = .deaccessioned ∧
        acCore c ∈ t.retired ∧ Answered s t c .katMismatch 0 0 0 0)) ∧
    (∀ lc core, logOf s p = some lc → partOfL s lc = some n → (partAt s n).state = .inService → (partAt s n).auto = true →
      capped s p = true → (∀ x ∈ (partAt s n).staged, x.1 ≠ p) → chooseSpare s lc p false (capped s) = some core →
      (∀ run, run ≠ .fail → ∃ t, exec (.stragglerStaging p run) s = .next t ∧ pstateAt t core = .testing ∧
        again core t (decide (run = .second)) ∧ (partAt t n).staged = (partAt s n).staged ++ [(p, core)]) ∧
      (∃ t, exec (.stragglerStaging p .fail) s = .next t ∧ pstateAt t core = .deaccessioned ∧ core ∈ t.retired ∧
        (partAt t n).staged = (partAt s n).staged)) ∧
    (∀ kind word, (coreAt s p).seq = .idle → (kind, word) ∈ (coreAt s p).failing →
      (∃ t, exec (.spdWordRewriteCheck p kind word true) s = .next t ∧ OnlyCore s t p ∧
        (kind, word) ∉ (coreAt t p).failing ∧ memRead (spd (coreAt t p) kind) (4 * word) 4 = [0, 0, 0, 0]) ∧
      (∃ t, exec (.spdWordRewriteCheck p kind word false) s = .next t ∧ s.provNext < t.provNext))

/-- R328, R329, R339, R407: a curator that falls silent is restarted, and lost when it stays silent; the deputy takes the
lead and restarts the former lead's curator; a die that a loss of lock or another fault takes is fenced. -/
def Obligations.CuratorsFallSilentAndDiesAreFenced : Prop :=
  ∀ (s : State),
    (∀ tile, (curatorAt s tile).state = .posting →
      (tile ≠ s.lead → ∃ t, exec (.curatorSilence tile) s = .next t ∧
        curatorAt t tile = { curatorAt s tile with state := .restarting } ∧ t.lead = s.lead ∧
        t.hasDeputy = (s.hasDeputy && !(tile == 0 || tile == 15)) ∧
        { t with curators := s.curators, hasDeputy := s.hasDeputy } = s) ∧
      (tile = s.lead → s.hasDeputy = false → ∃ t, exec (.curatorSilence tile) s = .next t ∧
        curatorAt t tile = { curatorAt s tile with state := .lost } ∧ { t with curators := s.curators } = s)) ∧
    (∀ tile, (curatorAt s tile).state = .restarting → ∃ t, exec (.curatorRestartTimeout tile) s = .next t ∧
      (curatorAt t tile).state = .lost ∧ s.provNext < t.provNext) ∧
    (s.hasDeputy = true → ∃ t, exec .leadTakeover s = .next t ∧ t.lead = 15 - s.lead ∧ t.hasDeputy = false ∧
      (curatorAt t s.lead).state = (if (tpwrAt s s.lead).dark then .lost else .restarting) ∧
      t.leadFails = ((s.leadFails ++ [s.time]).filter fun x => decide (s.time < x + s.limits.leadWindow * 60000000000)) ∧
      s.provNext < t.provNext) ∧
    (∀ tile site n cause, diePowered s tile site = true → dieFenced s tile site = false → partOfTile s tile = some n →
      (∃ t, exec (.dieFence tile site cause) s = .next t ∧ dieFenced t tile site = true ∧ s.provNext < t.provNext) ∧
      (∃ t, exec (.pllLossOfLock tile site) s = .next t ∧ dieFenced t tile site = true ∧ s.provNext < t.provNext))

/-- R366 to R369, R372, R414, R420: PANEL_RST_N and the loss of the supply keep what boot flash holds, and a reset with
the rails up keeps LPDDR5X too; PWR_GOOD, the release and the straps take the start to its next stage. -/
def Obligations.PanelResetsAndRises : Prop :=
  ∀ (s : State),
    let lasts (t : State) : Prop := t.pending = s.pending ∧ t.provBF0 = s.provBF0 ∧ t.provBF1 = s.provBF1 ∧
      t.provNext = s.provNext ∧ t.counter = s.counter ∧ t.retired = s.retired ∧ t.replaced = s.replaced ∧
      t.rstN = false ∧ t.queues = [] ∧ t.cmds = [] ∧ t.slices = [] ∧ t.packets = [] ∧ t.mailboxes = [] ∧ t.faults = []
    (∃ t, exec .panelRstNAssert s = .next t ∧ lasts t ∧ t.mem = s.mem ∧ t.bad = s.bad ∧
      t.start.stage = if s.power.pwrGood then .inReset else .off) ∧
    (s.power.pwrGood = true → ∃ t, exec .inputLockout s = .next t ∧ lasts t ∧ t.mem = [] ∧ t.power.pwrGood = false ∧
      t.start.stage = .off) ∧
    (s.power.pwrGood = false → ∃ t, exec .pwrGoodRise s = .next t ∧ { t with power := s.power, start := s.start } = s ∧
      t.power = { s.power with pwrGood := true } ∧ t.start = { s.start with stage := .inReset, fromPower := true }) ∧
    (s.start.stage = .inReset → s.power.pwrGood = true → ∃ t, exec .panelRstNRelease s = .next t ∧ t.rstN = true ∧
      t.start = { s.start with stage := .strap, origin := s.time } ∧ t.refclk.priOk = true ∧ t.refclk.altOk = true ∧
      { t with rstN := s.rstN, start := s.start, refclk := s.refclk, power := s.power, fresh := s.fresh } = s) ∧
    (∀ b, s.start.stage = .strap → ∃ t, exec (.strapLatch b) s = .next t ∧
      t.straps = { panelId := fld b 16 0, compact := b.getLsbD 17, flashSel := b.getLsbD 18, charterSel := fld b 20 19,
                   fullTrain := b.getLsbD 21, testEn := b.getLsbD 22, traySlot := fld b 30 23,
                   rsvd := fld b 43 31 != 0 } ∧
      t.service.ph = (if b.getLsbD 22 then 1 else 2) ∧ t.start.stage = (if b.getLsbD 22 then .test else .rom) ∧
      { t with straps := s.straps, service := s.service, start := s.start } = s)

/-- R370, R371, R375, R378, R395, R396: the mask ROM takes over the counter record of boot flash, and the first stage that verifies, or
fences the panel; a deputy's takeover makes T15 the lead; the seal seals the charter chosen and takes an identity leaf; training brings
links and devices to their states. -/
def Obligations.TheStartVerifiesSealsAndTrains : Prop :=
  ∀ (s : State),
    let s' := loadRecord s
    (s.start.stage = .rom →
      (∀ bf1 bs key, romVerify s' s.straps.flashSel = some (bf1, bs, key) →
        ∃ t, exec .firstStageVerify s = .next t ∧ { t with ident := s'.ident, start := s'.start } = s' ∧
          t.start = { s.start with stage := .firstStage, firstDie := (if bf1 then 1 else 0), bf1Boot := bf1 } ∧
          t.ident.ownerKey = key ∧ t.ident.hashes = s.ident.hashes ++ [sha256 (imagePayload bs)] ∧
          t.ident.stages = s.ident.stages + 1) ∧
      (romVerify s' s.straps.flashSel = none → ∃ t, exec .firstStageVerify s = .next t ∧
        t.service = { s.service with ph := 3, faultN := false } ∧ t.start.stage = .stopped ∧
        { t with service := s'.service, start := s'.start } = s')) ∧
    (s.bf0.alive = true → s.bf1.alive = true →
      s'.counter = (if s.bf0.record.seq < s.bf1.record.seq then s.bf1.record else s.bf0.record) ∧
      s'.bf0.record = s'.counter ∧ s'.bf1.record = s'.counter) ∧
    (s.start.stage = .rom ∨ s.start.stage = .firstStage → s.lead = 0 → s.sealed = false →
      ∃ t, exec .deputyStartTakeover s = .next t ∧ t.lead = 15 ∧ t.hasDeputy = false ∧ t.charter = [] ∧
        (curatorAt t 0).state = .lost ∧ t.leadFails = s.leadFails ++ [s.time]) ∧
    (s.start.stage = .firstStage → ∃ t, exec .charterSeal s = .next t ∧ t.sealed = true ∧
      (s.sealed = true → t.charter = s.charter) ∧
      (s.sealed = false → s.straps.compact = true → t.charter = tblSet (0 : Dword) compactCharter 1 1) ∧
      (∀ k bs slot fall, s.sealed = false → s.straps.compact = false →
        charterChoice s (charterTries s) = (k, some (bs, slot, fall)) →
        t.charter = tblSet (0 : Dword) (charterOf (bs.take 512)) 1 1) ∧
      (s.counter.idNext < 2 ^ 20 → s.counter.idNext < t.counter.idNext)) ∧
    (∀ r, s.start.stage = .charter → ∃ t, exec (.linkTrainingDone r) s = .next t ∧ t.start.stage = .trained ∧
      (∀ h, h < 4 → (hostAt t h).linkUp = !(r.ucie.contains h) ∧ (hostAt t h).modules = 8) ∧
      (r.crossings = [] → r.dies = [] → r.failed = [] → s.replaced = [] → ∀ d, d < 68 →
        (deviceAt t d).state = trainedState s d ∧ (deviceAt t d).slow = r.slow.contains d))

/-- R379 to R381, R500: a wave switches on up to 256 domains; a core whose microcode loads enters IDLE with empty
scratchpads, and one that fails a test is deaccessioned; LPDDR_INITIALISE leaves every byte 0 and no block poisoned; the checks take the
start on, and a core that passes its run the second time counts it as a transient error (R319). -/
def Obligations.TheStartTestsItsCores : Prop :=
  ∀ (s : State),
    (s.start.stage = .trained → s.service.ph = 2 → ∃ t, exec .stackWave s = .next t ∧
      t.start.wave = s.start.wave + 1 ∧
      t.start.stage = (if (waveCores s).length ≤ 256 * (s.start.wave + 1) then .waved else .trained) ∧
      (∀ p ∈ ((waveCores s).drop (256 * s.start.wave)).take 256, pstateAt t p = .testing ∧ (coreAt t p).stages = 8) ∧
      ∀ p, p ∉ ((waveCores s).drop (256 * s.start.wave)).take 256 → coreAt t p = coreAt s p ∧ pstateAt t p = pstateAt s p) ∧
    (∀ failing, s.start.stage = .waved → 4 ≤ s.ident.stages → ∃ t, exec (.microcodeBroadcast failing) s = .next t ∧
      t.start.stage = .microcode ∧
      (∀ p ∈ poweredCores s, p ∉ failing → (coreAt t p).seq = .idle ∧ (coreAt t p).microcode = s.microcode ∧
        (∀ k, spd (coreAt t p) k = []) ∧ pstateAt t p = .testing) ∧
      ∀ p ∈ poweredCores s, p ∈ failing → pstateAt t p = .deaccessioned) ∧
    (devicesTrained s = true → s.start.fromPower = true → ∃ t, exec .lpddrInitialise s = .next t ∧
      (∀ a, ldByte t a = 0) ∧ t.bad = [] ∧ (∀ d, (deviceAt t d).poison = none) ∧ t.start.fromPower = false ∧
      { t with mem := s.mem, bad := s.bad, slices := s.slices, devices := s.devices, start := s.start } = s) ∧
    (s.start.stage = .microcode → ∃ t, exec (.linkBerCheckDone []) s = .next t ∧
      { t with start := s.start } = s ∧ t.start = { s.start with stage := .berChecked }) ∧
    (∀ failing second, s.start.stage = .berChecked → s.straps.compact = false →
      ∃ t, exec (.startKatDone failing second) s = .next t ∧ t.start.stage = .katDone ∧
        (∀ p ∈ poweredCores s, p ∈ failing → pstateAt t p = .deaccessioned) ∧
        ∀ p ∈ poweredCores s, p ∉ failing → pstateAt t p = .testing ∧
          (p ∈ second → 1 ≤ (transientAt t (coreUnit p)).kat))

/-- R196, R199, R383, R384, R386: a start whose home cores and devices have all passed puts every logical core under its
home core and its partitions in service; the release frees the hosts whose links work, each with its admin queue. -/
def Obligations.TheStartBuildsAndReleases : Prop :=
  ∀ (s : State),
    (∀ failing, catalogueDue s = true → (∀ n ∈ startParts s, noRoute s n = false) →
      (∀ n ∈ startParts s, ∀ d ∈ partDevices s n, (deviceAt s d).state ≠ .failed) →
      (∀ n ∈ startParts s, ∀ l ∈ lcoresOf s n,
        pstateAt s (homePhys l) = .testing ∧ capped s (homePhys l) = false ∧ tileStarts s (tileOf (homePhys l)) = true) →
      ∃ t, exec (.catalogueBuild failing) s = .next t ∧ t.catVersion = 1 ∧ t.catReady = true ∧ t.start.stage = .catalogue ∧
        t.service.ph = 2 ∧
        ∀ n ∈ startParts s, (partAt t n).state = .inService ∧ ∀ l ∈ lcoresOf s n, catAt t l = catEntry l (homePhys l) ∧
          pstateAt t (homePhys l) = .inService) ∧
    (∀ down, releaseDue s = true → s.service.ph = 2 → ∃ t, exec (.hostRelease down) s = .next t ∧
      t.hostsReleased = true ∧ t.start.stage = .released ∧
      ∀ h ∈ validHosts s, (bootImage s s.start.bf1Boot 4).isSome = true → (hostAt s h).linkUp = true →
        down.getLsbD h = false → (hostAt t h).released = true ∧
        (s.cmds = [] → (∀ h' ∈ validHosts s, adminQueue s h' = adminQueue s h → h' = h) →
          (queueAt t (adminQueue s h)).state = .enabled ∧ (queueAt t (adminQueue s h)).owner = h ∧
          (queueAt t (adminQueue s h)).admin = true ∧ (queueAt t (adminQueue s h)).crc.isSome = true ∧
          (queueAt t (adminQueue s h)).sqBase = bits (chtHost s h 1) 47 0 ∧
          (queueAt t (adminQueue s h)).cqBase = bits (chtHost s h 2) 47 0))

/-- R403, R409 to R411: a lost reference is replaced by the other or held over, and the primary is taken back; a margin
sample is kept, and stretches the clock once; a window's lowest code reaches the core's MARGIN monitors (R451), and one at or below
THR_STEP caps the domain; a settled regulator lets the engines change. -/
def Obligations.ReferencesAndMarginsActOnDomains : Prop :=
  ∀ (s : State) (p : Nat),
    let r := s.refclk
    let d := clkAt s p
    (∀ alt, s.rstN = true → (if alt then r.altOk else r.priOk) = true →
      let other := if alt then r.priOk else r.altOk
      ∃ t, exec (.refclkLoss alt) s = .next t ∧ { t with refclk := s.refclk } = s ∧
        t.refclk.priOk = (r.priOk && alt) ∧ t.refclk.altOk = (r.altOk && !alt) ∧ t.refclk.holdover = !other ∧
        t.refclk.sel = (if r.sel = alt ∧ other = true then !alt else r.sel) ∧
        t.refclk.switches = if r.sel = alt ∧ other = true then satInc 32 r.switches else r.switches) ∧
    (s.rstN = true → r.priOk = false → ∃ t, exec .refclkPrimaryReturn s = .next t ∧ { t with refclk := s.refclk } = s ∧
      t.refclk = { r with priOk := true, holdover := false, sel := false,
                          switches := if r.sel then satInc 32 r.switches else r.switches }) ∧
    (∀ code, coreOn s p = true → ∃ t, exec (.marginSample p code) s = .next t ∧ { t with clk := s.clk } = s ∧
      (∀ k, k ≠ p → clkAt t k = clkAt s k) ∧
      clkAt t p = { d with
        margin := min code 63, windowMin := min d.windowMin (min code 63),
        stretching := d.stretching || decide (min code 63 ≤ d.thrStretch),
        stretches := if min code 63 ≤ d.thrStretch ∧ d.stretching = false then satInc 16 d.stretches else d.stretches }) ∧
    (d.thrStretch < d.margin → ∃ t, exec (.marginStretchEnd p) s = .next t ∧ { t with clk := s.clk } = s ∧
      clkAt t p = { d with stretching := false }) ∧
    (coreOn s p = true →
      (d.thrStep < d.windowMin → ∃ t, exec (.marginWindow p) s = .next t ∧
        { t with clk := s.clk, coreMonitors := s.coreMonitors } = s ∧ clkAt t p = { d with windowMin := 63 } ∧
        ∀ l m, logOf s p = some l → coreMonLost s l = false → m < 4 → (coreMonAt s (4 * l + m)).source = 0x0A →
          coreMonAt t (4 * l + m) = (coreMonAt s (4 * l + m)).take d.windowMin false) ∧
      (d.windowMin ≤ d.thrStep → d.marginCap ≠ 5 → ∃ t, exec (.marginWindow p) s = .next t ∧
        (clkAt t p).windowMin = 63 ∧ (clkAt t p).marginCap =
          if d.marginCap = 7 then min 5 (currentStep (coreAt s p) + 1)
          else max d.marginCap (min 5 (currentStep (coreAt s p) + 1)))) ∧
    (∀ st, d.settling = some st → ∃ t, exec (.regulatorSettled p) s = .next t ∧ (clkAt t p).settling = none ∧
      (coreAt t p).engines = (coreAt s p).engines.map fun e =>
        if e.work.isSome then { e with req := some (domainStep s p) }
        else { e with step := domainStep s p, req := none })

/-- R408, R412, R413: STEP_SET writes a partition's policy, fixes domains or frees them, writes their thresholds, and
copies CLK_DOM records, each in its turn among those of its partition; its POLICY and FIX complete with the change, or wait for it. -/
def Obligations.StepSetSetsSteps : Prop :=
  ∀ (s : State) (q : Nat) (c : Cmd),
    let n := ssPart c
    let mine (a : Nat) (c : Cmd) : Bool := isStepSet a c && stepTurn s c
    let waits (t : State) : Prop := (cmdOf t c.uid).map (·.wait) = some (.stepSet n) ∨ ∀ e ∈ t.cmds, e.uid ≠ c.uid
    let words (t : State) (w0 : Nat) : Prop := Answered s t c .ok w0
      ((pcoresOf s n).filter fun p => capOf (clkAt s p) != 7).length
      ((pcoresOf s n).filter fun p => currentStep (coreAt s p) != targetOf s p).length 0
    (Begins s q c (mine 0) → firstOf (ssPolicyChecks c) = none →
      ∃ t, exec (.stepSetPolicy q) s = .next t ∧ partAt t n = { partAt s n with policy := ssPolicy c } ∧ waits t ∧
        ∀ p ∈ (lcoresOf s n).filterMap (physOf s), partOfP s p = some n → (clkAt s p).fixed = false →
          (clkAt t p).target = max (policyStep (ssPolicy c)) (max (partAt s n).powerCap (partAt s n).thermalCap)) ∧
    (Begins s q c (mine 1) → firstOf (ssReadChecks s c) = none → CanCopy s (ssDest c) (8 * ssCount c) →
      ∃ t, exec (.stepSetRead q) s = .next t ∧ words t (ssCount c) ∧ CopyFrame s t c (ssDest c) (8 * ssCount c)) ∧
    (Begins s q c (mine 2) → firstOf (ssFixChecks s c) = none →
      ∃ t, exec (.stepSetFix q) s = .next t ∧ waits t ∧
        (∀ p ∈ ssDomains s c, ssStep c = 7 → (clkAt t p).fixed = false) ∧
        (∀ p ∈ ssDomains s c, ssStep c ≠ 7 → (clkAt t p).fixed = true ∧ (clkAt t p).target = ssStep c) ∧
        ∀ p, p ∉ ssDomains s c → (clkAt t p).fixed = (clkAt s p).fixed) ∧
    (Begins s q c (mine 3) → firstOf (ssThrChecks s c) = none →
      ∃ t, exec (.stepSetThresholds q) s = .next t ∧ words t (setStep (partAt s n)) ∧
        { t with queues := s.queues, cmds := s.cmds, clk := s.clk } = s ∧
        ∀ p, clkAt t p = if p ∈ ssDomains s c then
            { clkAt s p with thrStretch := ssStretch c, thrStep := ssThrStep c, thrWarn := ssWarn c }
          else clkAt s p)

/-- R414 to R421: a sag is ridden through or, after its limit, becomes a power-fail response like a warning or a high
input; from its start no command short of its commit point stays; the recovery switches the stacks on again. -/
def Obligations.TheInputSagsFailsAndRecovers : Prop :=
  ∀ (s : State),
    let fails (t : State) : Prop := t.power.pfw = true ∧ t.power.pfwSeen = true ∧ t.power.pfwSince = s.time ∧
      t.power.recovering = false ∧ (∀ c ∈ t.cmds, pastCommit c = true) ∧ s.provNext < t.provNext
    (∀ mv, s.service.ph = 2 ∨ s.service.ph = 3 → mv < 43000 →
      (s.power.sag = false → ∃ t, exec (.sagDetect mv) s = .next t ∧
        t.power = { s.power with sag := true, sagSince := s.time, sags := satInc 8 s.power.sags, vin := mv, vmin := mv,
                                 eventPin := s.power.pin }) ∧
      (s.power.sag = true → ∃ t, exec (.sagDetect mv) s = .next t ∧ { t with power := s.power } = s ∧
        t.power = { s.power with vmin := min s.power.vmin mv, vin := min s.power.vin mv })) ∧
    (s.power.sag = true → ∃ t, exec .sagEnd s = .next t ∧ t.power.sag = false ∧ 44000 ≤ t.power.vin ∧
      t.power.vin ≤ 56000 ∧ t.provNext = s.provNext + if s.power.pfw then 0 else 1) ∧
    (s.service.ph = 2 → responding s = false →
      (s.power.sag = true → ∃ t, exec .sagLimitExpiry s = .next t ∧ fails t) ∧
      (∃ t, exec .highInput s = .next t ∧ fails t) ∧
      ∃ t, exec .pfwNAssert s = .next t ∧ fails t ∧ t.power.pfwN = false) ∧
    (∃ t, exec .pfwNDeassert s = .next t ∧ { t with power := s.power } = s ∧
      t.power = { s.power with pfwN := true, pfwHighSince := if s.power.pfw then some s.time else none }) ∧
    (s.power.pfw = true → s.power.pfwN = true → s.power.sag = false → s.power.recovering = false → s.service.ph = 2 →
      s.start.stage = .released → ∃ t, exec .pfwRecovery s = .next t ∧
      (∀ p, p < 3744 → pstateAt s p = .inService → (coreAt t p).stages = 8) ∧
      ((∃ n, n < 16 ∧ (partAt s n).state = .resetting) → t.power = { s.power with recovering := true }) ∧
      ((∀ n, n < 16 → (partAt s n).state ≠ .resetting) → t.power.pfw = false ∧ t.provNext = s.provNext + 1))

/-- R422, R425, R433, R435, R436: the grants of an interval keep within a tenth of L; budgets keep to the limits and the
panel cap; header switches close stage by stage or pause; SLEW_LIMIT and POWER_POLICY write and answer their settings.
-/
def Obligations.PowerIsGrantedCappedAndSet : Prop :=
  ∀ (s : State) (q : Nat) (c : Cmd),
    let wide (s : State) : Nat := ((List.range 16).filter fun x => (tpwrAt s x).atBudget).length +
      ((List.range 16).filter fun x => decide (phasesOf s x < 8)).length * 2 ^ 16
    let staging' : Nat := s.power.stageThr + s.power.stagePause * 2 ^ 16
    (∀ demand, inRun s = true → s.power.sag = false → ∃ t, exec (.slewGrant demand) s = .next t ∧
      ((List.range 16).map fun x => (tpwrAt t x).granted).sum ≤ s.power.slew / 10 ∧
      { t with tpwr := s.tpwr, power := s.power } = s ∧
      t.power = { s.power with lastServed := t.power.lastServed }) ∧
    (∀ demand, inRun s = true →
      let fits := decide (((List.range 16).map fun x => demand.getD x 0).sum ≤ s.power.panelCap)
      ∃ t, exec (.powerCapDivision demand) s = .next t ∧
        (∀ x, x < 16 → (tpwrAt s x).dark = false →
          (tpwrAt t x).budget = (if fits then min (tileLimit s fits x) (demand.getD x 0) else tileLimit s fits x) ∧
          (tpwrAt t x).pin = min (tpwrAt t x).budget (demand.getD x 0) ∧
          (tpwrAt t x).atBudget = decide (tileLimit s fits x ≤ demand.getD x 0)) ∧
        t.power.pin = ((List.range 16).map fun x => (tpwrAt t x).pin).sum) ∧
    (∀ n lower, inRun s = true → (partAt s n).state ≠ .undefined → (partAt s n).state ≠ .withdrawn →
      ∃ t, exec (.powerCapStepChange n lower) s = .next t ∧
        partAt t n = { partAt s n with powerCap :=
          (if lower then min 5 ((partAt s n).powerCap + 1) else (partAt s n).powerCap - 1) }) ∧
    (∀ p output, staging s p = true →
      ((coreAt s p).pausedSince = none → ∃ t, exec (.headerStage p output) s = .next t ∧ { t with cores := s.cores } = s ∧
        coreAt t p = if stageRoom s p output then { coreAt s p with stages := min 8 ((coreAt s p).stages + 1) }
          else { coreAt s p with pausedSince := some s.time }) ∧
      ((coreAt s p).pausedSince.isSome = true →
        (stageRoom s p output = true → ∃ t, exec (.stagePauseRecheck p output) s = .next t ∧
          { t with cores := s.cores } = s ∧
          coreAt t p = { coreAt s p with stages := min 8 ((coreAt s p).stages + 1), pausedSince := none }) ∧
        ∃ t, exec (.stagePauseLimit p) s = .next t ∧ { t with cores := s.cores, tpwr := s.tpwr } = s ∧
          coreAt t p = { coreAt s p with stages := 8, pausedSince := none } ∧
          (tpwrAt t (tileOf p)).pauses = satInc 8 (tpwrAt s (tileOf p)).pauses)) ∧
    (Begins s q c (isFn 0x0603 false) → firstOf (slReadChecks c) = none → ∃ t, exec (.slewLimit q) s = .next t ∧
      Answered s t c .ok s.power.slew 0 0 0 ∧ AnswerFrame s t c) ∧
    (Begins s q c (isFn 0x0603 true) → firstOf (slSetChecks s c) = none → ∃ t, exec (.slewLimitExpert q) s = .next t ∧
      Answered s t c .ok (slRate c) 0 0 0 ∧ { t with queues := s.queues, cmds := s.cmds, power := s.power } = s ∧
      t.power = { s.power with slew := slRate c }) ∧
    (Begins s q c (isPowerPolicy 0) → firstOf (ppCapChecks s c) = none →
      ∃ t, exec (.powerPolicyPanelCap q) s = .next t ∧ Answered s t c .ok (ppCap c) s.power.pin (wide s) staging' ∧
        { t with queues := s.queues, cmds := s.cmds, power := s.power } = s ∧
        t.power = { s.power with panelCap := ppCap c }) ∧
    (Begins s q c (isPowerPolicy 1) → firstOf (ppReadChecks s c) = none → CanCopy s (ppDest c) (8 * ppCount c) →
      ∃ t, exec (.powerPolicyRead q) s = .next t ∧ Answered s t c .ok (ppCount c) s.power.pin (wide s) staging' ∧
        (partsApart s = true → slicesOk s → ∀ a, a < ppDest c ∨ ppDest c + 8 * ppCount c ≤ a → ldByte t a = ldByte s a)) ∧
    (Begins s q c (isPowerPolicy 2) → firstOf (ppTileChecks s c) = none →
      ∃ t, exec (.powerPolicyTileCap q) s = .next t ∧
        Answered s t c .ok s.power.panelCap s.power.pin (wide s) staging' ∧
        { t with queues := s.queues, cmds := s.cmds, tpwr := s.tpwr } = s ∧
        tpwrAt t (ppTile c) = { tpwrAt s (ppTile c) with cap := ppCap c }) ∧
    (Begins s q c (isPowerPolicy 3) → firstOf (ppStagingChecks s c) = none →
      ∃ t, exec (.powerPolicyStaging q) s = .next t ∧
        Answered s t c .ok s.power.panelCap s.power.pin (wide s) (ppThr c + ppPause c * 2 ^ 16) ∧
        { t with queues := s.queues, cmds := s.cmds, power := s.power } = s ∧
        t.power = { s.power with stageThr := ppThr c, stagePause := ppPause c })

/-- R427, R428, R430, R431: a converter phase that fails is out of service; a breaker or fuse leaves its tile dark and
counted; a core regulator that loses one phase of four caps its domain at F1, and a tile's own regulator counts its
losses. -/
def Obligations.SuppliesFail : Prop :=
  ∀ (s : State),
    (∀ tile phase, tile < 16 → phase < 8 → (tpwrAt s tile).dark = false → (tpwrAt s tile).phases.getLsbD phase = true →
      ∃ t, exec (.converterPhaseFault tile phase) s = .next t ∧
        tpwrAt t tile = { tpwrAt s tile with phases := (tpwrAt s tile).phases &&& ~~~(BitVec.ofNat 8 (2 ^ phase)) } ∧
        t.service.srCause.getLsbD 0 = true ∧ (phasesOf s tile ≤ 6 → s.provNext < t.provNext)) ∧
    (∀ tile efuse, tile < 16 → s.power.pwrGood = true → (tpwrAt s tile).dark = false →
      ∃ t, exec (.breakerTrip tile efuse) s = .next t ∧ (tpwrAt t tile).dark = true ∧ (tpwrAt t tile).pin = 0 ∧
        (tpwrAt t tile).budget = 0 ∧ t.power.trips = satInc 8 s.power.trips ∧ s.provNext < t.provNext ∧
        (tile = 0 → (curatorAt t 0).state = .lost ∧ t.bf0.alive = false)) ∧
    (∀ p phase, p < 3744 → phase < 4 → domainOn s p = true → (pwrAt s p).phasesOk = 0xF →
      ∃ t, exec (.regulatorPhaseFault p phase) s = .next t ∧
        pwrAt t p = { pwrAt s p with phasesOk := 0xF &&& ~~~(BitVec.ofNat 4 (2 ^ phase)),
                                     phaseFails := satInc 8 (pwrAt s p).phaseFails } ∧ (clkAt t p).regCap = 1) ∧
    (∀ tile phase, tile < 16 → tblGet 0 s.tileReg tile < 16 →
      ∃ t, exec (.regulatorPhaseFault (3744 + tile) phase) s = .next t ∧
        tblGet 0 t.tileReg tile = tblGet 0 s.tileReg tile + 1 ∧
        (tblGet 0 s.tileReg tile ≠ 2 → { t with tileReg := s.tileReg } = s))

/-- R441 to R447: a reading is taken or discarded; at 95 °C the panel warns, and two readings at 110 °C shut it down; caps
step a partition down and up; the flow request and keep-warm follow their rules, and KEEP_WARM answers its settings.
-/
def Obligations.TemperaturesAreWatched : Prop :=
  ∀ (s : State) (q : Nat) (c : Cmd),
    (∀ tile k r, sensorThere tile k = true → s.rstN = true →
      (sensorOk s tile k r = true → ∃ t, exec (.sensorSample tile k r) s = .next t ∧
        sensorAt t tile k = { reading := some r.toNat, bad := false,
                              shut := min (if 110 ≤ r then (sensorAt s tile k).shut + 1 else 0) 2 } ∧
        (s.service.ph = 2 → 95 ≤ r → t.thermal.warn = true) ∧
        (s.service.ph = 2 → 110 ≤ r → 1 ≤ (sensorAt s tile k).shut → t.service.ph = 3)) ∧
      (sensorOk s tile k r = false → ∃ t, exec (.sensorSample tile k r) s = .next t ∧
        sensorAt t tile k = { reading := none, bad := true, shut := 0 } ∧ t.thermal.badSensor = true)) ∧
    (∀ n, inRun s = true →
      (n ∈ s.thermal.hot → ∃ t, exec (.thermalCapWindow n) s = .next t ∧ n ∉ t.thermal.hot ∧
        (partAt t n).thermalCap = if (partAt s n).thermalCap = 5 then 5 else (partAt s n).thermalCap + 1) ∧
      ((partAt s n).thermalCap ≠ 0 → (∀ tile ∈ partTiles s n, tileHot s tile ≤ 95) →
        ∃ t, exec (.thermalCapRecovery n) s = .next t ∧
          partAt t n = { partAt s n with thermalCap := (partAt s n).thermalCap - 1 })) ∧
    (s.thermal.warn = true → anyTileAt s 91 = false → ∃ t, exec .thermalWarnClear s = .next t ∧
      { t with thermal := s.thermal } = s ∧ t.thermal = { s.thermal with warn := false }) ∧
    (∀ watts, inRun s = true → ∃ t, exec (.flowRequestUpdate watts) s = .next t ∧ { t with thermal := s.thermal } = s ∧
      t.thermal = { s.thermal with
        flow := if anyTileAt s 95 then 80 else min 80 (max 20 (ceilDiv (66 * watts) 44700)) }) ∧
    (∀ tile load, tile < 16 → ∃ t, exec (.keepWarmEvaluate tile load) s = .next t ∧
      { t with tpwr := s.tpwr, thermal := s.thermal } = s ∧
      (mayWarm s tile = false → (tpwrAt t tile).warming = 0) ∧ (tpwrAt t tile).warming ≤ load ∧
      t.thermal = { s.thermal with kwLoad := ((List.range 16).map fun x => (tpwrAt t x).warming).sum } ∧
      ((∀ x, x < 16 → (catalogueCold s x).any (· < 126) = true) → t.thermal.kwLoad ≤ 3000)) ∧
    (Begins s q c (fun c => c.fn == 0x0602 && !kwWrite c) → firstOf (kwChecks s c) = none →
      ∃ t, exec (.keepWarmRead q) s = .next t ∧ AnswerFrame s t c ∧
        Answered s t c .ok (if s.thermal.kwOn then 1 else 0) s.thermal.kwTarget s.thermal.kwLoad (tjMin s)) ∧
    (Begins s q c (fun c => c.fn == 0x0602 && kwWrite c) → firstOf (kwChecks s c) = none →
      ∃ t, exec (.keepWarmWrite q) s = .next t ∧
        { t with queues := s.queues, cmds := s.cmds, thermal := s.thermal } = s ∧
        t.thermal = { s.thermal with
          kwOn := kwEnable c, kwTarget := if c.expert then kwTarget c else s.thermal.kwTarget } ∧
        Answered s t c .ok (if kwEnable c then 1 else 0) (if c.expert then kwTarget c else s.thermal.kwTarget)
          s.thermal.kwLoad (tjMin s))

/-- R449, R450, R452 to R456: a monitor takes a sample into its extremes, its sums and one bin, or counts it dropped;
MONITOR_CONFIG empties what it names under its new settings; MONITOR_READ copies records and, with CLEAR, empties
them, commands on one monitor in the order of their admission. Then (R459 to R461): at the end of an interval the levels become the latest map and the settings written last
take effect; CONGESTION_MAP_READ copies the latest map, or waits for the first. -/
def Obligations.MonitorsAndMapsAreTakenAndRead : Prop :=
  (∀ (s : State) (q : Nat) (c : Cmd),
    let took (m m' : Monitor) (v : Nat) : Prop := m' = { m with
      min := min m.min v, max := max m.max v, count := (m.count + 1) % 2 ^ 64, sum := satAdd 64 m.sum v,
      bins := tblMod 0 m.bins (binOf m v) (satInc 32) }
    let mine (a : Nat) (c : Cmd) : Bool := isMc a c && monTurn s c
    let drops (m m' : Monitor) : Prop := m' = { m with dropped := satInc 32 m.dropped }
    (∀ l m (v : BitVec 32), l < 3072 → m < 4 → coreMonLost s l = false → (coreMonAt s (4 * l + m)).source ≠ 0 →
      (∃ t, exec (.monitorSample (.core l m) v false) s = .next t ∧ { t with coreMonitors := s.coreMonitors } = s ∧
        took (coreMonAt s (4 * l + m)) (coreMonAt t (4 * l + m)) v.toNat) ∧
      (∃ t, exec (.monitorSample (.core l m) v true) s = .next t ∧ { t with coreMonitors := s.coreMonitors } = s ∧
        drops (coreMonAt s (4 * l + m)) (coreMonAt t (4 * l + m)))) ∧
    (∀ tile m (v : BitVec 32), tile < 16 → m < 64 → (tpwrAt s tile).dark = false →
      (tileMonAt s (64 * tile + m)).source ≠ 0 →
      ∃ t, exec (.monitorSample (.tile tile m) v false) s = .next t ∧ { t with monitors := s.monitors } = s ∧
        took (tileMonAt s (64 * tile + m)) (tileMonAt t (64 * tile + m)) v.toNat) ∧
    (firstOf (mcChecks s c) = none →
      let rows (cmd : Instr) (per : List Nat) (g : Nat → Nat → Monitor → Monitor) : Prop :=
        ∃ t, exec cmd s = .next t ∧ Answered s t c .ok ((mcNamed s c).length * per.length) 0 0 0 ∧
          { t with queues := s.queues, cmds := s.cmds, monitors := s.monitors, coreMonitors := s.coreMonitors } = s ∧
          ∀ x ∈ mcNamed s c, ∀ m ∈ per,
            (mcTiles c = true → tileMonAt t (64 * x + m) = (g x m (tileMonAt s (64 * x + m))).emptied s.time) ∧
            (mcTiles c = false → coreMonAt t (4 * x + m) = (g x m (coreMonAt s (4 * x + m))).emptied s.time)
      let all := List.range (if mcTiles c then 64 else 4)
      (Begins s q c (mine 0) → rows (.monitorConfigPreset q) all fun x m _ =>
        if mcTiles c then tilePreset (mcPreset c) x m else corePreset (mcPreset c) m) ∧
      (Begins s q c (mine 1) → rows (.monitorConfigClear q) all fun _ _ m => m) ∧
      (Begins s q c (mine 2) → rows (.monitorConfigSet q) [mcMon c] fun _ _ _ => mcMonitor c)) ∧
    (Begins s q c (fun c => isFnAny 0x0501 c && (decide (2 ≤ mrSection c) || monTurn s c)) → firstOf (mrChecks s c) = none →
      CanCopy s (mrDest c) ((mrRange c).flatMap (mrRecord s (mrSection c))).length →
      ∃ t, exec (.monitorRead q) s = .next t ∧ (∃ sat, Answered s t c .ok (mrCount c) sat 0 0) ∧
        (mrClear c = false → CopyFrame s t c (mrDest c) ((mrRange c).flatMap (mrRecord s (mrSection c))).length) ∧
        (mrClear c = true → ∀ i ∈ mrRange c,
          (mrSection c = 0 → coreMonAt t i = (coreMonAt s i).emptied s.time) ∧
          (mrSection c = 1 → tileMonAt t i = (tileMonAt s i).emptied s.time)))) ∧
  (∀ (s : State) (q : Nat) (c : Cmd),
    (∀ levels, (curatorAt s s.lead).state = .posting → ∃ t, exec (.congestionIntervalEnd levels) s = .next t ∧
      t.cmap.seq = (s.cmap.seq + 1) % 2 ^ 32 ∧ t.cmap.time = s.time ∧ t.cmap.mapInterval = s.cmap.interval ∧
      t.cmap.mapVcsel = s.cmap.vcsel ∧ t.cmap.interval = s.cmap.nextInterval ∧ t.cmap.vcsel = s.cmap.nextVcsel ∧
      t.cmap.peak = s.cmap.nextPeak) ∧
    (Begins s q c (isFnAny 0x0502) → firstOf (cmChecks s c) = none →
      CanCopy s (cmDest c) (mapBytes s c.host).length →
      ∃ t, exec (.congestionMapRead q) s = .next t ∧
        (s.cmap.seq = 0 → (cmdOf t c.uid).map (·.wait) = some .map ∧ t.mem = s.mem) ∧
        (s.cmap.seq ≠ 0 → Answered s t c .ok s.cmap.seq s.cmap.interval 0 0) ∧
        (cmSet c = false → t.cmap = s.cmap) ∧
        (cmSet c = true → t.cmap = { s.cmap with nextInterval := cmInterval c, nextVcsel := cmVcsel c,
                                                 nextPeak := cmMode c }) ∧
        (partsApart s = true → slicesOk s → ∀ a, a < cmDest c ∨ cmDest c + (mapBytes s c.host).length ≤ a →
          ldByte t a = ldByte s a)))

/-- R471, R472: in TEST the TAP's instructions scan out what they capture and take in what they are given; the emergency
opens every header switch. -/
def Obligations.TheTapActsInTest : Prop :=
  ∀ (s : State), inTest s = true →
    let sv := s.service
    let on (t : State) : Prop := { t with service := s.service } = s
    (∃ t, exec .testPhaseEmergency s = .next t ∧ t.service = { sv with stacksOn := [] } ∧
      { t with service := s.service, cores := s.cores } = s ∧
      ∀ tile site, tile < 16 → site < 13 → ∀ p ∈ siteCores tile site, (coreAt t p).stages = 0) ∧
    (∀ b, ∃ t, exec (.extest b) s = .next t ∧ on t ∧ t.service = { sv with
      tapIr := 0x00, extest := true, tdo := (List.range 48).map (cellLevel s), pins := b }) ∧
    (∀ b, ∃ t, exec (.samplePreload b) s = .next t ∧ on t ∧ t.service = { sv with
      tapIr := 0x01, extest := false, tdo := (List.range 48).map (cellLevel s), pins := b }) ∧
    (∃ t, exec .idcode s = .next t ∧ on t ∧ t.service = { sv with
      tapIr := 0x02, extest := false, tdo := scanBits idcodeWord 32 }) ∧
    (∃ t, exec .tapTestLogicReset s = .next t ∧ on t ∧ t.service = { sv with tapIr := 0x02, extest := false, tdo := [] }) ∧
    (∀ die, ∃ t, exec (.dieSelect die) s = .next t ∧ t.service.tapIr = 0x10 ∧
      t.service.tapDie = if die % 512 < 454 then some (die % 512) else none) ∧
    (∃ t, exec .dieStandalone s = .next t ∧ t.service.tapIr = 0x11 ∧
      (∀ d, sv.tapDie = some d → d ∈ t.service.standalone) ∧ (sv.tapDie = none → t.service.standalone = sv.standalone)) ∧
    (∀ port, ∃ t, exec (.loopback port) s = .next t ∧ t.service.tapIr = 0x12 ∧
      (∀ d, sv.tapDie = some d → (d, port % 256) ∈ t.service.loopbacks) ∧
      (sv.tapDie = none → t.service.loopbacks = sv.loopbacks)) ∧
    (∀ on tile site, tile < 16 → site < 13 → (∀ x, sv.lastStack = some x → x + 50000 ≤ s.time) →
      ∃ t, exec (.stackPower on tile site) s = .next t ∧ t.service.tapIr = 0x13 ∧ t.service.lastStack = some s.time ∧
        (stackUnit tile site ∈ t.service.stacksOn ↔ on = true) ∧
        ∀ p ∈ siteCores tile site, (coreAt t p).stages = if on then 8 else 0) ∧
    (∀ die write, ∃ t, exec (.flashAccess die write) s = .next t ∧ t.service.tapIr = 0x14 ∧
      t.bf0 = (if die = 0 ∧ s.bf0.alive then s.bf0.write (activeB s) write else s.bf0) ∧
      t.bf1 = (if die ≠ 0 ∧ s.bf1.alive then s.bf1.write (activeB s) write else s.bf1)) ∧
    (∀ code, ∃ t, exec (.bypass code) s = .next t ∧ t.service.tapIr = code % 256 ∧
      t.service.tdo.length = (if sv.tapDie.isSome then 2 else 1) ∧ t.service.tdo.getLast? = some false)

/-- R473: the I3C target takes and drops its dynamic address, answers its identity, enables and disables events, reads
registers with an advancing index, joins once and interrupts once for a change. The byte order of the identity and the
two event bits are MIPI's, and BCR, DCR and the status bytes are free: the model's choices (log 8, PRESUMED). -/
def Obligations.TheI3cTargetAnswers : Prop :=
  ∀ (s : State), i3cOn s = true →
    let sv := s.service
    let on (t : State) : Prop := { t with service := s.service } = s
    let pid : List Byte := (leBytes 6 (Config.mipiVendor.toNat * 2 ^ 33 + 0x3072 * 2 ^ 16 +
      s.straps.traySlot % 256 * 2 ^ 8)).reverse
    (∀ a, sv.i3cAddr = none →
      (∃ t, exec (.entdaa a) s = .next t ∧ on t ∧ t.service = { sv with
        i3cAddr := some a, i3cReply := pid ++ [Config.i3cBcr, Config.i3cDcr] }) ∧
      (∃ t, exec (.setdasa 0x5A a) s = .next t ∧ on t ∧ t.service = { sv with i3cAddr := some a })) ∧
    (∃ t, exec .rstdaa s = .next t ∧ on t ∧ t.service = { sv with i3cAddr := none }) ∧
    (∀ b, (∃ t, exec (.enec b) s = .next t ∧ on t ∧ t.service = { sv with i3cEvents := sv.i3cEvents ||| (b &&& 0x09) }) ∧
      ∃ t, exec (.disec b) s = .next t ∧ on t ∧ t.service = { sv with i3cEvents := sv.i3cEvents &&& ~~~b }) ∧
    (sv.i3cAddr.isSome = true →
      (∃ t, exec .getpid s = .next t ∧ on t ∧ t.service = { sv with i3cReply := pid }) ∧
      (∃ t, exec .getbcr s = .next t ∧ on t ∧ t.service = { sv with i3cReply := [Config.i3cBcr] }) ∧
      (∃ t, exec .getdcr s = .next t ∧ on t ∧ t.service = { sv with i3cReply := [Config.i3cDcr] }) ∧
      (∃ t, exec .getstatus s = .next t ∧ t.service.i3cReply.length = 2 ∧ t.fresh = s.fresh + 2 ∧
        t.service = { sv with i3cReply := t.service.i3cReply }) ∧
      (∀ i, ∃ t, exec (.i3cPrivateWrite i) s = .next t ∧ on t ∧ t.service = { sv with i3cIndex := i.toNat }) ∧
      (∃ t, exec .i3cPrivateRead s = .next t ∧ on t ∧ t.service = { sv with
        i3cReply := leBytes 8 (i3cRegister s sv.i3cIndex), i3cIndex := (sv.i3cIndex + 1) % 256 }) ∧
      (sv.i3cEvents.getLsbD 0 = true → sv.ibiState ≠ ibiLevels s →
        ∃ t, exec .i3cIbi s = .next t ∧ on t ∧ t.service = { sv with ibi := some (ibiByte s), ibiState := ibiLevels s })) ∧
    (sv.ph = 2 → sv.i3cAddr = none → sv.i3cEvents.getLsbD 3 = true → sv.hotJoined = false →
      ∃ t, exec .i3cHotJoin s = .next t ∧ on t ∧ t.service = { sv with hotJoined := true })

/-- R484 to R489, R493: a DATA frame in order moves the flow's expected SEQ on, and the sixteenth since the last ACK is
acknowledged; a duplicate is counted and acknowledged again; an ACK retires what it names; timers acknowledge,
retransmit or break a flow; a request to a server without an answer is issued again once, and then its task ends with TIMEOUT. -/
def Obligations.FlowsMoveFrames : Prop :=
  ∀ (s : State) (port : Nat) (f : Frame) (k : FlowKey),
    let r := rxFlow s f.flow
    let good (type : Nat) : Prop := (portAt s port).state = .up ∧ (portAt s port).serThr = 0 ∧ f.bad = false ∧
      f.pause = false ∧ f.macPanel = panelId s ∧ f.ver = 1 ∧ f.reservedSet = false ∧ f.type = type ∧
      f.data.length ≤ 4096 ∧ f.flow.dstSrv = false ∧ f.flow.dstId = panelId s
    -- no flow moves from one port to another, and nothing waits for one that does
    let still : Prop := s.fabric.changes = [] ∧ ∀ x ∈ s.fabric.tx, x.move = none
    (good 0 → f.epoch = r.epoch →
      (f.seq = r.expect → r.expect < 2 ^ 24 → ∃ t, exec (.fabricDataFrame port f) s = .next t ∧
        (rxFlow t f.flow).expect = (r.expect + 1) % 2 ^ 24 ∧
        (r.sinceAck + 1 = 16 → (rxFlow t f.flow).sinceAck = 0 ∧ t.fabric.acks.length = s.fabric.acks.length + 1) ∧
        (r.sinceAck + 1 ≠ 16 → (rxFlow t f.flow).sinceAck = r.sinceAck + 1 ∧ t.fabric.acks = s.fabric.acks)) ∧
      (f.seq + 1 = r.expect → r.expect < 2 ^ 24 → ∃ t, exec (.fabricDataFrame port f) s = .next t ∧
        (portAt t port).rxdrop = satInc 16 (portAt s port).rxdrop ∧ t.fabric.acks = s.fabric.acks ++ [ackFrame s r] ∧
        { t with fabric := s.fabric } = s)) ∧
    (∀ tx, good 1 → still → txFlow s (ackedFlow f) = some tx → tx.epoch = f.epoch → tx.heldAdvance = false → tx.waiting = [] →
      ∃ t, exec (.fabricAckFrame port f) s = .next t ∧ { t with fabric := s.fabric } = s ∧
        (txFlow t (ackedFlow f)).map (·.unacked) = some (tx.unacked.filter fun x =>
          !decide (1 ≤ (f.ack + 2 ^ 24 - x.seq) % 2 ^ 24 ∧ (f.ack + 2 ^ 24 - x.seq) % 2 ^ 24 ≤ 64))) ∧
    (0 < (rxFlow s k).sinceAck → ∃ t, exec (.fabricAckTimer k) s = .next t ∧ { t with fabric := s.fabric } = s ∧
      t.fabric.acks = s.fabric.acks ++ [ackFrame s (rxFlow s k)] ∧ (rxFlow t k).sinceAck = 0) ∧
    (∀ tx, txFlow s k = some tx → tx.unacked ≠ [] →
      (tx.tries < 8 → tx.move = none → ∀ n, tx.port = some n → ∃ t, exec (.fabricRetransmitTimer k) s = .next t ∧
        { t with fabric := s.fabric } = s ∧ txFlow t k = some { tx with tries := tx.tries + 1 } ∧
        (portAt t n).retx = satAdd 16 (portAt s n).retx tx.unacked.length) ∧
      (8 ≤ tx.tries → still → tx.waiting = [] → tx.lastAdvance = none → ∃ t, exec (.fabricRetransmitTimer k) s = .next t ∧
        (txFlow t k).map (·.unacked) = some [] ∧ (txFlow t k).map (·.epoch) = some ((tx.epoch + 1) % 256) ∧
        s.provNext < t.provNext)) ∧
    (∀ tx, txFlow s k = some tx → tx.heldAdvance = true → ∃ t, exec (.flowEpochAdvance k) s = .next t ∧
      { t with fabric := s.fabric } = s ∧ (txFlow t k).map (·.epoch) = some ((tx.epoch + 1) % 256) ∧
      (txFlow t k).map (·.heldAdvance) = some false) ∧
    (∀ id x p i, s.reqs.find? (fun y => y.id == id && !y.frames.isEmpty) = some x → x.who = .task p i →
      frameQueued s x = false →
      (x.attempts = 1 →
        (∀ g ∈ x.frames, ∃ n, flowPort s g.flow = some n ∧
          routeValid s (pcoreCode p / 512) (edgeDieTile (n / 2)) = true) →
        ∃ t, exec (.fabricRequestTimeout id) s = .next t ∧ t.packets.length = s.packets.length + x.frames.length ∧
          ∃ y ∈ t.reqs, y.id = id ∧ y.who = x.who ∧ y.frames = x.frames ∧ y.attempts = 2) ∧
      (∀ u, x.attempts = 2 → taskOf (coreAt s p) i = some u → u.finished = false →
        ∃ t, exec (.fabricRequestTimeout id) s = .next t ∧ (∀ y ∈ t.reqs, y.id ≠ id) ∧
          ∃ v ∈ (coreAt t p).window, v.id = i ∧ v.desc = u.desc ∧ v.finished = true ∧ v.status = .timeout))

/-- R493 to R496: training, a lost link, the end of a drain and a failed die change their ports' states; PORT_CONFIG
enables, disables, reads and sets ports, and writes an endpoint once the flows to it are drained. -/
def Obligations.PortsChangeState : Prop :=
  ∀ (s : State) (q : Nat) (c : Cmd),
    let st (t : State) (n : Nat) : PortState := (portAt t n).state
    let idle : Prop := ∀ e ∈ s.cmds, ∀ m d, e.wait ≠ .ports m ∧ e.wait ≠ .portDrain m d
    -- no command waits for flows, and what waits for a server's answer is a task
    let calm : Prop := s.fabric.changes = [] ∧ ∀ r ∈ s.reqs, r.frames = [] ∨ ∃ p i, r.who = .task p i
    (∀ n up, st s n = .training → ∃ t, exec (.portTrainingDone n up) s = .next t ∧ st t n = (if up then .up else .down) ∧
      ∀ m, m ≠ n → st t m = st s m) ∧
    (∀ n, st s n = .up → ∃ t, exec (.portLinkDown n) s = .next t ∧ st t n = .down ∧ ∀ m, m ≠ n → st t m = st s m) ∧
    (∀ n, st s n = .draining → ∃ t, exec (.portDisableDrainExpiry n) s = .next t ∧ st t n = .disabled ∧
      ∀ m, m ≠ n → st t m = st s m) ∧
    (∀ die, edgeDieOk s die = true → ∃ t, exec (.edgePortDieFault die) s = .next t ∧ st t (2 * die) = .lost ∧
      st t (2 * die + 1) = .lost ∧ t.service.srCause.getLsbD 6 = true ∧ s.provNext < t.provNext) ∧
    (firstOf (pcChecks s c) = none →
      (Begins s q c (isPc fun a => a == 0 || decide (5 ≤ a)) → ∃ t, exec (.portConfigEnable q) s = .next t ∧
        (∀ n ∈ pcPorts c, st t n = if st s n = .up then .up else .training) ∧
        (∀ n, n ∉ pcPorts c → st t n = st s n) ∧
        ((∃ n ∈ pcPorts c, st s n ≠ .up) → (cmdOf t c.uid).map (·.wait) = some (.ports (pcMask c))) ∧
        ((∀ n ∈ pcPorts c, st s n = .up) → ∀ e ∈ t.cmds, e.uid ≠ c.uid)) ∧
      (Begins s q c (fun c => isPc (· == 1) c && !c.expert) → ∃ t, exec (.portConfigDisable q) s = .next t ∧
        (∀ n ∈ pcPorts c, st t n = if st s n = .up ∨ st s n = .draining then .draining else .disabled) ∧
        (∀ n, n ∉ pcPorts c → st t n = st s n) ∧
        ((∀ n ∈ pcPorts c, st s n ≠ .up ∧ st s n ≠ .draining) → ∀ e ∈ t.cmds, e.uid ≠ c.uid)) ∧
      (Begins s q c (fun c => isPc (· == 1) c && c.expert) → idle → calm →
        ∃ t, exec (.portConfigDisableExpert q) s = .next t ∧
        (∀ n ∈ pcPorts c, st t n = .disabled) ∧ (∀ n, n ∉ pcPorts c → st t n = st s n) ∧
        ∃ d, d ≤ queuedFrames s c ∧ Answered s t c (if 0 < d then .aborted else .disabled) d 0 0 0) ∧
      (Begins s q c (isPc (· == 2)) → ∃ t, exec (.portConfigRead q) s = .next t ∧
        { t with queues := s.queues, cmds := s.cmds, fresh := s.fresh } = s ∧
        ∃ low : Bool, let w (i : Nat) : Nat := match (pcPorts c)[i]? with
            | some n => if low then portWord (portAt s n) % 2 ^ 32 else portWord (portAt s n) / 2 ^ 32 % 2 ^ 32
            | none => 0
          Answered s t c .ok (w 0) (w 1) (w 2) (w 3)) ∧
      (Begins s q c (isPc (· == 3)) → idle → calm → (∀ x ∈ s.fabric.tx, x.unacked = [] ∧ x.waiting = []) →
        ∃ t, exec (.portConfigSet q) s = .next t ∧ Answered s t c .ok 0 0 0 0 ∧
        t.fabric.etherType = (if pcEther c = 0 then s.fabric.etherType else pcEther c) ∧
        t.fabric.maxData = (if pcMax c = 0 then s.fabric.maxData else 256 * pcMax c) ∧
        t.fabric.encap = (if pcEncap c = 3 then s.fabric.encap else pcEncap c) ∧
        ∀ n ∈ pcPorts c, (portAt t n).serThr = pcThr c ∧ (portAt t n).lanes4 = pcLanes4 c ∧
          st t n = if st s n = .disabled ∨ st s n = .draining then st s n else .training) ∧
      (Begins s q c (isPc (· == 4)) → calm → onDark s (pcBlock c) 64 = false → firstBad s (pcBlock c) 64 = none →
        ((∀ k ∈ entryFlows s (pcEndpoint c), ∀ x, txFlow s k = some x → x.unacked = []) →
          ∃ t, exec (.portConfigEndpoint q) s = .next t ∧ Answered s t c .ok 0 0 0 0 ∧
            endpointAt t (pcEndpoint c) = endpointOf (ldRead s (pcBlock c) 64) ∧
            ∀ i, i ≠ pcEndpoint c → endpointAt t i = endpointAt s i) ∧
        ((∃ k ∈ entryFlows s (pcEndpoint c), ∃ x, txFlow s k = some x ∧ x.unacked ≠ [] ∧ x.move ≠ some true) →
          ∃ t, exec (.portConfigEndpoint q) s = .next t ∧ (cmdOf t c.uid).map (·.wait) = some .flows ∧
            ∀ i, endpointAt t i = endpointAt s i)))

/-- R59, R108 to R111, R237, R239, R240: a STREAM_IN or STREAM_OUT that issues asks the home slice of its first piece, on the virtual
channel of its TC, and a shared STREAM_IN gathers instead; no byte of LPDDR5X changes. A slice answers a read with the bytes it serves,
and a write puts its bytes there and changes no other. RD_DATA puts a piece into scratchpad; the last piece ends the task, and after
any other the next is asked for. Pieces, and that one is out at a time, are the model's choice (log 81, DESIGN CHOICE). -/
def Obligations.StreamsMoveBetweenMemories : Prop :=
  (∀ (s : State) (p : Nat) (f : Fetched) (x : Resolved),
    let c := coreAt s p
    let d := f.desc
    let who : Asker := .task p c.nextId
    let a := (memPiece d 0).2.2.1
    let n := (memPiece d 0).2.2.2
    let row := localRow { newTask c f s.time with locs := x.locs } 0
    let reachable : Prop := ∃ h, homeOf s a = some h ∧ (tpwrAt s h.tile).dark = false ∧
      routeValid s (pcoreCode p / 512) h.tile = true
    0 < xRows d * xBpr d →
    (Ready s p 0x41 noRoot (grantCheck s p) f x → xShare d = 0 → reachable →
      ∃ t, exec (.streamIn p) s = .next t ∧ Issued s t p f ∧ (∀ b, ldByte t b = ldByte s b) ∧
        Asked t who (dTc d) 0x01 (.rdReq who a n (!xBypass d))) ∧
    (Ready s p 0x41 noRoot (grantCheck s p) f x → xShare d ≠ 0 →
      (∀ g ∈ s.gathers, g.part = corePart s p → g.share = xShare d → xMembers g.desc ≤ g.members.length) →
      ∃ t, exec (.streamIn p) s = .next t ∧ Issued s t p f ∧ (∀ b, ldByte t b = ldByte s b) ∧
        t.gathers = s.gathers ++ [{ part := corePart s p, share := xShare d, desc := d, members := [(p, c.nextId)] }]) ∧
    (Ready s p 0x42 noRoot (grantCheck s p) f x → c.failing = [] → reachable →
      ∃ t, exec (.streamOut p) s = .next t ∧ Issued s t p f ∧ (∀ b, ldByte t b = ldByte s b) ∧
        Asked t who (dTc d) 0x03 (.wrReq who a (!xBypass d) (spdRead c row.kind row.word 0 n)))) ∧
  (∀ (s : State) (id : Nat) (k : Packet), Deliverable s id k → partsApart s = true → slicesOk s →
    let back (t : State) (kind : Nat) (body : Body) : Prop := routeValid s (k.dst / 512) (k.src / 512) = true →
      ∃ y ∈ t.packets, y.vc = 1 ∧ y.urg = decide (k.vc = 0) ∧ y.kind = kind ∧ y.tag = k.tag ∧ y.body = body
    (∀ who a n al, k.body = .rdReq who a n al → firstBad s a n = none →
      ∃ t, exec (.packetDeliver id) s = .next t ∧ (∀ b, ldByte t b = ldByte s b) ∧
        back t 0x02 (.rdData who a (ldRead s a n))) ∧
    (∀ who a al bs, k.body = .wrReq who a al bs →
      (∀ b ∈ blocksOf a bs.length, (homeOf s b).isSome = true) → firstUnmerged s a bs.length = none →
      ∃ t, exec (.packetDeliver id) s = .next t ∧ (∀ i, i < bs.length → ldByte t (a + i) = bs.getD i 0) ∧
        (∀ b, b < a ∨ a + bs.length ≤ b → ldByte t b = ldByte s b) ∧ back t 0x04 (.wrAck who a))) ∧
  (∀ (s : State) (id : Nat) (k : Packet) (p i a : Nat) (u : Task), Deliverable s id k →
    taskOf (coreAt s p) i = some u →
    let m := memPiece u.desc u.progress
    let n := m.2.2.2
    let row := localRow u m.1
    let last : Prop := xRows u.desc * xBpr u.desc ≤ u.progress + n
    let same (t : State) : Prop := t.mem = s.mem ∧ t.slices = s.slices
    let ended (t : State) : Prop := ∃ v ∈ (coreAt t p).window, v.id = i ∧ v.finished = true ∧
      v.status = u.pendingStatus.getD .ok
    (∀ bs, k.body = .rdData (.task p i) a bs → waitsAt u 0x41 a = true → bs.length = n → (coreAt s p).failing = [] →
      ∃ t, exec (.packetDeliver id) s = .next t ∧ same t ∧
        spdRead (coreAt t p) row.kind row.word m.2.1 n = bs ∧ (last → ended t) ∧
        (¬ last → ∀ h, let m' := memPiece u.desc (u.progress + n)
          homeOf s m'.2.2.1 = some h → (tpwrAt s h.tile).dark = false → routeValid s (pcoreCode p / 512) h.tile = true →
          Asked t (.task p i) (dTc u.desc) 0x01 (.rdReq (.task p i) m'.2.2.1 m'.2.2.2 (!xBypass u.desc)))) ∧
    (k.body = .wrAck (.task p i) a → waitsAt u 0x42 a = true → last →
      ∃ t, exec (.packetDeliver id) s = .next t ∧ same t ∧ ended t))

/-- Every command completes in every state: it answers a next state, neither a fault nor a refusal. Command c at the front of the queue
runs on the state with the queue's rest; on an empty queue the block idles, and
panel time counts while PANEL_RST_N is high (the model's choice, log 1, DESIGN CHOICE). -/
def Obligations.StepRunsTheFrontCommand : Prop :=
  ∀ (c : Instr) (rest : List Instr) (s : State), Completes c s ∧
    step { s with pending := c :: rest } = exec c { s with pending := rest } ∧
    step { s with pending := [] } = .next { s with pending := [], time := if s.rstN then (s.time + 1) % 2 ^ 64 else s.time }

/-- R373, R350, Table 16-5: State.reset meets the invariants that every step keeps: memory and slices in their form, no
charter sealed, numbers in order; no command waits, no time has passed and no partition shares a tile with another. -/
def Obligations.ResetMeetsTheInvariants : Prop :=
  memWf State.reset.mem = true ∧ provOk State.reset ∧ cmdsOk State.reset ∧ slicesOk State.reset ∧
    partsApart State.reset = true ∧ State.reset.sealed = false ∧ State.reset.charter = [] ∧ State.reset.pending = [] ∧
    State.reset.counter.idNext ≤ 2 ^ 20 ∧ State.reset.time = 0

/-- R275, R350: from every state that has them, each command keeps memory's canonical form, both provenance logs in rising
NUMBER and the commands in flight in rising number; it leaves the queue of waiting commands alone, and a step takes
its front off. -/
def Obligations.StepKeepsTheInvariant : Prop :=
  ∀ (s : State),
    (∀ (c : Instr) (t : State), exec c s = .next t → t.pending = s.pending ∧ t.order1T = s.order1T) ∧
    (∀ t, step s = .next t → t.pending = s.pending.tail ∧
      (memWf s.mem = true → memWf t.mem = true) ∧ (provOk s → provOk t) ∧ (cmdsOk s → cmdsOk t))

/-- R237, R238: while the charter stays as it is and no two partitions share a tile, every step leaves each sector of
every slice at its home, no line twice in a slice, and each clean sector equal to its device's bytes. -/
def Obligations.StepKeepsSlicesAtHome : Prop :=
  ∀ (s t : State), partsApart s = true → slicesOk s → step s = .next t → t.charter = s.charter →
    slicesOk t ∧ partsApart t = true

/-- R350, R372, R395, R396: no command but a panel reset or the loss of the supply changes a sealed charter; no command takes back a
provenance NUMBER or uses a free value twice; none lowers a rollback floor or takes back an identity leaf, but that a start takes
over the counter record that boot flash holds. The index of
free values is the model's own (log 5, DESIGN CHOICE). -/
def Obligations.SealAndCountersNeverGoBack : Prop :=
  ∀ (s t : State) (c : Instr), exec c s = .next t →
    (s.sealed = true → c ≠ .panelRstNAssert → c ≠ .inputLockout → t.charter = s.charter ∧ t.sealed = true) ∧
    (c ≠ .firstStageVerify → c ≠ .deputyStartTakeover → CounterLater s.counter t.counter) ∧
    (c = .firstStageVerify ∨ c = .deputyStartTakeover →
      t.counter = s.counter ∨ t.counter = s.bf0.record ∨ t.counter = s.bf1.record) ∧ s.provNext ≤ t.provNext ∧ s.fresh ≤ t.fresh

/-- R240, R372: the commands that store nothing complete in every state, and leave every byte of LPDDR5X, every line of
the slices, and the charter as they were. That a command whose enabling condition does not hold completes and changes
nothing is the model's choice (log 1, DESIGN CHOICE). -/
def Obligations.CommandsThatStoreNothingLeaveMemory : Prop :=
  ∀ (s : State) (c : Instr), storesNothing c = true → ∃ t, exec c s = .next t ∧
    t.mem = s.mem ∧ t.slices = s.slices ∧ t.charter = s.charter ∧ t.sealed = s.sealed ∧ ∀ a, ldByte t a = ldByte s a

/-- R274: a command that a check refuses completes with the first status that applies, its result words zero, and changes
nothing but its queue and the commands in flight. Within one step of R274 the order of the checks is the model's (log
20, DEDUCED). -/
def Obligations.RefusedCommandsAnswerTheirStatus : Prop :=
  ∀ (s : State) (q : Nat) (c : Cmd) (st : Status) (blocks : Option Nat),
    let mon (a : Nat) (c : Cmd) : Bool := isMc a c && monTurn s c
    let stepSet (a : Nat) (c : Cmd) : Bool := isStepSet a c && stepTurn s c
    let fw (fn : Nat) (c : Cmd) : Bool := isFnAny fn c && fwTurn s c && (fwWriting s q fn).isNone
    ∀ e ∈ ([(.queueCreate q, isFnAny 0x0010, createChecks s c), (.queueEnable q, isFn 0x0012 false, targetChecks s c true),
      (.queueDisable q, isFn 0x0013 false, targetChecks s c false),
      (.queueDisableExpert q, isFn 0x0013 true, targetChecks s c false),
      (.queueDestroy q, isFn 0x0011 false, targetChecks s c false),
      (.queueDestroyExpert q, isFn 0x0011 true, targetChecks s c false),
      (.memCopy q none blocks, isFn 0x0200 false, memChecks s c true), (.memCopyExpert q none blocks, isFn 0x0200 true, memChecks s c true),
      (.memFill q none blocks, isFn 0x0201 false, memChecks s c false), (.memFillExpert q none blocks, isFn 0x0201 true, memChecks s c false),
      (.fingerprintConfigure q, fun c => isFc 0 none c || isFc 3 none c, fcSetChecks s c), (.fingerprintEnable q, isFc 1 none, fcSwitchChecks s c),
      (.fingerprintDisable q, isFc 2 (some false), fcSwitchChecks s c),
      (.fingerprintDisableExpert q, isFc 2 (some true), fcSwitchChecks s c),
      (.fingerprintRead q, isFnAny 0x0401, frChecks s c), (.monitorConfigPreset q, mon 0, mcChecks s c),
      (.monitorConfigClear q, mon 1, mcChecks s c), (.monitorConfigSet q, mon 2, mcChecks s c),
      
      (.monitorRead q, fun c => isFnAny 0x0501 c && (decide (2 ≤ mrSection c) || monTurn s c), mrChecks s c), (.congestionMapRead q, isFnAny 0x0502, cmChecks s c),
      (.powerPolicyPanelCap q, isPowerPolicy 0, ppCapChecks s c), (.powerPolicyRead q, isPowerPolicy 1, ppReadChecks s c),
      (.powerPolicyTileCap q, isPowerPolicy 2, ppTileChecks s c),
      (.powerPolicyStaging q, isPowerPolicy 3, ppStagingChecks s c),
      (.stepSetPolicy q, stepSet 0, ssPolicyChecks c), (.stepSetRead q, stepSet 1, ssReadChecks s c),
      (.stepSetFix q, stepSet 2, ssFixChecks s c), (.stepSetThresholds q, stepSet 3, ssThrChecks s c),
      (.slewLimit q, isFn 0x0603 false, slReadChecks c), (.slewLimitExpert q, isFn 0x0603 true, slSetChecks s c),
      (.partitionReset q, isFnAny 0x0701, prChecks s c), (.escalationPolicyRead q, isFn 0x0703 false, epReadChecks c),
      (.escalationPolicySet q, isFn 0x0703 true, epSetChecks s c), (.provenanceRead q, isFnAny 0x0704, pvChecks s c),
      (.attest q, isFnAny 0x0800, attestChecks s c), (.fwStage q, fw 0x0801, fwStageChecks s c),
      (.fwCommit q, fw 0x0802, commitChecks s c), (.portConfigRead q, isPc (· == 2), pcChecks s c),
      (.portConfigSet q, isPc (· == 3), pcChecks s c), (.portConfigEndpoint q, isPc (· == 4), pcChecks s c),
      (.routeUpdatePanelRoute q, ruExpert 1, ruRouteChecks s c), (.routeUpdateShares q, ruExpert 2, ruShareChecks s c),
      (.catalogueRead q, isFn 0x0A00 false, catChecks s c), (.catalogueReadExpert q, isFn 0x0A00 true, catChecks s c)] :
      List (Instr × (Cmd → Bool) × List (Bool × Status))),
    Begins s q c e.2.1 → firstOf e.2.2 = some st →
      ∃ t, exec e.1 s = .next t ∧ Answered s t c st 0 0 0 0 ∧ AnswerFrame s t c

/-- R148: HANDLE_FREE of a handle that a valid entry names as SCALE ends BAD_PARAM and leaves the handle bound; once no
entry names it so, and no window slot, HANDLE_FREE unbinds it. -/
def Obligations.HandleFreeOfAScaleIsRefused : Prop :=
  ∀ (s : State) (p : Nat) (f : Fetched) (x : Resolved),
    let c := coreAt s p
    let name := fld f.desc 73 64
    let ends (t : State) (st : Status) : Prop := Issued s t p f ∧ OnlyCore s t p ∧
      ∃ u ∈ (coreAt t p).window, u.id = c.nextId ∧ u.desc = f.desc ∧ u.finished = true ∧ u.status = st
    Ready s p 0x91 noRoot noMore f x → (handleOf c name).isSome = true →
      ((∃ e ∈ c.handles, e.2.scale = some name) →
        ∃ t, exec (.handleFree p) s = .next t ∧ ends t .badParam ∧ (coreAt t p).handles = c.handles ∧
          (handleOf (coreAt t p) name).isSome = true) ∧
      ((∀ e ∈ c.handles, e.2.scale ≠ some name) → inWindow s p name = false →
        ∃ t, exec (.handleFree p) s = .next t ∧ ends t .ok ∧ handleOf (coreAt t p) name = none)

/-- R276: a queue created with extended records keeps that form; each of its records has EXT = 1 and 64 bytes, the last 32
of them the 64-bit panel time at completion and zeros; a record takes the next 64-byte entry of its ring. -/
def Obligations.ExtendedRecordsTakeSixtyFourBytes : Prop :=
  (∀ (s : State) (q : Nat) (c : Cmd) (n : Nat), Begins s q c (isFnAny 0x0010) → firstOf (createChecks s c) = none →
    (if c.expert then some (qcQueue c) else lowestFree s c.host) = some n →
    ∃ t, exec (.queueCreate q) s = .next t ∧ ((queueAt t n).ext = true ↔ fld c.pkt 508 508 = 1)) ∧
  (∀ (x : Queue) (r : Rec), x.ext = true → r.time < 2 ^ 64 →
    (recBytes x r).length = 64 ∧
    (BitVec.ofNat 256 (leNat ((recBytes x r).take 32))).getLsbD 50 = true ∧
    leNat (((recBytes x r).drop 32).take 8) = r.time ∧ (recBytes x r).drop 40 = List.replicate 24 0) ∧
  (∀ (s : State) (q : Nat) (c : Cmd), Begins s q c (isFn 0x0001 false) →
    ∃ t r, exec (.echo q) s = .next t ∧ (queueAt t q).records.getLast? = some r ∧ r.time = s.time ∧
      (queueAt t q).ext = (queueAt s q).ext) ∧
  (∀ (s : State) (q : Nat) (r : Rec) (rest : List Rec),
    let x := queueAt s q
    let a := x.cqBase + 64 * x.cqTail
    x.ext = true → x.records = r :: rest → r.follows = none → (∀ y, rest.head? = some y → y.silent = false) →
    x.state ≠ .free → cqFullNow x = false → a % 64 = 0 →
    (regionOf s a).isSome = true → NoBad s → partsApart s = true → slicesOk s →
    ∃ t, exec (.completionRecordWrite q) s = .next t ∧ (queueAt t q).records = rest ∧ (queueAt t q).ext = true ∧
      (queueAt t q).cqTail = (x.cqTail + 1) % 2 ^ x.cqLog ∧
      (∀ i, i < 64 → ldByte t (a + i) = (recBytes x r).getD i 0) ∧
      ∀ b, b < a ∨ a + 64 ≤ b → ldByte t b = ldByte s b)

/-- R343: while AUTO = 0, a RUN whose rank set includes a logical core with VALID = 0 is refused with DIE_LOST, unless one
of the three refusals before it applies; ACCESSION PLACE has a spare enter the logical core. -/
def Obligations.RunWithoutASpareIsRefused : Prop :=
  ∀ (s : State) (q : Nat) (c : Cmd),
    let refused (st : Status) : Prop :=
      ∃ t, exec (.run q) s = .next t ∧ Answered s t c st 0xFFFFFFFF 0 0 0 ∧ AnswerFrame s t c
    (Begins s q c (fun x => x.fn == 0x0101 && !swapping s (ruPart x)) → (partAt s (ruPart c)).auto = false →
      (∃ e ∈ slotRanks s (ruPart c) (ruSlot c), (catAt s e.2).valid = false) →
      (firstOf ((runChecks s c).take 3) = none → refused .dieLost) ∧
      (∀ st, firstOf ((runChecks s c).take 3) = some st → refused st ∧ st ≠ .dieLost)) ∧
    (Begins s q c (fun c => c.fn == 0x0702 && acAction c == 1) → firstOf (plcChecks s c) = none →
      (∀ d ∈ s.drains, c.uid ∉ d.cmds) → ∃ t, exec (.accessionPlace q .pass) s = .next t ∧
        ∃ d ∈ t.drains, c.uid ∈ d.cmds ∧ (acLcore c, catEntry (acLcore c) (acCore c)) ∈ d.cats)
end

