-- ==== Sys2Proof/Laws/Mem.lean ====
section
/-! SUPPORT. The canonical form of tables and byte memories: every write keeps it, and a read after a write. -/

namespace Sys2Proof.Machine

theorem tblSorted_cons {α : Type} {k : Nat} {v : α} {t : Tbl α} :
    tblSorted ((k, v) :: t) = true ↔ (∀ e ∈ t, k < e.1) ∧ tblSorted t = true := by
  simp [tblSorted, List.all_eq_true]

theorem mem_tblPut {α : Type} {t : Tbl α} {k : Nat} {v : α} {e : Nat × α} (h : e ∈ tblPut t k v) :
    e = (k, v) ∨ e ∈ t := by
  induction t with
  | nil => simpa [tblPut] using h
  | cons a t ih =>
    obtain ⟨k', v'⟩ := a
    unfold tblPut at h
    split at h
    · simpa using h
    · split at h
      · rcases List.mem_cons.1 h with h | h
        · exact .inl h
        · exact .inr (List.mem_cons_of_mem _ h)
      · rcases List.mem_cons.1 h with h | h
        · exact .inr (h ▸ List.mem_cons_self ..)
        · exact (ih h).imp id (List.mem_cons_of_mem _)

theorem tblSorted_tblPut {α : Type} {t : Tbl α} (k : Nat) (v : α) (h : tblSorted t = true) :
    tblSorted (tblPut t k v) = true := by
  induction t with
  | nil => rfl
  | cons a t ih =>
    obtain ⟨k', v'⟩ := a
    rw [tblSorted_cons] at h
    unfold tblPut
    split
    · rw [tblSorted_cons, tblSorted_cons]
      refine ⟨fun e he => ?_, h⟩
      rcases List.mem_cons.1 he with rfl | he
      · assumption
      · exact Nat.lt_trans ‹k < k'› (h.1 e he)
    · split
      · subst k; exact tblSorted_cons.2 h
      · refine tblSorted_cons.2 ⟨fun e he => ?_, ih h.2⟩
        rcases mem_tblPut he with rfl | he
        · dsimp; omega
        · exact h.1 e he

theorem tblSorted_filter {α : Type} {t : Tbl α} (p : Nat × α → Bool) (h : tblSorted t = true) :
    tblSorted (t.filter p) = true := by
  induction t with
  | nil => rfl
  | cons a t ih =>
    rw [tblSorted_cons] at h
    rw [List.filter_cons]
    split
    · exact tblSorted_cons.2 ⟨fun e he => h.1 e ((List.mem_filter.1 he).1), ih h.2⟩
    · exact ih h.2

/-- A table write keeps the canonical form. -/
theorem tblSet_wf {α : Type} [DecidableEq α] {d : α} {t : Tbl α} (k : Nat) (v : α) (h : tblWf d t = true) :
    tblWf d (tblSet d t k v) = true := by
  simp only [tblWf, Bool.and_eq_true, List.all_eq_true, decide_eq_true_eq] at h ⊢
  unfold tblSet
  split
  · exact ⟨tblSorted_filter _ h.1, fun e he => h.2 e ((List.mem_filter.1 he).1)⟩
  · refine ⟨tblSorted_tblPut k v h.1, fun e he => ?_⟩
    rcases mem_tblPut he with rfl | he
    · assumption
    · exact h.2 e he

theorem tblGet_tblPut {α : Type} (d : α) (t : Tbl α) (k j : Nat) (v : α) :
    tblGet d (tblPut t k v) j = if k = j then v else tblGet d t j := by
  induction t with
  | nil => simp [tblPut, tblGet]
  | cons a t ih =>
    obtain ⟨k', v'⟩ := a
    unfold tblPut
    split
    · simp [tblGet]
    · split
      · subst k; simp only [tblGet]; split <;> rfl
      · simp only [tblGet, ih]
        split
        · subst k'; rw [if_neg ‹¬k = j›]
        · rfl

theorem tblGet_of_lt {α : Type} (d : α) {t : Tbl α} {k : Nat} (h : ∀ e ∈ t, k < e.1) : tblGet d t k = d := by
  induction t with
  | nil => rfl
  | cons a t ih =>
    have h1 := h a (List.mem_cons_self ..)
    unfold tblGet
    rw [if_neg (by omega)]
    exact ih fun e he => h e (List.mem_cons_of_mem _ he)

theorem tblGet_tblDel {α : Type} (d : α) (t : Tbl α) (k j : Nat) :
    tblGet d (tblDel t k) j = if k = j then d else tblGet d t j := by
  induction t with
  | nil => simp [tblDel, tblGet]
  | cons a t ih =>
    obtain ⟨k', v'⟩ := a
    unfold tblDel at ih ⊢
    rw [List.filter_cons]
    split
    · rename_i hk
      simp only [ne_eq, decide_eq_true_eq] at hk
      simp only [tblGet, ih]
      split
      · subst k'; rw [if_neg (Ne.symm hk)]
      · rfl
    · rename_i hk
      simp only [ne_eq, decide_eq_true_eq, Decidable.not_not] at hk
      subst hk
      rw [ih]
      simp only [tblGet]
      split <;> rfl

/-- A read after a write: the value at its key, and every other key as before. -/
theorem tblGet_tblSet {α : Type} [DecidableEq α] (d : α) (t : Tbl α) (k j : Nat) (v : α) :
    tblGet d (tblSet d t k v) j = if k = j then v else tblGet d t j := by
  unfold tblSet
  split
  · subst v; exact tblGet_tblDel d t k j
  · exact tblGet_tblPut d t k j v

theorem memByte_memSetByte (m : Mem) (a x : Nat) (b : Byte) :
    memByte (memSetByte m a b) x = if a = x then b else memByte m x := tblGet_tblSet 0 m a x b

theorem memSetByte_wf {m : Mem} (a : Nat) (b : Byte) (h : memWf m = true) : memWf (memSetByte m a b) = true :=
  tblSet_wf a b h

theorem memWrite_wf {m : Mem} (bs : List Byte) (a : Nat) (h : memWf m = true) : memWf (memWrite m a bs) = true := by
  induction bs generalizing m a with
  | nil => exact h
  | cons b bs ih => exact ih (a + 1) (memSetByte_wf a b h)

/-- A byte after a store: the byte stored there, or what it was. -/
theorem memByte_memWrite (bs : List Byte) (m : Mem) (a x : Nat) :
    memByte (memWrite m a bs) x = if a ≤ x ∧ x < a + bs.length then bs.getD (x - a) 0 else memByte m x := by
  induction bs generalizing m a with
  | nil => simp [memWrite] <;> omega
  | cons b bs ih =>
    unfold memWrite
    rw [ih, memByte_memSetByte]
    simp only [List.length_cons]
    by_cases h1 : a = x
    · subst h1; rw [if_neg (by omega), if_pos rfl, if_pos (by omega), Nat.sub_self]; rfl
    · by_cases h2 : a + 1 ≤ x ∧ x < a + 1 + bs.length
      · rw [if_pos h2, if_pos (by omega)]
        obtain ⟨n, hn⟩ : ∃ n, x - a = n + 1 := ⟨x - a - 1, by omega⟩
        rw [hn, show x - (a + 1) = n by omega]; rfl
      · rw [if_neg h2, if_neg h1, if_neg (by omega)]

/-- The bytes of a store outside which nothing changes. -/
theorem memByte_memWrite_frame {bs : List Byte} {m : Mem} {a x : Nat} (h : x < a ∨ a + bs.length ≤ x) :
    memByte (memWrite m a bs) x = memByte m x := by
  rw [memByte_memWrite, if_neg (by omega)]

theorem writeBack_wf (base : Nat) {m : Mem} (c : CLine) (h : memWf m = true) : memWf (writeBack base m c) = true := by
  unfold writeBack
  generalize c.sectors = l
  induction l generalizing m with
  | nil => exact h
  | cons e l ih =>
    rw [List.foldl_cons]
    apply ih
    split
    · exact memWrite_wf _ _ h
    · exact h

theorem foldl_writeBack_wf (base : Nat) (l : List CLine) {m : Mem} (h : memWf m = true) :
    memWf (l.foldl (writeBack base) m) = true := by
  induction l generalizing m with
  | nil => exact h
  | cons c l ih => exact ih (writeBack_wf base c h)

end Sys2Proof.Machine
end

