-- ==== Sys2Proof/Laws/State.lean ====
section
/-! SUPPORT. One lemma for each field under each table update of State. -/

namespace Sys2Proof.Machine

variable (s : State) (k : Nat)

@[simp] theorem setCore_pending (v : Core) : (setCore s k v).pending = s.pending := rfl
@[simp] theorem setCore_fresh (v : Core) : (setCore s k v).fresh = s.fresh := rfl
@[simp] theorem setCore_order1T (v : Core) : (setCore s k v).order1T = s.order1T := rfl
@[simp] theorem setCore_time (v : Core) : (setCore s k v).time = s.time := rfl
@[simp] theorem setCore_pstates (v : Core) : (setCore s k v).pstates = s.pstates := rfl
@[simp] theorem setCore_cat (v : Core) : (setCore s k v).cat = s.cat := rfl
@[simp] theorem setCore_catVersion (v : Core) : (setCore s k v).catVersion = s.catVersion := rfl
@[simp] theorem setCore_wins (v : Core) : (setCore s k v).wins = s.wins := rfl
@[simp] theorem setCore_groups (v : Core) : (setCore s k v).groups = s.groups := rfl
@[simp] theorem setCore_nodes (v : Core) : (setCore s k v).nodes = s.nodes := rfl
@[simp] theorem setCore_streams (v : Core) : (setCore s k v).streams = s.streams := rfl
@[simp] theorem setCore_gathers (v : Core) : (setCore s k v).gathers = s.gathers := rfl
@[simp] theorem setCore_packets (v : Core) : (setCore s k v).packets = s.packets := rfl
@[simp] theorem setCore_reqs (v : Core) : (setCore s k v).reqs = s.reqs := rfl
@[simp] theorem setCore_nextId (v : Core) : (setCore s k v).nextId = s.nextId := rfl
@[simp] theorem setCore_drains (v : Core) : (setCore s k v).drains = s.drains := rfl
@[simp] theorem setCore_ctrl (v : Core) : (setCore s k v).ctrl = s.ctrl := rfl
@[simp] theorem setCore_tiles (v : Core) : (setCore s k v).tiles = s.tiles := rfl
@[simp] theorem setCore_replays (v : Core) : (setCore s k v).replays = s.replays := rfl
@[simp] theorem setCore_arbs (v : Core) : (setCore s k v).arbs = s.arbs := rfl
@[simp] theorem setCore_lastBeat (v : Core) : (setCore s k v).lastBeat = s.lastBeat := rfl
@[simp] theorem setCore_tree (v : Core) : (setCore s k v).tree = s.tree := rfl
@[simp] theorem setCore_syncErr (v : Core) : (setCore s k v).syncErr = s.syncErr := rfl
@[simp] theorem setCore_fenced (v : Core) : (setCore s k v).fenced = s.fenced := rfl
@[simp] theorem setCore_mem (v : Core) : (setCore s k v).mem = s.mem := rfl
@[simp] theorem setCore_bad (v : Core) : (setCore s k v).bad = s.bad := rfl
@[simp] theorem setCore_slices (v : Core) : (setCore s k v).slices = s.slices := rfl
@[simp] theorem setCore_devices (v : Core) : (setCore s k v).devices = s.devices := rfl
@[simp] theorem setCore_hosts (v : Core) : (setCore s k v).hosts = s.hosts := rfl
@[simp] theorem setCore_loads (v : Core) : (setCore s k v).loads = s.loads := rfl
@[simp] theorem setCore_queues (v : Core) : (setCore s k v).queues = s.queues := rfl
@[simp] theorem setCore_units (v : Core) : (setCore s k v).units = s.units := rfl
@[simp] theorem setCore_spills (v : Core) : (setCore s k v).spills = s.spills := rfl
@[simp] theorem setCore_cmds (v : Core) : (setCore s k v).cmds = s.cmds := rfl
@[simp] theorem setCore_nextCmd (v : Core) : (setCore s k v).nextCmd = s.nextCmd := rfl
@[simp] theorem setCore_runs (v : Core) : (setCore s k v).runs = s.runs := rfl
@[simp] theorem setCore_mailboxes (v : Core) : (setCore s k v).mailboxes = s.mailboxes := rfl
@[simp] theorem setCore_hbSeq (v : Core) : (setCore s k v).hbSeq = s.hbSeq := rfl
@[simp] theorem setCore_hbValid (v : Core) : (setCore s k v).hbValid = s.hbValid := rfl
@[simp] theorem setCore_faults (v : Core) : (setCore s k v).faults = s.faults := rfl
@[simp] theorem setCore_faultSeq (v : Core) : (setCore s k v).faultSeq = s.faultSeq := rfl
@[simp] theorem setCore_transients (v : Core) : (setCore s k v).transients = s.transients := rfl
@[simp] theorem setCore_hourly (v : Core) : (setCore s k v).hourly = s.hourly := rfl
@[simp] theorem setCore_parts (v : Core) : (setCore s k v).parts = s.parts := rfl
@[simp] theorem setCore_limits (v : Core) : (setCore s k v).limits = s.limits := rfl
@[simp] theorem setCore_leadFails (v : Core) : (setCore s k v).leadFails = s.leadFails := rfl
@[simp] theorem setCore_provBF0 (v : Core) : (setCore s k v).provBF0 = s.provBF0 := rfl
@[simp] theorem setCore_provBF1 (v : Core) : (setCore s k v).provBF1 = s.provBF1 := rfl
@[simp] theorem setCore_provNext (v : Core) : (setCore s k v).provNext = s.provNext := rfl
@[simp] theorem setCore_retired (v : Core) : (setCore s k v).retired = s.retired := rfl
@[simp] theorem setCore_replaced (v : Core) : (setCore s k v).replaced = s.replaced := rfl
@[simp] theorem setCore_curators (v : Core) : (setCore s k v).curators = s.curators := rfl
@[simp] theorem setCore_lead (v : Core) : (setCore s k v).lead = s.lead := rfl
@[simp] theorem setCore_hasDeputy (v : Core) : (setCore s k v).hasDeputy = s.hasDeputy := rfl
@[simp] theorem setCore_straps (v : Core) : (setCore s k v).straps = s.straps := rfl
@[simp] theorem setCore_charter (v : Core) : (setCore s k v).charter = s.charter := rfl
@[simp] theorem setCore_sealed (v : Core) : (setCore s k v).sealed = s.sealed := rfl
@[simp] theorem setCore_start (v : Core) : (setCore s k v).start = s.start := rfl
@[simp] theorem setCore_hostsReleased (v : Core) : (setCore s k v).hostsReleased = s.hostsReleased := rfl
@[simp] theorem setCore_catReady (v : Core) : (setCore s k v).catReady = s.catReady := rfl
@[simp] theorem setCore_firmware (v : Core) : (setCore s k v).firmware = s.firmware := rfl
@[simp] theorem setCore_microcode (v : Core) : (setCore s k v).microcode = s.microcode := rfl
@[simp] theorem setCore_bf0 (v : Core) : (setCore s k v).bf0 = s.bf0 := rfl
@[simp] theorem setCore_bf1 (v : Core) : (setCore s k v).bf1 = s.bf1 := rfl
@[simp] theorem setCore_counter (v : Core) : (setCore s k v).counter = s.counter := rfl
@[simp] theorem setCore_trainCache (v : Core) : (setCore s k v).trainCache = s.trainCache := rfl
@[simp] theorem setCore_ident (v : Core) : (setCore s k v).ident = s.ident := rfl
@[simp] theorem setCore_refclk (v : Core) : (setCore s k v).refclk = s.refclk := rfl
@[simp] theorem setCore_clk (v : Core) : (setCore s k v).clk = s.clk := rfl
@[simp] theorem setCore_pwr (v : Core) : (setCore s k v).pwr = s.pwr := rfl
@[simp] theorem setCore_tpwr (v : Core) : (setCore s k v).tpwr = s.tpwr := rfl
@[simp] theorem setCore_tileReg (v : Core) : (setCore s k v).tileReg = s.tileReg := rfl
@[simp] theorem setCore_power (v : Core) : (setCore s k v).power = s.power := rfl
@[simp] theorem setCore_thermal (v : Core) : (setCore s k v).thermal = s.thermal := rfl
@[simp] theorem setCore_monitors (v : Core) : (setCore s k v).monitors = s.monitors := rfl
@[simp] theorem setCore_coreMonitors (v : Core) : (setCore s k v).coreMonitors = s.coreMonitors := rfl
@[simp] theorem setCore_cmap (v : Core) : (setCore s k v).cmap = s.cmap := rfl
@[simp] theorem setCore_service (v : Core) : (setCore s k v).service = s.service := rfl
@[simp] theorem setCore_rstN (v : Core) : (setCore s k v).rstN = s.rstN := rfl
@[simp] theorem setCore_fabric (v : Core) : (setCore s k v).fabric = s.fabric := rfl
@[simp] theorem modCore_eq (f : Core → Core) : modCore s k f = setCore s k (f (coreAt s k)) := rfl

@[simp] theorem setPstate_pending (v : PState) : (setPstate s k v).pending = s.pending := rfl
@[simp] theorem setPstate_fresh (v : PState) : (setPstate s k v).fresh = s.fresh := rfl
@[simp] theorem setPstate_order1T (v : PState) : (setPstate s k v).order1T = s.order1T := rfl
@[simp] theorem setPstate_time (v : PState) : (setPstate s k v).time = s.time := rfl
@[simp] theorem setPstate_cores (v : PState) : (setPstate s k v).cores = s.cores := rfl
@[simp] theorem setPstate_cat (v : PState) : (setPstate s k v).cat = s.cat := rfl
@[simp] theorem setPstate_catVersion (v : PState) : (setPstate s k v).catVersion = s.catVersion := rfl
@[simp] theorem setPstate_wins (v : PState) : (setPstate s k v).wins = s.wins := rfl
@[simp] theorem setPstate_groups (v : PState) : (setPstate s k v).groups = s.groups := rfl
@[simp] theorem setPstate_nodes (v : PState) : (setPstate s k v).nodes = s.nodes := rfl
@[simp] theorem setPstate_streams (v : PState) : (setPstate s k v).streams = s.streams := rfl
@[simp] theorem setPstate_gathers (v : PState) : (setPstate s k v).gathers = s.gathers := rfl
@[simp] theorem setPstate_packets (v : PState) : (setPstate s k v).packets = s.packets := rfl
@[simp] theorem setPstate_reqs (v : PState) : (setPstate s k v).reqs = s.reqs := rfl
@[simp] theorem setPstate_nextId (v : PState) : (setPstate s k v).nextId = s.nextId := rfl
@[simp] theorem setPstate_drains (v : PState) : (setPstate s k v).drains = s.drains := rfl
@[simp] theorem setPstate_ctrl (v : PState) : (setPstate s k v).ctrl = s.ctrl := rfl
@[simp] theorem setPstate_tiles (v : PState) : (setPstate s k v).tiles = s.tiles := rfl
@[simp] theorem setPstate_replays (v : PState) : (setPstate s k v).replays = s.replays := rfl
@[simp] theorem setPstate_arbs (v : PState) : (setPstate s k v).arbs = s.arbs := rfl
@[simp] theorem setPstate_lastBeat (v : PState) : (setPstate s k v).lastBeat = s.lastBeat := rfl
@[simp] theorem setPstate_tree (v : PState) : (setPstate s k v).tree = s.tree := rfl
@[simp] theorem setPstate_syncErr (v : PState) : (setPstate s k v).syncErr = s.syncErr := rfl
@[simp] theorem setPstate_fenced (v : PState) : (setPstate s k v).fenced = s.fenced := rfl
@[simp] theorem setPstate_mem (v : PState) : (setPstate s k v).mem = s.mem := rfl
@[simp] theorem setPstate_bad (v : PState) : (setPstate s k v).bad = s.bad := rfl
@[simp] theorem setPstate_slices (v : PState) : (setPstate s k v).slices = s.slices := rfl
@[simp] theorem setPstate_devices (v : PState) : (setPstate s k v).devices = s.devices := rfl
@[simp] theorem setPstate_hosts (v : PState) : (setPstate s k v).hosts = s.hosts := rfl
@[simp] theorem setPstate_loads (v : PState) : (setPstate s k v).loads = s.loads := rfl
@[simp] theorem setPstate_queues (v : PState) : (setPstate s k v).queues = s.queues := rfl
@[simp] theorem setPstate_units (v : PState) : (setPstate s k v).units = s.units := rfl
@[simp] theorem setPstate_spills (v : PState) : (setPstate s k v).spills = s.spills := rfl
@[simp] theorem setPstate_cmds (v : PState) : (setPstate s k v).cmds = s.cmds := rfl
@[simp] theorem setPstate_nextCmd (v : PState) : (setPstate s k v).nextCmd = s.nextCmd := rfl
@[simp] theorem setPstate_runs (v : PState) : (setPstate s k v).runs = s.runs := rfl
@[simp] theorem setPstate_mailboxes (v : PState) : (setPstate s k v).mailboxes = s.mailboxes := rfl
@[simp] theorem setPstate_hbSeq (v : PState) : (setPstate s k v).hbSeq = s.hbSeq := rfl
@[simp] theorem setPstate_hbValid (v : PState) : (setPstate s k v).hbValid = s.hbValid := rfl
@[simp] theorem setPstate_faults (v : PState) : (setPstate s k v).faults = s.faults := rfl
@[simp] theorem setPstate_faultSeq (v : PState) : (setPstate s k v).faultSeq = s.faultSeq := rfl
@[simp] theorem setPstate_transients (v : PState) : (setPstate s k v).transients = s.transients := rfl
@[simp] theorem setPstate_hourly (v : PState) : (setPstate s k v).hourly = s.hourly := rfl
@[simp] theorem setPstate_parts (v : PState) : (setPstate s k v).parts = s.parts := rfl
@[simp] theorem setPstate_limits (v : PState) : (setPstate s k v).limits = s.limits := rfl
@[simp] theorem setPstate_leadFails (v : PState) : (setPstate s k v).leadFails = s.leadFails := rfl
@[simp] theorem setPstate_provBF0 (v : PState) : (setPstate s k v).provBF0 = s.provBF0 := rfl
@[simp] theorem setPstate_provBF1 (v : PState) : (setPstate s k v).provBF1 = s.provBF1 := rfl
@[simp] theorem setPstate_provNext (v : PState) : (setPstate s k v).provNext = s.provNext := rfl
@[simp] theorem setPstate_retired (v : PState) : (setPstate s k v).retired = s.retired := rfl
@[simp] theorem setPstate_replaced (v : PState) : (setPstate s k v).replaced = s.replaced := rfl
@[simp] theorem setPstate_curators (v : PState) : (setPstate s k v).curators = s.curators := rfl
@[simp] theorem setPstate_lead (v : PState) : (setPstate s k v).lead = s.lead := rfl
@[simp] theorem setPstate_hasDeputy (v : PState) : (setPstate s k v).hasDeputy = s.hasDeputy := rfl
@[simp] theorem setPstate_straps (v : PState) : (setPstate s k v).straps = s.straps := rfl
@[simp] theorem setPstate_charter (v : PState) : (setPstate s k v).charter = s.charter := rfl
@[simp] theorem setPstate_sealed (v : PState) : (setPstate s k v).sealed = s.sealed := rfl
@[simp] theorem setPstate_start (v : PState) : (setPstate s k v).start = s.start := rfl
@[simp] theorem setPstate_hostsReleased (v : PState) : (setPstate s k v).hostsReleased = s.hostsReleased := rfl
@[simp] theorem setPstate_catReady (v : PState) : (setPstate s k v).catReady = s.catReady := rfl
@[simp] theorem setPstate_firmware (v : PState) : (setPstate s k v).firmware = s.firmware := rfl
@[simp] theorem setPstate_microcode (v : PState) : (setPstate s k v).microcode = s.microcode := rfl
@[simp] theorem setPstate_bf0 (v : PState) : (setPstate s k v).bf0 = s.bf0 := rfl
@[simp] theorem setPstate_bf1 (v : PState) : (setPstate s k v).bf1 = s.bf1 := rfl
@[simp] theorem setPstate_counter (v : PState) : (setPstate s k v).counter = s.counter := rfl
@[simp] theorem setPstate_trainCache (v : PState) : (setPstate s k v).trainCache = s.trainCache := rfl
@[simp] theorem setPstate_ident (v : PState) : (setPstate s k v).ident = s.ident := rfl
@[simp] theorem setPstate_refclk (v : PState) : (setPstate s k v).refclk = s.refclk := rfl
@[simp] theorem setPstate_clk (v : PState) : (setPstate s k v).clk = s.clk := rfl
@[simp] theorem setPstate_pwr (v : PState) : (setPstate s k v).pwr = s.pwr := rfl
@[simp] theorem setPstate_tpwr (v : PState) : (setPstate s k v).tpwr = s.tpwr := rfl
@[simp] theorem setPstate_tileReg (v : PState) : (setPstate s k v).tileReg = s.tileReg := rfl
@[simp] theorem setPstate_power (v : PState) : (setPstate s k v).power = s.power := rfl
@[simp] theorem setPstate_thermal (v : PState) : (setPstate s k v).thermal = s.thermal := rfl
@[simp] theorem setPstate_monitors (v : PState) : (setPstate s k v).monitors = s.monitors := rfl
@[simp] theorem setPstate_coreMonitors (v : PState) : (setPstate s k v).coreMonitors = s.coreMonitors := rfl
@[simp] theorem setPstate_cmap (v : PState) : (setPstate s k v).cmap = s.cmap := rfl
@[simp] theorem setPstate_service (v : PState) : (setPstate s k v).service = s.service := rfl
@[simp] theorem setPstate_rstN (v : PState) : (setPstate s k v).rstN = s.rstN := rfl
@[simp] theorem setPstate_fabric (v : PState) : (setPstate s k v).fabric = s.fabric := rfl
@[simp] theorem modPstate_eq (f : PState → PState) : modPstate s k f = setPstate s k (f (pstateAt s k)) := rfl

@[simp] theorem setCat_pending (v : CatEntry) : (setCat s k v).pending = s.pending := rfl
@[simp] theorem setCat_fresh (v : CatEntry) : (setCat s k v).fresh = s.fresh := rfl
@[simp] theorem setCat_order1T (v : CatEntry) : (setCat s k v).order1T = s.order1T := rfl
@[simp] theorem setCat_time (v : CatEntry) : (setCat s k v).time = s.time := rfl
@[simp] theorem setCat_cores (v : CatEntry) : (setCat s k v).cores = s.cores := rfl
@[simp] theorem setCat_pstates (v : CatEntry) : (setCat s k v).pstates = s.pstates := rfl
@[simp] theorem setCat_catVersion (v : CatEntry) : (setCat s k v).catVersion = s.catVersion := rfl
@[simp] theorem setCat_wins (v : CatEntry) : (setCat s k v).wins = s.wins := rfl
@[simp] theorem setCat_groups (v : CatEntry) : (setCat s k v).groups = s.groups := rfl
@[simp] theorem setCat_nodes (v : CatEntry) : (setCat s k v).nodes = s.nodes := rfl
@[simp] theorem setCat_streams (v : CatEntry) : (setCat s k v).streams = s.streams := rfl
@[simp] theorem setCat_gathers (v : CatEntry) : (setCat s k v).gathers = s.gathers := rfl
@[simp] theorem setCat_packets (v : CatEntry) : (setCat s k v).packets = s.packets := rfl
@[simp] theorem setCat_reqs (v : CatEntry) : (setCat s k v).reqs = s.reqs := rfl
@[simp] theorem setCat_nextId (v : CatEntry) : (setCat s k v).nextId = s.nextId := rfl
@[simp] theorem setCat_drains (v : CatEntry) : (setCat s k v).drains = s.drains := rfl
@[simp] theorem setCat_ctrl (v : CatEntry) : (setCat s k v).ctrl = s.ctrl := rfl
@[simp] theorem setCat_tiles (v : CatEntry) : (setCat s k v).tiles = s.tiles := rfl
@[simp] theorem setCat_replays (v : CatEntry) : (setCat s k v).replays = s.replays := rfl
@[simp] theorem setCat_arbs (v : CatEntry) : (setCat s k v).arbs = s.arbs := rfl
@[simp] theorem setCat_lastBeat (v : CatEntry) : (setCat s k v).lastBeat = s.lastBeat := rfl
@[simp] theorem setCat_tree (v : CatEntry) : (setCat s k v).tree = s.tree := rfl
@[simp] theorem setCat_syncErr (v : CatEntry) : (setCat s k v).syncErr = s.syncErr := rfl
@[simp] theorem setCat_fenced (v : CatEntry) : (setCat s k v).fenced = s.fenced := rfl
@[simp] theorem setCat_mem (v : CatEntry) : (setCat s k v).mem = s.mem := rfl
@[simp] theorem setCat_bad (v : CatEntry) : (setCat s k v).bad = s.bad := rfl
@[simp] theorem setCat_slices (v : CatEntry) : (setCat s k v).slices = s.slices := rfl
@[simp] theorem setCat_devices (v : CatEntry) : (setCat s k v).devices = s.devices := rfl
@[simp] theorem setCat_hosts (v : CatEntry) : (setCat s k v).hosts = s.hosts := rfl
@[simp] theorem setCat_loads (v : CatEntry) : (setCat s k v).loads = s.loads := rfl
@[simp] theorem setCat_queues (v : CatEntry) : (setCat s k v).queues = s.queues := rfl
@[simp] theorem setCat_units (v : CatEntry) : (setCat s k v).units = s.units := rfl
@[simp] theorem setCat_spills (v : CatEntry) : (setCat s k v).spills = s.spills := rfl
@[simp] theorem setCat_cmds (v : CatEntry) : (setCat s k v).cmds = s.cmds := rfl
@[simp] theorem setCat_nextCmd (v : CatEntry) : (setCat s k v).nextCmd = s.nextCmd := rfl
@[simp] theorem setCat_runs (v : CatEntry) : (setCat s k v).runs = s.runs := rfl
@[simp] theorem setCat_mailboxes (v : CatEntry) : (setCat s k v).mailboxes = s.mailboxes := rfl
@[simp] theorem setCat_hbSeq (v : CatEntry) : (setCat s k v).hbSeq = s.hbSeq := rfl
@[simp] theorem setCat_hbValid (v : CatEntry) : (setCat s k v).hbValid = s.hbValid := rfl
@[simp] theorem setCat_faults (v : CatEntry) : (setCat s k v).faults = s.faults := rfl
@[simp] theorem setCat_faultSeq (v : CatEntry) : (setCat s k v).faultSeq = s.faultSeq := rfl
@[simp] theorem setCat_transients (v : CatEntry) : (setCat s k v).transients = s.transients := rfl
@[simp] theorem setCat_hourly (v : CatEntry) : (setCat s k v).hourly = s.hourly := rfl
@[simp] theorem setCat_parts (v : CatEntry) : (setCat s k v).parts = s.parts := rfl
@[simp] theorem setCat_limits (v : CatEntry) : (setCat s k v).limits = s.limits := rfl
@[simp] theorem setCat_leadFails (v : CatEntry) : (setCat s k v).leadFails = s.leadFails := rfl
@[simp] theorem setCat_provBF0 (v : CatEntry) : (setCat s k v).provBF0 = s.provBF0 := rfl
@[simp] theorem setCat_provBF1 (v : CatEntry) : (setCat s k v).provBF1 = s.provBF1 := rfl
@[simp] theorem setCat_provNext (v : CatEntry) : (setCat s k v).provNext = s.provNext := rfl
@[simp] theorem setCat_retired (v : CatEntry) : (setCat s k v).retired = s.retired := rfl
@[simp] theorem setCat_replaced (v : CatEntry) : (setCat s k v).replaced = s.replaced := rfl
@[simp] theorem setCat_curators (v : CatEntry) : (setCat s k v).curators = s.curators := rfl
@[simp] theorem setCat_lead (v : CatEntry) : (setCat s k v).lead = s.lead := rfl
@[simp] theorem setCat_hasDeputy (v : CatEntry) : (setCat s k v).hasDeputy = s.hasDeputy := rfl
@[simp] theorem setCat_straps (v : CatEntry) : (setCat s k v).straps = s.straps := rfl
@[simp] theorem setCat_charter (v : CatEntry) : (setCat s k v).charter = s.charter := rfl
@[simp] theorem setCat_sealed (v : CatEntry) : (setCat s k v).sealed = s.sealed := rfl
@[simp] theorem setCat_start (v : CatEntry) : (setCat s k v).start = s.start := rfl
@[simp] theorem setCat_hostsReleased (v : CatEntry) : (setCat s k v).hostsReleased = s.hostsReleased := rfl
@[simp] theorem setCat_catReady (v : CatEntry) : (setCat s k v).catReady = s.catReady := rfl
@[simp] theorem setCat_firmware (v : CatEntry) : (setCat s k v).firmware = s.firmware := rfl
@[simp] theorem setCat_microcode (v : CatEntry) : (setCat s k v).microcode = s.microcode := rfl
@[simp] theorem setCat_bf0 (v : CatEntry) : (setCat s k v).bf0 = s.bf0 := rfl
@[simp] theorem setCat_bf1 (v : CatEntry) : (setCat s k v).bf1 = s.bf1 := rfl
@[simp] theorem setCat_counter (v : CatEntry) : (setCat s k v).counter = s.counter := rfl
@[simp] theorem setCat_trainCache (v : CatEntry) : (setCat s k v).trainCache = s.trainCache := rfl
@[simp] theorem setCat_ident (v : CatEntry) : (setCat s k v).ident = s.ident := rfl
@[simp] theorem setCat_refclk (v : CatEntry) : (setCat s k v).refclk = s.refclk := rfl
@[simp] theorem setCat_clk (v : CatEntry) : (setCat s k v).clk = s.clk := rfl
@[simp] theorem setCat_pwr (v : CatEntry) : (setCat s k v).pwr = s.pwr := rfl
@[simp] theorem setCat_tpwr (v : CatEntry) : (setCat s k v).tpwr = s.tpwr := rfl
@[simp] theorem setCat_tileReg (v : CatEntry) : (setCat s k v).tileReg = s.tileReg := rfl
@[simp] theorem setCat_power (v : CatEntry) : (setCat s k v).power = s.power := rfl
@[simp] theorem setCat_thermal (v : CatEntry) : (setCat s k v).thermal = s.thermal := rfl
@[simp] theorem setCat_monitors (v : CatEntry) : (setCat s k v).monitors = s.monitors := rfl
@[simp] theorem setCat_coreMonitors (v : CatEntry) : (setCat s k v).coreMonitors = s.coreMonitors := rfl
@[simp] theorem setCat_cmap (v : CatEntry) : (setCat s k v).cmap = s.cmap := rfl
@[simp] theorem setCat_service (v : CatEntry) : (setCat s k v).service = s.service := rfl
@[simp] theorem setCat_rstN (v : CatEntry) : (setCat s k v).rstN = s.rstN := rfl
@[simp] theorem setCat_fabric (v : CatEntry) : (setCat s k v).fabric = s.fabric := rfl
@[simp] theorem modCat_eq (f : CatEntry → CatEntry) : modCat s k f = setCat s k (f (catAt s k)) := rfl

@[simp] theorem setWins_pending (v : Windows) : (setWins s k v).pending = s.pending := rfl
@[simp] theorem setWins_fresh (v : Windows) : (setWins s k v).fresh = s.fresh := rfl
@[simp] theorem setWins_order1T (v : Windows) : (setWins s k v).order1T = s.order1T := rfl
@[simp] theorem setWins_time (v : Windows) : (setWins s k v).time = s.time := rfl
@[simp] theorem setWins_cores (v : Windows) : (setWins s k v).cores = s.cores := rfl
@[simp] theorem setWins_pstates (v : Windows) : (setWins s k v).pstates = s.pstates := rfl
@[simp] theorem setWins_cat (v : Windows) : (setWins s k v).cat = s.cat := rfl
@[simp] theorem setWins_catVersion (v : Windows) : (setWins s k v).catVersion = s.catVersion := rfl
@[simp] theorem setWins_groups (v : Windows) : (setWins s k v).groups = s.groups := rfl
@[simp] theorem setWins_nodes (v : Windows) : (setWins s k v).nodes = s.nodes := rfl
@[simp] theorem setWins_streams (v : Windows) : (setWins s k v).streams = s.streams := rfl
@[simp] theorem setWins_gathers (v : Windows) : (setWins s k v).gathers = s.gathers := rfl
@[simp] theorem setWins_packets (v : Windows) : (setWins s k v).packets = s.packets := rfl
@[simp] theorem setWins_reqs (v : Windows) : (setWins s k v).reqs = s.reqs := rfl
@[simp] theorem setWins_nextId (v : Windows) : (setWins s k v).nextId = s.nextId := rfl
@[simp] theorem setWins_drains (v : Windows) : (setWins s k v).drains = s.drains := rfl
@[simp] theorem setWins_ctrl (v : Windows) : (setWins s k v).ctrl = s.ctrl := rfl
@[simp] theorem setWins_tiles (v : Windows) : (setWins s k v).tiles = s.tiles := rfl
@[simp] theorem setWins_replays (v : Windows) : (setWins s k v).replays = s.replays := rfl
@[simp] theorem setWins_arbs (v : Windows) : (setWins s k v).arbs = s.arbs := rfl
@[simp] theorem setWins_lastBeat (v : Windows) : (setWins s k v).lastBeat = s.lastBeat := rfl
@[simp] theorem setWins_tree (v : Windows) : (setWins s k v).tree = s.tree := rfl
@[simp] theorem setWins_syncErr (v : Windows) : (setWins s k v).syncErr = s.syncErr := rfl
@[simp] theorem setWins_fenced (v : Windows) : (setWins s k v).fenced = s.fenced := rfl
@[simp] theorem setWins_mem (v : Windows) : (setWins s k v).mem = s.mem := rfl
@[simp] theorem setWins_bad (v : Windows) : (setWins s k v).bad = s.bad := rfl
@[simp] theorem setWins_slices (v : Windows) : (setWins s k v).slices = s.slices := rfl
@[simp] theorem setWins_devices (v : Windows) : (setWins s k v).devices = s.devices := rfl
@[simp] theorem setWins_hosts (v : Windows) : (setWins s k v).hosts = s.hosts := rfl
@[simp] theorem setWins_loads (v : Windows) : (setWins s k v).loads = s.loads := rfl
@[simp] theorem setWins_queues (v : Windows) : (setWins s k v).queues = s.queues := rfl
@[simp] theorem setWins_units (v : Windows) : (setWins s k v).units = s.units := rfl
@[simp] theorem setWins_spills (v : Windows) : (setWins s k v).spills = s.spills := rfl
@[simp] theorem setWins_cmds (v : Windows) : (setWins s k v).cmds = s.cmds := rfl
@[simp] theorem setWins_nextCmd (v : Windows) : (setWins s k v).nextCmd = s.nextCmd := rfl
@[simp] theorem setWins_runs (v : Windows) : (setWins s k v).runs = s.runs := rfl
@[simp] theorem setWins_mailboxes (v : Windows) : (setWins s k v).mailboxes = s.mailboxes := rfl
@[simp] theorem setWins_hbSeq (v : Windows) : (setWins s k v).hbSeq = s.hbSeq := rfl
@[simp] theorem setWins_hbValid (v : Windows) : (setWins s k v).hbValid = s.hbValid := rfl
@[simp] theorem setWins_faults (v : Windows) : (setWins s k v).faults = s.faults := rfl
@[simp] theorem setWins_faultSeq (v : Windows) : (setWins s k v).faultSeq = s.faultSeq := rfl
@[simp] theorem setWins_transients (v : Windows) : (setWins s k v).transients = s.transients := rfl
@[simp] theorem setWins_hourly (v : Windows) : (setWins s k v).hourly = s.hourly := rfl
@[simp] theorem setWins_parts (v : Windows) : (setWins s k v).parts = s.parts := rfl
@[simp] theorem setWins_limits (v : Windows) : (setWins s k v).limits = s.limits := rfl
@[simp] theorem setWins_leadFails (v : Windows) : (setWins s k v).leadFails = s.leadFails := rfl
@[simp] theorem setWins_provBF0 (v : Windows) : (setWins s k v).provBF0 = s.provBF0 := rfl
@[simp] theorem setWins_provBF1 (v : Windows) : (setWins s k v).provBF1 = s.provBF1 := rfl
@[simp] theorem setWins_provNext (v : Windows) : (setWins s k v).provNext = s.provNext := rfl
@[simp] theorem setWins_retired (v : Windows) : (setWins s k v).retired = s.retired := rfl
@[simp] theorem setWins_replaced (v : Windows) : (setWins s k v).replaced = s.replaced := rfl
@[simp] theorem setWins_curators (v : Windows) : (setWins s k v).curators = s.curators := rfl
@[simp] theorem setWins_lead (v : Windows) : (setWins s k v).lead = s.lead := rfl
@[simp] theorem setWins_hasDeputy (v : Windows) : (setWins s k v).hasDeputy = s.hasDeputy := rfl
@[simp] theorem setWins_straps (v : Windows) : (setWins s k v).straps = s.straps := rfl
@[simp] theorem setWins_charter (v : Windows) : (setWins s k v).charter = s.charter := rfl
@[simp] theorem setWins_sealed (v : Windows) : (setWins s k v).sealed = s.sealed := rfl
@[simp] theorem setWins_start (v : Windows) : (setWins s k v).start = s.start := rfl
@[simp] theorem setWins_hostsReleased (v : Windows) : (setWins s k v).hostsReleased = s.hostsReleased := rfl
@[simp] theorem setWins_catReady (v : Windows) : (setWins s k v).catReady = s.catReady := rfl
@[simp] theorem setWins_firmware (v : Windows) : (setWins s k v).firmware = s.firmware := rfl
@[simp] theorem setWins_microcode (v : Windows) : (setWins s k v).microcode = s.microcode := rfl
@[simp] theorem setWins_bf0 (v : Windows) : (setWins s k v).bf0 = s.bf0 := rfl
@[simp] theorem setWins_bf1 (v : Windows) : (setWins s k v).bf1 = s.bf1 := rfl
@[simp] theorem setWins_counter (v : Windows) : (setWins s k v).counter = s.counter := rfl
@[simp] theorem setWins_trainCache (v : Windows) : (setWins s k v).trainCache = s.trainCache := rfl
@[simp] theorem setWins_ident (v : Windows) : (setWins s k v).ident = s.ident := rfl
@[simp] theorem setWins_refclk (v : Windows) : (setWins s k v).refclk = s.refclk := rfl
@[simp] theorem setWins_clk (v : Windows) : (setWins s k v).clk = s.clk := rfl
@[simp] theorem setWins_pwr (v : Windows) : (setWins s k v).pwr = s.pwr := rfl
@[simp] theorem setWins_tpwr (v : Windows) : (setWins s k v).tpwr = s.tpwr := rfl
@[simp] theorem setWins_tileReg (v : Windows) : (setWins s k v).tileReg = s.tileReg := rfl
@[simp] theorem setWins_power (v : Windows) : (setWins s k v).power = s.power := rfl
@[simp] theorem setWins_thermal (v : Windows) : (setWins s k v).thermal = s.thermal := rfl
@[simp] theorem setWins_monitors (v : Windows) : (setWins s k v).monitors = s.monitors := rfl
@[simp] theorem setWins_coreMonitors (v : Windows) : (setWins s k v).coreMonitors = s.coreMonitors := rfl
@[simp] theorem setWins_cmap (v : Windows) : (setWins s k v).cmap = s.cmap := rfl
@[simp] theorem setWins_service (v : Windows) : (setWins s k v).service = s.service := rfl
@[simp] theorem setWins_rstN (v : Windows) : (setWins s k v).rstN = s.rstN := rfl
@[simp] theorem setWins_fabric (v : Windows) : (setWins s k v).fabric = s.fabric := rfl
@[simp] theorem modWins_eq (f : Windows → Windows) : modWins s k f = setWins s k (f (winsAt s k)) := rfl

@[simp] theorem setTile_pending (v : TileNet) : (setTile s k v).pending = s.pending := rfl
@[simp] theorem setTile_fresh (v : TileNet) : (setTile s k v).fresh = s.fresh := rfl
@[simp] theorem setTile_order1T (v : TileNet) : (setTile s k v).order1T = s.order1T := rfl
@[simp] theorem setTile_time (v : TileNet) : (setTile s k v).time = s.time := rfl
@[simp] theorem setTile_cores (v : TileNet) : (setTile s k v).cores = s.cores := rfl
@[simp] theorem setTile_pstates (v : TileNet) : (setTile s k v).pstates = s.pstates := rfl
@[simp] theorem setTile_cat (v : TileNet) : (setTile s k v).cat = s.cat := rfl
@[simp] theorem setTile_catVersion (v : TileNet) : (setTile s k v).catVersion = s.catVersion := rfl
@[simp] theorem setTile_wins (v : TileNet) : (setTile s k v).wins = s.wins := rfl
@[simp] theorem setTile_groups (v : TileNet) : (setTile s k v).groups = s.groups := rfl
@[simp] theorem setTile_nodes (v : TileNet) : (setTile s k v).nodes = s.nodes := rfl
@[simp] theorem setTile_streams (v : TileNet) : (setTile s k v).streams = s.streams := rfl
@[simp] theorem setTile_gathers (v : TileNet) : (setTile s k v).gathers = s.gathers := rfl
@[simp] theorem setTile_packets (v : TileNet) : (setTile s k v).packets = s.packets := rfl
@[simp] theorem setTile_reqs (v : TileNet) : (setTile s k v).reqs = s.reqs := rfl
@[simp] theorem setTile_nextId (v : TileNet) : (setTile s k v).nextId = s.nextId := rfl
@[simp] theorem setTile_drains (v : TileNet) : (setTile s k v).drains = s.drains := rfl
@[simp] theorem setTile_ctrl (v : TileNet) : (setTile s k v).ctrl = s.ctrl := rfl
@[simp] theorem setTile_replays (v : TileNet) : (setTile s k v).replays = s.replays := rfl
@[simp] theorem setTile_arbs (v : TileNet) : (setTile s k v).arbs = s.arbs := rfl
@[simp] theorem setTile_lastBeat (v : TileNet) : (setTile s k v).lastBeat = s.lastBeat := rfl
@[simp] theorem setTile_tree (v : TileNet) : (setTile s k v).tree = s.tree := rfl
@[simp] theorem setTile_syncErr (v : TileNet) : (setTile s k v).syncErr = s.syncErr := rfl
@[simp] theorem setTile_fenced (v : TileNet) : (setTile s k v).fenced = s.fenced := rfl
@[simp] theorem setTile_mem (v : TileNet) : (setTile s k v).mem = s.mem := rfl
@[simp] theorem setTile_bad (v : TileNet) : (setTile s k v).bad = s.bad := rfl
@[simp] theorem setTile_slices (v : TileNet) : (setTile s k v).slices = s.slices := rfl
@[simp] theorem setTile_devices (v : TileNet) : (setTile s k v).devices = s.devices := rfl
@[simp] theorem setTile_hosts (v : TileNet) : (setTile s k v).hosts = s.hosts := rfl
@[simp] theorem setTile_loads (v : TileNet) : (setTile s k v).loads = s.loads := rfl
@[simp] theorem setTile_queues (v : TileNet) : (setTile s k v).queues = s.queues := rfl
@[simp] theorem setTile_units (v : TileNet) : (setTile s k v).units = s.units := rfl
@[simp] theorem setTile_spills (v : TileNet) : (setTile s k v).spills = s.spills := rfl
@[simp] theorem setTile_cmds (v : TileNet) : (setTile s k v).cmds = s.cmds := rfl
@[simp] theorem setTile_nextCmd (v : TileNet) : (setTile s k v).nextCmd = s.nextCmd := rfl
@[simp] theorem setTile_runs (v : TileNet) : (setTile s k v).runs = s.runs := rfl
@[simp] theorem setTile_mailboxes (v : TileNet) : (setTile s k v).mailboxes = s.mailboxes := rfl
@[simp] theorem setTile_hbSeq (v : TileNet) : (setTile s k v).hbSeq = s.hbSeq := rfl
@[simp] theorem setTile_hbValid (v : TileNet) : (setTile s k v).hbValid = s.hbValid := rfl
@[simp] theorem setTile_faults (v : TileNet) : (setTile s k v).faults = s.faults := rfl
@[simp] theorem setTile_faultSeq (v : TileNet) : (setTile s k v).faultSeq = s.faultSeq := rfl
@[simp] theorem setTile_transients (v : TileNet) : (setTile s k v).transients = s.transients := rfl
@[simp] theorem setTile_hourly (v : TileNet) : (setTile s k v).hourly = s.hourly := rfl
@[simp] theorem setTile_parts (v : TileNet) : (setTile s k v).parts = s.parts := rfl
@[simp] theorem setTile_limits (v : TileNet) : (setTile s k v).limits = s.limits := rfl
@[simp] theorem setTile_leadFails (v : TileNet) : (setTile s k v).leadFails = s.leadFails := rfl
@[simp] theorem setTile_provBF0 (v : TileNet) : (setTile s k v).provBF0 = s.provBF0 := rfl
@[simp] theorem setTile_provBF1 (v : TileNet) : (setTile s k v).provBF1 = s.provBF1 := rfl
@[simp] theorem setTile_provNext (v : TileNet) : (setTile s k v).provNext = s.provNext := rfl
@[simp] theorem setTile_retired (v : TileNet) : (setTile s k v).retired = s.retired := rfl
@[simp] theorem setTile_replaced (v : TileNet) : (setTile s k v).replaced = s.replaced := rfl
@[simp] theorem setTile_curators (v : TileNet) : (setTile s k v).curators = s.curators := rfl
@[simp] theorem setTile_lead (v : TileNet) : (setTile s k v).lead = s.lead := rfl
@[simp] theorem setTile_hasDeputy (v : TileNet) : (setTile s k v).hasDeputy = s.hasDeputy := rfl
@[simp] theorem setTile_straps (v : TileNet) : (setTile s k v).straps = s.straps := rfl
@[simp] theorem setTile_charter (v : TileNet) : (setTile s k v).charter = s.charter := rfl
@[simp] theorem setTile_sealed (v : TileNet) : (setTile s k v).sealed = s.sealed := rfl
@[simp] theorem setTile_start (v : TileNet) : (setTile s k v).start = s.start := rfl
@[simp] theorem setTile_hostsReleased (v : TileNet) : (setTile s k v).hostsReleased = s.hostsReleased := rfl
@[simp] theorem setTile_catReady (v : TileNet) : (setTile s k v).catReady = s.catReady := rfl
@[simp] theorem setTile_firmware (v : TileNet) : (setTile s k v).firmware = s.firmware := rfl
@[simp] theorem setTile_microcode (v : TileNet) : (setTile s k v).microcode = s.microcode := rfl
@[simp] theorem setTile_bf0 (v : TileNet) : (setTile s k v).bf0 = s.bf0 := rfl
@[simp] theorem setTile_bf1 (v : TileNet) : (setTile s k v).bf1 = s.bf1 := rfl
@[simp] theorem setTile_counter (v : TileNet) : (setTile s k v).counter = s.counter := rfl
@[simp] theorem setTile_trainCache (v : TileNet) : (setTile s k v).trainCache = s.trainCache := rfl
@[simp] theorem setTile_ident (v : TileNet) : (setTile s k v).ident = s.ident := rfl
@[simp] theorem setTile_refclk (v : TileNet) : (setTile s k v).refclk = s.refclk := rfl
@[simp] theorem setTile_clk (v : TileNet) : (setTile s k v).clk = s.clk := rfl
@[simp] theorem setTile_pwr (v : TileNet) : (setTile s k v).pwr = s.pwr := rfl
@[simp] theorem setTile_tpwr (v : TileNet) : (setTile s k v).tpwr = s.tpwr := rfl
@[simp] theorem setTile_tileReg (v : TileNet) : (setTile s k v).tileReg = s.tileReg := rfl
@[simp] theorem setTile_power (v : TileNet) : (setTile s k v).power = s.power := rfl
@[simp] theorem setTile_thermal (v : TileNet) : (setTile s k v).thermal = s.thermal := rfl
@[simp] theorem setTile_monitors (v : TileNet) : (setTile s k v).monitors = s.monitors := rfl
@[simp] theorem setTile_coreMonitors (v : TileNet) : (setTile s k v).coreMonitors = s.coreMonitors := rfl
@[simp] theorem setTile_cmap (v : TileNet) : (setTile s k v).cmap = s.cmap := rfl
@[simp] theorem setTile_service (v : TileNet) : (setTile s k v).service = s.service := rfl
@[simp] theorem setTile_rstN (v : TileNet) : (setTile s k v).rstN = s.rstN := rfl
@[simp] theorem setTile_fabric (v : TileNet) : (setTile s k v).fabric = s.fabric := rfl
@[simp] theorem modTile_eq (f : TileNet → TileNet) : modTile s k f = setTile s k (f (tileAt s k)) := rfl

@[simp] theorem setDevice_pending (v : Device) : (setDevice s k v).pending = s.pending := rfl
@[simp] theorem setDevice_fresh (v : Device) : (setDevice s k v).fresh = s.fresh := rfl
@[simp] theorem setDevice_order1T (v : Device) : (setDevice s k v).order1T = s.order1T := rfl
@[simp] theorem setDevice_time (v : Device) : (setDevice s k v).time = s.time := rfl
@[simp] theorem setDevice_cores (v : Device) : (setDevice s k v).cores = s.cores := rfl
@[simp] theorem setDevice_pstates (v : Device) : (setDevice s k v).pstates = s.pstates := rfl
@[simp] theorem setDevice_cat (v : Device) : (setDevice s k v).cat = s.cat := rfl
@[simp] theorem setDevice_catVersion (v : Device) : (setDevice s k v).catVersion = s.catVersion := rfl
@[simp] theorem setDevice_wins (v : Device) : (setDevice s k v).wins = s.wins := rfl
@[simp] theorem setDevice_groups (v : Device) : (setDevice s k v).groups = s.groups := rfl
@[simp] theorem setDevice_nodes (v : Device) : (setDevice s k v).nodes = s.nodes := rfl
@[simp] theorem setDevice_streams (v : Device) : (setDevice s k v).streams = s.streams := rfl
@[simp] theorem setDevice_gathers (v : Device) : (setDevice s k v).gathers = s.gathers := rfl
@[simp] theorem setDevice_packets (v : Device) : (setDevice s k v).packets = s.packets := rfl
@[simp] theorem setDevice_reqs (v : Device) : (setDevice s k v).reqs = s.reqs := rfl
@[simp] theorem setDevice_nextId (v : Device) : (setDevice s k v).nextId = s.nextId := rfl
@[simp] theorem setDevice_drains (v : Device) : (setDevice s k v).drains = s.drains := rfl
@[simp] theorem setDevice_ctrl (v : Device) : (setDevice s k v).ctrl = s.ctrl := rfl
@[simp] theorem setDevice_tiles (v : Device) : (setDevice s k v).tiles = s.tiles := rfl
@[simp] theorem setDevice_replays (v : Device) : (setDevice s k v).replays = s.replays := rfl
@[simp] theorem setDevice_arbs (v : Device) : (setDevice s k v).arbs = s.arbs := rfl
@[simp] theorem setDevice_lastBeat (v : Device) : (setDevice s k v).lastBeat = s.lastBeat := rfl
@[simp] theorem setDevice_tree (v : Device) : (setDevice s k v).tree = s.tree := rfl
@[simp] theorem setDevice_syncErr (v : Device) : (setDevice s k v).syncErr = s.syncErr := rfl
@[simp] theorem setDevice_fenced (v : Device) : (setDevice s k v).fenced = s.fenced := rfl
@[simp] theorem setDevice_mem (v : Device) : (setDevice s k v).mem = s.mem := rfl
@[simp] theorem setDevice_bad (v : Device) : (setDevice s k v).bad = s.bad := rfl
@[simp] theorem setDevice_slices (v : Device) : (setDevice s k v).slices = s.slices := rfl
@[simp] theorem setDevice_hosts (v : Device) : (setDevice s k v).hosts = s.hosts := rfl
@[simp] theorem setDevice_loads (v : Device) : (setDevice s k v).loads = s.loads := rfl
@[simp] theorem setDevice_queues (v : Device) : (setDevice s k v).queues = s.queues := rfl
@[simp] theorem setDevice_units (v : Device) : (setDevice s k v).units = s.units := rfl
@[simp] theorem setDevice_spills (v : Device) : (setDevice s k v).spills = s.spills := rfl
@[simp] theorem setDevice_cmds (v : Device) : (setDevice s k v).cmds = s.cmds := rfl
@[simp] theorem setDevice_nextCmd (v : Device) : (setDevice s k v).nextCmd = s.nextCmd := rfl
@[simp] theorem setDevice_runs (v : Device) : (setDevice s k v).runs = s.runs := rfl
@[simp] theorem setDevice_mailboxes (v : Device) : (setDevice s k v).mailboxes = s.mailboxes := rfl
@[simp] theorem setDevice_hbSeq (v : Device) : (setDevice s k v).hbSeq = s.hbSeq := rfl
@[simp] theorem setDevice_hbValid (v : Device) : (setDevice s k v).hbValid = s.hbValid := rfl
@[simp] theorem setDevice_faults (v : Device) : (setDevice s k v).faults = s.faults := rfl
@[simp] theorem setDevice_faultSeq (v : Device) : (setDevice s k v).faultSeq = s.faultSeq := rfl
@[simp] theorem setDevice_transients (v : Device) : (setDevice s k v).transients = s.transients := rfl
@[simp] theorem setDevice_hourly (v : Device) : (setDevice s k v).hourly = s.hourly := rfl
@[simp] theorem setDevice_parts (v : Device) : (setDevice s k v).parts = s.parts := rfl
@[simp] theorem setDevice_limits (v : Device) : (setDevice s k v).limits = s.limits := rfl
@[simp] theorem setDevice_leadFails (v : Device) : (setDevice s k v).leadFails = s.leadFails := rfl
@[simp] theorem setDevice_provBF0 (v : Device) : (setDevice s k v).provBF0 = s.provBF0 := rfl
@[simp] theorem setDevice_provBF1 (v : Device) : (setDevice s k v).provBF1 = s.provBF1 := rfl
@[simp] theorem setDevice_provNext (v : Device) : (setDevice s k v).provNext = s.provNext := rfl
@[simp] theorem setDevice_retired (v : Device) : (setDevice s k v).retired = s.retired := rfl
@[simp] theorem setDevice_replaced (v : Device) : (setDevice s k v).replaced = s.replaced := rfl
@[simp] theorem setDevice_curators (v : Device) : (setDevice s k v).curators = s.curators := rfl
@[simp] theorem setDevice_lead (v : Device) : (setDevice s k v).lead = s.lead := rfl
@[simp] theorem setDevice_hasDeputy (v : Device) : (setDevice s k v).hasDeputy = s.hasDeputy := rfl
@[simp] theorem setDevice_straps (v : Device) : (setDevice s k v).straps = s.straps := rfl
@[simp] theorem setDevice_charter (v : Device) : (setDevice s k v).charter = s.charter := rfl
@[simp] theorem setDevice_sealed (v : Device) : (setDevice s k v).sealed = s.sealed := rfl
@[simp] theorem setDevice_start (v : Device) : (setDevice s k v).start = s.start := rfl
@[simp] theorem setDevice_hostsReleased (v : Device) : (setDevice s k v).hostsReleased = s.hostsReleased := rfl
@[simp] theorem setDevice_catReady (v : Device) : (setDevice s k v).catReady = s.catReady := rfl
@[simp] theorem setDevice_firmware (v : Device) : (setDevice s k v).firmware = s.firmware := rfl
@[simp] theorem setDevice_microcode (v : Device) : (setDevice s k v).microcode = s.microcode := rfl
@[simp] theorem setDevice_bf0 (v : Device) : (setDevice s k v).bf0 = s.bf0 := rfl
@[simp] theorem setDevice_bf1 (v : Device) : (setDevice s k v).bf1 = s.bf1 := rfl
@[simp] theorem setDevice_counter (v : Device) : (setDevice s k v).counter = s.counter := rfl
@[simp] theorem setDevice_trainCache (v : Device) : (setDevice s k v).trainCache = s.trainCache := rfl
@[simp] theorem setDevice_ident (v : Device) : (setDevice s k v).ident = s.ident := rfl
@[simp] theorem setDevice_refclk (v : Device) : (setDevice s k v).refclk = s.refclk := rfl
@[simp] theorem setDevice_clk (v : Device) : (setDevice s k v).clk = s.clk := rfl
@[simp] theorem setDevice_pwr (v : Device) : (setDevice s k v).pwr = s.pwr := rfl
@[simp] theorem setDevice_tpwr (v : Device) : (setDevice s k v).tpwr = s.tpwr := rfl
@[simp] theorem setDevice_tileReg (v : Device) : (setDevice s k v).tileReg = s.tileReg := rfl
@[simp] theorem setDevice_power (v : Device) : (setDevice s k v).power = s.power := rfl
@[simp] theorem setDevice_thermal (v : Device) : (setDevice s k v).thermal = s.thermal := rfl
@[simp] theorem setDevice_monitors (v : Device) : (setDevice s k v).monitors = s.monitors := rfl
@[simp] theorem setDevice_coreMonitors (v : Device) : (setDevice s k v).coreMonitors = s.coreMonitors := rfl
@[simp] theorem setDevice_cmap (v : Device) : (setDevice s k v).cmap = s.cmap := rfl
@[simp] theorem setDevice_service (v : Device) : (setDevice s k v).service = s.service := rfl
@[simp] theorem setDevice_rstN (v : Device) : (setDevice s k v).rstN = s.rstN := rfl
@[simp] theorem setDevice_fabric (v : Device) : (setDevice s k v).fabric = s.fabric := rfl
@[simp] theorem modDevice_eq (f : Device → Device) : modDevice s k f = setDevice s k (f (deviceAt s k)) := rfl

@[simp] theorem setHost_pending (v : HostDie) : (setHost s k v).pending = s.pending := rfl
@[simp] theorem setHost_fresh (v : HostDie) : (setHost s k v).fresh = s.fresh := rfl
@[simp] theorem setHost_order1T (v : HostDie) : (setHost s k v).order1T = s.order1T := rfl
@[simp] theorem setHost_time (v : HostDie) : (setHost s k v).time = s.time := rfl
@[simp] theorem setHost_cores (v : HostDie) : (setHost s k v).cores = s.cores := rfl
@[simp] theorem setHost_pstates (v : HostDie) : (setHost s k v).pstates = s.pstates := rfl
@[simp] theorem setHost_cat (v : HostDie) : (setHost s k v).cat = s.cat := rfl
@[simp] theorem setHost_catVersion (v : HostDie) : (setHost s k v).catVersion = s.catVersion := rfl
@[simp] theorem setHost_wins (v : HostDie) : (setHost s k v).wins = s.wins := rfl
@[simp] theorem setHost_groups (v : HostDie) : (setHost s k v).groups = s.groups := rfl
@[simp] theorem setHost_nodes (v : HostDie) : (setHost s k v).nodes = s.nodes := rfl
@[simp] theorem setHost_streams (v : HostDie) : (setHost s k v).streams = s.streams := rfl
@[simp] theorem setHost_gathers (v : HostDie) : (setHost s k v).gathers = s.gathers := rfl
@[simp] theorem setHost_packets (v : HostDie) : (setHost s k v).packets = s.packets := rfl
@[simp] theorem setHost_reqs (v : HostDie) : (setHost s k v).reqs = s.reqs := rfl
@[simp] theorem setHost_nextId (v : HostDie) : (setHost s k v).nextId = s.nextId := rfl
@[simp] theorem setHost_drains (v : HostDie) : (setHost s k v).drains = s.drains := rfl
@[simp] theorem setHost_ctrl (v : HostDie) : (setHost s k v).ctrl = s.ctrl := rfl
@[simp] theorem setHost_tiles (v : HostDie) : (setHost s k v).tiles = s.tiles := rfl
@[simp] theorem setHost_replays (v : HostDie) : (setHost s k v).replays = s.replays := rfl
@[simp] theorem setHost_arbs (v : HostDie) : (setHost s k v).arbs = s.arbs := rfl
@[simp] theorem setHost_lastBeat (v : HostDie) : (setHost s k v).lastBeat = s.lastBeat := rfl
@[simp] theorem setHost_tree (v : HostDie) : (setHost s k v).tree = s.tree := rfl
@[simp] theorem setHost_syncErr (v : HostDie) : (setHost s k v).syncErr = s.syncErr := rfl
@[simp] theorem setHost_fenced (v : HostDie) : (setHost s k v).fenced = s.fenced := rfl
@[simp] theorem setHost_mem (v : HostDie) : (setHost s k v).mem = s.mem := rfl
@[simp] theorem setHost_bad (v : HostDie) : (setHost s k v).bad = s.bad := rfl
@[simp] theorem setHost_slices (v : HostDie) : (setHost s k v).slices = s.slices := rfl
@[simp] theorem setHost_devices (v : HostDie) : (setHost s k v).devices = s.devices := rfl
@[simp] theorem setHost_loads (v : HostDie) : (setHost s k v).loads = s.loads := rfl
@[simp] theorem setHost_queues (v : HostDie) : (setHost s k v).queues = s.queues := rfl
@[simp] theorem setHost_units (v : HostDie) : (setHost s k v).units = s.units := rfl
@[simp] theorem setHost_spills (v : HostDie) : (setHost s k v).spills = s.spills := rfl
@[simp] theorem setHost_cmds (v : HostDie) : (setHost s k v).cmds = s.cmds := rfl
@[simp] theorem setHost_nextCmd (v : HostDie) : (setHost s k v).nextCmd = s.nextCmd := rfl
@[simp] theorem setHost_runs (v : HostDie) : (setHost s k v).runs = s.runs := rfl
@[simp] theorem setHost_mailboxes (v : HostDie) : (setHost s k v).mailboxes = s.mailboxes := rfl
@[simp] theorem setHost_hbSeq (v : HostDie) : (setHost s k v).hbSeq = s.hbSeq := rfl
@[simp] theorem setHost_hbValid (v : HostDie) : (setHost s k v).hbValid = s.hbValid := rfl
@[simp] theorem setHost_faults (v : HostDie) : (setHost s k v).faults = s.faults := rfl
@[simp] theorem setHost_faultSeq (v : HostDie) : (setHost s k v).faultSeq = s.faultSeq := rfl
@[simp] theorem setHost_transients (v : HostDie) : (setHost s k v).transients = s.transients := rfl
@[simp] theorem setHost_hourly (v : HostDie) : (setHost s k v).hourly = s.hourly := rfl
@[simp] theorem setHost_parts (v : HostDie) : (setHost s k v).parts = s.parts := rfl
@[simp] theorem setHost_limits (v : HostDie) : (setHost s k v).limits = s.limits := rfl
@[simp] theorem setHost_leadFails (v : HostDie) : (setHost s k v).leadFails = s.leadFails := rfl
@[simp] theorem setHost_provBF0 (v : HostDie) : (setHost s k v).provBF0 = s.provBF0 := rfl
@[simp] theorem setHost_provBF1 (v : HostDie) : (setHost s k v).provBF1 = s.provBF1 := rfl
@[simp] theorem setHost_provNext (v : HostDie) : (setHost s k v).provNext = s.provNext := rfl
@[simp] theorem setHost_retired (v : HostDie) : (setHost s k v).retired = s.retired := rfl
@[simp] theorem setHost_replaced (v : HostDie) : (setHost s k v).replaced = s.replaced := rfl
@[simp] theorem setHost_curators (v : HostDie) : (setHost s k v).curators = s.curators := rfl
@[simp] theorem setHost_lead (v : HostDie) : (setHost s k v).lead = s.lead := rfl
@[simp] theorem setHost_hasDeputy (v : HostDie) : (setHost s k v).hasDeputy = s.hasDeputy := rfl
@[simp] theorem setHost_straps (v : HostDie) : (setHost s k v).straps = s.straps := rfl
@[simp] theorem setHost_charter (v : HostDie) : (setHost s k v).charter = s.charter := rfl
@[simp] theorem setHost_sealed (v : HostDie) : (setHost s k v).sealed = s.sealed := rfl
@[simp] theorem setHost_start (v : HostDie) : (setHost s k v).start = s.start := rfl
@[simp] theorem setHost_hostsReleased (v : HostDie) : (setHost s k v).hostsReleased = s.hostsReleased := rfl
@[simp] theorem setHost_catReady (v : HostDie) : (setHost s k v).catReady = s.catReady := rfl
@[simp] theorem setHost_firmware (v : HostDie) : (setHost s k v).firmware = s.firmware := rfl
@[simp] theorem setHost_microcode (v : HostDie) : (setHost s k v).microcode = s.microcode := rfl
@[simp] theorem setHost_bf0 (v : HostDie) : (setHost s k v).bf0 = s.bf0 := rfl
@[simp] theorem setHost_bf1 (v : HostDie) : (setHost s k v).bf1 = s.bf1 := rfl
@[simp] theorem setHost_counter (v : HostDie) : (setHost s k v).counter = s.counter := rfl
@[simp] theorem setHost_trainCache (v : HostDie) : (setHost s k v).trainCache = s.trainCache := rfl
@[simp] theorem setHost_ident (v : HostDie) : (setHost s k v).ident = s.ident := rfl
@[simp] theorem setHost_refclk (v : HostDie) : (setHost s k v).refclk = s.refclk := rfl
@[simp] theorem setHost_clk (v : HostDie) : (setHost s k v).clk = s.clk := rfl
@[simp] theorem setHost_pwr (v : HostDie) : (setHost s k v).pwr = s.pwr := rfl
@[simp] theorem setHost_tpwr (v : HostDie) : (setHost s k v).tpwr = s.tpwr := rfl
@[simp] theorem setHost_tileReg (v : HostDie) : (setHost s k v).tileReg = s.tileReg := rfl
@[simp] theorem setHost_power (v : HostDie) : (setHost s k v).power = s.power := rfl
@[simp] theorem setHost_thermal (v : HostDie) : (setHost s k v).thermal = s.thermal := rfl
@[simp] theorem setHost_monitors (v : HostDie) : (setHost s k v).monitors = s.monitors := rfl
@[simp] theorem setHost_coreMonitors (v : HostDie) : (setHost s k v).coreMonitors = s.coreMonitors := rfl
@[simp] theorem setHost_cmap (v : HostDie) : (setHost s k v).cmap = s.cmap := rfl
@[simp] theorem setHost_service (v : HostDie) : (setHost s k v).service = s.service := rfl
@[simp] theorem setHost_rstN (v : HostDie) : (setHost s k v).rstN = s.rstN := rfl
@[simp] theorem setHost_fabric (v : HostDie) : (setHost s k v).fabric = s.fabric := rfl
@[simp] theorem modHost_eq (f : HostDie → HostDie) : modHost s k f = setHost s k (f (hostAt s k)) := rfl

@[simp] theorem setQueue_pending (v : Queue) : (setQueue s k v).pending = s.pending := rfl
@[simp] theorem setQueue_fresh (v : Queue) : (setQueue s k v).fresh = s.fresh := rfl
@[simp] theorem setQueue_order1T (v : Queue) : (setQueue s k v).order1T = s.order1T := rfl
@[simp] theorem setQueue_time (v : Queue) : (setQueue s k v).time = s.time := rfl
@[simp] theorem setQueue_cores (v : Queue) : (setQueue s k v).cores = s.cores := rfl
@[simp] theorem setQueue_pstates (v : Queue) : (setQueue s k v).pstates = s.pstates := rfl
@[simp] theorem setQueue_cat (v : Queue) : (setQueue s k v).cat = s.cat := rfl
@[simp] theorem setQueue_catVersion (v : Queue) : (setQueue s k v).catVersion = s.catVersion := rfl
@[simp] theorem setQueue_wins (v : Queue) : (setQueue s k v).wins = s.wins := rfl
@[simp] theorem setQueue_groups (v : Queue) : (setQueue s k v).groups = s.groups := rfl
@[simp] theorem setQueue_nodes (v : Queue) : (setQueue s k v).nodes = s.nodes := rfl
@[simp] theorem setQueue_streams (v : Queue) : (setQueue s k v).streams = s.streams := rfl
@[simp] theorem setQueue_gathers (v : Queue) : (setQueue s k v).gathers = s.gathers := rfl
@[simp] theorem setQueue_packets (v : Queue) : (setQueue s k v).packets = s.packets := rfl
@[simp] theorem setQueue_reqs (v : Queue) : (setQueue s k v).reqs = s.reqs := rfl
@[simp] theorem setQueue_nextId (v : Queue) : (setQueue s k v).nextId = s.nextId := rfl
@[simp] theorem setQueue_drains (v : Queue) : (setQueue s k v).drains = s.drains := rfl
@[simp] theorem setQueue_ctrl (v : Queue) : (setQueue s k v).ctrl = s.ctrl := rfl
@[simp] theorem setQueue_tiles (v : Queue) : (setQueue s k v).tiles = s.tiles := rfl
@[simp] theorem setQueue_replays (v : Queue) : (setQueue s k v).replays = s.replays := rfl
@[simp] theorem setQueue_arbs (v : Queue) : (setQueue s k v).arbs = s.arbs := rfl
@[simp] theorem setQueue_lastBeat (v : Queue) : (setQueue s k v).lastBeat = s.lastBeat := rfl
@[simp] theorem setQueue_tree (v : Queue) : (setQueue s k v).tree = s.tree := rfl
@[simp] theorem setQueue_syncErr (v : Queue) : (setQueue s k v).syncErr = s.syncErr := rfl
@[simp] theorem setQueue_fenced (v : Queue) : (setQueue s k v).fenced = s.fenced := rfl
@[simp] theorem setQueue_mem (v : Queue) : (setQueue s k v).mem = s.mem := rfl
@[simp] theorem setQueue_bad (v : Queue) : (setQueue s k v).bad = s.bad := rfl
@[simp] theorem setQueue_slices (v : Queue) : (setQueue s k v).slices = s.slices := rfl
@[simp] theorem setQueue_devices (v : Queue) : (setQueue s k v).devices = s.devices := rfl
@[simp] theorem setQueue_hosts (v : Queue) : (setQueue s k v).hosts = s.hosts := rfl
@[simp] theorem setQueue_loads (v : Queue) : (setQueue s k v).loads = s.loads := rfl
@[simp] theorem setQueue_units (v : Queue) : (setQueue s k v).units = s.units := rfl
@[simp] theorem setQueue_spills (v : Queue) : (setQueue s k v).spills = s.spills := rfl
@[simp] theorem setQueue_cmds (v : Queue) : (setQueue s k v).cmds = s.cmds := rfl
@[simp] theorem setQueue_nextCmd (v : Queue) : (setQueue s k v).nextCmd = s.nextCmd := rfl
@[simp] theorem setQueue_runs (v : Queue) : (setQueue s k v).runs = s.runs := rfl
@[simp] theorem setQueue_mailboxes (v : Queue) : (setQueue s k v).mailboxes = s.mailboxes := rfl
@[simp] theorem setQueue_hbSeq (v : Queue) : (setQueue s k v).hbSeq = s.hbSeq := rfl
@[simp] theorem setQueue_hbValid (v : Queue) : (setQueue s k v).hbValid = s.hbValid := rfl
@[simp] theorem setQueue_faults (v : Queue) : (setQueue s k v).faults = s.faults := rfl
@[simp] theorem setQueue_faultSeq (v : Queue) : (setQueue s k v).faultSeq = s.faultSeq := rfl
@[simp] theorem setQueue_transients (v : Queue) : (setQueue s k v).transients = s.transients := rfl
@[simp] theorem setQueue_hourly (v : Queue) : (setQueue s k v).hourly = s.hourly := rfl
@[simp] theorem setQueue_parts (v : Queue) : (setQueue s k v).parts = s.parts := rfl
@[simp] theorem setQueue_limits (v : Queue) : (setQueue s k v).limits = s.limits := rfl
@[simp] theorem setQueue_leadFails (v : Queue) : (setQueue s k v).leadFails = s.leadFails := rfl
@[simp] theorem setQueue_provBF0 (v : Queue) : (setQueue s k v).provBF0 = s.provBF0 := rfl
@[simp] theorem setQueue_provBF1 (v : Queue) : (setQueue s k v).provBF1 = s.provBF1 := rfl
@[simp] theorem setQueue_provNext (v : Queue) : (setQueue s k v).provNext = s.provNext := rfl
@[simp] theorem setQueue_retired (v : Queue) : (setQueue s k v).retired = s.retired := rfl
@[simp] theorem setQueue_replaced (v : Queue) : (setQueue s k v).replaced = s.replaced := rfl
@[simp] theorem setQueue_curators (v : Queue) : (setQueue s k v).curators = s.curators := rfl
@[simp] theorem setQueue_lead (v : Queue) : (setQueue s k v).lead = s.lead := rfl
@[simp] theorem setQueue_hasDeputy (v : Queue) : (setQueue s k v).hasDeputy = s.hasDeputy := rfl
@[simp] theorem setQueue_straps (v : Queue) : (setQueue s k v).straps = s.straps := rfl
@[simp] theorem setQueue_charter (v : Queue) : (setQueue s k v).charter = s.charter := rfl
@[simp] theorem setQueue_sealed (v : Queue) : (setQueue s k v).sealed = s.sealed := rfl
@[simp] theorem setQueue_start (v : Queue) : (setQueue s k v).start = s.start := rfl
@[simp] theorem setQueue_hostsReleased (v : Queue) : (setQueue s k v).hostsReleased = s.hostsReleased := rfl
@[simp] theorem setQueue_catReady (v : Queue) : (setQueue s k v).catReady = s.catReady := rfl
@[simp] theorem setQueue_firmware (v : Queue) : (setQueue s k v).firmware = s.firmware := rfl
@[simp] theorem setQueue_microcode (v : Queue) : (setQueue s k v).microcode = s.microcode := rfl
@[simp] theorem setQueue_bf0 (v : Queue) : (setQueue s k v).bf0 = s.bf0 := rfl
@[simp] theorem setQueue_bf1 (v : Queue) : (setQueue s k v).bf1 = s.bf1 := rfl
@[simp] theorem setQueue_counter (v : Queue) : (setQueue s k v).counter = s.counter := rfl
@[simp] theorem setQueue_trainCache (v : Queue) : (setQueue s k v).trainCache = s.trainCache := rfl
@[simp] theorem setQueue_ident (v : Queue) : (setQueue s k v).ident = s.ident := rfl
@[simp] theorem setQueue_refclk (v : Queue) : (setQueue s k v).refclk = s.refclk := rfl
@[simp] theorem setQueue_clk (v : Queue) : (setQueue s k v).clk = s.clk := rfl
@[simp] theorem setQueue_pwr (v : Queue) : (setQueue s k v).pwr = s.pwr := rfl
@[simp] theorem setQueue_tpwr (v : Queue) : (setQueue s k v).tpwr = s.tpwr := rfl
@[simp] theorem setQueue_tileReg (v : Queue) : (setQueue s k v).tileReg = s.tileReg := rfl
@[simp] theorem setQueue_power (v : Queue) : (setQueue s k v).power = s.power := rfl
@[simp] theorem setQueue_thermal (v : Queue) : (setQueue s k v).thermal = s.thermal := rfl
@[simp] theorem setQueue_monitors (v : Queue) : (setQueue s k v).monitors = s.monitors := rfl
@[simp] theorem setQueue_coreMonitors (v : Queue) : (setQueue s k v).coreMonitors = s.coreMonitors := rfl
@[simp] theorem setQueue_cmap (v : Queue) : (setQueue s k v).cmap = s.cmap := rfl
@[simp] theorem setQueue_service (v : Queue) : (setQueue s k v).service = s.service := rfl
@[simp] theorem setQueue_rstN (v : Queue) : (setQueue s k v).rstN = s.rstN := rfl
@[simp] theorem setQueue_fabric (v : Queue) : (setQueue s k v).fabric = s.fabric := rfl
@[simp] theorem modQueue_eq (f : Queue → Queue) : modQueue s k f = setQueue s k (f (queueAt s k)) := rfl

@[simp] theorem setUnit_pending (v : CmdUnit) : (setUnit s k v).pending = s.pending := rfl
@[simp] theorem setUnit_fresh (v : CmdUnit) : (setUnit s k v).fresh = s.fresh := rfl
@[simp] theorem setUnit_order1T (v : CmdUnit) : (setUnit s k v).order1T = s.order1T := rfl
@[simp] theorem setUnit_time (v : CmdUnit) : (setUnit s k v).time = s.time := rfl
@[simp] theorem setUnit_cores (v : CmdUnit) : (setUnit s k v).cores = s.cores := rfl
@[simp] theorem setUnit_pstates (v : CmdUnit) : (setUnit s k v).pstates = s.pstates := rfl
@[simp] theorem setUnit_cat (v : CmdUnit) : (setUnit s k v).cat = s.cat := rfl
@[simp] theorem setUnit_catVersion (v : CmdUnit) : (setUnit s k v).catVersion = s.catVersion := rfl
@[simp] theorem setUnit_wins (v : CmdUnit) : (setUnit s k v).wins = s.wins := rfl
@[simp] theorem setUnit_groups (v : CmdUnit) : (setUnit s k v).groups = s.groups := rfl
@[simp] theorem setUnit_nodes (v : CmdUnit) : (setUnit s k v).nodes = s.nodes := rfl
@[simp] theorem setUnit_streams (v : CmdUnit) : (setUnit s k v).streams = s.streams := rfl
@[simp] theorem setUnit_gathers (v : CmdUnit) : (setUnit s k v).gathers = s.gathers := rfl
@[simp] theorem setUnit_packets (v : CmdUnit) : (setUnit s k v).packets = s.packets := rfl
@[simp] theorem setUnit_reqs (v : CmdUnit) : (setUnit s k v).reqs = s.reqs := rfl
@[simp] theorem setUnit_nextId (v : CmdUnit) : (setUnit s k v).nextId = s.nextId := rfl
@[simp] theorem setUnit_drains (v : CmdUnit) : (setUnit s k v).drains = s.drains := rfl
@[simp] theorem setUnit_ctrl (v : CmdUnit) : (setUnit s k v).ctrl = s.ctrl := rfl
@[simp] theorem setUnit_tiles (v : CmdUnit) : (setUnit s k v).tiles = s.tiles := rfl
@[simp] theorem setUnit_replays (v : CmdUnit) : (setUnit s k v).replays = s.replays := rfl
@[simp] theorem setUnit_arbs (v : CmdUnit) : (setUnit s k v).arbs = s.arbs := rfl
@[simp] theorem setUnit_lastBeat (v : CmdUnit) : (setUnit s k v).lastBeat = s.lastBeat := rfl
@[simp] theorem setUnit_tree (v : CmdUnit) : (setUnit s k v).tree = s.tree := rfl
@[simp] theorem setUnit_syncErr (v : CmdUnit) : (setUnit s k v).syncErr = s.syncErr := rfl
@[simp] theorem setUnit_fenced (v : CmdUnit) : (setUnit s k v).fenced = s.fenced := rfl
@[simp] theorem setUnit_mem (v : CmdUnit) : (setUnit s k v).mem = s.mem := rfl
@[simp] theorem setUnit_bad (v : CmdUnit) : (setUnit s k v).bad = s.bad := rfl
@[simp] theorem setUnit_slices (v : CmdUnit) : (setUnit s k v).slices = s.slices := rfl
@[simp] theorem setUnit_devices (v : CmdUnit) : (setUnit s k v).devices = s.devices := rfl
@[simp] theorem setUnit_hosts (v : CmdUnit) : (setUnit s k v).hosts = s.hosts := rfl
@[simp] theorem setUnit_loads (v : CmdUnit) : (setUnit s k v).loads = s.loads := rfl
@[simp] theorem setUnit_queues (v : CmdUnit) : (setUnit s k v).queues = s.queues := rfl
@[simp] theorem setUnit_spills (v : CmdUnit) : (setUnit s k v).spills = s.spills := rfl
@[simp] theorem setUnit_cmds (v : CmdUnit) : (setUnit s k v).cmds = s.cmds := rfl
@[simp] theorem setUnit_nextCmd (v : CmdUnit) : (setUnit s k v).nextCmd = s.nextCmd := rfl
@[simp] theorem setUnit_runs (v : CmdUnit) : (setUnit s k v).runs = s.runs := rfl
@[simp] theorem setUnit_mailboxes (v : CmdUnit) : (setUnit s k v).mailboxes = s.mailboxes := rfl
@[simp] theorem setUnit_hbSeq (v : CmdUnit) : (setUnit s k v).hbSeq = s.hbSeq := rfl
@[simp] theorem setUnit_hbValid (v : CmdUnit) : (setUnit s k v).hbValid = s.hbValid := rfl
@[simp] theorem setUnit_faults (v : CmdUnit) : (setUnit s k v).faults = s.faults := rfl
@[simp] theorem setUnit_faultSeq (v : CmdUnit) : (setUnit s k v).faultSeq = s.faultSeq := rfl
@[simp] theorem setUnit_transients (v : CmdUnit) : (setUnit s k v).transients = s.transients := rfl
@[simp] theorem setUnit_hourly (v : CmdUnit) : (setUnit s k v).hourly = s.hourly := rfl
@[simp] theorem setUnit_parts (v : CmdUnit) : (setUnit s k v).parts = s.parts := rfl
@[simp] theorem setUnit_limits (v : CmdUnit) : (setUnit s k v).limits = s.limits := rfl
@[simp] theorem setUnit_leadFails (v : CmdUnit) : (setUnit s k v).leadFails = s.leadFails := rfl
@[simp] theorem setUnit_provBF0 (v : CmdUnit) : (setUnit s k v).provBF0 = s.provBF0 := rfl
@[simp] theorem setUnit_provBF1 (v : CmdUnit) : (setUnit s k v).provBF1 = s.provBF1 := rfl
@[simp] theorem setUnit_provNext (v : CmdUnit) : (setUnit s k v).provNext = s.provNext := rfl
@[simp] theorem setUnit_retired (v : CmdUnit) : (setUnit s k v).retired = s.retired := rfl
@[simp] theorem setUnit_replaced (v : CmdUnit) : (setUnit s k v).replaced = s.replaced := rfl
@[simp] theorem setUnit_curators (v : CmdUnit) : (setUnit s k v).curators = s.curators := rfl
@[simp] theorem setUnit_lead (v : CmdUnit) : (setUnit s k v).lead = s.lead := rfl
@[simp] theorem setUnit_hasDeputy (v : CmdUnit) : (setUnit s k v).hasDeputy = s.hasDeputy := rfl
@[simp] theorem setUnit_straps (v : CmdUnit) : (setUnit s k v).straps = s.straps := rfl
@[simp] theorem setUnit_charter (v : CmdUnit) : (setUnit s k v).charter = s.charter := rfl
@[simp] theorem setUnit_sealed (v : CmdUnit) : (setUnit s k v).sealed = s.sealed := rfl
@[simp] theorem setUnit_start (v : CmdUnit) : (setUnit s k v).start = s.start := rfl
@[simp] theorem setUnit_hostsReleased (v : CmdUnit) : (setUnit s k v).hostsReleased = s.hostsReleased := rfl
@[simp] theorem setUnit_catReady (v : CmdUnit) : (setUnit s k v).catReady = s.catReady := rfl
@[simp] theorem setUnit_firmware (v : CmdUnit) : (setUnit s k v).firmware = s.firmware := rfl
@[simp] theorem setUnit_microcode (v : CmdUnit) : (setUnit s k v).microcode = s.microcode := rfl
@[simp] theorem setUnit_bf0 (v : CmdUnit) : (setUnit s k v).bf0 = s.bf0 := rfl
@[simp] theorem setUnit_bf1 (v : CmdUnit) : (setUnit s k v).bf1 = s.bf1 := rfl
@[simp] theorem setUnit_counter (v : CmdUnit) : (setUnit s k v).counter = s.counter := rfl
@[simp] theorem setUnit_trainCache (v : CmdUnit) : (setUnit s k v).trainCache = s.trainCache := rfl
@[simp] theorem setUnit_ident (v : CmdUnit) : (setUnit s k v).ident = s.ident := rfl
@[simp] theorem setUnit_refclk (v : CmdUnit) : (setUnit s k v).refclk = s.refclk := rfl
@[simp] theorem setUnit_clk (v : CmdUnit) : (setUnit s k v).clk = s.clk := rfl
@[simp] theorem setUnit_pwr (v : CmdUnit) : (setUnit s k v).pwr = s.pwr := rfl
@[simp] theorem setUnit_tpwr (v : CmdUnit) : (setUnit s k v).tpwr = s.tpwr := rfl
@[simp] theorem setUnit_tileReg (v : CmdUnit) : (setUnit s k v).tileReg = s.tileReg := rfl
@[simp] theorem setUnit_power (v : CmdUnit) : (setUnit s k v).power = s.power := rfl
@[simp] theorem setUnit_thermal (v : CmdUnit) : (setUnit s k v).thermal = s.thermal := rfl
@[simp] theorem setUnit_monitors (v : CmdUnit) : (setUnit s k v).monitors = s.monitors := rfl
@[simp] theorem setUnit_coreMonitors (v : CmdUnit) : (setUnit s k v).coreMonitors = s.coreMonitors := rfl
@[simp] theorem setUnit_cmap (v : CmdUnit) : (setUnit s k v).cmap = s.cmap := rfl
@[simp] theorem setUnit_service (v : CmdUnit) : (setUnit s k v).service = s.service := rfl
@[simp] theorem setUnit_rstN (v : CmdUnit) : (setUnit s k v).rstN = s.rstN := rfl
@[simp] theorem setUnit_fabric (v : CmdUnit) : (setUnit s k v).fabric = s.fabric := rfl
@[simp] theorem modUnit_eq (f : CmdUnit → CmdUnit) : modUnit s k f = setUnit s k (f (unitAt s k)) := rfl

@[simp] theorem setMailbox_pending (v : Mailbox) : (setMailbox s k v).pending = s.pending := rfl
@[simp] theorem setMailbox_fresh (v : Mailbox) : (setMailbox s k v).fresh = s.fresh := rfl
@[simp] theorem setMailbox_order1T (v : Mailbox) : (setMailbox s k v).order1T = s.order1T := rfl
@[simp] theorem setMailbox_time (v : Mailbox) : (setMailbox s k v).time = s.time := rfl
@[simp] theorem setMailbox_cores (v : Mailbox) : (setMailbox s k v).cores = s.cores := rfl
@[simp] theorem setMailbox_pstates (v : Mailbox) : (setMailbox s k v).pstates = s.pstates := rfl
@[simp] theorem setMailbox_cat (v : Mailbox) : (setMailbox s k v).cat = s.cat := rfl
@[simp] theorem setMailbox_catVersion (v : Mailbox) : (setMailbox s k v).catVersion = s.catVersion := rfl
@[simp] theorem setMailbox_wins (v : Mailbox) : (setMailbox s k v).wins = s.wins := rfl
@[simp] theorem setMailbox_groups (v : Mailbox) : (setMailbox s k v).groups = s.groups := rfl
@[simp] theorem setMailbox_nodes (v : Mailbox) : (setMailbox s k v).nodes = s.nodes := rfl
@[simp] theorem setMailbox_streams (v : Mailbox) : (setMailbox s k v).streams = s.streams := rfl
@[simp] theorem setMailbox_gathers (v : Mailbox) : (setMailbox s k v).gathers = s.gathers := rfl
@[simp] theorem setMailbox_packets (v : Mailbox) : (setMailbox s k v).packets = s.packets := rfl
@[simp] theorem setMailbox_reqs (v : Mailbox) : (setMailbox s k v).reqs = s.reqs := rfl
@[simp] theorem setMailbox_nextId (v : Mailbox) : (setMailbox s k v).nextId = s.nextId := rfl
@[simp] theorem setMailbox_drains (v : Mailbox) : (setMailbox s k v).drains = s.drains := rfl
@[simp] theorem setMailbox_ctrl (v : Mailbox) : (setMailbox s k v).ctrl = s.ctrl := rfl
@[simp] theorem setMailbox_tiles (v : Mailbox) : (setMailbox s k v).tiles = s.tiles := rfl
@[simp] theorem setMailbox_replays (v : Mailbox) : (setMailbox s k v).replays = s.replays := rfl
@[simp] theorem setMailbox_arbs (v : Mailbox) : (setMailbox s k v).arbs = s.arbs := rfl
@[simp] theorem setMailbox_lastBeat (v : Mailbox) : (setMailbox s k v).lastBeat = s.lastBeat := rfl
@[simp] theorem setMailbox_tree (v : Mailbox) : (setMailbox s k v).tree = s.tree := rfl
@[simp] theorem setMailbox_syncErr (v : Mailbox) : (setMailbox s k v).syncErr = s.syncErr := rfl
@[simp] theorem setMailbox_fenced (v : Mailbox) : (setMailbox s k v).fenced = s.fenced := rfl
@[simp] theorem setMailbox_mem (v : Mailbox) : (setMailbox s k v).mem = s.mem := rfl
@[simp] theorem setMailbox_bad (v : Mailbox) : (setMailbox s k v).bad = s.bad := rfl
@[simp] theorem setMailbox_slices (v : Mailbox) : (setMailbox s k v).slices = s.slices := rfl
@[simp] theorem setMailbox_devices (v : Mailbox) : (setMailbox s k v).devices = s.devices := rfl
@[simp] theorem setMailbox_hosts (v : Mailbox) : (setMailbox s k v).hosts = s.hosts := rfl
@[simp] theorem setMailbox_loads (v : Mailbox) : (setMailbox s k v).loads = s.loads := rfl
@[simp] theorem setMailbox_queues (v : Mailbox) : (setMailbox s k v).queues = s.queues := rfl
@[simp] theorem setMailbox_units (v : Mailbox) : (setMailbox s k v).units = s.units := rfl
@[simp] theorem setMailbox_spills (v : Mailbox) : (setMailbox s k v).spills = s.spills := rfl
@[simp] theorem setMailbox_cmds (v : Mailbox) : (setMailbox s k v).cmds = s.cmds := rfl
@[simp] theorem setMailbox_nextCmd (v : Mailbox) : (setMailbox s k v).nextCmd = s.nextCmd := rfl
@[simp] theorem setMailbox_runs (v : Mailbox) : (setMailbox s k v).runs = s.runs := rfl
@[simp] theorem setMailbox_hbSeq (v : Mailbox) : (setMailbox s k v).hbSeq = s.hbSeq := rfl
@[simp] theorem setMailbox_hbValid (v : Mailbox) : (setMailbox s k v).hbValid = s.hbValid := rfl
@[simp] theorem setMailbox_faults (v : Mailbox) : (setMailbox s k v).faults = s.faults := rfl
@[simp] theorem setMailbox_faultSeq (v : Mailbox) : (setMailbox s k v).faultSeq = s.faultSeq := rfl
@[simp] theorem setMailbox_transients (v : Mailbox) : (setMailbox s k v).transients = s.transients := rfl
@[simp] theorem setMailbox_hourly (v : Mailbox) : (setMailbox s k v).hourly = s.hourly := rfl
@[simp] theorem setMailbox_parts (v : Mailbox) : (setMailbox s k v).parts = s.parts := rfl
@[simp] theorem setMailbox_limits (v : Mailbox) : (setMailbox s k v).limits = s.limits := rfl
@[simp] theorem setMailbox_leadFails (v : Mailbox) : (setMailbox s k v).leadFails = s.leadFails := rfl
@[simp] theorem setMailbox_provBF0 (v : Mailbox) : (setMailbox s k v).provBF0 = s.provBF0 := rfl
@[simp] theorem setMailbox_provBF1 (v : Mailbox) : (setMailbox s k v).provBF1 = s.provBF1 := rfl
@[simp] theorem setMailbox_provNext (v : Mailbox) : (setMailbox s k v).provNext = s.provNext := rfl
@[simp] theorem setMailbox_retired (v : Mailbox) : (setMailbox s k v).retired = s.retired := rfl
@[simp] theorem setMailbox_replaced (v : Mailbox) : (setMailbox s k v).replaced = s.replaced := rfl
@[simp] theorem setMailbox_curators (v : Mailbox) : (setMailbox s k v).curators = s.curators := rfl
@[simp] theorem setMailbox_lead (v : Mailbox) : (setMailbox s k v).lead = s.lead := rfl
@[simp] theorem setMailbox_hasDeputy (v : Mailbox) : (setMailbox s k v).hasDeputy = s.hasDeputy := rfl
@[simp] theorem setMailbox_straps (v : Mailbox) : (setMailbox s k v).straps = s.straps := rfl
@[simp] theorem setMailbox_charter (v : Mailbox) : (setMailbox s k v).charter = s.charter := rfl
@[simp] theorem setMailbox_sealed (v : Mailbox) : (setMailbox s k v).sealed = s.sealed := rfl
@[simp] theorem setMailbox_start (v : Mailbox) : (setMailbox s k v).start = s.start := rfl
@[simp] theorem setMailbox_hostsReleased (v : Mailbox) : (setMailbox s k v).hostsReleased = s.hostsReleased := rfl
@[simp] theorem setMailbox_catReady (v : Mailbox) : (setMailbox s k v).catReady = s.catReady := rfl
@[simp] theorem setMailbox_firmware (v : Mailbox) : (setMailbox s k v).firmware = s.firmware := rfl
@[simp] theorem setMailbox_microcode (v : Mailbox) : (setMailbox s k v).microcode = s.microcode := rfl
@[simp] theorem setMailbox_bf0 (v : Mailbox) : (setMailbox s k v).bf0 = s.bf0 := rfl
@[simp] theorem setMailbox_bf1 (v : Mailbox) : (setMailbox s k v).bf1 = s.bf1 := rfl
@[simp] theorem setMailbox_counter (v : Mailbox) : (setMailbox s k v).counter = s.counter := rfl
@[simp] theorem setMailbox_trainCache (v : Mailbox) : (setMailbox s k v).trainCache = s.trainCache := rfl
@[simp] theorem setMailbox_ident (v : Mailbox) : (setMailbox s k v).ident = s.ident := rfl
@[simp] theorem setMailbox_refclk (v : Mailbox) : (setMailbox s k v).refclk = s.refclk := rfl
@[simp] theorem setMailbox_clk (v : Mailbox) : (setMailbox s k v).clk = s.clk := rfl
@[simp] theorem setMailbox_pwr (v : Mailbox) : (setMailbox s k v).pwr = s.pwr := rfl
@[simp] theorem setMailbox_tpwr (v : Mailbox) : (setMailbox s k v).tpwr = s.tpwr := rfl
@[simp] theorem setMailbox_tileReg (v : Mailbox) : (setMailbox s k v).tileReg = s.tileReg := rfl
@[simp] theorem setMailbox_power (v : Mailbox) : (setMailbox s k v).power = s.power := rfl
@[simp] theorem setMailbox_thermal (v : Mailbox) : (setMailbox s k v).thermal = s.thermal := rfl
@[simp] theorem setMailbox_monitors (v : Mailbox) : (setMailbox s k v).monitors = s.monitors := rfl
@[simp] theorem setMailbox_coreMonitors (v : Mailbox) : (setMailbox s k v).coreMonitors = s.coreMonitors := rfl
@[simp] theorem setMailbox_cmap (v : Mailbox) : (setMailbox s k v).cmap = s.cmap := rfl
@[simp] theorem setMailbox_service (v : Mailbox) : (setMailbox s k v).service = s.service := rfl
@[simp] theorem setMailbox_rstN (v : Mailbox) : (setMailbox s k v).rstN = s.rstN := rfl
@[simp] theorem setMailbox_fabric (v : Mailbox) : (setMailbox s k v).fabric = s.fabric := rfl
@[simp] theorem modMailbox_eq (f : Mailbox → Mailbox) : modMailbox s k f = setMailbox s k (f (mailboxAt s k)) := rfl

@[simp] theorem setTransient_pending (v : Transient) : (setTransient s k v).pending = s.pending := rfl
@[simp] theorem setTransient_fresh (v : Transient) : (setTransient s k v).fresh = s.fresh := rfl
@[simp] theorem setTransient_order1T (v : Transient) : (setTransient s k v).order1T = s.order1T := rfl
@[simp] theorem setTransient_time (v : Transient) : (setTransient s k v).time = s.time := rfl
@[simp] theorem setTransient_cores (v : Transient) : (setTransient s k v).cores = s.cores := rfl
@[simp] theorem setTransient_pstates (v : Transient) : (setTransient s k v).pstates = s.pstates := rfl
@[simp] theorem setTransient_cat (v : Transient) : (setTransient s k v).cat = s.cat := rfl
@[simp] theorem setTransient_catVersion (v : Transient) : (setTransient s k v).catVersion = s.catVersion := rfl
@[simp] theorem setTransient_wins (v : Transient) : (setTransient s k v).wins = s.wins := rfl
@[simp] theorem setTransient_groups (v : Transient) : (setTransient s k v).groups = s.groups := rfl
@[simp] theorem setTransient_nodes (v : Transient) : (setTransient s k v).nodes = s.nodes := rfl
@[simp] theorem setTransient_streams (v : Transient) : (setTransient s k v).streams = s.streams := rfl
@[simp] theorem setTransient_gathers (v : Transient) : (setTransient s k v).gathers = s.gathers := rfl
@[simp] theorem setTransient_packets (v : Transient) : (setTransient s k v).packets = s.packets := rfl
@[simp] theorem setTransient_reqs (v : Transient) : (setTransient s k v).reqs = s.reqs := rfl
@[simp] theorem setTransient_nextId (v : Transient) : (setTransient s k v).nextId = s.nextId := rfl
@[simp] theorem setTransient_drains (v : Transient) : (setTransient s k v).drains = s.drains := rfl
@[simp] theorem setTransient_ctrl (v : Transient) : (setTransient s k v).ctrl = s.ctrl := rfl
@[simp] theorem setTransient_tiles (v : Transient) : (setTransient s k v).tiles = s.tiles := rfl
@[simp] theorem setTransient_replays (v : Transient) : (setTransient s k v).replays = s.replays := rfl
@[simp] theorem setTransient_arbs (v : Transient) : (setTransient s k v).arbs = s.arbs := rfl
@[simp] theorem setTransient_lastBeat (v : Transient) : (setTransient s k v).lastBeat = s.lastBeat := rfl
@[simp] theorem setTransient_tree (v : Transient) : (setTransient s k v).tree = s.tree := rfl
@[simp] theorem setTransient_syncErr (v : Transient) : (setTransient s k v).syncErr = s.syncErr := rfl
@[simp] theorem setTransient_fenced (v : Transient) : (setTransient s k v).fenced = s.fenced := rfl
@[simp] theorem setTransient_mem (v : Transient) : (setTransient s k v).mem = s.mem := rfl
@[simp] theorem setTransient_bad (v : Transient) : (setTransient s k v).bad = s.bad := rfl
@[simp] theorem setTransient_slices (v : Transient) : (setTransient s k v).slices = s.slices := rfl
@[simp] theorem setTransient_devices (v : Transient) : (setTransient s k v).devices = s.devices := rfl
@[simp] theorem setTransient_hosts (v : Transient) : (setTransient s k v).hosts = s.hosts := rfl
@[simp] theorem setTransient_loads (v : Transient) : (setTransient s k v).loads = s.loads := rfl
@[simp] theorem setTransient_queues (v : Transient) : (setTransient s k v).queues = s.queues := rfl
@[simp] theorem setTransient_units (v : Transient) : (setTransient s k v).units = s.units := rfl
@[simp] theorem setTransient_spills (v : Transient) : (setTransient s k v).spills = s.spills := rfl
@[simp] theorem setTransient_cmds (v : Transient) : (setTransient s k v).cmds = s.cmds := rfl
@[simp] theorem setTransient_nextCmd (v : Transient) : (setTransient s k v).nextCmd = s.nextCmd := rfl
@[simp] theorem setTransient_runs (v : Transient) : (setTransient s k v).runs = s.runs := rfl
@[simp] theorem setTransient_mailboxes (v : Transient) : (setTransient s k v).mailboxes = s.mailboxes := rfl
@[simp] theorem setTransient_hbSeq (v : Transient) : (setTransient s k v).hbSeq = s.hbSeq := rfl
@[simp] theorem setTransient_hbValid (v : Transient) : (setTransient s k v).hbValid = s.hbValid := rfl
@[simp] theorem setTransient_faults (v : Transient) : (setTransient s k v).faults = s.faults := rfl
@[simp] theorem setTransient_faultSeq (v : Transient) : (setTransient s k v).faultSeq = s.faultSeq := rfl
@[simp] theorem setTransient_hourly (v : Transient) : (setTransient s k v).hourly = s.hourly := rfl
@[simp] theorem setTransient_parts (v : Transient) : (setTransient s k v).parts = s.parts := rfl
@[simp] theorem setTransient_limits (v : Transient) : (setTransient s k v).limits = s.limits := rfl
@[simp] theorem setTransient_leadFails (v : Transient) : (setTransient s k v).leadFails = s.leadFails := rfl
@[simp] theorem setTransient_provBF0 (v : Transient) : (setTransient s k v).provBF0 = s.provBF0 := rfl
@[simp] theorem setTransient_provBF1 (v : Transient) : (setTransient s k v).provBF1 = s.provBF1 := rfl
@[simp] theorem setTransient_provNext (v : Transient) : (setTransient s k v).provNext = s.provNext := rfl
@[simp] theorem setTransient_retired (v : Transient) : (setTransient s k v).retired = s.retired := rfl
@[simp] theorem setTransient_replaced (v : Transient) : (setTransient s k v).replaced = s.replaced := rfl
@[simp] theorem setTransient_curators (v : Transient) : (setTransient s k v).curators = s.curators := rfl
@[simp] theorem setTransient_lead (v : Transient) : (setTransient s k v).lead = s.lead := rfl
@[simp] theorem setTransient_hasDeputy (v : Transient) : (setTransient s k v).hasDeputy = s.hasDeputy := rfl
@[simp] theorem setTransient_straps (v : Transient) : (setTransient s k v).straps = s.straps := rfl
@[simp] theorem setTransient_charter (v : Transient) : (setTransient s k v).charter = s.charter := rfl
@[simp] theorem setTransient_sealed (v : Transient) : (setTransient s k v).sealed = s.sealed := rfl
@[simp] theorem setTransient_start (v : Transient) : (setTransient s k v).start = s.start := rfl
@[simp] theorem setTransient_hostsReleased (v : Transient) : (setTransient s k v).hostsReleased = s.hostsReleased := rfl
@[simp] theorem setTransient_catReady (v : Transient) : (setTransient s k v).catReady = s.catReady := rfl
@[simp] theorem setTransient_firmware (v : Transient) : (setTransient s k v).firmware = s.firmware := rfl
@[simp] theorem setTransient_microcode (v : Transient) : (setTransient s k v).microcode = s.microcode := rfl
@[simp] theorem setTransient_bf0 (v : Transient) : (setTransient s k v).bf0 = s.bf0 := rfl
@[simp] theorem setTransient_bf1 (v : Transient) : (setTransient s k v).bf1 = s.bf1 := rfl
@[simp] theorem setTransient_counter (v : Transient) : (setTransient s k v).counter = s.counter := rfl
@[simp] theorem setTransient_trainCache (v : Transient) : (setTransient s k v).trainCache = s.trainCache := rfl
@[simp] theorem setTransient_ident (v : Transient) : (setTransient s k v).ident = s.ident := rfl
@[simp] theorem setTransient_refclk (v : Transient) : (setTransient s k v).refclk = s.refclk := rfl
@[simp] theorem setTransient_clk (v : Transient) : (setTransient s k v).clk = s.clk := rfl
@[simp] theorem setTransient_pwr (v : Transient) : (setTransient s k v).pwr = s.pwr := rfl
@[simp] theorem setTransient_tpwr (v : Transient) : (setTransient s k v).tpwr = s.tpwr := rfl
@[simp] theorem setTransient_tileReg (v : Transient) : (setTransient s k v).tileReg = s.tileReg := rfl
@[simp] theorem setTransient_power (v : Transient) : (setTransient s k v).power = s.power := rfl
@[simp] theorem setTransient_thermal (v : Transient) : (setTransient s k v).thermal = s.thermal := rfl
@[simp] theorem setTransient_monitors (v : Transient) : (setTransient s k v).monitors = s.monitors := rfl
@[simp] theorem setTransient_coreMonitors (v : Transient) : (setTransient s k v).coreMonitors = s.coreMonitors := rfl
@[simp] theorem setTransient_cmap (v : Transient) : (setTransient s k v).cmap = s.cmap := rfl
@[simp] theorem setTransient_service (v : Transient) : (setTransient s k v).service = s.service := rfl
@[simp] theorem setTransient_rstN (v : Transient) : (setTransient s k v).rstN = s.rstN := rfl
@[simp] theorem setTransient_fabric (v : Transient) : (setTransient s k v).fabric = s.fabric := rfl
@[simp] theorem modTransient_eq (f : Transient → Transient) : modTransient s k f = setTransient s k (f (transientAt s k)) := rfl

@[simp] theorem setPart_pending (v : Part) : (setPart s k v).pending = s.pending := rfl
@[simp] theorem setPart_fresh (v : Part) : (setPart s k v).fresh = s.fresh := rfl
@[simp] theorem setPart_order1T (v : Part) : (setPart s k v).order1T = s.order1T := rfl
@[simp] theorem setPart_time (v : Part) : (setPart s k v).time = s.time := rfl
@[simp] theorem setPart_cores (v : Part) : (setPart s k v).cores = s.cores := rfl
@[simp] theorem setPart_pstates (v : Part) : (setPart s k v).pstates = s.pstates := rfl
@[simp] theorem setPart_cat (v : Part) : (setPart s k v).cat = s.cat := rfl
@[simp] theorem setPart_catVersion (v : Part) : (setPart s k v).catVersion = s.catVersion := rfl
@[simp] theorem setPart_wins (v : Part) : (setPart s k v).wins = s.wins := rfl
@[simp] theorem setPart_groups (v : Part) : (setPart s k v).groups = s.groups := rfl
@[simp] theorem setPart_nodes (v : Part) : (setPart s k v).nodes = s.nodes := rfl
@[simp] theorem setPart_streams (v : Part) : (setPart s k v).streams = s.streams := rfl
@[simp] theorem setPart_gathers (v : Part) : (setPart s k v).gathers = s.gathers := rfl
@[simp] theorem setPart_packets (v : Part) : (setPart s k v).packets = s.packets := rfl
@[simp] theorem setPart_reqs (v : Part) : (setPart s k v).reqs = s.reqs := rfl
@[simp] theorem setPart_nextId (v : Part) : (setPart s k v).nextId = s.nextId := rfl
@[simp] theorem setPart_drains (v : Part) : (setPart s k v).drains = s.drains := rfl
@[simp] theorem setPart_ctrl (v : Part) : (setPart s k v).ctrl = s.ctrl := rfl
@[simp] theorem setPart_tiles (v : Part) : (setPart s k v).tiles = s.tiles := rfl
@[simp] theorem setPart_replays (v : Part) : (setPart s k v).replays = s.replays := rfl
@[simp] theorem setPart_arbs (v : Part) : (setPart s k v).arbs = s.arbs := rfl
@[simp] theorem setPart_lastBeat (v : Part) : (setPart s k v).lastBeat = s.lastBeat := rfl
@[simp] theorem setPart_tree (v : Part) : (setPart s k v).tree = s.tree := rfl
@[simp] theorem setPart_syncErr (v : Part) : (setPart s k v).syncErr = s.syncErr := rfl
@[simp] theorem setPart_fenced (v : Part) : (setPart s k v).fenced = s.fenced := rfl
@[simp] theorem setPart_mem (v : Part) : (setPart s k v).mem = s.mem := rfl
@[simp] theorem setPart_bad (v : Part) : (setPart s k v).bad = s.bad := rfl
@[simp] theorem setPart_slices (v : Part) : (setPart s k v).slices = s.slices := rfl
@[simp] theorem setPart_devices (v : Part) : (setPart s k v).devices = s.devices := rfl
@[simp] theorem setPart_hosts (v : Part) : (setPart s k v).hosts = s.hosts := rfl
@[simp] theorem setPart_loads (v : Part) : (setPart s k v).loads = s.loads := rfl
@[simp] theorem setPart_queues (v : Part) : (setPart s k v).queues = s.queues := rfl
@[simp] theorem setPart_units (v : Part) : (setPart s k v).units = s.units := rfl
@[simp] theorem setPart_spills (v : Part) : (setPart s k v).spills = s.spills := rfl
@[simp] theorem setPart_cmds (v : Part) : (setPart s k v).cmds = s.cmds := rfl
@[simp] theorem setPart_nextCmd (v : Part) : (setPart s k v).nextCmd = s.nextCmd := rfl
@[simp] theorem setPart_runs (v : Part) : (setPart s k v).runs = s.runs := rfl
@[simp] theorem setPart_mailboxes (v : Part) : (setPart s k v).mailboxes = s.mailboxes := rfl
@[simp] theorem setPart_hbSeq (v : Part) : (setPart s k v).hbSeq = s.hbSeq := rfl
@[simp] theorem setPart_hbValid (v : Part) : (setPart s k v).hbValid = s.hbValid := rfl
@[simp] theorem setPart_faults (v : Part) : (setPart s k v).faults = s.faults := rfl
@[simp] theorem setPart_faultSeq (v : Part) : (setPart s k v).faultSeq = s.faultSeq := rfl
@[simp] theorem setPart_transients (v : Part) : (setPart s k v).transients = s.transients := rfl
@[simp] theorem setPart_hourly (v : Part) : (setPart s k v).hourly = s.hourly := rfl
@[simp] theorem setPart_limits (v : Part) : (setPart s k v).limits = s.limits := rfl
@[simp] theorem setPart_leadFails (v : Part) : (setPart s k v).leadFails = s.leadFails := rfl
@[simp] theorem setPart_provBF0 (v : Part) : (setPart s k v).provBF0 = s.provBF0 := rfl
@[simp] theorem setPart_provBF1 (v : Part) : (setPart s k v).provBF1 = s.provBF1 := rfl
@[simp] theorem setPart_provNext (v : Part) : (setPart s k v).provNext = s.provNext := rfl
@[simp] theorem setPart_retired (v : Part) : (setPart s k v).retired = s.retired := rfl
@[simp] theorem setPart_replaced (v : Part) : (setPart s k v).replaced = s.replaced := rfl
@[simp] theorem setPart_curators (v : Part) : (setPart s k v).curators = s.curators := rfl
@[simp] theorem setPart_lead (v : Part) : (setPart s k v).lead = s.lead := rfl
@[simp] theorem setPart_hasDeputy (v : Part) : (setPart s k v).hasDeputy = s.hasDeputy := rfl
@[simp] theorem setPart_straps (v : Part) : (setPart s k v).straps = s.straps := rfl
@[simp] theorem setPart_charter (v : Part) : (setPart s k v).charter = s.charter := rfl
@[simp] theorem setPart_sealed (v : Part) : (setPart s k v).sealed = s.sealed := rfl
@[simp] theorem setPart_start (v : Part) : (setPart s k v).start = s.start := rfl
@[simp] theorem setPart_hostsReleased (v : Part) : (setPart s k v).hostsReleased = s.hostsReleased := rfl
@[simp] theorem setPart_catReady (v : Part) : (setPart s k v).catReady = s.catReady := rfl
@[simp] theorem setPart_firmware (v : Part) : (setPart s k v).firmware = s.firmware := rfl
@[simp] theorem setPart_microcode (v : Part) : (setPart s k v).microcode = s.microcode := rfl
@[simp] theorem setPart_bf0 (v : Part) : (setPart s k v).bf0 = s.bf0 := rfl
@[simp] theorem setPart_bf1 (v : Part) : (setPart s k v).bf1 = s.bf1 := rfl
@[simp] theorem setPart_counter (v : Part) : (setPart s k v).counter = s.counter := rfl
@[simp] theorem setPart_trainCache (v : Part) : (setPart s k v).trainCache = s.trainCache := rfl
@[simp] theorem setPart_ident (v : Part) : (setPart s k v).ident = s.ident := rfl
@[simp] theorem setPart_refclk (v : Part) : (setPart s k v).refclk = s.refclk := rfl
@[simp] theorem setPart_clk (v : Part) : (setPart s k v).clk = s.clk := rfl
@[simp] theorem setPart_pwr (v : Part) : (setPart s k v).pwr = s.pwr := rfl
@[simp] theorem setPart_tpwr (v : Part) : (setPart s k v).tpwr = s.tpwr := rfl
@[simp] theorem setPart_tileReg (v : Part) : (setPart s k v).tileReg = s.tileReg := rfl
@[simp] theorem setPart_power (v : Part) : (setPart s k v).power = s.power := rfl
@[simp] theorem setPart_thermal (v : Part) : (setPart s k v).thermal = s.thermal := rfl
@[simp] theorem setPart_monitors (v : Part) : (setPart s k v).monitors = s.monitors := rfl
@[simp] theorem setPart_coreMonitors (v : Part) : (setPart s k v).coreMonitors = s.coreMonitors := rfl
@[simp] theorem setPart_cmap (v : Part) : (setPart s k v).cmap = s.cmap := rfl
@[simp] theorem setPart_service (v : Part) : (setPart s k v).service = s.service := rfl
@[simp] theorem setPart_rstN (v : Part) : (setPart s k v).rstN = s.rstN := rfl
@[simp] theorem setPart_fabric (v : Part) : (setPart s k v).fabric = s.fabric := rfl
@[simp] theorem modPart_eq (f : Part → Part) : modPart s k f = setPart s k (f (partAt s k)) := rfl

@[simp] theorem setCurator_pending (v : Curator) : (setCurator s k v).pending = s.pending := rfl
@[simp] theorem setCurator_fresh (v : Curator) : (setCurator s k v).fresh = s.fresh := rfl
@[simp] theorem setCurator_order1T (v : Curator) : (setCurator s k v).order1T = s.order1T := rfl
@[simp] theorem setCurator_time (v : Curator) : (setCurator s k v).time = s.time := rfl
@[simp] theorem setCurator_cores (v : Curator) : (setCurator s k v).cores = s.cores := rfl
@[simp] theorem setCurator_pstates (v : Curator) : (setCurator s k v).pstates = s.pstates := rfl
@[simp] theorem setCurator_cat (v : Curator) : (setCurator s k v).cat = s.cat := rfl
@[simp] theorem setCurator_catVersion (v : Curator) : (setCurator s k v).catVersion = s.catVersion := rfl
@[simp] theorem setCurator_wins (v : Curator) : (setCurator s k v).wins = s.wins := rfl
@[simp] theorem setCurator_groups (v : Curator) : (setCurator s k v).groups = s.groups := rfl
@[simp] theorem setCurator_nodes (v : Curator) : (setCurator s k v).nodes = s.nodes := rfl
@[simp] theorem setCurator_streams (v : Curator) : (setCurator s k v).streams = s.streams := rfl
@[simp] theorem setCurator_gathers (v : Curator) : (setCurator s k v).gathers = s.gathers := rfl
@[simp] theorem setCurator_packets (v : Curator) : (setCurator s k v).packets = s.packets := rfl
@[simp] theorem setCurator_reqs (v : Curator) : (setCurator s k v).reqs = s.reqs := rfl
@[simp] theorem setCurator_nextId (v : Curator) : (setCurator s k v).nextId = s.nextId := rfl
@[simp] theorem setCurator_drains (v : Curator) : (setCurator s k v).drains = s.drains := rfl
@[simp] theorem setCurator_ctrl (v : Curator) : (setCurator s k v).ctrl = s.ctrl := rfl
@[simp] theorem setCurator_tiles (v : Curator) : (setCurator s k v).tiles = s.tiles := rfl
@[simp] theorem setCurator_replays (v : Curator) : (setCurator s k v).replays = s.replays := rfl
@[simp] theorem setCurator_arbs (v : Curator) : (setCurator s k v).arbs = s.arbs := rfl
@[simp] theorem setCurator_lastBeat (v : Curator) : (setCurator s k v).lastBeat = s.lastBeat := rfl
@[simp] theorem setCurator_tree (v : Curator) : (setCurator s k v).tree = s.tree := rfl
@[simp] theorem setCurator_syncErr (v : Curator) : (setCurator s k v).syncErr = s.syncErr := rfl
@[simp] theorem setCurator_fenced (v : Curator) : (setCurator s k v).fenced = s.fenced := rfl
@[simp] theorem setCurator_mem (v : Curator) : (setCurator s k v).mem = s.mem := rfl
@[simp] theorem setCurator_bad (v : Curator) : (setCurator s k v).bad = s.bad := rfl
@[simp] theorem setCurator_slices (v : Curator) : (setCurator s k v).slices = s.slices := rfl
@[simp] theorem setCurator_devices (v : Curator) : (setCurator s k v).devices = s.devices := rfl
@[simp] theorem setCurator_hosts (v : Curator) : (setCurator s k v).hosts = s.hosts := rfl
@[simp] theorem setCurator_loads (v : Curator) : (setCurator s k v).loads = s.loads := rfl
@[simp] theorem setCurator_queues (v : Curator) : (setCurator s k v).queues = s.queues := rfl
@[simp] theorem setCurator_units (v : Curator) : (setCurator s k v).units = s.units := rfl
@[simp] theorem setCurator_spills (v : Curator) : (setCurator s k v).spills = s.spills := rfl
@[simp] theorem setCurator_cmds (v : Curator) : (setCurator s k v).cmds = s.cmds := rfl
@[simp] theorem setCurator_nextCmd (v : Curator) : (setCurator s k v).nextCmd = s.nextCmd := rfl
@[simp] theorem setCurator_runs (v : Curator) : (setCurator s k v).runs = s.runs := rfl
@[simp] theorem setCurator_mailboxes (v : Curator) : (setCurator s k v).mailboxes = s.mailboxes := rfl
@[simp] theorem setCurator_hbSeq (v : Curator) : (setCurator s k v).hbSeq = s.hbSeq := rfl
@[simp] theorem setCurator_hbValid (v : Curator) : (setCurator s k v).hbValid = s.hbValid := rfl
@[simp] theorem setCurator_faults (v : Curator) : (setCurator s k v).faults = s.faults := rfl
@[simp] theorem setCurator_faultSeq (v : Curator) : (setCurator s k v).faultSeq = s.faultSeq := rfl
@[simp] theorem setCurator_transients (v : Curator) : (setCurator s k v).transients = s.transients := rfl
@[simp] theorem setCurator_hourly (v : Curator) : (setCurator s k v).hourly = s.hourly := rfl
@[simp] theorem setCurator_parts (v : Curator) : (setCurator s k v).parts = s.parts := rfl
@[simp] theorem setCurator_limits (v : Curator) : (setCurator s k v).limits = s.limits := rfl
@[simp] theorem setCurator_leadFails (v : Curator) : (setCurator s k v).leadFails = s.leadFails := rfl
@[simp] theorem setCurator_provBF0 (v : Curator) : (setCurator s k v).provBF0 = s.provBF0 := rfl
@[simp] theorem setCurator_provBF1 (v : Curator) : (setCurator s k v).provBF1 = s.provBF1 := rfl
@[simp] theorem setCurator_provNext (v : Curator) : (setCurator s k v).provNext = s.provNext := rfl
@[simp] theorem setCurator_retired (v : Curator) : (setCurator s k v).retired = s.retired := rfl
@[simp] theorem setCurator_replaced (v : Curator) : (setCurator s k v).replaced = s.replaced := rfl
@[simp] theorem setCurator_lead (v : Curator) : (setCurator s k v).lead = s.lead := rfl
@[simp] theorem setCurator_hasDeputy (v : Curator) : (setCurator s k v).hasDeputy = s.hasDeputy := rfl
@[simp] theorem setCurator_straps (v : Curator) : (setCurator s k v).straps = s.straps := rfl
@[simp] theorem setCurator_charter (v : Curator) : (setCurator s k v).charter = s.charter := rfl
@[simp] theorem setCurator_sealed (v : Curator) : (setCurator s k v).sealed = s.sealed := rfl
@[simp] theorem setCurator_start (v : Curator) : (setCurator s k v).start = s.start := rfl
@[simp] theorem setCurator_hostsReleased (v : Curator) : (setCurator s k v).hostsReleased = s.hostsReleased := rfl
@[simp] theorem setCurator_catReady (v : Curator) : (setCurator s k v).catReady = s.catReady := rfl
@[simp] theorem setCurator_firmware (v : Curator) : (setCurator s k v).firmware = s.firmware := rfl
@[simp] theorem setCurator_microcode (v : Curator) : (setCurator s k v).microcode = s.microcode := rfl
@[simp] theorem setCurator_bf0 (v : Curator) : (setCurator s k v).bf0 = s.bf0 := rfl
@[simp] theorem setCurator_bf1 (v : Curator) : (setCurator s k v).bf1 = s.bf1 := rfl
@[simp] theorem setCurator_counter (v : Curator) : (setCurator s k v).counter = s.counter := rfl
@[simp] theorem setCurator_trainCache (v : Curator) : (setCurator s k v).trainCache = s.trainCache := rfl
@[simp] theorem setCurator_ident (v : Curator) : (setCurator s k v).ident = s.ident := rfl
@[simp] theorem setCurator_refclk (v : Curator) : (setCurator s k v).refclk = s.refclk := rfl
@[simp] theorem setCurator_clk (v : Curator) : (setCurator s k v).clk = s.clk := rfl
@[simp] theorem setCurator_pwr (v : Curator) : (setCurator s k v).pwr = s.pwr := rfl
@[simp] theorem setCurator_tpwr (v : Curator) : (setCurator s k v).tpwr = s.tpwr := rfl
@[simp] theorem setCurator_tileReg (v : Curator) : (setCurator s k v).tileReg = s.tileReg := rfl
@[simp] theorem setCurator_power (v : Curator) : (setCurator s k v).power = s.power := rfl
@[simp] theorem setCurator_thermal (v : Curator) : (setCurator s k v).thermal = s.thermal := rfl
@[simp] theorem setCurator_monitors (v : Curator) : (setCurator s k v).monitors = s.monitors := rfl
@[simp] theorem setCurator_coreMonitors (v : Curator) : (setCurator s k v).coreMonitors = s.coreMonitors := rfl
@[simp] theorem setCurator_cmap (v : Curator) : (setCurator s k v).cmap = s.cmap := rfl
@[simp] theorem setCurator_service (v : Curator) : (setCurator s k v).service = s.service := rfl
@[simp] theorem setCurator_rstN (v : Curator) : (setCurator s k v).rstN = s.rstN := rfl
@[simp] theorem setCurator_fabric (v : Curator) : (setCurator s k v).fabric = s.fabric := rfl
@[simp] theorem modCurator_eq (f : Curator → Curator) : modCurator s k f = setCurator s k (f (curatorAt s k)) := rfl

@[simp] theorem setClk_pending (v : ClkDom) : (setClk s k v).pending = s.pending := rfl
@[simp] theorem setClk_fresh (v : ClkDom) : (setClk s k v).fresh = s.fresh := rfl
@[simp] theorem setClk_order1T (v : ClkDom) : (setClk s k v).order1T = s.order1T := rfl
@[simp] theorem setClk_time (v : ClkDom) : (setClk s k v).time = s.time := rfl
@[simp] theorem setClk_cores (v : ClkDom) : (setClk s k v).cores = s.cores := rfl
@[simp] theorem setClk_pstates (v : ClkDom) : (setClk s k v).pstates = s.pstates := rfl
@[simp] theorem setClk_cat (v : ClkDom) : (setClk s k v).cat = s.cat := rfl
@[simp] theorem setClk_catVersion (v : ClkDom) : (setClk s k v).catVersion = s.catVersion := rfl
@[simp] theorem setClk_wins (v : ClkDom) : (setClk s k v).wins = s.wins := rfl
@[simp] theorem setClk_groups (v : ClkDom) : (setClk s k v).groups = s.groups := rfl
@[simp] theorem setClk_nodes (v : ClkDom) : (setClk s k v).nodes = s.nodes := rfl
@[simp] theorem setClk_streams (v : ClkDom) : (setClk s k v).streams = s.streams := rfl
@[simp] theorem setClk_gathers (v : ClkDom) : (setClk s k v).gathers = s.gathers := rfl
@[simp] theorem setClk_packets (v : ClkDom) : (setClk s k v).packets = s.packets := rfl
@[simp] theorem setClk_reqs (v : ClkDom) : (setClk s k v).reqs = s.reqs := rfl
@[simp] theorem setClk_nextId (v : ClkDom) : (setClk s k v).nextId = s.nextId := rfl
@[simp] theorem setClk_drains (v : ClkDom) : (setClk s k v).drains = s.drains := rfl
@[simp] theorem setClk_ctrl (v : ClkDom) : (setClk s k v).ctrl = s.ctrl := rfl
@[simp] theorem setClk_tiles (v : ClkDom) : (setClk s k v).tiles = s.tiles := rfl
@[simp] theorem setClk_replays (v : ClkDom) : (setClk s k v).replays = s.replays := rfl
@[simp] theorem setClk_arbs (v : ClkDom) : (setClk s k v).arbs = s.arbs := rfl
@[simp] theorem setClk_lastBeat (v : ClkDom) : (setClk s k v).lastBeat = s.lastBeat := rfl
@[simp] theorem setClk_tree (v : ClkDom) : (setClk s k v).tree = s.tree := rfl
@[simp] theorem setClk_syncErr (v : ClkDom) : (setClk s k v).syncErr = s.syncErr := rfl
@[simp] theorem setClk_fenced (v : ClkDom) : (setClk s k v).fenced = s.fenced := rfl
@[simp] theorem setClk_mem (v : ClkDom) : (setClk s k v).mem = s.mem := rfl
@[simp] theorem setClk_bad (v : ClkDom) : (setClk s k v).bad = s.bad := rfl
@[simp] theorem setClk_slices (v : ClkDom) : (setClk s k v).slices = s.slices := rfl
@[simp] theorem setClk_devices (v : ClkDom) : (setClk s k v).devices = s.devices := rfl
@[simp] theorem setClk_hosts (v : ClkDom) : (setClk s k v).hosts = s.hosts := rfl
@[simp] theorem setClk_loads (v : ClkDom) : (setClk s k v).loads = s.loads := rfl
@[simp] theorem setClk_queues (v : ClkDom) : (setClk s k v).queues = s.queues := rfl
@[simp] theorem setClk_units (v : ClkDom) : (setClk s k v).units = s.units := rfl
@[simp] theorem setClk_spills (v : ClkDom) : (setClk s k v).spills = s.spills := rfl
@[simp] theorem setClk_cmds (v : ClkDom) : (setClk s k v).cmds = s.cmds := rfl
@[simp] theorem setClk_nextCmd (v : ClkDom) : (setClk s k v).nextCmd = s.nextCmd := rfl
@[simp] theorem setClk_runs (v : ClkDom) : (setClk s k v).runs = s.runs := rfl
@[simp] theorem setClk_mailboxes (v : ClkDom) : (setClk s k v).mailboxes = s.mailboxes := rfl
@[simp] theorem setClk_hbSeq (v : ClkDom) : (setClk s k v).hbSeq = s.hbSeq := rfl
@[simp] theorem setClk_hbValid (v : ClkDom) : (setClk s k v).hbValid = s.hbValid := rfl
@[simp] theorem setClk_faults (v : ClkDom) : (setClk s k v).faults = s.faults := rfl
@[simp] theorem setClk_faultSeq (v : ClkDom) : (setClk s k v).faultSeq = s.faultSeq := rfl
@[simp] theorem setClk_transients (v : ClkDom) : (setClk s k v).transients = s.transients := rfl
@[simp] theorem setClk_hourly (v : ClkDom) : (setClk s k v).hourly = s.hourly := rfl
@[simp] theorem setClk_parts (v : ClkDom) : (setClk s k v).parts = s.parts := rfl
@[simp] theorem setClk_limits (v : ClkDom) : (setClk s k v).limits = s.limits := rfl
@[simp] theorem setClk_leadFails (v : ClkDom) : (setClk s k v).leadFails = s.leadFails := rfl
@[simp] theorem setClk_provBF0 (v : ClkDom) : (setClk s k v).provBF0 = s.provBF0 := rfl
@[simp] theorem setClk_provBF1 (v : ClkDom) : (setClk s k v).provBF1 = s.provBF1 := rfl
@[simp] theorem setClk_provNext (v : ClkDom) : (setClk s k v).provNext = s.provNext := rfl
@[simp] theorem setClk_retired (v : ClkDom) : (setClk s k v).retired = s.retired := rfl
@[simp] theorem setClk_replaced (v : ClkDom) : (setClk s k v).replaced = s.replaced := rfl
@[simp] theorem setClk_curators (v : ClkDom) : (setClk s k v).curators = s.curators := rfl
@[simp] theorem setClk_lead (v : ClkDom) : (setClk s k v).lead = s.lead := rfl
@[simp] theorem setClk_hasDeputy (v : ClkDom) : (setClk s k v).hasDeputy = s.hasDeputy := rfl
@[simp] theorem setClk_straps (v : ClkDom) : (setClk s k v).straps = s.straps := rfl
@[simp] theorem setClk_charter (v : ClkDom) : (setClk s k v).charter = s.charter := rfl
@[simp] theorem setClk_sealed (v : ClkDom) : (setClk s k v).sealed = s.sealed := rfl
@[simp] theorem setClk_start (v : ClkDom) : (setClk s k v).start = s.start := rfl
@[simp] theorem setClk_hostsReleased (v : ClkDom) : (setClk s k v).hostsReleased = s.hostsReleased := rfl
@[simp] theorem setClk_catReady (v : ClkDom) : (setClk s k v).catReady = s.catReady := rfl
@[simp] theorem setClk_firmware (v : ClkDom) : (setClk s k v).firmware = s.firmware := rfl
@[simp] theorem setClk_microcode (v : ClkDom) : (setClk s k v).microcode = s.microcode := rfl
@[simp] theorem setClk_bf0 (v : ClkDom) : (setClk s k v).bf0 = s.bf0 := rfl
@[simp] theorem setClk_bf1 (v : ClkDom) : (setClk s k v).bf1 = s.bf1 := rfl
@[simp] theorem setClk_counter (v : ClkDom) : (setClk s k v).counter = s.counter := rfl
@[simp] theorem setClk_trainCache (v : ClkDom) : (setClk s k v).trainCache = s.trainCache := rfl
@[simp] theorem setClk_ident (v : ClkDom) : (setClk s k v).ident = s.ident := rfl
@[simp] theorem setClk_refclk (v : ClkDom) : (setClk s k v).refclk = s.refclk := rfl
@[simp] theorem setClk_pwr (v : ClkDom) : (setClk s k v).pwr = s.pwr := rfl
@[simp] theorem setClk_tpwr (v : ClkDom) : (setClk s k v).tpwr = s.tpwr := rfl
@[simp] theorem setClk_tileReg (v : ClkDom) : (setClk s k v).tileReg = s.tileReg := rfl
@[simp] theorem setClk_power (v : ClkDom) : (setClk s k v).power = s.power := rfl
@[simp] theorem setClk_thermal (v : ClkDom) : (setClk s k v).thermal = s.thermal := rfl
@[simp] theorem setClk_monitors (v : ClkDom) : (setClk s k v).monitors = s.monitors := rfl
@[simp] theorem setClk_coreMonitors (v : ClkDom) : (setClk s k v).coreMonitors = s.coreMonitors := rfl
@[simp] theorem setClk_cmap (v : ClkDom) : (setClk s k v).cmap = s.cmap := rfl
@[simp] theorem setClk_service (v : ClkDom) : (setClk s k v).service = s.service := rfl
@[simp] theorem setClk_rstN (v : ClkDom) : (setClk s k v).rstN = s.rstN := rfl
@[simp] theorem setClk_fabric (v : ClkDom) : (setClk s k v).fabric = s.fabric := rfl
@[simp] theorem modClk_eq (f : ClkDom → ClkDom) : modClk s k f = setClk s k (f (clkAt s k)) := rfl

@[simp] theorem setPwr_pending (v : PwrDom) : (setPwr s k v).pending = s.pending := rfl
@[simp] theorem setPwr_fresh (v : PwrDom) : (setPwr s k v).fresh = s.fresh := rfl
@[simp] theorem setPwr_order1T (v : PwrDom) : (setPwr s k v).order1T = s.order1T := rfl
@[simp] theorem setPwr_time (v : PwrDom) : (setPwr s k v).time = s.time := rfl
@[simp] theorem setPwr_cores (v : PwrDom) : (setPwr s k v).cores = s.cores := rfl
@[simp] theorem setPwr_pstates (v : PwrDom) : (setPwr s k v).pstates = s.pstates := rfl
@[simp] theorem setPwr_cat (v : PwrDom) : (setPwr s k v).cat = s.cat := rfl
@[simp] theorem setPwr_catVersion (v : PwrDom) : (setPwr s k v).catVersion = s.catVersion := rfl
@[simp] theorem setPwr_wins (v : PwrDom) : (setPwr s k v).wins = s.wins := rfl
@[simp] theorem setPwr_groups (v : PwrDom) : (setPwr s k v).groups = s.groups := rfl
@[simp] theorem setPwr_nodes (v : PwrDom) : (setPwr s k v).nodes = s.nodes := rfl
@[simp] theorem setPwr_streams (v : PwrDom) : (setPwr s k v).streams = s.streams := rfl
@[simp] theorem setPwr_gathers (v : PwrDom) : (setPwr s k v).gathers = s.gathers := rfl
@[simp] theorem setPwr_packets (v : PwrDom) : (setPwr s k v).packets = s.packets := rfl
@[simp] theorem setPwr_reqs (v : PwrDom) : (setPwr s k v).reqs = s.reqs := rfl
@[simp] theorem setPwr_nextId (v : PwrDom) : (setPwr s k v).nextId = s.nextId := rfl
@[simp] theorem setPwr_drains (v : PwrDom) : (setPwr s k v).drains = s.drains := rfl
@[simp] theorem setPwr_ctrl (v : PwrDom) : (setPwr s k v).ctrl = s.ctrl := rfl
@[simp] theorem setPwr_tiles (v : PwrDom) : (setPwr s k v).tiles = s.tiles := rfl
@[simp] theorem setPwr_replays (v : PwrDom) : (setPwr s k v).replays = s.replays := rfl
@[simp] theorem setPwr_arbs (v : PwrDom) : (setPwr s k v).arbs = s.arbs := rfl
@[simp] theorem setPwr_lastBeat (v : PwrDom) : (setPwr s k v).lastBeat = s.lastBeat := rfl
@[simp] theorem setPwr_tree (v : PwrDom) : (setPwr s k v).tree = s.tree := rfl
@[simp] theorem setPwr_syncErr (v : PwrDom) : (setPwr s k v).syncErr = s.syncErr := rfl
@[simp] theorem setPwr_fenced (v : PwrDom) : (setPwr s k v).fenced = s.fenced := rfl
@[simp] theorem setPwr_mem (v : PwrDom) : (setPwr s k v).mem = s.mem := rfl
@[simp] theorem setPwr_bad (v : PwrDom) : (setPwr s k v).bad = s.bad := rfl
@[simp] theorem setPwr_slices (v : PwrDom) : (setPwr s k v).slices = s.slices := rfl
@[simp] theorem setPwr_devices (v : PwrDom) : (setPwr s k v).devices = s.devices := rfl
@[simp] theorem setPwr_hosts (v : PwrDom) : (setPwr s k v).hosts = s.hosts := rfl
@[simp] theorem setPwr_loads (v : PwrDom) : (setPwr s k v).loads = s.loads := rfl
@[simp] theorem setPwr_queues (v : PwrDom) : (setPwr s k v).queues = s.queues := rfl
@[simp] theorem setPwr_units (v : PwrDom) : (setPwr s k v).units = s.units := rfl
@[simp] theorem setPwr_spills (v : PwrDom) : (setPwr s k v).spills = s.spills := rfl
@[simp] theorem setPwr_cmds (v : PwrDom) : (setPwr s k v).cmds = s.cmds := rfl
@[simp] theorem setPwr_nextCmd (v : PwrDom) : (setPwr s k v).nextCmd = s.nextCmd := rfl
@[simp] theorem setPwr_runs (v : PwrDom) : (setPwr s k v).runs = s.runs := rfl
@[simp] theorem setPwr_mailboxes (v : PwrDom) : (setPwr s k v).mailboxes = s.mailboxes := rfl
@[simp] theorem setPwr_hbSeq (v : PwrDom) : (setPwr s k v).hbSeq = s.hbSeq := rfl
@[simp] theorem setPwr_hbValid (v : PwrDom) : (setPwr s k v).hbValid = s.hbValid := rfl
@[simp] theorem setPwr_faults (v : PwrDom) : (setPwr s k v).faults = s.faults := rfl
@[simp] theorem setPwr_faultSeq (v : PwrDom) : (setPwr s k v).faultSeq = s.faultSeq := rfl
@[simp] theorem setPwr_transients (v : PwrDom) : (setPwr s k v).transients = s.transients := rfl
@[simp] theorem setPwr_hourly (v : PwrDom) : (setPwr s k v).hourly = s.hourly := rfl
@[simp] theorem setPwr_parts (v : PwrDom) : (setPwr s k v).parts = s.parts := rfl
@[simp] theorem setPwr_limits (v : PwrDom) : (setPwr s k v).limits = s.limits := rfl
@[simp] theorem setPwr_leadFails (v : PwrDom) : (setPwr s k v).leadFails = s.leadFails := rfl
@[simp] theorem setPwr_provBF0 (v : PwrDom) : (setPwr s k v).provBF0 = s.provBF0 := rfl
@[simp] theorem setPwr_provBF1 (v : PwrDom) : (setPwr s k v).provBF1 = s.provBF1 := rfl
@[simp] theorem setPwr_provNext (v : PwrDom) : (setPwr s k v).provNext = s.provNext := rfl
@[simp] theorem setPwr_retired (v : PwrDom) : (setPwr s k v).retired = s.retired := rfl
@[simp] theorem setPwr_replaced (v : PwrDom) : (setPwr s k v).replaced = s.replaced := rfl
@[simp] theorem setPwr_curators (v : PwrDom) : (setPwr s k v).curators = s.curators := rfl
@[simp] theorem setPwr_lead (v : PwrDom) : (setPwr s k v).lead = s.lead := rfl
@[simp] theorem setPwr_hasDeputy (v : PwrDom) : (setPwr s k v).hasDeputy = s.hasDeputy := rfl
@[simp] theorem setPwr_straps (v : PwrDom) : (setPwr s k v).straps = s.straps := rfl
@[simp] theorem setPwr_charter (v : PwrDom) : (setPwr s k v).charter = s.charter := rfl
@[simp] theorem setPwr_sealed (v : PwrDom) : (setPwr s k v).sealed = s.sealed := rfl
@[simp] theorem setPwr_start (v : PwrDom) : (setPwr s k v).start = s.start := rfl
@[simp] theorem setPwr_hostsReleased (v : PwrDom) : (setPwr s k v).hostsReleased = s.hostsReleased := rfl
@[simp] theorem setPwr_catReady (v : PwrDom) : (setPwr s k v).catReady = s.catReady := rfl
@[simp] theorem setPwr_firmware (v : PwrDom) : (setPwr s k v).firmware = s.firmware := rfl
@[simp] theorem setPwr_microcode (v : PwrDom) : (setPwr s k v).microcode = s.microcode := rfl
@[simp] theorem setPwr_bf0 (v : PwrDom) : (setPwr s k v).bf0 = s.bf0 := rfl
@[simp] theorem setPwr_bf1 (v : PwrDom) : (setPwr s k v).bf1 = s.bf1 := rfl
@[simp] theorem setPwr_counter (v : PwrDom) : (setPwr s k v).counter = s.counter := rfl
@[simp] theorem setPwr_trainCache (v : PwrDom) : (setPwr s k v).trainCache = s.trainCache := rfl
@[simp] theorem setPwr_ident (v : PwrDom) : (setPwr s k v).ident = s.ident := rfl
@[simp] theorem setPwr_refclk (v : PwrDom) : (setPwr s k v).refclk = s.refclk := rfl
@[simp] theorem setPwr_clk (v : PwrDom) : (setPwr s k v).clk = s.clk := rfl
@[simp] theorem setPwr_tpwr (v : PwrDom) : (setPwr s k v).tpwr = s.tpwr := rfl
@[simp] theorem setPwr_tileReg (v : PwrDom) : (setPwr s k v).tileReg = s.tileReg := rfl
@[simp] theorem setPwr_power (v : PwrDom) : (setPwr s k v).power = s.power := rfl
@[simp] theorem setPwr_thermal (v : PwrDom) : (setPwr s k v).thermal = s.thermal := rfl
@[simp] theorem setPwr_monitors (v : PwrDom) : (setPwr s k v).monitors = s.monitors := rfl
@[simp] theorem setPwr_coreMonitors (v : PwrDom) : (setPwr s k v).coreMonitors = s.coreMonitors := rfl
@[simp] theorem setPwr_cmap (v : PwrDom) : (setPwr s k v).cmap = s.cmap := rfl
@[simp] theorem setPwr_service (v : PwrDom) : (setPwr s k v).service = s.service := rfl
@[simp] theorem setPwr_rstN (v : PwrDom) : (setPwr s k v).rstN = s.rstN := rfl
@[simp] theorem setPwr_fabric (v : PwrDom) : (setPwr s k v).fabric = s.fabric := rfl
@[simp] theorem modPwr_eq (f : PwrDom → PwrDom) : modPwr s k f = setPwr s k (f (pwrAt s k)) := rfl

@[simp] theorem setTpwr_pending (v : TilePwr) : (setTpwr s k v).pending = s.pending := rfl
@[simp] theorem setTpwr_fresh (v : TilePwr) : (setTpwr s k v).fresh = s.fresh := rfl
@[simp] theorem setTpwr_order1T (v : TilePwr) : (setTpwr s k v).order1T = s.order1T := rfl
@[simp] theorem setTpwr_time (v : TilePwr) : (setTpwr s k v).time = s.time := rfl
@[simp] theorem setTpwr_cores (v : TilePwr) : (setTpwr s k v).cores = s.cores := rfl
@[simp] theorem setTpwr_pstates (v : TilePwr) : (setTpwr s k v).pstates = s.pstates := rfl
@[simp] theorem setTpwr_cat (v : TilePwr) : (setTpwr s k v).cat = s.cat := rfl
@[simp] theorem setTpwr_catVersion (v : TilePwr) : (setTpwr s k v).catVersion = s.catVersion := rfl
@[simp] theorem setTpwr_wins (v : TilePwr) : (setTpwr s k v).wins = s.wins := rfl
@[simp] theorem setTpwr_groups (v : TilePwr) : (setTpwr s k v).groups = s.groups := rfl
@[simp] theorem setTpwr_nodes (v : TilePwr) : (setTpwr s k v).nodes = s.nodes := rfl
@[simp] theorem setTpwr_streams (v : TilePwr) : (setTpwr s k v).streams = s.streams := rfl
@[simp] theorem setTpwr_gathers (v : TilePwr) : (setTpwr s k v).gathers = s.gathers := rfl
@[simp] theorem setTpwr_packets (v : TilePwr) : (setTpwr s k v).packets = s.packets := rfl
@[simp] theorem setTpwr_reqs (v : TilePwr) : (setTpwr s k v).reqs = s.reqs := rfl
@[simp] theorem setTpwr_nextId (v : TilePwr) : (setTpwr s k v).nextId = s.nextId := rfl
@[simp] theorem setTpwr_drains (v : TilePwr) : (setTpwr s k v).drains = s.drains := rfl
@[simp] theorem setTpwr_ctrl (v : TilePwr) : (setTpwr s k v).ctrl = s.ctrl := rfl
@[simp] theorem setTpwr_tiles (v : TilePwr) : (setTpwr s k v).tiles = s.tiles := rfl
@[simp] theorem setTpwr_replays (v : TilePwr) : (setTpwr s k v).replays = s.replays := rfl
@[simp] theorem setTpwr_arbs (v : TilePwr) : (setTpwr s k v).arbs = s.arbs := rfl
@[simp] theorem setTpwr_lastBeat (v : TilePwr) : (setTpwr s k v).lastBeat = s.lastBeat := rfl
@[simp] theorem setTpwr_tree (v : TilePwr) : (setTpwr s k v).tree = s.tree := rfl
@[simp] theorem setTpwr_syncErr (v : TilePwr) : (setTpwr s k v).syncErr = s.syncErr := rfl
@[simp] theorem setTpwr_fenced (v : TilePwr) : (setTpwr s k v).fenced = s.fenced := rfl
@[simp] theorem setTpwr_mem (v : TilePwr) : (setTpwr s k v).mem = s.mem := rfl
@[simp] theorem setTpwr_bad (v : TilePwr) : (setTpwr s k v).bad = s.bad := rfl
@[simp] theorem setTpwr_slices (v : TilePwr) : (setTpwr s k v).slices = s.slices := rfl
@[simp] theorem setTpwr_devices (v : TilePwr) : (setTpwr s k v).devices = s.devices := rfl
@[simp] theorem setTpwr_hosts (v : TilePwr) : (setTpwr s k v).hosts = s.hosts := rfl
@[simp] theorem setTpwr_loads (v : TilePwr) : (setTpwr s k v).loads = s.loads := rfl
@[simp] theorem setTpwr_queues (v : TilePwr) : (setTpwr s k v).queues = s.queues := rfl
@[simp] theorem setTpwr_units (v : TilePwr) : (setTpwr s k v).units = s.units := rfl
@[simp] theorem setTpwr_spills (v : TilePwr) : (setTpwr s k v).spills = s.spills := rfl
@[simp] theorem setTpwr_cmds (v : TilePwr) : (setTpwr s k v).cmds = s.cmds := rfl
@[simp] theorem setTpwr_nextCmd (v : TilePwr) : (setTpwr s k v).nextCmd = s.nextCmd := rfl
@[simp] theorem setTpwr_runs (v : TilePwr) : (setTpwr s k v).runs = s.runs := rfl
@[simp] theorem setTpwr_mailboxes (v : TilePwr) : (setTpwr s k v).mailboxes = s.mailboxes := rfl
@[simp] theorem setTpwr_hbSeq (v : TilePwr) : (setTpwr s k v).hbSeq = s.hbSeq := rfl
@[simp] theorem setTpwr_hbValid (v : TilePwr) : (setTpwr s k v).hbValid = s.hbValid := rfl
@[simp] theorem setTpwr_faults (v : TilePwr) : (setTpwr s k v).faults = s.faults := rfl
@[simp] theorem setTpwr_faultSeq (v : TilePwr) : (setTpwr s k v).faultSeq = s.faultSeq := rfl
@[simp] theorem setTpwr_transients (v : TilePwr) : (setTpwr s k v).transients = s.transients := rfl
@[simp] theorem setTpwr_hourly (v : TilePwr) : (setTpwr s k v).hourly = s.hourly := rfl
@[simp] theorem setTpwr_parts (v : TilePwr) : (setTpwr s k v).parts = s.parts := rfl
@[simp] theorem setTpwr_limits (v : TilePwr) : (setTpwr s k v).limits = s.limits := rfl
@[simp] theorem setTpwr_leadFails (v : TilePwr) : (setTpwr s k v).leadFails = s.leadFails := rfl
@[simp] theorem setTpwr_provBF0 (v : TilePwr) : (setTpwr s k v).provBF0 = s.provBF0 := rfl
@[simp] theorem setTpwr_provBF1 (v : TilePwr) : (setTpwr s k v).provBF1 = s.provBF1 := rfl
@[simp] theorem setTpwr_provNext (v : TilePwr) : (setTpwr s k v).provNext = s.provNext := rfl
@[simp] theorem setTpwr_retired (v : TilePwr) : (setTpwr s k v).retired = s.retired := rfl
@[simp] theorem setTpwr_replaced (v : TilePwr) : (setTpwr s k v).replaced = s.replaced := rfl
@[simp] theorem setTpwr_curators (v : TilePwr) : (setTpwr s k v).curators = s.curators := rfl
@[simp] theorem setTpwr_lead (v : TilePwr) : (setTpwr s k v).lead = s.lead := rfl
@[simp] theorem setTpwr_hasDeputy (v : TilePwr) : (setTpwr s k v).hasDeputy = s.hasDeputy := rfl
@[simp] theorem setTpwr_straps (v : TilePwr) : (setTpwr s k v).straps = s.straps := rfl
@[simp] theorem setTpwr_charter (v : TilePwr) : (setTpwr s k v).charter = s.charter := rfl
@[simp] theorem setTpwr_sealed (v : TilePwr) : (setTpwr s k v).sealed = s.sealed := rfl
@[simp] theorem setTpwr_start (v : TilePwr) : (setTpwr s k v).start = s.start := rfl
@[simp] theorem setTpwr_hostsReleased (v : TilePwr) : (setTpwr s k v).hostsReleased = s.hostsReleased := rfl
@[simp] theorem setTpwr_catReady (v : TilePwr) : (setTpwr s k v).catReady = s.catReady := rfl
@[simp] theorem setTpwr_firmware (v : TilePwr) : (setTpwr s k v).firmware = s.firmware := rfl
@[simp] theorem setTpwr_microcode (v : TilePwr) : (setTpwr s k v).microcode = s.microcode := rfl
@[simp] theorem setTpwr_bf0 (v : TilePwr) : (setTpwr s k v).bf0 = s.bf0 := rfl
@[simp] theorem setTpwr_bf1 (v : TilePwr) : (setTpwr s k v).bf1 = s.bf1 := rfl
@[simp] theorem setTpwr_counter (v : TilePwr) : (setTpwr s k v).counter = s.counter := rfl
@[simp] theorem setTpwr_trainCache (v : TilePwr) : (setTpwr s k v).trainCache = s.trainCache := rfl
@[simp] theorem setTpwr_ident (v : TilePwr) : (setTpwr s k v).ident = s.ident := rfl
@[simp] theorem setTpwr_refclk (v : TilePwr) : (setTpwr s k v).refclk = s.refclk := rfl
@[simp] theorem setTpwr_clk (v : TilePwr) : (setTpwr s k v).clk = s.clk := rfl
@[simp] theorem setTpwr_pwr (v : TilePwr) : (setTpwr s k v).pwr = s.pwr := rfl
@[simp] theorem setTpwr_tileReg (v : TilePwr) : (setTpwr s k v).tileReg = s.tileReg := rfl
@[simp] theorem setTpwr_power (v : TilePwr) : (setTpwr s k v).power = s.power := rfl
@[simp] theorem setTpwr_thermal (v : TilePwr) : (setTpwr s k v).thermal = s.thermal := rfl
@[simp] theorem setTpwr_monitors (v : TilePwr) : (setTpwr s k v).monitors = s.monitors := rfl
@[simp] theorem setTpwr_coreMonitors (v : TilePwr) : (setTpwr s k v).coreMonitors = s.coreMonitors := rfl
@[simp] theorem setTpwr_cmap (v : TilePwr) : (setTpwr s k v).cmap = s.cmap := rfl
@[simp] theorem setTpwr_service (v : TilePwr) : (setTpwr s k v).service = s.service := rfl
@[simp] theorem setTpwr_rstN (v : TilePwr) : (setTpwr s k v).rstN = s.rstN := rfl
@[simp] theorem setTpwr_fabric (v : TilePwr) : (setTpwr s k v).fabric = s.fabric := rfl
@[simp] theorem modTpwr_eq (f : TilePwr → TilePwr) : modTpwr s k f = setTpwr s k (f (tpwrAt s k)) := rfl

@[simp] theorem modPort_pending (f : Port → Port) : (modPort s k f).pending = s.pending := rfl
@[simp] theorem modPort_fresh (f : Port → Port) : (modPort s k f).fresh = s.fresh := rfl
@[simp] theorem modPort_order1T (f : Port → Port) : (modPort s k f).order1T = s.order1T := rfl
@[simp] theorem modPort_time (f : Port → Port) : (modPort s k f).time = s.time := rfl
@[simp] theorem modPort_cores (f : Port → Port) : (modPort s k f).cores = s.cores := rfl
@[simp] theorem modPort_pstates (f : Port → Port) : (modPort s k f).pstates = s.pstates := rfl
@[simp] theorem modPort_cat (f : Port → Port) : (modPort s k f).cat = s.cat := rfl
@[simp] theorem modPort_catVersion (f : Port → Port) : (modPort s k f).catVersion = s.catVersion := rfl
@[simp] theorem modPort_wins (f : Port → Port) : (modPort s k f).wins = s.wins := rfl
@[simp] theorem modPort_groups (f : Port → Port) : (modPort s k f).groups = s.groups := rfl
@[simp] theorem modPort_nodes (f : Port → Port) : (modPort s k f).nodes = s.nodes := rfl
@[simp] theorem modPort_streams (f : Port → Port) : (modPort s k f).streams = s.streams := rfl
@[simp] theorem modPort_gathers (f : Port → Port) : (modPort s k f).gathers = s.gathers := rfl
@[simp] theorem modPort_packets (f : Port → Port) : (modPort s k f).packets = s.packets := rfl
@[simp] theorem modPort_reqs (f : Port → Port) : (modPort s k f).reqs = s.reqs := rfl
@[simp] theorem modPort_nextId (f : Port → Port) : (modPort s k f).nextId = s.nextId := rfl
@[simp] theorem modPort_drains (f : Port → Port) : (modPort s k f).drains = s.drains := rfl
@[simp] theorem modPort_ctrl (f : Port → Port) : (modPort s k f).ctrl = s.ctrl := rfl
@[simp] theorem modPort_tiles (f : Port → Port) : (modPort s k f).tiles = s.tiles := rfl
@[simp] theorem modPort_replays (f : Port → Port) : (modPort s k f).replays = s.replays := rfl
@[simp] theorem modPort_arbs (f : Port → Port) : (modPort s k f).arbs = s.arbs := rfl
@[simp] theorem modPort_lastBeat (f : Port → Port) : (modPort s k f).lastBeat = s.lastBeat := rfl
@[simp] theorem modPort_tree (f : Port → Port) : (modPort s k f).tree = s.tree := rfl
@[simp] theorem modPort_syncErr (f : Port → Port) : (modPort s k f).syncErr = s.syncErr := rfl
@[simp] theorem modPort_fenced (f : Port → Port) : (modPort s k f).fenced = s.fenced := rfl
@[simp] theorem modPort_mem (f : Port → Port) : (modPort s k f).mem = s.mem := rfl
@[simp] theorem modPort_bad (f : Port → Port) : (modPort s k f).bad = s.bad := rfl
@[simp] theorem modPort_slices (f : Port → Port) : (modPort s k f).slices = s.slices := rfl
@[simp] theorem modPort_devices (f : Port → Port) : (modPort s k f).devices = s.devices := rfl
@[simp] theorem modPort_hosts (f : Port → Port) : (modPort s k f).hosts = s.hosts := rfl
@[simp] theorem modPort_loads (f : Port → Port) : (modPort s k f).loads = s.loads := rfl
@[simp] theorem modPort_queues (f : Port → Port) : (modPort s k f).queues = s.queues := rfl
@[simp] theorem modPort_units (f : Port → Port) : (modPort s k f).units = s.units := rfl
@[simp] theorem modPort_spills (f : Port → Port) : (modPort s k f).spills = s.spills := rfl
@[simp] theorem modPort_cmds (f : Port → Port) : (modPort s k f).cmds = s.cmds := rfl
@[simp] theorem modPort_nextCmd (f : Port → Port) : (modPort s k f).nextCmd = s.nextCmd := rfl
@[simp] theorem modPort_runs (f : Port → Port) : (modPort s k f).runs = s.runs := rfl
@[simp] theorem modPort_mailboxes (f : Port → Port) : (modPort s k f).mailboxes = s.mailboxes := rfl
@[simp] theorem modPort_hbSeq (f : Port → Port) : (modPort s k f).hbSeq = s.hbSeq := rfl
@[simp] theorem modPort_hbValid (f : Port → Port) : (modPort s k f).hbValid = s.hbValid := rfl
@[simp] theorem modPort_faults (f : Port → Port) : (modPort s k f).faults = s.faults := rfl
@[simp] theorem modPort_faultSeq (f : Port → Port) : (modPort s k f).faultSeq = s.faultSeq := rfl
@[simp] theorem modPort_transients (f : Port → Port) : (modPort s k f).transients = s.transients := rfl
@[simp] theorem modPort_hourly (f : Port → Port) : (modPort s k f).hourly = s.hourly := rfl
@[simp] theorem modPort_parts (f : Port → Port) : (modPort s k f).parts = s.parts := rfl
@[simp] theorem modPort_limits (f : Port → Port) : (modPort s k f).limits = s.limits := rfl
@[simp] theorem modPort_leadFails (f : Port → Port) : (modPort s k f).leadFails = s.leadFails := rfl
@[simp] theorem modPort_provBF0 (f : Port → Port) : (modPort s k f).provBF0 = s.provBF0 := rfl
@[simp] theorem modPort_provBF1 (f : Port → Port) : (modPort s k f).provBF1 = s.provBF1 := rfl
@[simp] theorem modPort_provNext (f : Port → Port) : (modPort s k f).provNext = s.provNext := rfl
@[simp] theorem modPort_retired (f : Port → Port) : (modPort s k f).retired = s.retired := rfl
@[simp] theorem modPort_replaced (f : Port → Port) : (modPort s k f).replaced = s.replaced := rfl
@[simp] theorem modPort_curators (f : Port → Port) : (modPort s k f).curators = s.curators := rfl
@[simp] theorem modPort_lead (f : Port → Port) : (modPort s k f).lead = s.lead := rfl
@[simp] theorem modPort_hasDeputy (f : Port → Port) : (modPort s k f).hasDeputy = s.hasDeputy := rfl
@[simp] theorem modPort_straps (f : Port → Port) : (modPort s k f).straps = s.straps := rfl
@[simp] theorem modPort_charter (f : Port → Port) : (modPort s k f).charter = s.charter := rfl
@[simp] theorem modPort_sealed (f : Port → Port) : (modPort s k f).sealed = s.sealed := rfl
@[simp] theorem modPort_start (f : Port → Port) : (modPort s k f).start = s.start := rfl
@[simp] theorem modPort_hostsReleased (f : Port → Port) : (modPort s k f).hostsReleased = s.hostsReleased := rfl
@[simp] theorem modPort_catReady (f : Port → Port) : (modPort s k f).catReady = s.catReady := rfl
@[simp] theorem modPort_firmware (f : Port → Port) : (modPort s k f).firmware = s.firmware := rfl
@[simp] theorem modPort_microcode (f : Port → Port) : (modPort s k f).microcode = s.microcode := rfl
@[simp] theorem modPort_bf0 (f : Port → Port) : (modPort s k f).bf0 = s.bf0 := rfl
@[simp] theorem modPort_bf1 (f : Port → Port) : (modPort s k f).bf1 = s.bf1 := rfl
@[simp] theorem modPort_counter (f : Port → Port) : (modPort s k f).counter = s.counter := rfl
@[simp] theorem modPort_trainCache (f : Port → Port) : (modPort s k f).trainCache = s.trainCache := rfl
@[simp] theorem modPort_ident (f : Port → Port) : (modPort s k f).ident = s.ident := rfl
@[simp] theorem modPort_refclk (f : Port → Port) : (modPort s k f).refclk = s.refclk := rfl
@[simp] theorem modPort_clk (f : Port → Port) : (modPort s k f).clk = s.clk := rfl
@[simp] theorem modPort_pwr (f : Port → Port) : (modPort s k f).pwr = s.pwr := rfl
@[simp] theorem modPort_tpwr (f : Port → Port) : (modPort s k f).tpwr = s.tpwr := rfl
@[simp] theorem modPort_tileReg (f : Port → Port) : (modPort s k f).tileReg = s.tileReg := rfl
@[simp] theorem modPort_power (f : Port → Port) : (modPort s k f).power = s.power := rfl
@[simp] theorem modPort_thermal (f : Port → Port) : (modPort s k f).thermal = s.thermal := rfl
@[simp] theorem modPort_monitors (f : Port → Port) : (modPort s k f).monitors = s.monitors := rfl
@[simp] theorem modPort_coreMonitors (f : Port → Port) : (modPort s k f).coreMonitors = s.coreMonitors := rfl
@[simp] theorem modPort_cmap (f : Port → Port) : (modPort s k f).cmap = s.cmap := rfl
@[simp] theorem modPort_service (f : Port → Port) : (modPort s k f).service = s.service := rfl
@[simp] theorem modPort_rstN (f : Port → Port) : (modPort s k f).rstN = s.rstN := rfl

end Sys2Proof.Machine
end

