-- ==== Sys2Proof/Laws/Answer.lean ====
section
/-! SUPPORT. A command of a queue that starts and completes at once: its record, and what stays as it was (R266, R275). -/

namespace Sys2Proof.Machine

theorem find_of_pairwise : ∀ (l : List Cmd) (c : Cmd), (l.map (·.uid)).Pairwise (· < ·) → c ∈ l →
    l.find? (fun e => e.uid == c.uid) = some c
  | [], _, _, h => by cases h
  | a :: t, c, hp, h => by
    rw [List.map_cons, List.pairwise_cons] at hp
    rcases List.mem_cons.mp h with rfl | h'
    · simp
    · have : a.uid < c.uid := hp.1 _ (List.mem_map_of_mem h')
      rw [List.find?_cons_of_neg (by simp; omega)]
      exact find_of_pairwise t c hp.2 h'

theorem nextStart_mem {s : State} {q : Nat} {c : Cmd} (h : nextStart s q = some c) : c ∈ s.cmds ∧ c.queue = q ∧
    c.started = false := by
  unfold nextStart at h
  rw [Option.bind_eq_some_iff] at h
  obtain ⟨x, hx, hb⟩ := h
  have h1 := List.mem_of_find?_eq_some hx
  have h2 := List.find?_some hx
  simp only at hb
  split at hb
  · cases hb
  · cases hb
    simp [queueCmds, List.mem_filter] at h1
    exact ⟨h1.1, h1.2, by simpa using h2⟩

/-- The state in which a command of the queue runs: it is marked as started. -/
def begun (s : State) (c : Cmd) : State := modCmd s c.uid fun c => { c with started := true }

theorem begun_cmds (s : State) (c : Cmd) : (begun s c).cmds =
    s.cmds.map fun x => if x.uid == c.uid then { x with started := true } else x := rfl

theorem find_map_uid (f : Cmd → Cmd) (hf : ∀ x, (f x).uid = x.uid) (n : Nat) : ∀ l : List Cmd,
    (l.map f).find? (fun e => e.uid == n) = (l.find? (fun e => e.uid == n)).map f
  | [] => rfl
  | a :: t => by
    simp only [List.map_cons, List.find?_cons, hf]
    split
    · rfl
    · exact find_map_uid f hf n t

theorem begun_find {s : State} {c : Cmd} (hk : cmdsOk s) (hc : c ∈ s.cmds) :
    (begun s c).cmds.find? (fun e => e.uid == c.uid) = some { c with started := true } := by
  rw [begun_cmds, find_map_uid _ (fun x => by split <;> rfl), find_of_pairwise s.cmds c hk.1 hc]
  simp

/-- No command waits for the end of a disable or destroy. -/
def noDisable (l : List Cmd) : Prop := ∀ e ∈ l, ∀ t d x n, e.wait ≠ .queue t d x n

theorem quiet_noDisable {s : State} (h : quiet s = true) : noDisable s.cmds := by
  intro e he t d x n hw
  have := List.all_eq_true.mp h e he
  rw [hw] at this
  cases this

theorem begun_noDisable {s : State} {c : Cmd} (h : quiet s = true) : noDisable (begun s c).cmds := by
  intro e he
  rw [begun_cmds] at he
  obtain ⟨x, hx, rfl⟩ := List.mem_map.mp he
  have := quiet_noDisable h x hx
  split <;> exact this

theorem settle_of_noDisable {s : State} (h : noDisable s.cmds) : ∀ n, settle s n = s
  | 0 => rfl
  | n + 1 => by
    have : settled s = none := by
      unfold settled
      rw [List.find?_eq_none]
      intro e he
      have := h e he
      split
      · rename_i hw; exact absurd hw (this _ _ _ _)
      · simp
    rw [settle, this]

theorem filter_noDisable {l : List Cmd} (h : noDisable l) (p : Cmd → Bool) : noDisable (l.filter p) :=
  fun e he => h e (List.mem_filter.mp he).1

theorem queueAt_setQueue (s : State) (k n : Nat) (v : Queue) :
    queueAt (setQueue s k v) n = if n = k then v else queueAt s n := by
  unfold queueAt setQueue
  rw [tblGet_tblSet]
  by_cases h : k = n <;> simp [h, eq_comm]

/-- A record that is to be written stays behind the others. -/
theorem dropWhile_silent (l : List Rec) (r : Rec) (h : r.silent = false) :
    (l ++ [r]).dropWhile (·.silent) = l.dropWhile (·.silent) ++ [r] := by
  induction l with
  | nil => simp [h]
  | cons a t ih =>
    by_cases ha : a.silent = true
    · simp [ha, ih]
    · simp [ha]

theorem passSilent_append (q : Queue) (n : Nat) (r : Rec) (h : r.silent = false) :
    (passSilent { q with doneInWait := n, records := q.records ++ [r] }).records = (passSilent q).records ++ [r] := by
  unfold passSilent cqFullNow
  split
  · rfl
  · exact dropWhile_silent q.records r h

/-- A completion while nothing waits for one: the record, and what stays (R275). -/
theorem complete_spec {s : State} {c : Cmd} (hn : noDisable s.cmds)
    (hf : s.cmds.find? (fun e => e.uid == c.uid) = some c) (st : Status) (r0 r1 r2 r3 : Nat) :
    let t := complete s c.uid st 1 r0 r1 r2 r3
    t = { s with queues := t.queues, cmds := t.cmds } ∧
    (∀ e ∈ t.cmds, e.uid ≠ c.uid) ∧ (∀ n, n ≠ c.queue → queueAt t n = queueAt s n) ∧
    (c.comp = true → c.retried = false → c.wait = .none → (queueAt t c.queue).records =
      (passSilent (queueAt s c.queue)).records ++
      [{ uid := c.uid, queue := c.queue, tag := c.tag, status := st, attempts := 1,
         r0 := r0, r1 := r1, r2 := r2, r3 := r3, time := s.time, doorbell := c.doorbell,
         rungAt := c.rungAt, admitted := c.admitted, fenceAfter := c.fenceAfter, silent := false, follows := none }]) := by
  intro t
  have h1 : t = completeOne s c st 1 r0 r1 r2 r3 := by
    show complete s c.uid st 1 r0 r1 r2 r3 = _
    unfold complete cmdOf
    rw [hf]
    apply settle_of_noDisable
    intro e he
    unfold completeOne at he
    simp only [modQueue_eq, setQueue, List.mem_map, List.mem_filter] at he
    obtain ⟨x, ⟨hx, _⟩, rfl⟩ := he
    have := hn x hx
    split
    · rename_i hw; exact absurd hw (this _ _ _ _)
    · exact this
  rw [h1]
  unfold completeOne
  refine ⟨rfl, ?_, ?_, ?_⟩
  · intro e he
    simp only [modQueue_eq, setQueue, List.mem_map, List.mem_filter] at he
    obtain ⟨x, ⟨hx, hne⟩, rfl⟩ := he
    have := hn x hx
    split
    · rename_i hw; exact absurd hw (this _ _ _ _)
    · simpa using hne
  · intro n hne
    rw [modQueue_eq, queueAt_setQueue, if_neg hne]
    rfl
  · intro hc hr hw
    rw [modQueue_eq, queueAt_setQueue, if_pos rfl, passSilent_append _ _ _ (by simp [hc])]
    simp [hc, hr, hw, queueAt]

/-- A command that begins runs in `begun s c`. -/
theorem startAs_begins {s : State} {q : Nat} {c : Cmd} {mine : Cmd → Bool} (h : Begins s q c mine)
    (run : Cmd → State → State) : startAs s q mine run = run c (begun s c) := by
  unfold startAs
  rw [h.next]
  simp only [h.mine]
  rfl

/-- A command that begins and completes at once is answered, and nothing else changes. -/
theorem begun_answered {s : State} {q : Nat} {c : Cmd} {mine : Cmd → Bool} (h : Begins s q c mine) (st : Status)
    (r0 r1 r2 r3 : Nat) : Answered s (complete (begun s c) c.uid st 1 r0 r1 r2 r3) c st r0 r1 r2 r3 ∧
    AnswerFrame s (complete (begun s c) c.uid st 1 r0 r1 r2 r3) c := by
  have hm := nextStart_mem h.next
  have := complete_spec (s := begun s c) (c := { c with started := true }) (begun_noDisable h.quiet)
    (begun_find (c := c) h.cmds hm.1) st r0 r1 r2 r3
  obtain ⟨a, b, d, e⟩ := this
  refine ⟨⟨?_, b⟩, ⟨?_, ?_⟩⟩
  · exact e h.comp h.first h.fresh
  · have a' := congrArg (fun x : State => { x with queues := s.queues, cmds := s.cmds }) a
    exact a'
  · exact d

/-- A refusal of a command other than PROGRAM_LOAD and RUN. -/
theorem begun_refused {s : State} {q : Nat} {c : Cmd} {mine : Cmd → Bool} (h : Begins s q c mine)
    (hf : c.fn ≠ 0x0100 ∧ c.fn ≠ 0x0101) (st : Status) :
    Answered s (refuse (begun s c) c.uid st) c st 0 0 0 0 ∧ AnswerFrame s (refuse (begun s c) c.uid st) c := by
  have hm := nextStart_mem h.next
  have : refuse (begun s c) c.uid st = complete (begun s c) c.uid st 1 0 0 0 0 := by
    unfold refuse
    simp only []
    rw [if_neg]
    rw [List.any_eq_true]
    rintro ⟨x, hx, hp⟩
    simp only [Bool.and_eq_true, beq_iff_eq, Bool.or_eq_true] at hp
    have hu := begun_find h.cmds hm.1
    rw [begun_cmds] at hx
    obtain ⟨y, hy, rfl⟩ := List.mem_map.mp hx
    have hyc : y = c := by
      have e1 := find_of_pairwise s.cmds y h.cmds.1 hy
      have e2 := find_of_pairwise s.cmds c h.cmds.1 hm.1
      have : y.uid = c.uid := by
        have := hp.1
        split at this <;> exact this
      rw [this, e2] at e1
      exact (Option.some.inj e1).symm
    subst hyc
    simp at hp
    exact hp.elim hf.1 hf.2
  rw [this]
  exact begun_answered h st 0 0 0 0

end Sys2Proof.Machine
end

