-- ==== Sys2Proof/Laws/Issue.lean ====
section
/-! SUPPORT. What the units of a core leave of its sequencer: the flags, the start counts, the next issue number, and every
task of the window (R63, R72). One lemma for each operation they use. -/

namespace Sys2Proof.Machine

/-- From core c to core d the flags, the start counts and the issue number are unchanged, and no task has left the window. -/
structure SeqCore (c d : Core) : Prop where
  flags : d.flags = c.flags
  starts : d.startCount = c.startCount
  nextId : d.nextId = c.nextId
  window : ∀ u ∈ c.window, ∃ v ∈ d.window, v.id = u.id ∧ v.index = u.index ∧ v.desc = u.desc ∧ v.inst = u.inst

/-- The same of core p from one state to another. -/
def SeqKept (p : Nat) (a s : State) : Prop := SeqCore (coreAt a p) (coreAt s p)

theorem SeqCore.refl (c : Core) : SeqCore c c := ⟨rfl, rfl, rfl, fun u h => ⟨u, h, rfl, rfl, rfl, rfl⟩⟩

theorem SeqCore.trans {a b c : Core} (h : SeqCore a b) (k : SeqCore b c) : SeqCore a c := by
  refine ⟨k.1.trans h.1, k.2.trans h.2, k.3.trans h.3, fun u hu => ?_⟩
  obtain ⟨v, hv, h1, h2, h3, h4⟩ := h.4 u hu
  obtain ⟨w, hw, k1, k2, k3, k4⟩ := k.4 v hv
  exact ⟨w, hw, k1.trans h1, k2.trans h2, k3.trans h3, k4.trans h4⟩

/-- A core with the same sequencer registers and window. -/
theorem SeqCore.upd {a c d : Core} (h : SeqCore a c) (h1 : d.flags = c.flags) (h2 : d.startCount = c.startCount)
    (h3 : d.nextId = c.nextId) (h4 : d.window = c.window) : SeqCore a d :=
  h.trans ⟨h1, h2, h3, fun u hu => ⟨u, h4 ▸ hu, rfl, rfl, rfl, rfl⟩⟩

/-- Tasks of the window change in other fields. -/
theorem SeqCore.map {a c : Core} (h : SeqCore a c) {f : Task → Task} {d : Core} (h1 : d.flags = c.flags)
    (h2 : d.startCount = c.startCount) (h3 : d.nextId = c.nextId) (h4 : d.window = c.window.map f)
    (hf : ∀ t, (f t).id = t.id ∧ (f t).index = t.index ∧ (f t).desc = t.desc ∧ (f t).inst = t.inst) : SeqCore a d :=
  h.trans ⟨h1, h2, h3, fun u hu => ⟨f u, h4 ▸ List.mem_map_of_mem hu, hf u⟩⟩

theorem coreAt_setCore (s : State) (q p : Nat) (c : Core) :
    coreAt (setCore s q c) p = if p = q then c else coreAt s p := by
  unfold coreAt setCore
  rw [tblGet_tblSet]
  by_cases h : q = p <;> simp [h, eq_comm]

theorem setCore_seq {p : Nat} {a s : State} (h : SeqKept p a s) (q : Nat) (c : Core) (hc : SeqCore (coreAt s q) c) :
    SeqKept p a (setCore s q c) := by
  unfold SeqKept
  rw [coreAt_setCore]
  split
  · subst p; exact SeqCore.trans h hc
  · exact h

theorem modCore_seq {p : Nat} {a s : State} (h : SeqKept p a s) (q : Nat) (f : Core → Core)
    (hf : ∀ c, SeqCore c (f c)) : SeqKept p a (modCore s q f) := setCore_seq h q _ (hf _)

/-- An update of fields other than the cores. -/
theorem SeqKept.put_iff {p : Nat} {a : State} (s : State)
    (v0 : List Instr) (v1 : Nat) (v2 : Bool) (v3 : Nat) (v5 : Tbl PState) (v6 : Tbl CatEntry) (v7 : Nat) (v8 :
    Tbl Windows) (v9 : Tbl Group) (v10 : List RedNode) (v11 : List BStream) (v12 : List Gather) (v13 : List
    Packet) (v14 : List Req) (v15 : Nat) (v16 : List Drain) (v17 : List CtrlMsg) (v18 : Tbl TileNet) (v19 : List
    LinkRef) (v20 : Tbl Arb) (v21 : Tbl Nat) (v22 : TreeMsg) (v23 : List (SyncRef × Nat × SyncLanes)) (v24 :
    List Nat) (v25 : Mem) (v26 : Tbl Bool) (v27 : Tbl (List CLine)) (v28 : Tbl Device) (v29 : Tbl HostDie) (v30
    : List LoadResult) (v31 : Tbl Queue) (v32 : Tbl CmdUnit) (v33 : Nat) (v34 : List Cmd) (v35 : Nat) (v36 :
    List RunRec) (v37 : Tbl Mailbox) (v38 : Nat) (v39 : Bool) (v40 : List FaultRec) (v41 : Nat) (v42 : Tbl
    Transient) (v43 : Tbl Transient) (v44 : Tbl Part) (v45 : Limits) (v46 : List Nat) (v47 : List Prov) (v48 :
    List Prov) (v49 : Nat) (v50 : List Nat) (v51 : List (Nat × Nat)) (v52 : Tbl Curator) (v53 : Nat) (v54 :
    Bool) (v55 : Straps) (v56 : Charter) (v57 : Bool) (v58 : Start) (v59 : Bool) (v60 : Bool) (v61 : Nat) (v62 :
    Nat) (v63 : Flash) (v64 : Flash) (v65 : Counter) (v66 : Option (Tbl (Nat × Option Nat))) (v67 : Ident) (v68
    : RefClk) (v69 : Tbl ClkDom) (v70 : Tbl PwrDom) (v71 : Tbl TilePwr) (v72 : Tbl Nat) (v73 : Power) (v74 :
    Thermal) (v75 : Tbl Monitor) (v76 : Tbl Monitor) (v77 : CMap) (v78 : Service) (v79 : Bool) (v80 : Fabric) :
    SeqKept p a (State.mk
    v0 v1 v2 v3 s.cores v5 v6 v7 v8 v9 v10 v11 v12 v13 v14 v15 v16 v17 v18 v19 v20 v21 v22 v23 v24 v25 v26 v27
    v28 v29 v30 v31 v32 v33 v34 v35 v36 v37 v38 v39 v40 v41 v42 v43 v44 v45 v46 v47 v48 v49 v50 v51 v52 v53 v54
    v55 v56 v57 v58 v59 v60 v61 v62 v63 v64 v65 v66 v67 v68 v69 v70 v71 v72 v73 v74 v75 v76 v77 v78 v79 v80) ↔ SeqKept p a s := Iff.rfl

theorem each_seq {α : Type} {p : Nat} {a : State} {f : α → State → State}
    (hf : ∀ x s, SeqKept p a s → SeqKept p a (f x s)) (l : List α) {s : State} (h : SeqKept p a s) :
    SeqKept p a (each l f s) := by
  unfold each
  induction l generalizing s with
  | nil => exact h
  | cons x l ih => exact ih (hf x s h)

theorem foldl_fst_seq {α β : Type} {p : Nat} {a : State} {f : State × β → α → State × β}
    (hf : ∀ x q, SeqKept p a q.1 → SeqKept p a (f q x).1) (l : List α) {q : State × β} (h : SeqKept p a q.1) :
    SeqKept p a (l.foldl f q).1 := by
  induction l generalizing q with
  | nil => exact h
  | cons x l ih => exact ih (hf x q h)

theorem foldl_core {α : Type} {c : Core} {f : Core → α → Core} (hf : ∀ x d, SeqCore c d → SeqCore c (f d x)) (l : List α)
    {d : Core} (h : SeqCore c d) : SeqCore c (l.foldl f d) := by
  induction l generalizing d with
  | nil => exact h
  | cons x l ih => exact ih (hf x d h)

theorem foldl_core_fst {α β : Type} {c : Core} {f : Core × β → α → Core × β}
    (hf : ∀ x d, SeqCore c d.1 → SeqCore c (f d x).1) (l : List α) {d : Core × β} (h : SeqCore c d.1) :
    SeqCore c (l.foldl f d).1 := by
  induction l generalizing d with
  | nil => exact h
  | cons x l ih => exact ih (hf x d h)

theorem spdWrite_seq {c d : Core} (h : SeqCore c d) (k : MemKind) (w b : Nat) (bs : List Byte) :
    SeqCore c (spdWrite d k w b bs) := by
  refine h.upd ?_ ?_ ?_ ?_ <;> · unfold spdWrite setSpd mend; cases k <;> rfl

theorem putElems_seq {c d : Core} (h : SeqCore c d) (k : MemKind) (w f first : Nat) (raws : List Nat) :
    SeqCore c (putElems d k w f first raws) := by
  unfold putElems
  dsimp only
  split
  · exact h
  · exact spdWrite_seq h ..

theorem putOut_seq {c d : Core} (h : SeqCore c d) (x : Core) (t : Task) (k : MemKind) (w first elem : Nat) (vs : List FVal) (hx : x = d) :
    SeqCore c (putOut x t k w first elem vs).1 := by
  subst x; exact putElems_seq h ..

theorem putBlocks_seq {c d : Core} (h : SeqCore c d) (t : Task) (k : MemKind) (w first : Nat) (sk : MemKind)
    (sw kb elem : Nat) (vs : List FVal) : SeqCore c (putBlocks d t k w first sk sw kb elem vs).1 :=
  spdWrite_seq (putElems_seq h ..) ..

theorem serveStarved_seq {c d : Core} (h : SeqCore c d) (l : List (Bool × Region)) : SeqCore c (serveStarved d l) :=
  h.upd rfl rfl rfl rfl

theorem raceCheck_seq {c d : Core} (h : SeqCore c d) (self : Option Nat) (acc : List (Bool × Region)) :
    SeqCore c (raceCheck d self acc) := by
  unfold raceCheck
  extract_lets hits total
  split
  · exact h
  · exact h.map rfl rfl rfl rfl fun t => by split <;> exact ⟨rfl, rfl, rfl, rfl⟩

theorem enterBuffer_seq {c d : Core} (h : SeqCore c d) (f : Nat → Fetched) : SeqCore c (enterBuffer d f) := by
  refine h.upd ?_ ?_ ?_ ?_ <;> · unfold enterBuffer fitBuffer; split <;> rfl

/-- Two tasks with the same number, place and descriptor. -/
def SameTask (v u : Task) : Prop := v.id = u.id ∧ v.index = u.index ∧ v.desc = u.desc ∧ v.inst = u.inst

/-- A fold that puts out one task for each leaves none out. -/
theorem foldl_push {step : Nat × List Task → Task → Nat × List Task}
    (hs : ∀ r x, ∃ y, (step r x).2 = r.2 ++ [y] ∧ SameTask y x) : ∀ (l : List Task) (r : Nat × List Task),
    (∀ v ∈ r.2, v ∈ (l.foldl step r).2) ∧ ∀ u ∈ l, ∃ v ∈ (l.foldl step r).2, SameTask v u
  | [], _ => ⟨fun _ h => h, fun _ h => nomatch h⟩
  | x :: l, r => by
    obtain ⟨y, hy, hxy⟩ := hs r x
    have ih := foldl_push hs l (step r x)
    refine ⟨fun v hv => ih.1 v (hy ▸ List.mem_append_left _ hv), fun u hu => ?_⟩
    rcases List.mem_cons.1 hu with rfl | hu
    · exact ⟨y, ih.1 y (hy ▸ List.mem_append_right _ (List.mem_singleton.2 rfl)), hxy⟩
    · exact ih.2 u hu

theorem withdrawFeed_seq {c d : Core} (h : SeqCore c d) (t : Task) : SeqCore c (withdrawFeed d t) := by
  unfold withdrawFeed
  extract_lets v later
  split
  · extract_lets step r
    refine h.trans ⟨rfl, rfl, rfl, (foldl_push (fun r x => ?_) _ _).2⟩
    show ∃ y, (step r x).2 = _ ∧ _
    unfold step
    repeat' split
    all_goals exact ⟨_, rfl, rfl, rfl, rfl, rfl⟩
  · exact h

theorem modTask_seq {p : Nat} {a s : State} (h : SeqKept p a s) (q id : Nat) (f : Task → Task)
    (hf : ∀ t, (f t).id = t.id ∧ (f t).index = t.index ∧ (f t).desc = t.desc ∧ (f t).inst = t.inst) :
    SeqKept p a (modTask s q id f) :=
  modCore_seq h q _ fun c => (SeqCore.refl c).map rfl rfl rfl rfl fun t => by
    split
    · exact hf t
    · exact ⟨rfl, rfl, rfl, rfl⟩

theorem setWins_seq {p : Nat} {a s : State} (h : SeqKept p a s) (k_1 : Nat) (v : Windows) :
    SeqKept p a (setWins s k_1 v) := by
  unfold setWins
  repeat' first
    | dsimp only
    | with_reducible exact h
    | with_reducible exact k
    | with_reducible exact SeqCore.refl _
    | split
    | with_reducible exact ⟨rfl, rfl, rfl, rfl⟩
    | (with_reducible refine SeqCore.upd (SeqCore.refl _) ?_ ?_ ?_ ?_) <;> rfl
    | simp only [SeqKept.put_iff]

theorem modWins_seq {p : Nat} {a s : State} (h : SeqKept p a s) (k_1 : Nat) (f : Windows → Windows) :
    SeqKept p a (modWins s k_1 f) := by
  unfold modWins
  repeat' first
    | dsimp only
    | with_reducible exact h
    | with_reducible exact k
    | with_reducible exact SeqCore.refl _
    | with_reducible refine setWins_seq ?_ ..
    | split
    | with_reducible exact ⟨rfl, rfl, rfl, rfl⟩
    | (with_reducible refine SeqCore.upd (SeqCore.refl _) ?_ ?_ ?_ ?_) <;> rfl
    | simp only [SeqKept.put_iff]

theorem setTile_seq {p : Nat} {a s : State} (h : SeqKept p a s) (k_1 : Nat) (v : TileNet) :
    SeqKept p a (setTile s k_1 v) := by
  unfold setTile
  repeat' first
    | dsimp only
    | with_reducible exact h
    | with_reducible exact k
    | with_reducible exact SeqCore.refl _
    | split
    | with_reducible exact ⟨rfl, rfl, rfl, rfl⟩
    | (with_reducible refine SeqCore.upd (SeqCore.refl _) ?_ ?_ ?_ ?_) <;> rfl
    | simp only [SeqKept.put_iff]

theorem modTile_seq {p : Nat} {a s : State} (h : SeqKept p a s) (k_1 : Nat) (f : TileNet → TileNet) :
    SeqKept p a (modTile s k_1 f) := by
  unfold modTile
  repeat' first
    | dsimp only
    | with_reducible exact h
    | with_reducible exact k
    | with_reducible exact SeqCore.refl _
    | with_reducible refine setTile_seq ?_ ..
    | split
    | with_reducible exact ⟨rfl, rfl, rfl, rfl⟩
    | (with_reducible refine SeqCore.upd (SeqCore.refl _) ?_ ?_ ?_ ?_) <;> rfl
    | simp only [SeqKept.put_iff]

theorem setDevice_seq {p : Nat} {a s : State} (h : SeqKept p a s) (k_1 : Nat) (v : Device) :
    SeqKept p a (setDevice s k_1 v) := by
  unfold setDevice
  repeat' first
    | dsimp only
    | with_reducible exact h
    | with_reducible exact k
    | with_reducible exact SeqCore.refl _
    | split
    | with_reducible exact ⟨rfl, rfl, rfl, rfl⟩
    | (with_reducible refine SeqCore.upd (SeqCore.refl _) ?_ ?_ ?_ ?_) <;> rfl
    | simp only [SeqKept.put_iff]

theorem modDevice_seq {p : Nat} {a s : State} (h : SeqKept p a s) (k_1 : Nat) (f : Device → Device) :
    SeqKept p a (modDevice s k_1 f) := by
  unfold modDevice
  repeat' first
    | dsimp only
    | with_reducible exact h
    | with_reducible exact k
    | with_reducible exact SeqCore.refl _
    | with_reducible refine setDevice_seq ?_ ..
    | split
    | with_reducible exact ⟨rfl, rfl, rfl, rfl⟩
    | (with_reducible refine SeqCore.upd (SeqCore.refl _) ?_ ?_ ?_ ?_) <;> rfl
    | simp only [SeqKept.put_iff]

theorem setHost_seq {p : Nat} {a s : State} (h : SeqKept p a s) (k_1 : Nat) (v : HostDie) :
    SeqKept p a (setHost s k_1 v) := by
  unfold setHost
  repeat' first
    | dsimp only
    | with_reducible exact h
    | with_reducible exact k
    | with_reducible exact SeqCore.refl _
    | split
    | with_reducible exact ⟨rfl, rfl, rfl, rfl⟩
    | (with_reducible refine SeqCore.upd (SeqCore.refl _) ?_ ?_ ?_ ?_) <;> rfl
    | simp only [SeqKept.put_iff]

theorem modHost_seq {p : Nat} {a s : State} (h : SeqKept p a s) (k_1 : Nat) (f : HostDie → HostDie) :
    SeqKept p a (modHost s k_1 f) := by
  unfold modHost
  repeat' first
    | dsimp only
    | with_reducible exact h
    | with_reducible exact k
    | with_reducible exact SeqCore.refl _
    | with_reducible refine setHost_seq ?_ ..
    | split
    | with_reducible exact ⟨rfl, rfl, rfl, rfl⟩
    | (with_reducible refine SeqCore.upd (SeqCore.refl _) ?_ ?_ ?_ ?_) <;> rfl
    | simp only [SeqKept.put_iff]

theorem setQueue_seq {p : Nat} {a s : State} (h : SeqKept p a s) (k_1 : Nat) (v : Queue) :
    SeqKept p a (setQueue s k_1 v) := by
  unfold setQueue
  repeat' first
    | dsimp only
    | with_reducible exact h
    | with_reducible exact k
    | with_reducible exact SeqCore.refl _
    | split
    | with_reducible exact ⟨rfl, rfl, rfl, rfl⟩
    | (with_reducible refine SeqCore.upd (SeqCore.refl _) ?_ ?_ ?_ ?_) <;> rfl
    | simp only [SeqKept.put_iff]

theorem modQueue_seq {p : Nat} {a s : State} (h : SeqKept p a s) (k_1 : Nat) (f : Queue → Queue) :
    SeqKept p a (modQueue s k_1 f) := by
  unfold modQueue
  repeat' first
    | dsimp only
    | with_reducible exact h
    | with_reducible exact k
    | with_reducible exact SeqCore.refl _
    | with_reducible refine setQueue_seq ?_ ..
    | split
    | with_reducible exact ⟨rfl, rfl, rfl, rfl⟩
    | (with_reducible refine SeqCore.upd (SeqCore.refl _) ?_ ?_ ?_ ?_) <;> rfl
    | simp only [SeqKept.put_iff]

theorem setUnit_seq {p : Nat} {a s : State} (h : SeqKept p a s) (k_1 : Nat) (v : CmdUnit) :
    SeqKept p a (setUnit s k_1 v) := by
  unfold setUnit
  repeat' first
    | dsimp only
    | with_reducible exact h
    | with_reducible exact k
    | with_reducible exact SeqCore.refl _
    | split
    | with_reducible exact ⟨rfl, rfl, rfl, rfl⟩
    | (with_reducible refine SeqCore.upd (SeqCore.refl _) ?_ ?_ ?_ ?_) <;> rfl
    | simp only [SeqKept.put_iff]

theorem modUnit_seq {p : Nat} {a s : State} (h : SeqKept p a s) (k_1 : Nat) (f : CmdUnit → CmdUnit) :
    SeqKept p a (modUnit s k_1 f) := by
  unfold modUnit
  repeat' first
    | dsimp only
    | with_reducible exact h
    | with_reducible exact k
    | with_reducible exact SeqCore.refl _
    | with_reducible refine setUnit_seq ?_ ..
    | split
    | with_reducible exact ⟨rfl, rfl, rfl, rfl⟩
    | (with_reducible refine SeqCore.upd (SeqCore.refl _) ?_ ?_ ?_ ?_) <;> rfl
    | simp only [SeqKept.put_iff]

theorem setTransient_seq {p : Nat} {a s : State} (h : SeqKept p a s) (k_1 : Nat) (v : Transient) :
    SeqKept p a (setTransient s k_1 v) := by
  unfold setTransient
  repeat' first
    | dsimp only
    | with_reducible exact h
    | with_reducible exact k
    | with_reducible exact SeqCore.refl _
    | split
    | with_reducible exact ⟨rfl, rfl, rfl, rfl⟩
    | (with_reducible refine SeqCore.upd (SeqCore.refl _) ?_ ?_ ?_ ?_) <;> rfl
    | simp only [SeqKept.put_iff]

theorem modTransient_seq {p : Nat} {a s : State} (h : SeqKept p a s) (k_1 : Nat) (f : Transient → Transient) :
    SeqKept p a (modTransient s k_1 f) := by
  unfold modTransient
  repeat' first
    | dsimp only
    | with_reducible exact h
    | with_reducible exact k
    | with_reducible exact SeqCore.refl _
    | with_reducible refine setTransient_seq ?_ ..
    | split
    | with_reducible exact ⟨rfl, rfl, rfl, rfl⟩
    | (with_reducible refine SeqCore.upd (SeqCore.refl _) ?_ ?_ ?_ ?_) <;> rfl
    | simp only [SeqKept.put_iff]

theorem bumpFresh_seq {p : Nat} {a s : State} (h : SeqKept p a s) (n : Nat) : SeqKept p a (bumpFresh s n) := h

theorem setSlice_seq {p : Nat} {a s : State} (h : SeqKept p a s) (t : Nat) (r : Nat) (ls : List CLine) :
    SeqKept p a (setSlice s t r ls) := by
  unfold setSlice
  repeat' first
    | dsimp only
    | with_reducible exact h
    | with_reducible exact k
    | with_reducible exact SeqCore.refl _
    | split
    | with_reducible exact ⟨rfl, rfl, rfl, rfl⟩
    | (with_reducible refine SeqCore.upd (SeqCore.refl _) ?_ ?_ ?_ ?_) <;> rfl
    | simp only [SeqKept.put_iff]

theorem clearBad_seq {p : Nat} {a s : State} (h : SeqKept p a s) (h_1 : Home) (b : Nat) :
    SeqKept p a (clearBad s h_1 b) := by
  unfold clearBad
  repeat' first
    | dsimp only
    | with_reducible exact h
    | with_reducible exact k
    | with_reducible exact SeqCore.refl _
    | with_reducible refine modDevice_seq ?_ ..
    | split
    | with_reducible exact ⟨rfl, rfl, rfl, rfl⟩
    | (with_reducible refine SeqCore.upd (SeqCore.refl _) ?_ ?_ ?_ ?_) <;> rfl
    | simp only [SeqKept.put_iff]

theorem clearDirty_seq {p : Nat} {a s : State} (h : SeqKept p a s) (base : Nat) (c : CLine) :
    SeqKept p a (clearDirty s base c) := by
  unfold clearDirty
  repeat' first
    | dsimp only
    | with_reducible exact h
    | with_reducible exact k
    | with_reducible exact SeqCore.refl _
    | with_reducible refine each_seq (fun _ _ k => ?_) _ ?_
    | with_reducible refine clearBad_seq ?_ ..
    | split
    | with_reducible exact ⟨rfl, rfl, rfl, rfl⟩
    | (with_reducible refine SeqCore.upd (SeqCore.refl _) ?_ ?_ ?_ ?_) <;> rfl
    | simp only [SeqKept.put_iff]

theorem putSector_seq {p : Nat} {a s : State} (h : SeqKept p a s) (h_1 : Home) (sec : Nat) (x : Sector) :
    SeqKept p a (putSector s h_1 sec x) := by
  unfold putSector
  repeat' first
    | dsimp only
    | with_reducible exact h
    | with_reducible exact k
    | with_reducible exact SeqCore.refl _
    | with_reducible refine clearDirty_seq ?_ ..
    | with_reducible refine setSlice_seq ?_ ..
    | split
    | with_reducible exact ⟨rfl, rfl, rfl, rfl⟩
    | (with_reducible refine SeqCore.upd (SeqCore.refl _) ?_ ?_ ?_ ?_) <;> rfl
    | simp only [SeqKept.put_iff]

theorem writeBlock_seq {p : Nat} {a s : State} (h : SeqKept p a s) (b : Nat) (off : Nat) (bs : List Byte) (alloc : Bool) :
    SeqKept p a (writeBlock s b off bs alloc) := by
  unfold writeBlock
  repeat' first
    | dsimp only
    | with_reducible exact h
    | with_reducible exact k
    | with_reducible exact SeqCore.refl _
    | with_reducible refine clearBad_seq ?_ ..
    | with_reducible refine putSector_seq ?_ ..
    | split
    | with_reducible exact ⟨rfl, rfl, rfl, rfl⟩
    | (with_reducible refine SeqCore.upd (SeqCore.refl _) ?_ ?_ ?_ ?_) <;> rfl
    | simp only [SeqKept.put_iff]

theorem ldWrite_seq {p : Nat} {a s : State} (h : SeqKept p a s) (a_1 : Nat) (bs : List Byte) (alloc : Bool) :
    SeqKept p a (ldWrite s a_1 bs alloc) := by
  unfold ldWrite
  repeat' first
    | dsimp only
    | with_reducible exact h
    | with_reducible exact k
    | with_reducible exact SeqCore.refl _
    | with_reducible refine each_seq (fun _ _ k => ?_) _ ?_
    | with_reducible refine writeBlock_seq ?_ ..
    | split
    | with_reducible exact ⟨rfl, rfl, rfl, rfl⟩
    | (with_reducible refine SeqCore.upd (SeqCore.refl _) ?_ ?_ ?_ ?_) <;> rfl
    | simp only [SeqKept.put_iff]

theorem setTileMon_seq {p : Nat} {a s : State} (h : SeqKept p a s) (k_1 : Nat) (m : Monitor) :
    SeqKept p a (setTileMon s k_1 m) := by
  unfold setTileMon
  repeat' first
    | dsimp only
    | with_reducible exact h
    | with_reducible exact k
    | with_reducible exact SeqCore.refl _
    | split
    | with_reducible exact ⟨rfl, rfl, rfl, rfl⟩
    | (with_reducible refine SeqCore.upd (SeqCore.refl _) ?_ ?_ ?_ ?_) <;> rfl
    | simp only [SeqKept.put_iff]

theorem feedTileMons_seq {p : Nat} {a s : State} (h : SeqKept p a s) (t : Nat) (source : Nat) (inst : Option Nat) (v : Nat) :
    SeqKept p a (feedTileMons s t source inst v) := by
  unfold feedTileMons
  repeat' first
    | dsimp only
    | with_reducible exact h
    | with_reducible exact k
    | with_reducible exact SeqCore.refl _
    | with_reducible refine each_seq (fun _ _ k => ?_) _ ?_
    | with_reducible refine setTileMon_seq ?_ ..
    | split
    | with_reducible exact ⟨rfl, rfl, rfl, rfl⟩
    | (with_reducible refine SeqCore.upd (SeqCore.refl _) ?_ ?_ ?_ ?_) <;> rfl
    | simp only [SeqKept.put_iff]

theorem sampleQueue_seq {p : Nat} {a s : State} (h : SeqKept p a s) (q : Queue) (r : Rec) :
    SeqKept p a (sampleQueue s q r) := by
  unfold sampleQueue
  repeat' first
    | dsimp only
    | with_reducible exact h
    | with_reducible exact k
    | with_reducible exact SeqCore.refl _
    | with_reducible refine feedTileMons_seq ?_ ..
    | split
    | with_reducible exact ⟨rfl, rfl, rfl, rfl⟩
    | (with_reducible refine SeqCore.upd (SeqCore.refl _) ?_ ?_ ?_ ?_) <;> rfl
    | simp only [SeqKept.put_iff]

theorem sendMsi_seq {p : Nat} {a s : State} (h : SeqKept p a s) (h_1 : Nat) (m : Msi) :
    SeqKept p a (sendMsi s h_1 m) := by
  unfold sendMsi
  repeat' first
    | dsimp only
    | with_reducible exact h
    | with_reducible exact k
    | with_reducible exact SeqCore.refl _
    | with_reducible refine modHost_seq ?_ ..
    | split
    | with_reducible exact ⟨rfl, rfl, rfl, rfl⟩
    | (with_reducible refine SeqCore.upd (SeqCore.refl _) ?_ ?_ ?_ ?_) <;> rfl
    | simp only [SeqKept.put_iff]

theorem writeRecord_seq {p : Nat} {a s : State} (h : SeqKept p a s) (n : Nat) :
    SeqKept p a (writeRecord s n) := by
  unfold writeRecord
  repeat' first
    | dsimp only
    | with_reducible exact h
    | with_reducible exact k
    | with_reducible exact SeqCore.refl _
    | with_reducible refine ldWrite_seq ?_ ..
    | with_reducible refine modQueue_seq ?_ ..
    | with_reducible refine sampleQueue_seq ?_ ..
    | with_reducible refine sendMsi_seq ?_ ..
    | with_reducible refine setQueue_seq ?_ ..
    | split
    | with_reducible exact ⟨rfl, rfl, rfl, rfl⟩
    | (with_reducible refine SeqCore.upd (SeqCore.refl _) ?_ ?_ ?_ ?_) <;> rfl
    | simp only [SeqKept.put_iff]

theorem writeRecords_seq {p : Nat} {a s : State} (h : SeqKept p a s) (n : Nat) (a_2 : Nat) :
    SeqKept p a (writeRecords s n a_2) := by
  unfold writeRecords
  repeat' first
    | dsimp only
    | with_reducible exact h
    | with_reducible exact k
    | with_reducible exact SeqCore.refl _
    | with_reducible refine writeRecord_seq ?_ ..
    | with_reducible refine writeRecords_seq ?_ ..
    | split
    | with_reducible exact ⟨rfl, rfl, rfl, rfl⟩
    | (with_reducible refine SeqCore.upd (SeqCore.refl _) ?_ ?_ ?_ ?_) <;> rfl
    | simp only [SeqKept.put_iff]

theorem completeOne_seq {p : Nat} {a s : State} (h : SeqKept p a s) (c : Cmd) (st : Status) (attempts : Nat) (r0 : Nat) (r1 : Nat) (r2 : Nat) (r3 : Nat) :
    SeqKept p a (completeOne s c st attempts r0 r1 r2 r3) := by
  unfold completeOne
  repeat' first
    | dsimp only
    | with_reducible exact h
    | with_reducible exact k
    | with_reducible exact SeqCore.refl _
    | with_reducible refine modQueue_seq ?_ ..
    | split
    | with_reducible exact ⟨rfl, rfl, rfl, rfl⟩
    | (with_reducible refine SeqCore.upd (SeqCore.refl _) ?_ ?_ ?_ ?_) <;> rfl
    | simp only [SeqKept.put_iff]

theorem freeQueue_seq {p : Nat} {a s : State} (h : SeqKept p a s) (n : Nat) :
    SeqKept p a (freeQueue s n) := by
  unfold freeQueue
  repeat' first
    | dsimp only
    | with_reducible exact h
    | with_reducible exact k
    | with_reducible exact SeqCore.refl _
    | with_reducible refine each_seq (fun _ _ k => ?_) _ ?_
    | with_reducible refine modUnit_seq ?_ ..
    | with_reducible refine setQueue_seq ?_ ..
    | with_reducible refine writeRecords_seq ?_ ..
    | split
    | with_reducible exact ⟨rfl, rfl, rfl, rfl⟩
    | (with_reducible refine SeqCore.upd (SeqCore.refl _) ?_ ?_ ?_ ?_) <;> rfl
    | simp only [SeqKept.put_iff]

theorem endDisable_seq {p : Nat} {a s : State} (h : SeqKept p a s) (c : Cmd) :
    SeqKept p a (endDisable s c) := by
  unfold endDisable
  repeat' first
    | dsimp only
    | with_reducible exact h
    | with_reducible exact k
    | with_reducible exact SeqCore.refl _
    | with_reducible refine completeOne_seq ?_ ..
    | with_reducible refine freeQueue_seq ?_ ..
    | with_reducible refine modQueue_seq ?_ ..
    | split
    | with_reducible exact ⟨rfl, rfl, rfl, rfl⟩
    | (with_reducible refine SeqCore.upd (SeqCore.refl _) ?_ ?_ ?_ ?_) <;> rfl
    | simp only [SeqKept.put_iff]

theorem settle_seq {p : Nat} {a s : State} (h : SeqKept p a s) (a_1 : Nat) :
    SeqKept p a (settle s a_1) := by
  unfold settle
  repeat' first
    | dsimp only
    | with_reducible exact h
    | with_reducible exact k
    | with_reducible exact SeqCore.refl _
    | with_reducible refine endDisable_seq ?_ ..
    | with_reducible refine settle_seq ?_ ..
    | split
    | with_reducible exact ⟨rfl, rfl, rfl, rfl⟩
    | (with_reducible refine SeqCore.upd (SeqCore.refl _) ?_ ?_ ?_ ?_) <;> rfl
    | simp only [SeqKept.put_iff]

theorem complete_seq {p : Nat} {a s : State} (h : SeqKept p a s) (uid : Nat) (st : Status) (attempts : Nat) (r0 : Nat) (r1 : Nat) (r2 : Nat) (r3 : Nat) :
    SeqKept p a (complete s uid st attempts r0 r1 r2 r3) := by
  unfold complete
  repeat' first
    | dsimp only
    | with_reducible exact h
    | with_reducible exact k
    | with_reducible exact SeqCore.refl _
    | with_reducible refine completeOne_seq ?_ ..
    | with_reducible refine settle_seq ?_ ..
    | split
    | with_reducible exact ⟨rfl, rfl, rfl, rfl⟩
    | (with_reducible refine SeqCore.upd (SeqCore.refl _) ?_ ?_ ?_ ?_) <;> rfl
    | simp only [SeqKept.put_iff]

theorem finish_seq {p : Nat} {a s : State} (h : SeqKept p a s) (uid : Nat) (st : Status) (r0 : Nat) (r1 : Nat) (r2 : Nat) (r3 : Nat) :
    SeqKept p a (finish s uid st r0 r1 r2 r3) := by
  unfold finish
  repeat' first
    | dsimp only
    | with_reducible exact h
    | with_reducible exact k
    | with_reducible exact SeqCore.refl _
    | with_reducible refine complete_seq ?_ ..
    | split
    | with_reducible exact ⟨rfl, rfl, rfl, rfl⟩
    | (with_reducible refine SeqCore.upd (SeqCore.refl _) ?_ ?_ ?_ ?_) <;> rfl
    | simp only [SeqKept.put_iff]

theorem refuse_seq {p : Nat} {a s : State} (h : SeqKept p a s) (uid : Nat) (st : Status) :
    SeqKept p a (refuse s uid st) := by
  unfold refuse
  repeat' first
    | dsimp only
    | with_reducible exact h
    | with_reducible exact k
    | with_reducible exact SeqCore.refl _
    | with_reducible refine complete_seq ?_ ..
    | split
    | with_reducible exact ⟨rfl, rfl, rfl, rfl⟩
    | (with_reducible refine SeqCore.upd (SeqCore.refl _) ?_ ?_ ?_ ?_) <;> rfl
    | simp only [SeqKept.put_iff]

theorem faultLogCopy_seq {p : Nat} {a s : State} (h : SeqKept p a s) (c : Cmd) :
    SeqKept p a (faultLogCopy s c) := by
  unfold faultLogCopy
  repeat' first
    | dsimp only
    | with_reducible exact h
    | with_reducible exact k
    | with_reducible exact SeqCore.refl _
    | with_reducible refine finish_seq ?_ ..
    | with_reducible refine ldWrite_seq ?_ ..
    | with_reducible refine modHost_seq ?_ ..
    | with_reducible refine refuse_seq ?_ ..
    | split
    | with_reducible exact ⟨rfl, rfl, rfl, rfl⟩
    | (with_reducible refine SeqCore.upd (SeqCore.refl _) ?_ ?_ ?_ ?_) <;> rfl
    | simp only [SeqKept.put_iff]

theorem wakeFaultReads_seq {p : Nat} {a s : State} (h : SeqKept p a s)  :
    SeqKept p a (wakeFaultReads s) := by
  unfold wakeFaultReads
  repeat' first
    | dsimp only
    | with_reducible exact h
    | with_reducible exact k
    | with_reducible exact SeqCore.refl _
    | with_reducible refine each_seq (fun _ _ k => ?_) _ ?_
    | with_reducible refine faultLogCopy_seq ?_ ..
    | split
    | with_reducible exact ⟨rfl, rfl, rfl, rfl⟩
    | (with_reducible refine SeqCore.upd (SeqCore.refl _) ?_ ?_ ?_ ?_) <;> rfl
    | simp only [SeqKept.put_iff]

theorem addProv_seq {p : Nat} {a s : State} (h : SeqKept p a s) (e : Prov) : SeqKept p a (addProv s e) := by
  unfold addProv
  simp only [SeqKept.put_iff]
  exact h

theorem addFault_seq {p : Nat} {a s : State} (h : SeqKept p a s) (r : FaultRec) :
    SeqKept p a (addFault s r) := by
  unfold addFault
  repeat' first
    | dsimp only
    | with_reducible exact h
    | with_reducible exact k
    | with_reducible exact SeqCore.refl _
    | with_reducible refine each_seq (fun _ _ k => ?_) _ ?_
    | with_reducible refine modHost_seq ?_ ..
    | with_reducible refine wakeFaultReads_seq ?_ ..
    | split
    | with_reducible exact ⟨rfl, rfl, rfl, rfl⟩
    | (with_reducible refine SeqCore.upd (SeqCore.refl _) ?_ ?_ ?_ ?_) <;> rfl
    | simp only [SeqKept.put_iff]

theorem addLasting_seq {p : Nat} {a s : State} (h : SeqKept p a s) (r : FaultRec) (unit : Option Nat) :
    SeqKept p a (addLasting s r unit) := by
  unfold addLasting
  repeat' first
    | dsimp only
    | with_reducible exact h
    | with_reducible exact k
    | with_reducible exact SeqCore.refl _
    | with_reducible refine addFault_seq ?_ ..
    | with_reducible refine addProv_seq ?_ ..
    | with_reducible refine modTransient_seq ?_ ..
    | split
    | with_reducible exact ⟨rfl, rfl, rfl, rfl⟩
    | (with_reducible refine SeqCore.upd (SeqCore.refl _) ?_ ?_ ?_ ?_) <;> rfl
    | simp only [SeqKept.put_iff]

theorem finishTask_seq {p : Nat} {a s : State} (h : SeqKept p a s) (p_1 : Nat) (id : Nat) (st : Status) (af : AFlags) :
    SeqKept p a (finishTask s p_1 id st af) := by
  unfold finishTask
  repeat' first
    | dsimp only
    | with_reducible exact h
    | with_reducible exact k
    | with_reducible exact SeqCore.refl _
    | with_reducible refine modTask_seq ?_ _ _ _ (fun t => ?_)
    | split
    | with_reducible exact ⟨rfl, rfl, rfl, rfl⟩
    | (with_reducible refine SeqCore.upd (SeqCore.refl _) ?_ ?_ ?_ ?_) <;> rfl
    | simp only [SeqKept.put_iff]

theorem finishOk_seq {p : Nat} {a s : State} (h : SeqKept p a s) (p_1 : Nat) (id : Nat) (af : AFlags) (stream : List Byte) :
    SeqKept p a (finishOk s p_1 id af stream) := by
  unfold finishOk
  repeat' first
    | dsimp only
    | with_reducible exact h
    | with_reducible exact k
    | with_reducible exact SeqCore.refl _
    | with_reducible refine modTask_seq ?_ _ _ _ (fun t => ?_)
    | split
    | with_reducible exact ⟨rfl, rfl, rfl, rfl⟩
    | (with_reducible refine SeqCore.upd (SeqCore.refl _) ?_ ?_ ?_ ?_) <;> rfl
    | simp only [SeqKept.put_iff]

theorem endFeeds_seq {p : Nat} {a s : State} (h : SeqKept p a s)  :
    SeqKept p a (endFeeds s) := by
  unfold endFeeds
  repeat' first
    | dsimp only
    | with_reducible exact h
    | with_reducible exact k
    | with_reducible exact SeqCore.refl _
    | with_reducible refine each_seq (fun _ _ k => ?_) _ ?_
    | with_reducible refine finish_seq ?_ ..
    | split
    | with_reducible exact ⟨rfl, rfl, rfl, rfl⟩
    | (with_reducible refine SeqCore.upd (SeqCore.refl _) ?_ ?_ ?_ ?_) <;> rfl
    | simp only [SeqKept.put_iff]

theorem feedEnded_seq {p : Nat} {a s : State} (h : SeqKept p a s) (gone : Nat × Nat → Bool) (done : Bool) :
    SeqKept p a (feedEnded s gone done) := by
  unfold feedEnded
  repeat' first
    | dsimp only
    | with_reducible exact h
    | with_reducible exact k
    | with_reducible exact SeqCore.refl _
    | with_reducible refine endFeeds_seq ?_ ..
    | split
    | with_reducible exact ⟨rfl, rfl, rfl, rfl⟩
    | (with_reducible refine SeqCore.upd (SeqCore.refl _) ?_ ?_ ?_ ?_) <;> rfl
    | simp only [SeqKept.put_iff]

theorem hostLoad_seq {p : Nat} {a s : State} (h : SeqKept p a s) (h_1 : Nat) (hart : Nat) (data : Option (BitVec 512)) :
    SeqKept p a (hostLoad s h_1 hart data) := by
  unfold hostLoad
  repeat' first
    | dsimp only
    | with_reducible exact h
    | with_reducible exact k
    | with_reducible exact SeqCore.refl _
    | split
    | with_reducible exact ⟨rfl, rfl, rfl, rfl⟩
    | (with_reducible refine SeqCore.upd (SeqCore.refl _) ?_ ?_ ?_ ?_) <;> rfl
    | simp only [SeqKept.put_iff]

theorem fetchFails_seq {p : Nat} {a s : State} (h : SeqKept p a s) (p_1 : Nat) (st : Status) :
    SeqKept p a (fetchFails s p_1 st) := by
  unfold fetchFails
  repeat' first
    | dsimp only
    | with_reducible exact h
    | with_reducible exact k
    | with_reducible exact SeqCore.refl _
    | with_reducible refine modCore_seq ?_ _ _ (fun c => ?_)
    | with_reducible refine enterBuffer_seq ?_ ..
    | split
    | with_reducible exact ⟨rfl, rfl, rfl, rfl⟩
    | (with_reducible refine SeqCore.upd (SeqCore.refl _) ?_ ?_ ?_ ?_) <;> rfl
    | simp only [SeqKept.put_iff]

theorem endAsker_seq {p : Nat} {a s : State} (h : SeqKept p a s) (who : Asker) (st : Status) :
    SeqKept p a (endAsker s who st) := by
  unfold endAsker
  repeat' first
    | dsimp only
    | with_reducible exact h
    | with_reducible exact k
    | with_reducible exact SeqCore.refl _
    | with_reducible refine fetchFails_seq ?_ ..
    | with_reducible refine finishTask_seq ?_ ..
    | with_reducible refine hostLoad_seq ?_ ..
    | split
    | with_reducible exact ⟨rfl, rfl, rfl, rfl⟩
    | (with_reducible refine SeqCore.upd (SeqCore.refl _) ?_ ?_ ?_ ?_) <;> rfl
    | simp only [SeqKept.put_iff]

theorem countDrop_seq {p : Nat} {a s : State} (h : SeqKept p a s) (t : Nat) (f : NiDrop → NiDrop) :
    SeqKept p a (countDrop s t f) := by
  unfold countDrop
  repeat' first
    | dsimp only
    | with_reducible exact h
    | with_reducible exact k
    | with_reducible exact SeqCore.refl _
    | with_reducible refine modTile_seq ?_ ..
    | split
    | with_reducible exact ⟨rfl, rfl, rfl, rfl⟩
    | (with_reducible refine SeqCore.upd (SeqCore.refl _) ?_ ?_ ?_ ?_) <;> rfl
    | simp only [SeqKept.put_iff]

theorem noteVc0_seq {p : Nat} {a s : State} (h : SeqKept p a s) (k_1 : Packet) :
    SeqKept p a (noteVc0 s k_1) := by
  unfold noteVc0
  repeat' first
    | dsimp only
    | with_reducible exact h
    | with_reducible exact k
    | with_reducible exact SeqCore.refl _
    | with_reducible refine countDrop_seq ?_ ..
    | split
    | with_reducible exact ⟨rfl, rfl, rfl, rfl⟩
    | (with_reducible refine SeqCore.upd (SeqCore.refl _) ?_ ?_ ?_ ?_) <;> rfl
    | simp only [SeqKept.put_iff]

theorem launch_seq {p : Nat} {a s : State} (h : SeqKept p a s) (k_1 : Packet) :
    SeqKept p a (launch s k_1) := by
  unfold launch
  repeat' first
    | dsimp only
    | with_reducible exact h
    | with_reducible exact k
    | with_reducible exact SeqCore.refl _
    | with_reducible refine endAsker_seq ?_ ..
    | with_reducible refine noteVc0_seq ?_ ..
    | split
    | with_reducible exact ⟨rfl, rfl, rfl, rfl⟩
    | (with_reducible refine SeqCore.upd (SeqCore.refl _) ?_ ?_ ?_ ?_) <;> rfl
    | simp only [SeqKept.put_iff]

theorem enqueue_seq {p : Nat} {a s : State} (h : SeqKept p a s) (k_1 : Packet) :
    SeqKept p a (enqueue s k_1) := by
  unfold enqueue
  repeat' first
    | dsimp only
    | with_reducible exact h
    | with_reducible exact k
    | with_reducible exact SeqCore.refl _
    | with_reducible refine launch_seq ?_ ..
    | split
    | with_reducible exact ⟨rfl, rfl, rfl, rfl⟩
    | (with_reducible refine SeqCore.upd (SeqCore.refl _) ?_ ?_ ?_ ?_) <;> rfl
    | simp only [SeqKept.put_iff]

theorem inject_seq {p : Nat} {a s : State} (h : SeqKept p a s) (part : Nat) (vc : Nat) (kind : Nat) (sunit : Nat) (src : Nat) (dunit : Nat) (dst : Nat) (bytes : Nat) (urg : Bool) (tag : Nat) (body : Body) :
    SeqKept p a (inject s part vc kind sunit src dunit dst bytes urg tag body) := by
  unfold inject
  repeat' first
    | dsimp only
    | with_reducible exact h
    | with_reducible exact k
    | with_reducible exact SeqCore.refl _
    | with_reducible refine enqueue_seq ?_ ..
    | split
    | with_reducible exact ⟨rfl, rfl, rfl, rfl⟩
    | (with_reducible refine SeqCore.upd (SeqCore.refl _) ?_ ?_ ?_ ?_) <;> rfl
    | simp only [SeqKept.put_iff]

theorem toPort_seq {p : Nat} {a s : State} (h : SeqKept p a s) (p_1 : Nat) (f : Frame) (who : Asker) (urg : Bool) :
    SeqKept p a (toPort s p_1 f who urg) := by
  unfold toPort
  repeat' first
    | dsimp only
    | with_reducible exact h
    | with_reducible exact k
    | with_reducible exact SeqCore.refl _
    | with_reducible refine endAsker_seq ?_ ..
    | with_reducible refine inject_seq ?_ ..
    | split
    | with_reducible exact ⟨rfl, rfl, rfl, rfl⟩
    | (with_reducible refine SeqCore.upd (SeqCore.refl _) ?_ ?_ ?_ ?_) <;> rfl
    | simp only [SeqKept.put_iff]

theorem sendReq_seq {p : Nat} {a s : State} (h : SeqKept p a s) (p_1 : Nat) (peer : Nat) (vc : Nat) (kind : Nat) (bytes : Nat) (task : Nat × Nat) (body : Body) :
    SeqKept p a (sendReq s p_1 peer vc kind bytes task body) := by
  unfold sendReq
  repeat' first
    | dsimp only
    | with_reducible exact h
    | with_reducible exact k
    | with_reducible exact SeqCore.refl _
    | with_reducible refine inject_seq ?_ ..
    | with_reducible refine toPort_seq ?_ ..
    | split
    | with_reducible exact ⟨rfl, rfl, rfl, rfl⟩
    | (with_reducible refine SeqCore.upd (SeqCore.refl _) ?_ ?_ ?_ ?_) <;> rfl
    | simp only [SeqKept.put_iff]

theorem addReq_seq {p : Nat} {a s : State} (h : SeqKept p a s) (who : Asker) (packets : List Packet) (frames : List Frame) :
    SeqKept p a (addReq s who packets frames) := by
  unfold addReq
  repeat' first
    | dsimp only
    | with_reducible exact h
    | with_reducible exact k
    | with_reducible exact SeqCore.refl _
    | split
    | with_reducible exact ⟨rfl, rfl, rfl, rfl⟩
    | (with_reducible refine SeqCore.upd (SeqCore.refl _) ?_ ?_ ?_ ?_) <;> rfl
    | simp only [SeqKept.put_iff]

theorem ask_seq {p : Nat} {a s : State} (h : SeqKept p a s) (who : Asker) (part : Nat) (vc : Nat) (kind : Nat) (sunit : Nat) (src : Nat) (dunit : Nat) (dst : Nat) (bytes : Nat) (tag : Nat) (body : Body) :
    SeqKept p a (ask s who part vc kind sunit src dunit dst bytes tag body) := by
  unfold ask
  repeat' first
    | dsimp only
    | with_reducible exact h
    | with_reducible exact k
    | with_reducible exact SeqCore.refl _
    | with_reducible refine addReq_seq ?_ ..
    | with_reducible refine inject_seq ?_ ..
    | split
    | with_reducible exact ⟨rfl, rfl, rfl, rfl⟩
    | (with_reducible refine SeqCore.upd (SeqCore.refl _) ?_ ?_ ?_ ?_) <;> rfl
    | simp only [SeqKept.put_iff]

theorem modWin_seq {p : Nat} {a s : State} (h : SeqKept p a s) (l : Nat) (slot : Nat) (f : Win → Win) :
    SeqKept p a (modWin s l slot f) := by
  unfold modWin
  repeat' first
    | dsimp only
    | with_reducible exact h
    | with_reducible exact k
    | with_reducible exact SeqCore.refl _
    | with_reducible refine modWins_seq ?_ ..
    | split
    | with_reducible exact ⟨rfl, rfl, rfl, rfl⟩
    | (with_reducible refine SeqCore.upd (SeqCore.refl _) ?_ ?_ ?_ ?_) <;> rfl
    | simp only [SeqKept.put_iff]

theorem met_seq {p : Nat} {a s : State} (h : SeqKept p a s) (p_1 : Nat) (id : Nat) :
    SeqKept p a (met s p_1 id) := by
  unfold met
  repeat' first
    | dsimp only
    | with_reducible exact h
    | with_reducible exact k
    | with_reducible exact SeqCore.refl _
    | with_reducible refine modTask_seq ?_ _ _ _ (fun t => ?_)
    | with_reducible refine modTransient_seq ?_ ..
    | split
    | with_reducible exact ⟨rfl, rfl, rfl, rfl⟩
    | (with_reducible refine SeqCore.upd (SeqCore.refl _) ?_ ?_ ?_ ?_) <;> rfl
    | simp only [SeqKept.put_iff]

theorem serveWaits_seq {p : Nat} {a s : State} (h : SeqKept p a s) (l slot : Nat) : SeqKept p a (serveWaits s l slot) := by
  unfold serveWaits
  split
  · exact h
  · refine foldl_fst_seq (fun t x k => ?_) _ h
    dsimp only
    split
    · exact finishOk_seq (met_seq (modWin_seq k ..) ..) ..
    · exact k

theorem modGroup_seq {p : Nat} {a s : State} (h : SeqKept p a s) (key : Nat) (f : Group → Group) :
    SeqKept p a (modGroup s key f) := by
  unfold modGroup
  repeat' first
    | dsimp only
    | with_reducible exact h
    | with_reducible exact k
    | with_reducible exact SeqCore.refl _
    | split
    | with_reducible exact ⟨rfl, rfl, rfl, rfl⟩
    | (with_reducible refine SeqCore.upd (SeqCore.refl _) ?_ ?_ ?_ ?_) <;> rfl
    | simp only [SeqKept.put_iff]

theorem scramble_seq {p : Nat} {a s : State} (h : SeqKept p a s) (p_1 : Nat) (r : Region) :
    SeqKept p a (scramble s p_1 r) := by
  unfold scramble
  repeat' first
    | dsimp only
    | with_reducible exact h
    | with_reducible exact k
    | with_reducible exact SeqCore.refl _
    | with_reducible refine bumpFresh_seq ?_ ..
    | with_reducible refine modCore_seq ?_ _ _ (fun c => ?_)
    | with_reducible refine spdWrite_seq ?_ ..
    | split
    | with_reducible exact ⟨rfl, rfl, rfl, rfl⟩
    | (with_reducible refine SeqCore.upd (SeqCore.refl _) ?_ ?_ ?_ ?_) <;> rfl
    | simp only [SeqKept.put_iff]

theorem addSpdUe_seq {p : Nat} {a s : State} (h : SeqKept p a s) (p_1 : Nat) (r : FaultRec) (k_3 : MemKind) (w : Nat) :
    SeqKept p a (addSpdUe s p_1 r k_3 w) := by
  unfold addSpdUe
  repeat' first
    | dsimp only
    | with_reducible exact h
    | with_reducible exact k
    | with_reducible exact SeqCore.refl _
    | with_reducible refine addLasting_seq ?_ ..
    | with_reducible refine modCore_seq ?_ _ _ (fun c => ?_)
    | split
    | with_reducible exact ⟨rfl, rfl, rfl, rfl⟩
    | (with_reducible refine SeqCore.upd (SeqCore.refl _) ?_ ?_ ?_ ?_) <;> rfl
    | simp only [SeqKept.put_iff]

theorem strayUe_seq {p : Nat} {a s : State} (h : SeqKept p a s) (p_1 : Nat) (f : MemKind × Nat) :
    SeqKept p a (strayUe s p_1 f) := by
  unfold strayUe
  repeat' first
    | dsimp only
    | with_reducible exact h
    | with_reducible exact k
    | with_reducible exact SeqCore.refl _
    | with_reducible refine addSpdUe_seq ?_ ..
    | split
    | with_reducible exact ⟨rfl, rfl, rfl, rfl⟩
    | (with_reducible refine SeqCore.upd (SeqCore.refl _) ?_ ?_ ?_ ?_) <;> rfl
    | simp only [SeqKept.put_iff]

theorem seeAccesses_seq {p : Nat} {a s : State} (h : SeqKept p a s) (p_1 : Nat) (id : Nat) (l : List Acc) :
    SeqKept p a (seeAccesses s p_1 id l) := by
  unfold seeAccesses
  repeat' first
    | dsimp only
    | with_reducible exact h
    | with_reducible exact k
    | with_reducible exact SeqCore.refl _
    | with_reducible refine each_seq (fun _ _ k => ?_) _ ?_
    | with_reducible refine modCore_seq ?_ _ _ (fun c => ?_)
    | with_reducible refine strayUe_seq ?_ ..
    | with_reducible refine serveStarved_seq ?_ ..
    | with_reducible refine raceCheck_seq ?_ ..
    | split
    | with_reducible exact ⟨rfl, rfl, rfl, rfl⟩
    | (with_reducible refine SeqCore.upd (SeqCore.refl _) ?_ ?_ ?_ ?_) <;> rfl
    | simp only [SeqKept.put_iff]

theorem failTask_seq {p : Nat} {a s : State} (h : SeqKept p a s) (p_1 : Nat) (id : Nat) (st : Status) :
    SeqKept p a (failTask s p_1 id st) := by
  unfold failTask
  repeat' first
    | dsimp only
    | with_reducible exact h
    | with_reducible exact k
    | with_reducible exact SeqCore.refl _
    | with_reducible refine feedEnded_seq ?_ ..
    | with_reducible refine modCore_seq ?_ _ _ (fun c => ?_)
    | with_reducible refine modTask_seq ?_ _ _ _ (fun t => ?_)
    | with_reducible refine withdrawFeed_seq ?_ ..
    | split
    | with_reducible exact ⟨rfl, rfl, rfl, rfl⟩
    | (with_reducible refine SeqCore.upd (SeqCore.refl _) ?_ ?_ ?_ ?_) <;> rfl
    | simp only [SeqKept.put_iff]

theorem eccTask_seq {p : Nat} {a s : State} (h : SeqKept p a s) (p_1 : Nat) (t : Task) (f : MemKind × Nat) :
    SeqKept p a (eccTask s p_1 t f) := by
  unfold eccTask
  repeat' first
    | dsimp only
    | with_reducible exact h
    | with_reducible exact k
    | with_reducible exact SeqCore.refl _
    | with_reducible refine addSpdUe_seq ?_ ..
    | with_reducible refine failTask_seq ?_ ..
    | with_reducible refine modTask_seq ?_ _ _ _ (fun t => ?_)
    | split
    | with_reducible exact ⟨rfl, rfl, rfl, rfl⟩
    | (with_reducible refine SeqCore.upd (SeqCore.refl _) ?_ ?_ ?_ ?_) <;> rfl
    | simp only [SeqKept.put_iff]

theorem runUnit_seq {p : Nat} {a s : State} (h : SeqKept p a s) (q : Nat) (t : Task) (accs : List Acc)
    (compute : Core → Core × AFlags) (stream : Core → List Byte) (hc : ∀ c, SeqCore c (compute c).1) :
    SeqKept p a (runUnit s q t accs compute stream) := by
  unfold runUnit
  have h1 := seeAccesses_seq h q t.id accs
  dsimp only
  split
  · exact eccTask_seq (each_seq (fun _ _ k => scramble_seq k ..) _ h1) ..
  · have h2 := setCore_seq h1 q _ (hc _)
    split
    · exact eccTask_seq h2 ..
    · exact finishOk_seq h2 ..

theorem runCopy_seq {p : Nat} {a s : State} (h : SeqKept p a s) (q : Nat) (t : Task) : SeqKept p a (runCopy q s t) := by
  unfold runCopy
  exact runUnit_seq h _ _ _ _ _ fun c => foldl_core (fun _ _ k => spdWrite_seq k ..) _ (.refl c)

theorem askSlice_seq {p : Nat} {a s : State} (h : SeqKept p a s) (who : Asker) (p_2 : Nat) (vc : Nat) (kind : Nat) (a_5 : Nat) (bytes : Nat) (tag : Nat) (body : Body) :
    SeqKept p a (askSlice s who p_2 vc kind a_5 bytes tag body) := by
  unfold askSlice
  repeat' first
    | dsimp only
    | with_reducible exact h
    | with_reducible exact k
    | with_reducible exact SeqCore.refl _
    | with_reducible refine ask_seq ?_ ..
    | with_reducible refine endAsker_seq ?_ ..
    | split
    | with_reducible exact ⟨rfl, rfl, rfl, rfl⟩
    | (with_reducible refine SeqCore.upd (SeqCore.refl _) ?_ ?_ ?_ ?_) <;> rfl
    | simp only [SeqKept.put_iff]

theorem nextMove_seq {p : Nat} {a s : State} (h : SeqKept p a s) (p_1 : Nat) (t : Task) :
    SeqKept p a (nextMove s p_1 t) := by
  unfold nextMove
  repeat' first
    | dsimp only
    | with_reducible exact h
    | with_reducible exact k
    | with_reducible exact SeqCore.refl _
    | with_reducible refine askSlice_seq ?_ ..
    | with_reducible refine eccTask_seq ?_ ..
    | with_reducible refine finishOk_seq ?_ ..
    | with_reducible refine seeAccesses_seq ?_ ..
    | split
    | with_reducible exact ⟨rfl, rfl, rfl, rfl⟩
    | (with_reducible refine SeqCore.upd (SeqCore.refl _) ?_ ?_ ?_ ?_) <;> rfl
    | simp only [SeqKept.put_iff]

theorem joinStream_seq {p : Nat} {a s : State} (h : SeqKept p a s) (p_1 : Nat) (t : Task) :
    SeqKept p a (joinStream s p_1 t) := by
  unfold joinStream
  repeat' first
    | dsimp only
    | with_reducible exact h
    | with_reducible exact k
    | with_reducible exact SeqCore.refl _
    | with_reducible refine finishTask_seq ?_ ..
    | split
    | with_reducible exact ⟨rfl, rfl, rfl, rfl⟩
    | (with_reducible refine SeqCore.upd (SeqCore.refl _) ?_ ?_ ?_ ?_) <;> rfl
    | simp only [SeqKept.put_iff]

theorem runStreamIn_seq {p : Nat} {a s : State} (h : SeqKept p a s) (p_0 : Nat) (t : Task) :
    SeqKept p a (runStreamIn p_0 s t) := by
  unfold runStreamIn
  repeat' first
    | dsimp only
    | with_reducible exact h
    | with_reducible exact k
    | with_reducible exact SeqCore.refl _
    | with_reducible refine joinStream_seq ?_ ..
    | with_reducible refine nextMove_seq ?_ ..
    | split
    | with_reducible exact ⟨rfl, rfl, rfl, rfl⟩
    | (with_reducible refine SeqCore.upd (SeqCore.refl _) ?_ ?_ ?_ ?_) <;> rfl
    | simp only [SeqKept.put_iff]

theorem runStreamOut_seq {p : Nat} {a s : State} (h : SeqKept p a s) (p_0 : Nat) (t : Task) :
    SeqKept p a (runStreamOut p_0 s t) := by
  unfold runStreamOut
  repeat' first
    | dsimp only
    | with_reducible exact h
    | with_reducible exact k
    | with_reducible exact SeqCore.refl _
    | with_reducible refine nextMove_seq ?_ ..
    | split
    | with_reducible exact ⟨rfl, rfl, rfl, rfl⟩
    | (with_reducible refine SeqCore.upd (SeqCore.refl _) ?_ ?_ ?_ ?_) <;> rfl
    | simp only [SeqKept.put_iff]

theorem request_seq {p : Nat} {a s : State} (h : SeqKept p a s) (p_1 : Nat) (peer : Nat) (vc : Nat) (kind : Nat) (bytes : Nat) (id : Nat) (body : Body) :
    SeqKept p a (request s p_1 peer vc kind bytes id body) := by
  unfold request
  repeat' first
    | dsimp only
    | with_reducible exact h
    | with_reducible exact k
    | with_reducible exact SeqCore.refl _
    | with_reducible refine finishTask_seq ?_ ..
    | with_reducible refine sendReq_seq ?_ ..
    | split
    | with_reducible exact ⟨rfl, rfl, rfl, rfl⟩
    | (with_reducible refine SeqCore.upd (SeqCore.refl _) ?_ ?_ ?_ ?_) <;> rfl
    | simp only [SeqKept.put_iff]

theorem runSend_seq {p : Nat} {a s : State} (h : SeqKept p a s) (p_0 : Nat) (t : Task) :
    SeqKept p a (runSend p_0 s t) := by
  unfold runSend
  repeat' first
    | dsimp only
    | with_reducible exact h
    | with_reducible exact k
    | with_reducible exact SeqCore.refl _
    | with_reducible refine finishTask_seq ?_ ..
    | with_reducible refine modCore_seq ?_ _ _ (fun c => ?_)
    | with_reducible refine request_seq ?_ ..
    | split
    | with_reducible exact ⟨rfl, rfl, rfl, rfl⟩
    | (with_reducible refine SeqCore.upd (SeqCore.refl _) ?_ ?_ ?_ ?_) <;> rfl
    | simp only [SeqKept.put_iff]

theorem pullData_seq {p : Nat} {a s : State} (h : SeqKept p a s) (p_1 : Nat) (id : Nat) (a_3 : Announce) :
    SeqKept p a (pullData s p_1 id a_3) := by
  unfold pullData
  repeat' first
    | dsimp only
    | with_reducible exact h
    | with_reducible exact k
    | with_reducible exact SeqCore.refl _
    | with_reducible refine addReq_seq ?_ ..
    | with_reducible refine met_seq ?_ ..
    | with_reducible refine modTask_seq ?_ _ _ _ (fun t => ?_)
    | with_reducible refine request_seq ?_ ..
    | split
    | with_reducible exact ⟨rfl, rfl, rfl, rfl⟩
    | (with_reducible refine SeqCore.upd (SeqCore.refl _) ?_ ?_ ?_ ?_) <;> rfl
    | simp only [SeqKept.put_iff]

theorem runRecv_seq {p : Nat} {a s : State} (h : SeqKept p a s) (p_0 : Nat) (t : Task) :
    SeqKept p a (runRecv p_0 s t) := by
  unfold runRecv
  repeat' first
    | dsimp only
    | with_reducible exact h
    | with_reducible exact k
    | with_reducible exact SeqCore.refl _
    | with_reducible refine finishTask_seq ?_ ..
    | with_reducible refine modCore_seq ?_ _ _ (fun c => ?_)
    | with_reducible refine modTask_seq ?_ _ _ _ (fun t => ?_)
    | with_reducible refine pullData_seq ?_ ..
    | split
    | with_reducible exact ⟨rfl, rfl, rfl, rfl⟩
    | (with_reducible refine SeqCore.upd (SeqCore.refl _) ?_ ?_ ?_ ?_) <;> rfl
    | simp only [SeqKept.put_iff]

theorem sendPut_seq {p : Nat} {a s : State} (h : SeqKept p a s) (p_1 : Nat) (t : Task) :
    SeqKept p a (sendPut s p_1 t) := by
  unfold sendPut
  repeat' first
    | dsimp only
    | with_reducible exact h
    | with_reducible exact k
    | with_reducible exact SeqCore.refl _
    | with_reducible refine each_seq (fun _ _ k => ?_) _ ?_
    | with_reducible refine addReq_seq ?_ ..
    | with_reducible refine eccTask_seq ?_ ..
    | with_reducible refine finishTask_seq ?_ ..
    | with_reducible refine request_seq ?_ ..
    | with_reducible refine seeAccesses_seq ?_ ..
    | split
    | with_reducible exact ⟨rfl, rfl, rfl, rfl⟩
    | (with_reducible refine SeqCore.upd (SeqCore.refl _) ?_ ?_ ?_ ?_) <;> rfl
    | simp only [SeqKept.put_iff]

theorem runPut_seq {p : Nat} {a s : State} (h : SeqKept p a s) (p_0 : Nat) (t : Task) :
    SeqKept p a (runPut p_0 s t) := by
  unfold runPut
  repeat' first
    | dsimp only
    | with_reducible exact h
    | with_reducible exact k
    | with_reducible exact SeqCore.refl _
    | with_reducible refine sendPut_seq ?_ ..
    | split
    | with_reducible exact ⟨rfl, rfl, rfl, rfl⟩
    | (with_reducible refine SeqCore.upd (SeqCore.refl _) ?_ ?_ ?_ ?_) <;> rfl
    | simp only [SeqKept.put_iff]

theorem runWindowWait_seq {p : Nat} {a s : State} (h : SeqKept p a s) (p_0 : Nat) (t : Task) :
    SeqKept p a (runWindowWait p_0 s t) := by
  unfold runWindowWait
  repeat' first
    | dsimp only
    | with_reducible exact h
    | with_reducible exact k
    | with_reducible exact SeqCore.refl _
    | with_reducible refine serveWaits_seq ?_ ..
    | split
    | with_reducible exact ⟨rfl, rfl, rfl, rfl⟩
    | (with_reducible refine SeqCore.upd (SeqCore.refl _) ?_ ?_ ?_ ?_) <;> rfl
    | simp only [SeqKept.put_iff]

theorem takeSeq_seq {p : Nat} {a s : State} (h : SeqKept p a s) (p_1 : Nat) (t : Task) (key : Nat) (g : Group) (m : Nat) :
    SeqKept p a (takeSeq s p_1 t key g m).1 := by
  unfold takeSeq
  repeat' first
    | dsimp only
    | with_reducible exact h
    | with_reducible exact k
    | with_reducible exact SeqCore.refl _
    | with_reducible refine modGroup_seq ?_ ..
    | with_reducible refine modTask_seq ?_ _ _ _ (fun t => ?_)
    | split
    | with_reducible exact ⟨rfl, rfl, rfl, rfl⟩
    | (with_reducible refine SeqCore.upd (SeqCore.refl _) ?_ ?_ ?_ ?_) <;> rfl
    | simp only [SeqKept.put_iff]

theorem sendParts_seq {p : Nat} {a s : State} (h : SeqKept p a s) (p_1 : Nat) (t : Task) (key : Nat) (g : Group) (m : Nat) (seq : Nat) (sig : BitVec 51) (elem : Nat) (vs : List FVal) (a_10 : Nat) :
    SeqKept p a (sendParts s p_1 t key g m seq sig elem vs a_10) := by
  unfold sendParts
  repeat' first
    | dsimp only
    | with_reducible exact h
    | with_reducible exact k
    | with_reducible exact SeqCore.refl _
    | with_reducible refine inject_seq ?_ ..
    | with_reducible refine sendParts_seq ?_ ..
    | split
    | with_reducible exact ⟨rfl, rfl, rfl, rfl⟩
    | (with_reducible refine SeqCore.upd (SeqCore.refl _) ?_ ?_ ?_ ?_) <;> rfl
    | simp only [SeqKept.put_iff]

theorem runReduce_seq {p : Nat} {a s : State} (h : SeqKept p a s) (p_0 : Nat) (t : Task) :
    SeqKept p a (runReduce p_0 s t) := by
  unfold runReduce
  repeat' first
    | dsimp only
    | with_reducible exact h
    | with_reducible exact k
    | with_reducible exact SeqCore.refl _
    | with_reducible refine putOut_seq ?_ _ _ _ _ _ _ _ rfl
    | with_reducible refine eccTask_seq ?_ ..
    | with_reducible refine finishOk_seq ?_ ..
    | with_reducible refine finishTask_seq ?_ ..
    | with_reducible refine modTask_seq ?_ _ _ _ (fun t => ?_)
    | with_reducible refine seeAccesses_seq ?_ ..
    | with_reducible refine sendParts_seq ?_ ..
    | with_reducible refine setCore_seq ?_ _ _ ?_
    | with_reducible refine takeSeq_seq ?_ ..
    | split
    | with_reducible exact ⟨rfl, rfl, rfl, rfl⟩
    | (with_reducible refine SeqCore.upd (SeqCore.refl _) ?_ ?_ ?_ ?_) <;> rfl
    | simp only [SeqKept.put_iff]

theorem runBroadcast_seq {p : Nat} {a s : State} (h : SeqKept p a s) (p_0 : Nat) (t : Task) :
    SeqKept p a (runBroadcast p_0 s t) := by
  unfold runBroadcast
  repeat' first
    | dsimp only
    | with_reducible exact h
    | with_reducible exact k
    | with_reducible exact SeqCore.refl _
    | with_reducible refine finishOk_seq ?_ ..
    | with_reducible refine finishTask_seq ?_ ..
    | with_reducible refine sendParts_seq ?_ ..
    | with_reducible refine takeSeq_seq ?_ ..
    | split
    | with_reducible exact ⟨rfl, rfl, rfl, rfl⟩
    | (with_reducible refine SeqCore.upd (SeqCore.refl _) ?_ ?_ ?_ ?_) <;> rfl
    | simp only [SeqKept.put_iff]

theorem combinePhase_seq {p : Nat} {a s : State} (h : SeqKept p a s) (key : Nat) :
    SeqKept p a (combinePhase s key) := by
  unfold combinePhase
  repeat' first
    | dsimp only
    | with_reducible exact h
    | with_reducible exact k
    | with_reducible exact SeqCore.refl _
    | with_reducible refine modGroup_seq ?_ ..
    | split
    | with_reducible exact ⟨rfl, rfl, rfl, rfl⟩
    | (with_reducible refine SeqCore.upd (SeqCore.refl _) ?_ ?_ ?_ ?_) <;> rfl
    | simp only [SeqKept.put_iff]

theorem runBarrier_seq {p : Nat} {a s : State} (h : SeqKept p a s) (p_0 : Nat) (t : Task) :
    SeqKept p a (runBarrier p_0 s t) := by
  unfold runBarrier
  repeat' first
    | dsimp only
    | with_reducible exact h
    | with_reducible exact k
    | with_reducible exact SeqCore.refl _
    | with_reducible refine combinePhase_seq ?_ ..
    | with_reducible refine finishOk_seq ?_ ..
    | with_reducible refine finishTask_seq ?_ ..
    | with_reducible refine modGroup_seq ?_ ..
    | with_reducible refine modTask_seq ?_ _ _ _ (fun t => ?_)
    | split
    | with_reducible exact ⟨rfl, rfl, rfl, rfl⟩
    | (with_reducible refine SeqCore.upd (SeqCore.refl _) ?_ ?_ ?_ ?_) <;> rfl
    | simp only [SeqKept.put_iff]

theorem endAtIssue_seq {p : Nat} {a s : State} (h : SeqKept p a s) (p_0 : Nat) (t : Task) :
    SeqKept p a (endAtIssue p_0 s t) := by
  unfold endAtIssue
  repeat' first
    | dsimp only
    | with_reducible exact h
    | with_reducible exact k
    | with_reducible exact SeqCore.refl _
    | with_reducible refine finishOk_seq ?_ ..
    | split
    | with_reducible exact ⟨rfl, rfl, rfl, rfl⟩
    | (with_reducible refine SeqCore.upd (SeqCore.refl _) ?_ ?_ ?_ ?_) <;> rfl
    | simp only [SeqKept.put_iff]

theorem runBranch_seq {p : Nat} {a s : State} (h : SeqKept p a s) (taken : Task → Bool) (p_1 : Nat) (t : Task) :
    SeqKept p a (runBranch taken p_1 s t) := by
  unfold runBranch
  repeat' first
    | dsimp only
    | with_reducible exact h
    | with_reducible exact k
    | with_reducible exact SeqCore.refl _
    | with_reducible refine endAtIssue_seq ?_ ..
    | with_reducible refine modCore_seq ?_ _ _ (fun c => ?_)
    | split
    | with_reducible exact ⟨rfl, rfl, rfl, rfl⟩
    | (with_reducible refine SeqCore.upd (SeqCore.refl _) ?_ ?_ ?_ ?_) <;> rfl
    | simp only [SeqKept.put_iff]

theorem runEnd_seq {p : Nat} {a s : State} (h : SeqKept p a s) (p_0 : Nat) (t : Task) :
    SeqKept p a (runEnd p_0 s t) := by
  unfold runEnd
  repeat' first
    | dsimp only
    | with_reducible exact h
    | with_reducible exact k
    | with_reducible exact SeqCore.refl _
    | with_reducible refine endAtIssue_seq ?_ ..
    | with_reducible refine modCore_seq ?_ _ _ (fun c => ?_)
    | split
    | with_reducible exact ⟨rfl, rfl, rfl, rfl⟩
    | (with_reducible refine SeqCore.upd (SeqCore.refl _) ?_ ?_ ?_ ?_) <;> rfl
    | simp only [SeqKept.put_iff]

theorem waitCheck_seq {p : Nat} {a s : State} (h : SeqKept p a s) (x : Nat) (x_2 : Task) :
    SeqKept p a (waitCheck x s x_2) := by
  unfold waitCheck
  repeat' first
    | dsimp only
    | with_reducible exact h
    | with_reducible exact k
    | with_reducible exact SeqCore.refl _
    | split
    | with_reducible exact ⟨rfl, rfl, rfl, rfl⟩
    | (with_reducible refine SeqCore.upd (SeqCore.refl _) ?_ ?_ ?_ ?_) <;> rfl
    | simp only [SeqKept.put_iff]

theorem runBind_seq {p : Nat} {a s : State} (h : SeqKept p a s) (p_0 : Nat) (t : Task) :
    SeqKept p a (runBind p_0 s t) := by
  unfold runBind
  repeat' first
    | dsimp only
    | with_reducible exact h
    | with_reducible exact k
    | with_reducible exact SeqCore.refl _
    | with_reducible refine endAtIssue_seq ?_ ..
    | with_reducible refine finishTask_seq ?_ ..
    | with_reducible refine modCore_seq ?_ _ _ (fun c => ?_)
    | split
    | with_reducible exact ⟨rfl, rfl, rfl, rfl⟩
    | (with_reducible refine SeqCore.upd (SeqCore.refl _) ?_ ?_ ?_ ?_) <;> rfl
    | simp only [SeqKept.put_iff]

theorem runFree_seq {p : Nat} {a s : State} (h : SeqKept p a s) (p_0 : Nat) (t : Task) :
    SeqKept p a (runFree p_0 s t) := by
  unfold runFree
  repeat' first
    | dsimp only
    | with_reducible exact h
    | with_reducible exact k
    | with_reducible exact SeqCore.refl _
    | with_reducible refine endAtIssue_seq ?_ ..
    | with_reducible refine finishTask_seq ?_ ..
    | with_reducible refine modCore_seq ?_ _ _ (fun c => ?_)
    | split
    | with_reducible exact ⟨rfl, rfl, rfl, rfl⟩
    | (with_reducible refine SeqCore.upd (SeqCore.refl _) ?_ ?_ ?_ ?_) <;> rfl
    | simp only [SeqKept.put_iff]

theorem startMatrix_seq {p : Nat} {a s : State} (h : SeqKept p a s) (p_0 : Nat) (t : Task) :
    SeqKept p a (startMatrix p_0 s t) := by
  unfold startMatrix
  repeat' first
    | dsimp only
    | with_reducible exact h
    | with_reducible exact k
    | with_reducible exact SeqCore.refl _
    | with_reducible refine modTask_seq ?_ _ _ _ (fun t => ?_)
    | split
    | with_reducible exact ⟨rfl, rfl, rfl, rfl⟩
    | (with_reducible refine SeqCore.upd (SeqCore.refl _) ?_ ?_ ?_ ?_) <;> rfl
    | simp only [SeqKept.put_iff]

theorem runMap_seq {p : Nat} {a s : State} (h : SeqKept p a s) (q : Nat) (t : Task) : SeqKept p a (runMap q s t) := by
  unfold runMap
  dsimp only
  split
  · exact runUnit_seq h _ _ _ _ _ fun c => putOut_seq (.refl c) c _ _ _ _ _ _ rfl
  · exact finishTask_seq (seeAccesses_seq h ..) ..

theorem writeVectorRow_seq {c : Core} (t : Task) (x : Core × AFlags) (r : Nat) (h : SeqCore c x.1) :
    SeqCore c (writeVectorRow t x r).1 := by
  unfold writeVectorRow
  dsimp only
  generalize vectorRow x.1 t r = z
  obtain ⟨vs, carry⟩ := z
  dsimp only
  generalize hz : (if fmtMx (dFmtOut t.desc) = true then _ else _ : Core × AFlags) = y
  have hy : SeqCore c y.1 := by
    rw [← hz]
    split
    · exact putBlocks_seq h ..
    · exact putOut_seq h _ _ _ _ _ _ _ rfl
  split
  · exact putElems_seq hy ..
  · exact hy

theorem runRows_seq {p : Nat} {a s : State} (h : SeqKept p a s) (q : Nat) (t : Task) : SeqKept p a (runRows q s t) := by
  unfold runRows
  exact runUnit_seq h _ _ _ _ _ fun c => foldl_core_fst (fun r x k => writeVectorRow_seq t x r k) _ (.refl c)

theorem gatherRow_seq {c d : Core} (t : Task) (i : Nat) (h : SeqCore c d) : SeqCore c (gatherRow t d i) := by
  unfold gatherRow
  repeat' first
    | dsimp only
    | with_reducible exact h
    | with_reducible refine putElems_seq ?_ ..
    | split

theorem scatterRow_seq {c d : Core} (t : Task) (e : Nat × Int) (h : SeqCore c d) : SeqCore c (scatterRow t d e) :=
  putElems_seq h ..

theorem runGather_seq {p : Nat} {a s : State} (h : SeqKept p a s) (q : Nat) (t : Task) :
    SeqKept p a (runGather q s t) := by
  unfold runGather
  dsimp only
  split
  · exact eccTask_seq (seeAccesses_seq h ..) ..
  · split
    · refine runUnit_seq h _ _ _ _ _ fun c => ?_
      split
      · exact foldl_core (fun _ _ k => gatherRow_seq t _ k) _ (.refl c)
      · split
        · exact foldl_core_fst (f := segRow t) (fun _ x k => putOut_seq k x.1 _ _ _ _ _ _ rfl) _ (.refl c)
        · split
          · exact foldl_core (fun _ _ k => scatterRow_seq t _ k) _ (.refl c)
          · exact foldl_core_fst (f := scatterAddRow t) (fun _ _ k => putElems_seq k ..) _ (.refl c)
    · exact finishTask_seq (seeAccesses_seq h ..) ..

theorem askServer_seq {p : Nat} {a s : State} (h : SeqKept p a s) (p_1 : Nat) (t : Task) (f : Frame) :
    SeqKept p a (askServer s p_1 t f) := by
  unfold askServer
  repeat' first
    | dsimp only
    | with_reducible exact h
    | with_reducible exact k
    | with_reducible exact SeqCore.refl _
    | with_reducible refine addReq_seq ?_ ..
    | with_reducible refine finishTask_seq ?_ ..
    | with_reducible refine toPort_seq ?_ ..
    | split
    | with_reducible exact ⟨rfl, rfl, rfl, rfl⟩
    | (with_reducible refine SeqCore.upd (SeqCore.refl _) ?_ ?_ ?_ ?_) <;> rfl
    | simp only [SeqKept.put_iff]

theorem nextPiece_seq {p : Nat} {a s : State} (h : SeqKept p a s) (p_1 : Nat) (t : Task) :
    SeqKept p a (nextPiece s p_1 t) := by
  unfold nextPiece
  repeat' first
    | dsimp only
    | with_reducible exact h
    | with_reducible exact k
    | with_reducible exact SeqCore.refl _
    | with_reducible refine askServer_seq ?_ ..
    | with_reducible refine eccTask_seq ?_ ..
    | with_reducible refine finishOk_seq ?_ ..
    | with_reducible refine seeAccesses_seq ?_ ..
    | split
    | with_reducible exact ⟨rfl, rfl, rfl, rfl⟩
    | (with_reducible refine SeqCore.upd (SeqCore.refl _) ?_ ?_ ?_ ?_) <;> rfl
    | simp only [SeqKept.put_iff]

theorem runFabric_seq {p : Nat} {a s : State} (h : SeqKept p a s) (p_0 : Nat) (t : Task) :
    SeqKept p a (runFabric p_0 s t) := by
  unfold runFabric
  repeat' first
    | dsimp only
    | with_reducible exact h
    | with_reducible exact k
    | with_reducible exact SeqCore.refl _
    | with_reducible refine nextPiece_seq ?_ ..
    | split
    | with_reducible exact ⟨rfl, rfl, rfl, rfl⟩
    | (with_reducible refine SeqCore.upd (SeqCore.refl _) ?_ ?_ ?_ ?_) <;> rfl
    | simp only [SeqKept.put_iff]

end Sys2Proof.Machine
end

