-- ==== Sys2Proof/Laws/Slices.lean ====
section
/-! SUPPORT. The slices keep what they hold at its home, and LPDDR5X reads through them as one memory: a block written is the
block read, and every other block reads as before. -/

namespace Sys2Proof.Machine

/-! ## Blocks of a byte memory -/

theorem memRead_length (m : Mem) (a n : Nat) : (memRead m a n).length = n := by
  induction n generalizing a with
  | zero => rfl
  | succ n ih => simp [memRead, ih]

theorem memRead_congr {m m' : Mem} {a n : Nat} (h : ∀ x, a ≤ x → x < a + n → memByte m x = memByte m' x) :
    memRead m a n = memRead m' a n := by
  induction n generalizing a with
  | zero => rfl
  | succ n ih =>
    unfold memRead
    rw [h a (Nat.le_refl _) (by omega), ih fun x h1 h2 => h x (by omega) (by omega)]

theorem memRead_memWrite_apart {m : Mem} {a b n : Nat} {bs : List Byte} (h : b + n ≤ a ∨ a + bs.length ≤ b) :
    memRead (memWrite m a bs) b n = memRead m b n :=
  memRead_congr fun x h1 h2 => memByte_memWrite_frame (by omega)

theorem memRead_eq_iff {m : Mem} {bs : List Byte} (a : Nat) (h : ∀ i, i < bs.length → memByte m (a + i) = bs.getD i 0) :
    memRead m a bs.length = bs := by
  induction bs generalizing a with
  | nil => rfl
  | cons b bs ih =>
    simp only [List.length_cons, memRead]
    rw [show memByte m a = b from h 0 (by simp)]
    congr 1
    refine ih (a + 1) fun i hi => ?_
    have := h (i + 1) (by simp; omega)
    rw [show a + 1 + i = a + (i + 1) by omega, this]
    rfl

theorem memRead_memWrite_same (m : Mem) (a : Nat) (bs : List Byte) : memRead (memWrite m a bs) a bs.length = bs := by
  refine memRead_eq_iff a fun i hi => ?_
  rw [memByte_memWrite, if_pos (by omega), Nat.add_sub_cancel_left]

/-! ## A line written back -/

/-- Every sector of the line is 64 bytes. -/
def fullSectors (l : Tbl Sector) : Prop := ∀ e ∈ l, e.2.bytes.length = 64

theorem foldl_writeBack_other {a b : Nat} (l : Tbl Sector) (m : Mem) (hl : fullSectors l) (ha : a % 64 = 0)
    (hb : b % 64 = 0) (hn : ∀ e ∈ l, a + 64 * e.1 ≠ b) :
    memRead (l.foldl (fun m e => if e.2.dirty then memWrite m (a + 64 * e.1) e.2.bytes else m) m) b 64 = memRead m b 64 := by
  induction l generalizing m with
  | nil => rfl
  | cons e l ih =>
    rw [List.foldl_cons, ih _ (fun x hx => hl x (List.mem_cons_of_mem _ hx)) fun x hx => hn x (List.mem_cons_of_mem _ hx)]
    split
    · have h1 := hn e (List.mem_cons_self ..)
      have h2 := hl e (List.mem_cons_self ..)
      exact memRead_memWrite_apart (by omega)
    · rfl

theorem foldl_writeBack_at {a : Nat} (l : Tbl Sector) (m : Mem) (hl : fullSectors l) (hs : tblSorted l = true)
    (ha : a % 64 = 0) {e : Nat × Sector} (he : e ∈ l) :
    memRead (l.foldl (fun m e => if e.2.dirty then memWrite m (a + 64 * e.1) e.2.bytes else m) m) (a + 64 * e.1) 64 =
      if e.2.dirty then e.2.bytes else memRead m (a + 64 * e.1) 64 := by
  induction l generalizing m with
  | nil => cases he
  | cons x l ih =>
    obtain ⟨k, y⟩ := x
    have hs' := tblSorted_cons.1 hs
    have hl' : fullSectors l := fun z hz => hl z (List.mem_cons_of_mem _ hz)
    rw [List.foldl_cons]
    rcases List.mem_cons.1 he with rfl | he
    · rw [foldl_writeBack_other l _ hl' ha (by omega) fun z hz => by have := hs'.1 z hz; dsimp only; omega]
      dsimp only
      split
      · have h2 : y.bytes.length = 64 := hl _ (List.mem_cons_self ..)
        have := memRead_memWrite_same m (a + 64 * k) y.bytes
        rwa [h2] at this
      · rfl
    · rw [ih _ hl' hs'.2 he]
      split
      · rfl
      · split
        · have h1 := hs'.1 e he
          have h2 : y.bytes.length = 64 := hl _ (List.mem_cons_self ..)
          dsimp only at h1 ⊢
          exact memRead_memWrite_apart (by omega)
        · rfl

/-! ## Homes -/

theorem bytesPerDevice_mod (s : State) : bytesPerDevice s % 256 = 0 := by
  unfold bytesPerDevice; split <;> rfl

theorem foldl_mod {f : Nat → Nat} (hf : ∀ i, f i % 256 = 0) (l : List Nat) (a : Nat) (ha : a % 256 = 0) :
    (l.foldl (fun a i => a + f i) a) % 256 = 0 := by
  induction l generalizing a with
  | nil => exact ha
  | cons i l ih =>
    refine ih (a + f i) ?_
    have := hf i
    omega

theorem regionBase_mod (s : State) (n : Nat) : regionBase s n % 256 = 0 := by
  refine foldl_mod (fun i => ?_) _ _ rfl
  unfold regionSize
  rw [Nat.mul_mod, bytesPerDevice_mod, Nat.mul_zero, Nat.zero_mod]

theorem edgeTile_lt {e k : Nat} (he : e < 4) (hk : k < 3 ∨ k = 3) : edgeTile e k < 16 := by
  unfold edgeTile; repeat' split
  all_goals omega

theorem deviceTile_lt {d : Nat} (h : d < 68) : deviceTile d < 16 := by
  unfold deviceTile
  refine edgeTile_lt (by omega) ?_
  repeat' split
  all_goals omega

theorem partWordHas_lt {w t : Nat} (h : partWordHas w t = true) : t < 16 := by
  simp only [partWordHas, Bool.and_eq_true, decide_eq_true_eq] at h
  exact h.2.2.2.2.2

theorem homeOf_spec {s : State} {b : Nat} {h : Home} (e : homeOf s b = some h) :
    h.part < 16 ∧ h.router < 16 ∧ h.tile ∈ partTiles s h.part ∧ b = regionBase s h.part + 256 * h.line + b % 256 := by
  unfold homeOf regionOf at e
  simp only [Option.map_map, Option.map_eq_some_iff, Function.comp] at e
  obtain ⟨n, hn, rfl⟩ := e
  have hmem := List.mem_of_find?_eq_some hn
  have hp := List.find?_some hn
  simp only [decide_eq_true_eq] at hp
  dsimp only
  have hm := regionBase_mod s n
  refine ⟨List.mem_range.1 hmem, Nat.mod_lt _ (by decide), ?_, by omega⟩
  have hne : partTiles s n ≠ [] := by
    intro hnil
    have : regionSize s n = 0 := by
      unfold regionSize
      suffices h0 : partDevices s n = [] by rw [h0]; exact Nat.zero_mul _
      unfold partDevices upTo
      rw [List.filter_eq_nil_iff]
      intro d hd hw
      simp only [Bool.and_eq_true] at hw
      have : deviceTile d ∈ partTiles s n := by
        unfold partTiles upTo
        rw [List.mem_filter]
        exact ⟨List.mem_range.2 (partWordHas_lt hw.2), hw.2⟩
      rw [hnil] at this
      cases this
    omega
  generalize partTiles s n = ts at hne
  have hlen : 0 < ts.length := List.length_pos_iff.2 hne
  have hlt := Nat.mod_lt ((b - regionBase s n) / 256) hlen
  rw [List.getD_eq_getElem?_getD, List.getElem?_eq_getElem hlt]
  exact List.getElem_mem hlt

theorem partTiles_apart {s : State} (hp : partsApart s = true) {n m t : Nat} (hn : n < 16) (hm : m < 16)
    (h1 : t ∈ partTiles s n) (h2 : t ∈ partTiles s m) : n = m := by
  unfold partTiles upTo at h1 h2
  rw [List.mem_filter] at h1 h2
  simp only [partsApart, List.all_eq_true, List.mem_range] at hp
  have := hp t (List.mem_range.1 h1.1) n hn m hm
  simpa [h1.2, h2.2] using this

/-- Two blocks whose homes are one sector of one line of one slice are one block. -/
theorem home_inj {s : State} (hp : partsApart s = true) {b b' : Nat} {h h' : Home} (e : homeOf s b = some h)
    (e' : homeOf s b' = some h') (hb : b % 64 = 0) (hb' : b' % 64 = 0)
    (hk : 16 * h.tile + h.router = 16 * h'.tile + h'.router) (hl : h.line = h'.line) (hs : b / 64 % 4 = b' / 64 % 4) :
    b = b' := by
  obtain ⟨p1, r1, t1, a1⟩ := homeOf_spec e
  obtain ⟨p2, r2, t2, a2⟩ := homeOf_spec e'
  have ht : h.tile = h'.tile := by omega
  have hpart := partTiles_apart hp p1 p2 t1 (ht ▸ t2)
  rw [hpart, hl] at a1
  omega

/-- One slice's lines belong to one partition. -/
theorem home_part {s : State} (hp : partsApart s = true) {b b' : Nat} {h h' : Home} (e : homeOf s b = some h)
    (e' : homeOf s b' = some h') (hk : 16 * h.tile + h.router = 16 * h'.tile + h'.router) : h.part = h'.part := by
  obtain ⟨p1, r1, t1, _⟩ := homeOf_spec e
  obtain ⟨p2, r2, t2, _⟩ := homeOf_spec e'
  have ht : h.tile = h'.tile := by omega
  exact partTiles_apart hp p1 p2 t1 (ht ▸ t2)

theorem homeOf_congr {s t : State} (h1 : t.charter = s.charter) (h2 : t.order1T = s.order1T) (a : Nat) :
    homeOf t a = homeOf s a := by
  have hp : ∀ n, chtPart t n = chtPart s n := fun n => by unfold chtPart cht; rw [h1]
  have hd : ∀ n, partDevices t n = partDevices s n := fun n => by unfold partDevices; rw [hp]
  have hz : ∀ n, regionSize t n = regionSize s n := fun n => by unfold regionSize bytesPerDevice; rw [hd, h2]
  have hb : ∀ n, regionBase t n = regionBase s n := fun n => by unfold regionBase; simp only [hz]
  have ht : ∀ n, partTiles t n = partTiles s n := fun n => by unfold partTiles; rw [hp]
  unfold homeOf regionOf
  simp only [hd, hz, hb, ht]

theorem partsApart_congr {s t : State} (h : t.charter = s.charter) : partsApart t = partsApart s := by
  unfold partsApart chtPart cht; rw [h]

/-! ## A sector put into its slice -/

/-- The sector of a line in a list of lines. -/
def lookSector (ls : List CLine) (line sec : Nat) : Option Sector :=
  (ls.find? fun c => c.line == line).bind fun c => tblLook c.sectors sec

theorem cached_eq {s : State} {b : Nat} {h : Home} (e : homeOf s b = some h) :
    cached s b = lookSector (sliceLines s h.tile h.router) h.line (b / 64 % 4) := by
  unfold cached lookSector; rw [e]; rfl

theorem tblLook_mem {α : Type} {t : Tbl α} {k : Nat} {v : α} (h : tblLook t k = some v) : (k, v) ∈ t := by
  induction t with
  | nil => cases h
  | cons a t ih =>
    obtain ⟨k', v'⟩ := a
    unfold tblLook at h
    split at h
    · subst k'; cases h; exact List.mem_cons_self ..
    · exact List.mem_cons_of_mem _ (ih h)

theorem tblLook_of_mem {α : Type} {t : Tbl α} {k : Nat} {v : α} (hs : tblSorted t = true) (h : (k, v) ∈ t) :
    tblLook t k = some v := by
  induction t with
  | nil => cases h
  | cons a t ih =>
    obtain ⟨k', v'⟩ := a
    have hs' := tblSorted_cons.1 hs
    unfold tblLook
    rcases List.mem_cons.1 h with h | h
    · cases h; rw [if_pos rfl]
    · have := hs'.1 _ h
      rw [if_neg (by dsimp only at this; omega)]
      exact ih hs'.2 h

theorem tblLook_tblPut {α : Type} (t : Tbl α) (k j : Nat) (v : α) :
    tblLook (tblPut t k v) j = if k = j then some v else tblLook t j := by
  induction t with
  | nil => simp [tblPut, tblLook]
  | cons a t ih =>
    obtain ⟨k', v'⟩ := a
    unfold tblPut
    split
    · simp [tblLook]
    · split
      · subst k; simp only [tblLook]; split <;> rfl
      · simp only [tblLook, ih]
        split
        · subst k'; rw [if_neg ‹¬k = j›]
        · rfl

theorem find_mem_nodup {ls : List CLine} {c : CLine} (hn : (ls.map (·.line)).Nodup) (h : c ∈ ls) :
    ls.find? (fun x => x.line == c.line) = some c := by
  induction ls with
  | nil => cases h
  | cons x ls ih =>
    rw [List.map_cons, List.nodup_cons] at hn
    rw [List.find?_cons]
    rcases List.mem_cons.1 h with rfl | h
    · simp
    · have : (x.line == c.line) = false := by
        rw [beq_eq_false_iff_ne]
        intro e
        exact hn.1 (e ▸ List.mem_map_of_mem h)
      rw [this]
      exact ih hn.2 h

theorem find_filter_ne {ls : List CLine} {l m : Nat} (h : m ≠ l) :
    (ls.filter fun c => c.line != l).find? (fun c => c.line == m) = ls.find? fun c => c.line == m := by
  induction ls with
  | nil => rfl
  | cons x ls ih =>
    rw [List.filter_cons, List.find?_cons]
    by_cases hx : x.line = m
    · rw [if_pos (by simp [hx, h]), List.find?_cons]
      simp [hx]
    · have h0 : (x.line == m) = false := by simpa using hx
      rw [h0]
      split
      · rw [List.find?_cons, h0]; exact ih
      · exact ih

theorem nodup_map_filter {ls : List CLine} (p : CLine → Bool) (h : (ls.map (·.line)).Nodup) :
    ((ls.filter p).map (·.line)).Nodup :=
  List.Nodup.sublist (List.Sublist.map _ List.filter_sublist) h

/-! ## A line leaves its slice -/

theorem full_of_ok {s : State} {k : Nat} {ls : List CLine} (h : sliceOk s k ls) {c : CLine} (hc : c ∈ ls) :
    fullSectors c.sectors := fun e he => ((h.2 c hc).2 e he).1

/-- A sector held at slice k lies at the base of the slice's partition plus its place. -/
theorem sector_addr {s : State} {k base line : Nat} {e : Nat × Sector}
    (hbase : ∀ b h, homeOf s b = some h → 16 * h.tile + h.router = k → regionBase s h.part = base)
    (h : sectorAtHome s k line e) :
    ∃ hm, homeOf s (base + 256 * line + 64 * e.1) = some hm ∧ 16 * hm.tile + hm.router = k ∧ hm.line = line ∧
      (base + 256 * line + 64 * e.1) % 64 = 0 ∧ (base + 256 * line + 64 * e.1) / 64 % 4 = e.1 ∧
      (e.2.dirty = false → e.2.bytes = memRead s.mem (base + 256 * line + 64 * e.1) 64) := by
  obtain ⟨_, b, hm, h1, h2, h3, h4, h5, h6⟩ := h
  have h7 := (homeOf_spec h3).2.2.2
  rw [hbase b hm h3 h4, h5] at h7
  have hb := regionBase_mod s hm.part
  rw [hbase b hm h3 h4] at hb
  have : base + 256 * line + 64 * e.1 = b := by omega
  rw [this]
  exact ⟨hm, h3, h4, h5, h1, h2, h6⟩

theorem sectorAtHome_congr {s t : State} (hc : t.charter = s.charter) (ho : t.order1T = s.order1T) {k line : Nat}
    {e : Nat × Sector} (h : sectorAtHome s k line e)
    (hm : ∀ b h, b % 64 = 0 → homeOf s b = some h → b / 64 % 4 = e.1 → 16 * h.tile + h.router = k → h.line = line →
      memRead t.mem b 64 = memRead s.mem b 64) : sectorAtHome t k line e := by
  obtain ⟨h0, b, x, h1, h2, h3, h4, h5, h6⟩ := h
  exact ⟨h0, b, x, h1, h2, by rw [homeOf_congr hc ho]; exact h3, h4, h5,
    fun hd => by rw [hm b x h1 h3 h2 h4 h5]; exact h6 hd⟩

theorem mem_tblPut_sorted {α : Type} {t : Tbl α} {k : Nat} {v : α} (hs : tblSorted t = true) {e : Nat × α}
    (h : e ∈ tblPut t k v) : e = (k, v) ∨ (e ∈ t ∧ e.1 ≠ k) := by
  have h2 := tblLook_of_mem (tblSorted_tblPut k v hs) (k := e.1) (v := e.2) h
  rw [tblLook_tblPut] at h2
  split at h2
  · left; cases h2; subst k; rfl
  · right; exact ⟨tblLook_mem h2, fun x => ‹¬k = e.1› x.symm⟩

/-- Writing a line back changes no block but those of its sectors. -/
theorem writeBack_block {s : State} (hp : partsApart s = true) {k base : Nat} {v : CLine}
    (hbase : ∀ b h, homeOf s b = some h → 16 * h.tile + h.router = k → regionBase s h.part = base)
    (hb0 : base % 64 = 0) (hv : tblSorted v.sectors = true ∧ ∀ e ∈ v.sectors, sectorAtHome s k v.line e)
    {b : Nat} (hb : b % 64 = 0) :
    memRead (writeBack base s.mem v) b 64 =
      match homeOf s b with
      | some h => if 16 * h.tile + h.router = k ∧ h.line = v.line then
          ((tblLook v.sectors (b / 64 % 4)).map (·.bytes)).getD (memRead s.mem b 64) else memRead s.mem b 64
      | none => memRead s.mem b 64 := by
  have hfull : fullSectors v.sectors := fun e he => (hv.2 e he).1
  have other : (∀ e ∈ v.sectors, base + 256 * v.line + 64 * e.1 ≠ b) →
      memRead (writeBack base s.mem v) b 64 = memRead s.mem b 64 := fun hn => by
    exact foldl_writeBack_other (a := base + 256 * v.line) v.sectors s.mem hfull (by omega) hb hn
  split
  · rename_i h e
    split
    · rename_i hk
      cases hl : tblLook v.sectors (b / 64 % 4) with
      | none =>
        refine other fun x hx he => ?_
        obtain ⟨hm, m1, m2, m3, m4, m5, m6⟩ := sector_addr hbase (hv.2 x hx)
        have : tblLook v.sectors x.1 = some x.2 := tblLook_of_mem hv.1 hx
        rw [he] at m5
        rw [← m5, hl] at this
        cases this
      | some y =>
        have hx := tblLook_mem hl
        obtain ⟨hm, m1, m2, m3, m4, m5, m6⟩ := sector_addr hbase (hv.2 _ hx)
        have hbb : base + 256 * v.line + 64 * (b / 64 % 4) = b :=
          home_inj hp m1 e m4 hb (m2.trans hk.1.symm) (m3.trans hk.2.symm) m5
        have := foldl_writeBack_at (a := base + 256 * v.line) v.sectors s.mem hfull hv.1 (by omega) hx
        rw [hbb] at this
        show memRead (v.sectors.foldl _ s.mem) b 64 = y.bytes
        rw [this]
        dsimp only at m6 ⊢
        rw [hbb] at m6
        cases hd : y.dirty with
        | true => rfl
        | false => exact (m6 hd).symm
    · rename_i hk
      refine other fun x hx he => hk ?_
      obtain ⟨hm, m1, m2, m3, _⟩ := sector_addr hbase (hv.2 x hx)
      rw [he, e] at m1
      cases m1
      exact ⟨m2, m3⟩
  · rename_i e
    refine other fun x hx he => ?_
    obtain ⟨hm, m1, _⟩ := sector_addr hbase (hv.2 x hx)
    rw [he, e] at m1
    cases m1

/-- What a block of aligned address reads as, when its home is known. -/
theorem readBlock_some {s : State} {b : Nat} {h : Home} (e : homeOf s b = some h) :
    readBlock s b = ((lookSector (sliceLines s h.tile h.router) h.line (b / 64 % 4)).map (·.bytes)).getD
      (memRead s.mem b 64) := by
  unfold readBlock
  rw [cached_eq e]
  cases lookSector (sliceLines s h.tile h.router) h.line (b / 64 % 4) <;> rfl

theorem readBlock_none {s : State} {b : Nat} (e : homeOf s b = none) : readBlock s b = memRead s.mem b 64 := by
  unfold readBlock cached; rw [e]; rfl

theorem sliceLines_eq (s : State) (t r : Nat) : sliceLines s t r = tblGet [] s.slices (16 * t + r) := rfl

/-- A line that leaves its slice, its dirty sectors written back: every block reads as before. -/
theorem evict_ok {s t : State} (hc : t.charter = s.charter) (ho : t.order1T = s.order1T) (hp : partsApart s = true)
    (hs : slicesOk s) {k base : Nat} {v : CLine} (hv : v ∈ tblGet [] s.slices k)
    (hbase : ∀ b h, homeOf s b = some h → 16 * h.tile + h.router = k → regionBase s h.part = base)
    (hb0 : base % 64 = 0)
    (hsl : ∀ j, tblGet [] t.slices j =
      if k = j then (tblGet [] s.slices k).filter (fun c => c.line != v.line) else tblGet [] s.slices j)
    (hm : t.mem = writeBack base s.mem v) :
    slicesOk t ∧ ∀ b, b % 64 = 0 → readBlock t b = readBlock s b := by
  have hvk := (hs k).2 v hv
  have hwb : ∀ b h, b % 64 = 0 → homeOf s b = some h → ¬(16 * h.tile + h.router = k ∧ h.line = v.line) →
      memRead t.mem b 64 = memRead s.mem b 64 := fun b h hb e hk => by
    rw [hm, writeBack_block hp hbase hb0 hvk hb, e]
    exact if_neg hk
  constructor
  · intro j
    rw [hsl j]
    split
    · subst j
      refine ⟨nodup_map_filter _ (hs k).1, fun c hc' => ?_⟩
      rw [List.mem_filter] at hc'
      have hc2 := (hs k).2 c hc'.1
      refine ⟨hc2.1, fun e he => sectorAtHome_congr hc ho (hc2.2 e he) fun b h hb eh _ h4 h5 => ?_⟩
      refine hwb b h hb eh fun hx => ?_
      have := hc'.2
      simp [h5 ▸ hx.2] at this
    · refine ⟨(hs j).1, fun c hc' => ?_⟩
      have hc2 := (hs j).2 c hc'
      refine ⟨hc2.1, fun e he => sectorAtHome_congr hc ho (hc2.2 e he) fun b h hb eh _ h4 h5 => ?_⟩
      exact hwb b h hb eh fun hx => ‹¬k = j› (hx.1.symm.trans h4)
  · intro b hb
    cases e : homeOf s b with
    | none =>
      rw [readBlock_none e, readBlock_none (by rw [homeOf_congr hc ho]; exact e), hm,
        writeBack_block hp hbase hb0 hvk hb, e]
    | some h =>
      rw [readBlock_some e, readBlock_some (by rw [homeOf_congr hc ho]; exact e), sliceLines_eq, sliceLines_eq, hsl]
      by_cases hk : k = 16 * h.tile + h.router
      · rw [if_pos hk]
        by_cases hl : h.line = v.line
        · have h1 : lookSector ((tblGet [] s.slices k).filter fun c => c.line != v.line) h.line (b / 64 % 4) = none := by
            unfold lookSector
            have : ((tblGet [] s.slices k).filter fun c => c.line != v.line).find? (fun c => c.line == h.line) = none := by
              rw [List.find?_eq_none]
              intro c hc'
              rw [List.mem_filter] at hc'
              simpa [hl] using hc'.2
            rw [this]; rfl
          rw [h1, ← hk]
          have h2 : lookSector (tblGet [] s.slices k) h.line (b / 64 % 4) = tblLook v.sectors (b / 64 % 4) := by
            unfold lookSector
            rw [hl, find_mem_nodup (hs k).1 hv]; rfl
          rw [h2]
          show memRead t.mem b 64 = _
          rw [hm, writeBack_block hp hbase hb0 hvk hb, e]
          exact if_pos ⟨hk.symm, hl⟩
        · rw [hwb b h hb e fun hx => hl hx.2, ← hk]
          unfold lookSector
          rw [find_filter_ne hl]
      · rw [if_neg hk, hwb b h hb e fun hx => hk hx.1.symm]

/-- The sectors of a line in a list of lines. -/
def sectorsOf (ls : List CLine) (line : Nat) : Tbl Sector := ((ls.find? fun c => c.line == line).map (·.sectors)).getD []

theorem sectorsOf_look (ls : List CLine) (line sec : Nat) : tblLook (sectorsOf ls line) sec = lookSector ls line sec := by
  unfold sectorsOf lookSector
  cases ls.find? fun c => c.line == line <;> rfl

theorem sectorsOf_ok {s : State} {k : Nat} {ls : List CLine} (h : sliceOk s k ls) (line : Nat) :
    tblSorted (sectorsOf ls line) = true ∧ ∀ e ∈ sectorsOf ls line, sectorAtHome s k line e := by
  unfold sectorsOf
  cases e : ls.find? fun c => c.line == line with
  | none => exact ⟨rfl, fun _ h => nomatch h⟩
  | some c =>
    have h1 := h.2 c (List.mem_of_find?_eq_some e)
    have h2 := List.find?_some e
    simp only [beq_iff_eq] at h2
    subst h2
    exact h1

/-- A sector put at the front of its slice: its block reads as it, every other block as before. -/
theorem insert_ok {s t : State} (hc : t.charter = s.charter) (ho : t.order1T = s.order1T) (hp : partsApart s = true)
    (hs : slicesOk s) {b : Nat} {h : Home} (hb : b % 64 = 0) (e : homeOf s b = some h) {x : Sector}
    (hx : x.bytes.length = 64) (hd : x.dirty = false → x.bytes = memRead s.mem b 64)
    (hsl : ∀ j, tblGet [] t.slices j = if 16 * h.tile + h.router = j then
      { line := h.line, sectors := tblPut (sectorsOf (sliceLines s h.tile h.router) h.line) (b / 64 % 4) x } ::
        (sliceLines s h.tile h.router).filter (fun c => c.line != h.line) else tblGet [] s.slices j)
    (hm : t.mem = s.mem) :
    slicesOk t ∧ ∀ b', b' % 64 = 0 → readBlock t b' = if b' = b then x.bytes else readBlock s b' := by
  have hk := hs (16 * h.tile + h.router)
  rw [sliceLines_eq] at hsl
  have keep : ∀ {k line y}, sectorAtHome s k line y → sectorAtHome t k line y := fun hy =>
    sectorAtHome_congr hc ho hy fun _ _ _ _ _ _ _ => by rw [hm]
  constructor
  · intro j
    rw [hsl j]
    split
    · subst j
      refine ⟨?_, fun c hc' => ?_⟩
      · rw [List.map_cons, List.nodup_cons]
        refine ⟨fun hmem => ?_, nodup_map_filter _ hk.1⟩
        obtain ⟨c, c1, c2⟩ := List.mem_map.1 hmem
        rw [List.mem_filter] at c1
        simp [c2] at c1
      · rcases List.mem_cons.1 hc' with rfl | hc'
        · have hso := sectorsOf_ok hk h.line
          refine ⟨tblSorted_tblPut _ _ hso.1, fun y hy => ?_⟩
          rcases mem_tblPut hy with rfl | hy
          · exact ⟨hx, b, h, hb, rfl, by rw [homeOf_congr hc ho]; exact e, rfl, rfl, fun q => by rw [hm]; exact hd q⟩
          · exact keep (hso.2 y hy)
        · rw [List.mem_filter] at hc'
          exact ⟨(hk.2 c hc'.1).1, fun y hy => keep ((hk.2 c hc'.1).2 y hy)⟩
    · exact ⟨(hs j).1, fun c hc' => ⟨((hs j).2 c hc').1, fun y hy => keep (((hs j).2 c hc').2 y hy)⟩⟩
  · intro b' hb'
    cases e' : homeOf s b' with
    | none =>
      rw [readBlock_none e', readBlock_none (by rw [homeOf_congr hc ho]; exact e'), hm, if_neg]
      rintro rfl
      rw [e] at e'
      cases e'
    | some h' =>
      rw [readBlock_some e', readBlock_some (by rw [homeOf_congr hc ho]; exact e'), sliceLines_eq, sliceLines_eq, hsl, hm]
      by_cases hk' : 16 * h.tile + h.router = 16 * h'.tile + h'.router
      · rw [if_pos hk']
        by_cases hl : h'.line = h.line
        · have h1 : ∀ y r, lookSector ({ line := h.line, sectors := y } :: r) h'.line (b' / 64 % 4) =
              tblLook y (b' / 64 % 4) := fun y r => by
            unfold lookSector
            rw [List.find?_cons, hl, beq_self_eq_true]; rfl
          rw [h1, tblLook_tblPut, sectorsOf_look]
          by_cases hsec : b / 64 % 4 = b' / 64 % 4
          · have : b = b' := home_inj hp e e' hb hb' hk' hl.symm hsec
            rw [if_pos hsec, if_pos this.symm]; rfl
          · rw [if_neg hsec, if_neg (fun q => hsec (by rw [q])), hl, hk']
        · have : b' ≠ b := by
            rintro rfl
            rw [e] at e'
            cases e'
            exact hl rfl
          rw [if_neg this]
          have h1 : ∀ y, lookSector ({ line := h.line, sectors := y } ::
              (tblGet [] s.slices (16 * h.tile + h.router)).filter fun c => c.line != h.line) h'.line (b' / 64 % 4) =
              lookSector (tblGet [] s.slices (16 * h'.tile + h'.router)) h'.line (b' / 64 % 4) := fun y => by
            unfold lookSector
            rw [List.find?_cons, show (h.line == h'.line) = false by simpa using fun q => hl q.symm]
            dsimp only
            rw [find_filter_ne hl, hk']
          rw [h1]
      · have : b' ≠ b := by
          rintro rfl
          rw [e] at e'
          cases e'
          exact hk' rfl
        rw [if_neg hk', if_neg this]

theorem setSlice_get (s : State) (t r j : Nat) (ls : List CLine) :
    tblGet [] (setSlice s t r ls).slices j = if 16 * t + r = j then ls else tblGet [] s.slices j :=
  tblGet_tblSet [] s.slices (16 * t + r) j ls

/-- The fields that LPDDR5X reads depend on are the same. -/
structure SameMem (s t : State) : Prop where
  charter : t.charter = s.charter
  order : t.order1T = s.order1T
  mem : t.mem = s.mem
  slices : t.slices = s.slices

theorem SameMem.cached {s t : State} (h : SameMem s t) (a : Nat) : cached t a = cached s a := by
  unfold Machine.cached sliceLines
  rw [homeOf_congr h.charter h.order, h.slices]

theorem SameMem.readBlock {s t : State} (h : SameMem s t) (b : Nat) : readBlock t b = readBlock s b := by
  unfold Machine.readBlock
  rw [h.cached, h.mem]

/-- Every byte reads as before. -/
theorem SameMem.ldByte {s t : State} (h : SameMem s t) (a : Nat) : ldByte t a = ldByte s a := by
  unfold Machine.ldByte
  rw [h.readBlock]

theorem SameMem.slicesOk {s t : State} (h : SameMem s t) (hs : slicesOk s) : slicesOk t := fun k => by
  rw [h.slices]
  exact ⟨(hs k).1, fun c hc => ⟨((hs k).2 c hc).1, fun e he =>
    sectorAtHome_congr h.charter h.order (((hs k).2 c hc).2 e he) fun _ _ _ _ _ _ _ => by rw [h.mem]⟩⟩

theorem SameMem.refl (s : State) : SameMem s s := ⟨rfl, rfl, rfl, rfl⟩

theorem SameMem.trans {s t u : State} (h : SameMem s t) (k : SameMem t u) : SameMem s u :=
  ⟨k.1.trans h.1, k.2.trans h.2, k.3.trans h.3, k.4.trans h.4⟩

theorem SameMem.each {α : Type} {f : α → State → State} (hf : ∀ x s, SameMem s (f x s)) (l : List α) (s : State) :
    SameMem s (each l f s) := by
  unfold Machine.each
  induction l generalizing s with
  | nil => exact .refl s
  | cons x l ih => exact (hf x s).trans (ih (f x s))

theorem clearBad_same (s : State) (h : Home) (b : Nat) : SameMem s (clearBad s h b) := by
  unfold clearBad
  dsimp only
  split <;> exact ⟨rfl, rfl, rfl, rfl⟩

theorem clearDirty_same (s : State) (base : Nat) (c : CLine) : SameMem s (clearDirty s base c) := by
  unfold clearDirty
  refine SameMem.each (fun e s => ?_) _ s
  dsimp only
  split
  · exact clearBad_same ..
  · exact .refl s

/-- A sector put into its slice (R238), with whatever leaves it. -/
theorem putSector_ok {s : State} (hp : partsApart s = true) (hs : slicesOk s) {b : Nat} {h : Home} (hb : b % 64 = 0)
    (e : homeOf s b = some h) {x : Sector} (hx : x.bytes.length = 64)
    (hd : x.dirty = false → x.bytes = memRead s.mem b 64) :
    slicesOk (putSector s h (b / 64 % 4) x) ∧
      ∀ b', b' % 64 = 0 → readBlock (putSector s h (b / 64 % 4) x) b' = if b' = b then x.bytes else readBlock s b' := by
  unfold putSector
  extract_lets ls old line rest n set same
  have hold : old = sectorsOf ls h.line := rfl
  split
  · exact insert_ok (s := s) (t := setSlice s h.tile h.router (line :: rest)) rfl rfl hp hs hb e hx hd
      (fun j => setSlice_get s h.tile h.router j (line :: rest)) rfl
  · rename_i v hv
    have hv' : v ∈ rest := by
      have : v ∈ same := by
        split at hv
        · cases hv
        · exact List.mem_of_getLast? hv
      exact (List.mem_filter.1 this).1
    have hvl := (List.mem_filter.1 hv').2
    simp only [bne_iff_ne, ne_eq] at hvl
    obtain ⟨i1, i2⟩ := insert_ok (s := s) (t := setSlice s h.tile h.router (line :: rest)) rfl rfl hp hs hb e hx hd
      (fun j => setSlice_get s h.tile h.router j (line :: rest)) rfl
    have hbm := regionBase_mod s h.part
    obtain ⟨f1, f2⟩ := evict_ok (s := setSlice s h.tile h.router (line :: rest))
      (t := { setSlice s h.tile h.router (line :: rest.filter fun c => c.line != v.line) with
        mem := writeBack (regionBase s h.part) s.mem v })
      (k := 16 * h.tile + h.router) (base := regionBase s h.part) (v := v) rfl rfl (by exact hp) i1
      (by rw [setSlice_get, if_pos rfl]; exact List.mem_cons_of_mem _ hv')
      (fun b' h' e' hk => by
        have := home_part hp e' (by exact e) hk
        show regionBase s h'.part = _
        rw [this]) (by omega)
      (fun j => by
        refine (setSlice_get s h.tile h.router j (line :: rest.filter fun c => c.line != v.line)).trans ?_
        rw [setSlice_get, setSlice_get, if_pos rfl]
        split
        · rw [List.filter_cons, if_pos (by simpa using fun q => hvl q.symm)]
        · rfl) rfl
    have hd' := clearDirty_same { setSlice s h.tile h.router (line :: rest.filter fun c => c.line != v.line) with
      mem := writeBack (regionBase s h.part) s.mem v } (regionBase s h.part) v
    refine ⟨hd'.slicesOk f1, fun b' hb' => (hd'.readBlock b').trans ?_⟩
    rw [← i2 b' hb']
    exact f2 b' hb'

/-! ## Whole accesses -/

theorem look_mem {ls : List CLine} {line sec : Nat} {x : Sector} (h : lookSector ls line sec = some x) :
    ∃ c ∈ ls, c.line = line ∧ (sec, x) ∈ c.sectors := by
  unfold lookSector at h
  obtain ⟨c, h1, h2⟩ := Option.bind_eq_some_iff.1 h
  have h3 := List.find?_some h1
  exact ⟨c, List.mem_of_find?_eq_some h1, by simpa using h3, tblLook_mem h2⟩

/-- What a slice holds of a block. -/
theorem cached_ok {s : State} (hp : partsApart s = true) (hs : slicesOk s) {b : Nat} (hb : b % 64 = 0) {x : Sector}
    (h : cached s b = some x) : x.bytes.length = 64 ∧ (x.dirty = false → x.bytes = memRead s.mem b 64) := by
  cases e : homeOf s b with
  | none => unfold cached at h; rw [e] at h; cases h
  | some hm =>
    rw [cached_eq e] at h
    obtain ⟨c, h1, h2, h3⟩ := look_mem h
    obtain ⟨q0, b', h', q1, q2, q3, q4, q5, q6⟩ := ((hs _).2 c h1).2 _ h3
    have : b' = b := home_inj hp q3 e q1 hb q4 (q5.trans h2) q2
    subst this
    exact ⟨q0, q6⟩

theorem readBlock_length {s : State} (hp : partsApart s = true) (hs : slicesOk s) {b : Nat} (hb : b % 64 = 0) :
    (readBlock s b).length = 64 := by
  unfold readBlock
  split
  · exact (cached_ok hp hs hb ‹_›).1
  · exact memRead_length ..

theorem putSector_same (s : State) (h : Home) (sec : Nat) (x : Sector) :
    (putSector s h sec x).charter = s.charter ∧ (putSector s h sec x).order1T = s.order1T := by
  unfold putSector
  dsimp only
  split
  · exact ⟨rfl, rfl⟩
  · exact ⟨(clearDirty_same ..).1, (clearDirty_same ..).2⟩

/-- A state of the same charter and order, whose slices are in order and whose blocks all read as before. -/
structure SameReads (s t : State) : Prop where
  charter : t.charter = s.charter
  order : t.order1T = s.order1T
  ok : slicesOk t
  read : ∀ b, b % 64 = 0 → readBlock t b = readBlock s b

theorem SameReads.apart {s t : State} (h : SameReads s t) (hp : partsApart s = true) : partsApart t = true :=
  (partsApart_congr h.charter).trans hp

/-- Reading changes no block (R238, R240). -/
theorem ldTouch_ok {s : State} (hp : partsApart s = true) (hs : slicesOk s) (a n : Nat) (alloc : Bool) :
    SameReads s (ldTouch s a n alloc) := by
  unfold ldTouch each
  have hbl : ∀ b ∈ blocksOf a n, b % 64 = 0 := fun b hb => by
    unfold blocksOf at hb
    split at hb
    · cases hb
    · obtain ⟨i, _, rfl⟩ := List.mem_map.1 hb
      omega
  have h0 : SameReads s s := ⟨rfl, rfl, hs, fun _ _ => rfl⟩
  revert h0 hbl
  generalize blocksOf a n = l
  intro hbl
  suffices ∀ t, SameReads s t → SameReads s (l.foldl _ t) from this s
  induction l with
  | nil => exact fun t h => h
  | cons b l ih =>
    intro t h
    refine ih (fun x hx => hbl x (List.mem_cons_of_mem _ hx)) _ ?_
    have hb := hbl b (List.mem_cons_self ..)
    have put : ∀ {hm x}, homeOf t b = some hm → x.bytes.length = 64 → (x.dirty = false → x.bytes = memRead t.mem b 64) →
        x.bytes = readBlock t b → SameReads s (putSector t hm (b / 64 % 4) x) := fun {hm x} e hx hd hr => by
      have h1 := putSector_ok (h.apart hp) h.ok hb e hx hd
      have h2 := putSector_same t hm (b / 64 % 4) x
      refine ⟨h2.1.trans h.charter, h2.2.trans h.order, h1.1, fun b' hb' => ?_⟩
      rw [h1.2 b' hb']
      split
      · subst b'; rw [hr]; exact h.read b hb
      · exact h.read b' hb'
    dsimp only
    split
    · exact h
    · rename_i hm e
      split
      · rename_i x hx
        have h1 := cached_ok (h.apart hp) h.ok hb hx
        exact put e h1.1 h1.2 (by unfold readBlock; rw [hx])
      · rename_i hx
        split
        · have hr : readBlock t b = memRead t.mem b 64 := by unfold readBlock; rw [hx]
          exact put e (by rw [hr]; exact memRead_length ..) (fun _ => hr) rfl
        · exact h

/-- One block's part of a write (R239, R240, R247): the block reads with the bytes in place unless it has no home or cannot be
merged; every other block reads as before. -/
theorem writeBlock_ok {s : State} (hp : partsApart s = true) (hs : slicesOk s) {b off : Nat} {bs : List Byte} (alloc : Bool)
    (hb : b % 64 = 0) (hoff : off + bs.length ≤ 64) :
    (writeBlock s b off bs alloc).charter = s.charter ∧ (writeBlock s b off bs alloc).order1T = s.order1T ∧
    slicesOk (writeBlock s b off bs alloc) ∧
    ∀ b', b' % 64 = 0 → readBlock (writeBlock s b off bs alloc) b' =
      if b' = b ∧ (homeOf s b).isSome ∧ ¬(blockBad s b = true ∧ bs.length < 64) then
        (readBlock s b).take off ++ bs ++ (readBlock s b).drop (off + bs.length) else readBlock s b' := by
  unfold writeBlock
  split
  · rename_i e
    refine ⟨rfl, rfl, hs, fun b' _ => ?_⟩
    rw [if_neg]
    intro h
    rw [e] at h
    simp at h
  · rename_i h e
    extract_lets old new s'
    split
    · rename_i hbad
      refine ⟨rfl, rfl, hs, fun b' _ => ?_⟩
      rw [if_neg]
      intro h
      simp only [Bool.and_eq_true, decide_eq_true_eq] at hbad
      exact h.2.2 hbad
    · rename_i hbad
      have hcond : ∀ b', (b' = b ∧ (homeOf s b).isSome ∧ ¬(blockBad s b = true ∧ bs.length < 64)) ↔ b' = b := fun b' => by
        simp only [Bool.and_eq_true, decide_eq_true_eq] at hbad
        rw [e]
        exact ⟨fun q => q.1, fun q => ⟨q, rfl, hbad⟩⟩
      simp only [hcond]
      have hsame : SameMem s s' := clearBad_same s h b
      have hnew : new.length = 64 := by
        have := readBlock_length hp hs hb
        show (old.take off ++ bs ++ old.drop (off + bs.length)).length = 64
        simp only [List.length_append, List.length_take, List.length_drop, old, this]
        omega
      have e' : homeOf s' b = some h := by rw [homeOf_congr hsame.charter hsame.order]; exact e
      have hp' : partsApart s' = true := (partsApart_congr hsame.charter).trans hp
      split
      · have h1 := putSector_ok hp' (hsame.slicesOk hs) hb e' (x := ⟨true, new⟩) hnew (fun q => nomatch q)
        have h2 := putSector_same s' h (b / 64 % 4) ⟨true, new⟩
        refine ⟨h2.1.trans hsame.charter, h2.2.trans hsame.order, h1.1, fun b' hb' => ?_⟩
        rw [h1.2 b' hb', hsame.readBlock]
      · rename_i hpres
        have hnone : ∀ b', b' % 64 = 0 → b' = b → cached s b' = none := fun b' _ q => by
          subst q
          rw [cached_eq e]
          cases hl : lookSector (sliceLines s h.tile h.router) h.line (b' / 64 % 4) with
          | none => rfl
          | some x =>
            obtain ⟨c, c1, c2, _⟩ := look_mem hl
            refine absurd ?_ hpres
            simp only [linePresent, Bool.or_eq_true, List.any_eq_true, beq_iff_eq]
            exact .inr ⟨c, c1, c2⟩
        have apart : ∀ b', b' % 64 = 0 → b' ≠ b →
            memRead (memWrite s'.mem b new) b' 64 = memRead s.mem b' 64 := fun b' hb' hne => by
          rw [hsame.mem]
          exact memRead_memWrite_apart (by omega)
        have hok : ∀ k, sliceOk { s' with mem := memWrite s'.mem b new } k (tblGet [] s.slices k) := fun k => by
          refine ⟨(hs k).1, fun c hc => ⟨((hs k).2 c hc).1, fun y hy => ?_⟩⟩
          refine sectorAtHome_congr (s := s) (t := { s' with mem := memWrite s'.mem b new }) hsame.charter hsame.order
            (((hs k).2 c hc).2 y hy) fun b' h' hb' eh hsec hk hl => ?_
          refine apart b' hb' fun q => ?_
          subst q
          rw [e] at eh
          cases eh
          refine hpres ?_
          simp only [linePresent, Bool.or_eq_true, List.any_eq_true, beq_iff_eq, sliceLines_eq]
          exact .inr ⟨c, hk ▸ hc, hl.symm⟩
        refine ⟨hsame.charter, hsame.order, fun k => ?_, fun b' hb' => ?_⟩
        · have := hok k
          rw [← hsame.slices] at this
          exact this
        · have hcc : cached { s' with mem := memWrite s'.mem b new } b' = cached s b' := by
            refine Eq.trans ?_ (hsame.cached b')
            rfl
          unfold readBlock
          rw [hcc]
          by_cases hq : b' = b
          · subst hq
            rw [if_pos rfl, hnone b' hb' rfl]
            show memRead (memWrite s'.mem b' new) b' 64 = _
            have := memRead_memWrite_same s'.mem b' new
            rw [hnew] at this
            rw [this]
            show old.take off ++ bs ++ old.drop (off + bs.length) = _
            have : old = memRead s.mem b' 64 := by
              show readBlock s b' = _
              unfold readBlock
              rw [hnone b' hb' rfl]
            rw [this]
          · rw [if_neg hq]
            cases cached s b' with
            | some x => rfl
            | none => exact apart b' hb' hq

theorem splice_getD (old bs : List Byte) {off : Nat} (h : off ≤ old.length) (i : Nat) :
    (old.take off ++ bs ++ old.drop (off + bs.length)).getD i 0 =
      if off ≤ i ∧ i < off + bs.length then bs.getD (i - off) 0 else old.getD i 0 := by
  simp only [List.getD_eq_getElem?_getD, List.append_assoc]
  have hl : (old.take off).length = off := by rw [List.length_take]; omega
  by_cases h1 : i < off
  · rw [List.getElem?_append_left (by omega), if_neg (by omega), List.getElem?_take_of_lt h1]
  · rw [List.getElem?_append_right (by omega), hl]
    by_cases h2 : i < off + bs.length
    · rw [List.getElem?_append_left (by omega), if_pos (by omega)]
    · rw [List.getElem?_append_right (by omega), if_neg (by omega), List.getElem?_drop]
      congr 2
      omega

/-- The block and offset of each part of a write. -/
theorem blocksOf_mem {a n b : Nat} (h : b ∈ blocksOf a n) : b % 64 = 0 ∧ a < b + 64 ∧ b < a + n := by
  unfold blocksOf at h
  split at h
  · cases h
  · obtain ⟨i, hi, rfl⟩ := List.mem_map.1 h
    rw [List.mem_range] at hi
    omega

/-- A state whose blocks read as before outside a range of bytes. -/
structure SameOutside (a n : Nat) (s t : State) : Prop where
  charter : t.charter = s.charter
  order : t.order1T = s.order1T
  ok : slicesOk t
  read : ∀ x, x < a ∨ a + n ≤ x → ldByte t x = ldByte s x

/-- A write changes no byte outside its range (R239). -/
theorem ldWrite_ok {s : State} (hp : partsApart s = true) (hs : slicesOk s) (a : Nat) (bs : List Byte) (alloc : Bool) :
    SameOutside a bs.length s (ldWrite s a bs alloc) := by
  unfold ldWrite each
  have hbl : ∀ b ∈ blocksOf a bs.length, b % 64 = 0 ∧ a < b + 64 ∧ b < a + bs.length := fun b hb => blocksOf_mem hb
  have h0 : SameOutside a bs.length s s := ⟨rfl, rfl, hs, fun _ _ => rfl⟩
  revert h0 hbl
  generalize blocksOf a bs.length = l
  intro hbl
  suffices ∀ t, SameOutside a bs.length s t → SameOutside a bs.length s (l.foldl _ t) from this s
  induction l with
  | nil => exact fun t h => h
  | cons b l ih =>
    intro t h
    refine ih (fun x hx => hbl x (List.mem_cons_of_mem _ hx)) _ ?_
    obtain ⟨hb, hb1, hb2⟩ := hbl b (List.mem_cons_self ..)
    have hp' : partsApart t = true := (partsApart_congr h.charter).trans hp
    dsimp only
    generalize hlo : (if b ≤ a then a - b else 0) = lo
    have hlo' : lo ≤ 63 ∧ (b ≤ a → lo = a - b) ∧ (a < b → lo = 0) := by
      subst hlo; split <;> omega
    have hpl : ((bs.drop (b + lo - a)).take (64 - lo)).length = min (64 - lo) (bs.length - (b + lo - a)) := by
      rw [List.length_take, List.length_drop]
    obtain ⟨w1, w2, w3, w4⟩ := writeBlock_ok hp' h.ok (b := b) (off := lo)
      (bs := (bs.drop (b + lo - a)).take (64 - lo)) alloc hb (by omega)
    refine ⟨w1.trans h.charter, w2.trans h.order, w3, fun x hx => ?_⟩
    rw [← h.read x hx]
    unfold ldByte
    rw [w4 _ (by omega)]
    split
    · rename_i hq
      have hlen := readBlock_length hp' h.ok hb
      rw [splice_getD _ _ (by omega), if_neg (by omega), hq.1]
    · rfl

/-- A write inside one block that has a home and is not failing: the block reads with the bytes in place. -/
theorem ldWrite_block {s : State} (hp : partsApart s = true) (hs : slicesOk s) {a : Nat} {bs : List Byte} (alloc : Bool)
    (h1 : a % 64 + bs.length ≤ 64) (hh : (homeOf s (a / 64 * 64)).isSome) (hbad : blockBad s (a / 64 * 64) = false)
    {i : Nat} (hi : i < bs.length) : ldByte (ldWrite s a bs alloc) (a + i) = bs.getD i 0 := by
  have hb : blocksOf a bs.length = [a / 64 * 64] := by
    unfold blocksOf
    rw [if_neg (by omega), show (a + bs.length - 1) / 64 - a / 64 + 1 = 1 by omega]
    rfl
  unfold ldWrite each
  rw [hb, List.foldl_cons, List.foldl_nil]
  dsimp only
  rw [if_pos (by omega), show a / 64 * 64 + (a - a / 64 * 64) - a = 0 by omega, List.drop_zero,
    List.take_of_length_le (by omega)]
  obtain ⟨_, _, _, w4⟩ := writeBlock_ok hp hs (b := a / 64 * 64) (off := a - a / 64 * 64) (bs := bs) alloc (by omega)
    (by omega)
  unfold ldByte
  have hlen := readBlock_length hp hs (b := a / 64 * 64) (by omega)
  rw [show (a + i) / 64 * 64 = a / 64 * 64 by omega, w4 _ (by omega), if_pos ⟨rfl, hh, by simp [hbad]⟩,
    splice_getD _ _ (by omega), if_pos (by omega)]
  congr 1
  omega

/-- Slices written back and emptied keep what the others hold at its home (R241). -/
theorem flushSlice_ok {s : State} (hp : partsApart s = true) (hs : slicesOk s) {n t r : Nat} (hn : n < 16)
    (ht : t ∈ partTiles s n) (hr : r < 16) (p : CLine → Bool) :
    slicesOk { setSlice s t r [] with
      mem := ((sliceLines s t r).filter p).foldl (writeBack (regionBase s n)) s.mem } := by
  have hbase : ∀ b h, homeOf s b = some h → 16 * h.tile + h.router = 16 * t + r → regionBase s h.part = regionBase s n :=
    fun b h e hk => by
      obtain ⟨p1, r1, t1, _⟩ := homeOf_spec e
      have : h.tile = t := by omega
      rw [partTiles_apart hp p1 hn t1 (this ▸ ht)]
  have hwr : ∀ (l : List CLine), (∀ c ∈ l, c ∈ sliceLines s t r) → ∀ m b h, b % 64 = 0 → homeOf s b = some h →
      16 * h.tile + h.router ≠ 16 * t + r →
      memRead (l.foldl (writeBack (regionBase s n)) m) b 64 = memRead m b 64 := by
    intro l
    induction l with
    | nil => exact fun _ _ _ _ _ _ _ => rfl
    | cons c l ih =>
      intro hl m b h hb e hk
      rw [List.foldl_cons, ih (fun x hx => hl x (List.mem_cons_of_mem _ hx)) _ b h hb e hk]
      have hc := (hs _).2 c (hl c (List.mem_cons_self ..))
      have hbm := regionBase_mod s n
      refine foldl_writeBack_other (a := regionBase s n + 256 * c.line) c.sectors m (fun e he => (hc.2 e he).1) (by omega)
        hb fun x hx q => ?_
      obtain ⟨hm, m1, m2, _⟩ := sector_addr hbase (hc.2 x hx)
      rw [q, e] at m1
      cases m1
      exact hk m2
  intro j
  show sliceOk _ j (tblGet [] (setSlice s t r []).slices j)
  rw [setSlice_get]
  split
  · exact ⟨List.nodup_nil, fun _ h => nomatch h⟩
  · refine ⟨(hs j).1, fun c hc => ⟨((hs j).2 c hc).1, fun e he => ?_⟩⟩
    refine sectorAtHome_congr (s := s) (t := { setSlice s t r [] with
      mem := ((sliceLines s t r).filter p).foldl (writeBack (regionBase s n)) s.mem }) rfl rfl (((hs j).2 c hc).2 e he)
      fun b h hb eh _ hk _ => ?_
    exact hwr _ (fun x hx => (List.mem_filter.1 hx).1) _ b h hb eh (by omega)

end Sys2Proof.Machine
end

