-- ==== Sys2Proof/Laws/Keeps.lean ====
section
/-! SUPPORT. What every shared operation leaves as it is: the queue, the order code, the charter and its seal; memory keeps
its canonical form, the slices keep their lines at home and no free value is used twice. One lemma for each operation says so of it. -/

namespace Sys2Proof.Machine

/-- From s to t the queue, the order code, the charter and its seal are unchanged, memory keeps its canonical form, and
the counter of free values does not go back. -/
structure Keeps (s t : State) : Prop where
  pending : t.pending = s.pending
  order : t.order1T = s.order1T
  charter : t.charter = s.charter
  sealed : t.sealed = s.sealed
  fresh : s.fresh ≤ t.fresh
  wf : memWf s.mem = true → memWf t.mem = true
  slices : partsApart s = true → slicesOk s → slicesOk t
  prov : provOk s → provOk t
  provNext : s.provNext ≤ t.provNext
  counter : CounterLater s.counter t.counter
  cmds : cmdsOk s → cmdsOk t

theorem CounterLater.refl (k : Counter) : CounterLater k k := ⟨fun _ => Nat.le_refl _, fun h => ⟨Nat.le_refl _, h⟩⟩

theorem CounterLater.trans {a b c : Counter} (h : CounterLater a b) (k : CounterLater b c) : CounterLater a c :=
  ⟨fun i => Nat.le_trans (h.1 i) (k.1 i),
    fun q => ⟨Nat.le_trans (h.2 q).1 (k.2 (h.2 q).2).1, (k.2 (h.2 q).2).2⟩⟩

theorem Keeps.refl (s : State) : Keeps s s := ⟨rfl, rfl, rfl, rfl, Nat.le_refl _, id, fun _ => id, id, Nat.le_refl _, .refl _, id⟩

theorem Keeps.trans {a b c : State} (h : Keeps a b) (k : Keeps b c) : Keeps a c :=
  ⟨k.1.trans h.1, k.2.trans h.2, k.3.trans h.3, k.4.trans h.4, Nat.le_trans h.5 k.5, fun w => k.6 (h.6 w),
    fun p w => k.7 ((partsApart_congr h.3).trans p) (h.7 p w), fun w => k.8 (h.8 w),
    Nat.le_trans h.9 k.9, h.10.trans k.10, fun w => k.11 (h.11 w)⟩

/-- An update of other fields. -/
theorem Keeps.upd {a s t : State} (h : Keeps a s) (h1 : t.pending = s.pending) (h2 : t.order1T = s.order1T)
    (h3 : t.charter = s.charter) (h4 : t.sealed = s.sealed) (h5 : t.fresh = s.fresh) (h6 : t.mem = s.mem)
    (h7 : t.slices = s.slices) (h8 : t.provBF0 = s.provBF0) (h9 : t.provBF1 = s.provBF1) (h10 : t.provNext = s.provNext)
    (h11 : t.counter = s.counter) (h12 : t.cmds = s.cmds) (h13 : t.nextCmd = s.nextCmd) : Keeps a t :=
  ⟨h1.trans h.1, h2.trans h.2, h3.trans h.3, h4.trans h.4, h5 ▸ h.5, fun w => h6 ▸ h.6 w,
    fun p w => (SameMem.mk h3 h2 h6 h7).slicesOk (h.7 p w),
    fun w => by unfold provOk; rw [h8, h9, h10]; exact h.8 w, h10 ▸ h.9, h11 ▸ h.10,
    fun w => by unfold cmdsOk; rw [h12, h13]; exact h.11 w⟩

/-- An update of fields other than those that Keeps speaks of. -/
theorem Keeps.put_iff {a s : State}
    (v3 : Nat) (v4 : Tbl Core) (v5 : Tbl PState) (v6 : Tbl CatEntry) (v7 : Nat) (v8 : Tbl Windows) (v9 : Tbl
    Group) (v10 : List RedNode) (v11 : List BStream) (v12 : List Gather) (v13 : List Packet) (v14 : List Req)
    (v15 : Nat) (v16 : List Drain) (v17 : List CtrlMsg) (v18 : Tbl TileNet) (v19 : List LinkRef) (v20 : Tbl Arb)
    (v21 : Tbl Nat) (v22 : TreeMsg) (v23 : List (SyncRef × Nat × SyncLanes)) (v24 : List Nat) (v26 : Tbl Bool)
    (v28 : Tbl Device) (v29 : Tbl HostDie) (v30 : List LoadResult) (v31 : Tbl Queue) (v32 : Tbl CmdUnit) (v33 :
    Nat) (v36 : List RunRec) (v37 : Tbl Mailbox) (v38 : Nat) (v39 : Bool) (v40 : List FaultRec) (v41 : Nat) (v42
    : Tbl Transient) (v43 : Tbl Transient) (v44 : Tbl Part) (v45 : Limits) (v46 : List Nat) (v50 : List Nat)
    (v51 : List (Nat × Nat)) (v52 : Tbl Curator) (v53 : Nat) (v54 : Bool) (v55 : Straps) (v58 : Start) (v59 :
    Bool) (v60 : Bool) (v61 : Nat) (v62 : Nat) (v63 : Flash) (v64 : Flash) (v66 : Option (Tbl (Nat × Option
    Nat))) (v67 : Ident) (v68 : RefClk) (v69 : Tbl ClkDom) (v70 : Tbl PwrDom) (v71 : Tbl TilePwr) (v72 : Tbl
    Nat) (v73 : Power) (v74 : Thermal) (v75 : Tbl Monitor) (v76 : Tbl Monitor) (v77 : CMap) (v78 : Service) (v79
    : Bool) (v80 : Fabric) :
    Keeps a (State.mk
    s.pending s.fresh s.order1T v3 v4 v5 v6 v7 v8 v9 v10 v11 v12 v13 v14 v15 v16 v17 v18 v19 v20 v21 v22 v23 v24
    s.mem v26 s.slices v28 v29 v30 v31 v32 v33 s.cmds s.nextCmd v36 v37 v38 v39 v40 v41 v42 v43 v44 v45 v46
    s.provBF0 s.provBF1 s.provNext v50 v51 v52 v53 v54 v55 s.charter s.sealed v58 v59 v60 v61 v62 v63 v64
    s.counter v66 v67 v68 v69 v70 v71 v72 v73 v74 v75 v76 v77 v78 v79 v80) ↔ Keeps a s :=
  ⟨fun h => ⟨h.1, h.2, h.3, h.4, h.5, h.6, h.7, h.8, h.9, h.10, h.11⟩,
    fun h => ⟨h.1, h.2, h.3, h.4, h.5, h.6, h.7, h.8, h.9, h.10, h.11⟩⟩

theorem each_keeps {α : Type} {a : State} {f : α → State → State} (hf : ∀ x s, Keeps a s → Keeps a (f x s))
    (l : List α) {s : State} (h : Keeps a s) : Keeps a (each l f s) := by
  unfold each
  induction l generalizing s with
  | nil => exact h
  | cons x l ih => exact ih (hf x s h)

theorem foldl_keeps {α : Type} {a : State} {f : State → α → State} (hf : ∀ x s, Keeps a s → Keeps a (f s x))
    (l : List α) {s : State} (h : Keeps a s) : Keeps a (l.foldl f s) := each_keeps (f := fun x s => f s x) hf l h

theorem foldl_fst_keeps {α β : Type} {a : State} {f : State × β → α → State × β}
    (hf : ∀ x p, Keeps a p.1 → Keeps a (f p x).1) (l : List α) {p : State × β} (h : Keeps a p.1) :
    Keeps a (l.foldl f p).1 := by
  induction l generalizing p with
  | nil => exact h
  | cons x l ih => exact ih (hf x p h)

theorem bumpFresh_keeps {a s : State} (h : Keeps a s) (n : Nat) : Keeps a (bumpFresh s n) :=
  ⟨h.1, h.2, h.3, h.4, Nat.le_trans h.5 (Nat.le_add_right ..), h.6, h.7, h.8, h.9, h.10, h.11⟩

/-- What a memory operation leaves as it is, but for the slices. -/
structure KeepsMem (s t : State) : Prop where
  pending : t.pending = s.pending
  order : t.order1T = s.order1T
  charter : t.charter = s.charter
  sealed : t.sealed = s.sealed
  fresh : s.fresh = t.fresh
  wf : memWf s.mem = true → memWf t.mem = true
  prov0 : t.provBF0 = s.provBF0
  prov1 : t.provBF1 = s.provBF1
  provNext : t.provNext = s.provNext
  counter : t.counter = s.counter
  cmds : t.cmds = s.cmds
  nextCmd : t.nextCmd = s.nextCmd

theorem KeepsMem.refl (s : State) : KeepsMem s s := ⟨rfl, rfl, rfl, rfl, rfl, id, rfl, rfl, rfl, rfl, rfl, rfl⟩

theorem KeepsMem.trans {a b c : State} (h : KeepsMem a b) (k : KeepsMem b c) : KeepsMem a c :=
  ⟨k.1.trans h.1, k.2.trans h.2, k.3.trans h.3, k.4.trans h.4, h.5.trans k.5, fun w => k.6 (h.6 w),
    k.7.trans h.7, k.8.trans h.8, k.9.trans h.9, k.10.trans h.10, k.11.trans h.11, k.12.trans h.12⟩

theorem KeepsMem.keeps {a s t : State} (k : KeepsMem s t) (h : Keeps a s)
    (hs : partsApart s = true → slicesOk s → slicesOk t) : Keeps a t :=
  ⟨k.1.trans h.1, k.2.trans h.2, k.3.trans h.3, k.4.trans h.4, k.5 ▸ h.5, fun w => k.6 (h.6 w),
    fun p w => hs ((partsApart_congr h.3).trans p) (h.7 p w),
    fun w => by unfold provOk; rw [k.7, k.8, k.9]; exact h.8 w, k.9 ▸ h.9, k.10 ▸ h.10,
    fun w => by unfold cmdsOk; rw [k.11, k.12]; exact h.11 w⟩

theorem clearBad_mem (s : State) (hm : Home) (b : Nat) : KeepsMem s (clearBad s hm b) := by
  unfold clearBad
  dsimp only
  split <;> exact ⟨rfl, rfl, rfl, rfl, rfl, id, rfl, rfl, rfl, rfl, rfl, rfl⟩

theorem each_mem {α : Type} {f : α → State → State} (hf : ∀ x s, KeepsMem s (f x s)) (l : List α) (s : State) :
    KeepsMem s (each l f s) := by
  unfold each
  induction l generalizing s with
  | nil => exact .refl s
  | cons x l ih => exact (hf x s).trans (ih (f x s))

theorem clearDirty_mem (s : State) (base : Nat) (c : CLine) : KeepsMem s (clearDirty s base c) := by
  unfold clearDirty
  refine each_mem (fun e s => ?_) _ s
  dsimp only
  split
  · exact clearBad_mem ..
  · exact .refl s

theorem putSector_mem (s : State) (hm : Home) (sec : Nat) (x : Sector) : KeepsMem s (putSector s hm sec x) := by
  unfold putSector
  dsimp only
  split
  · exact ⟨rfl, rfl, rfl, rfl, rfl, id, rfl, rfl, rfl, rfl, rfl, rfl⟩
  · refine KeepsMem.trans ?_ (clearDirty_mem ..)
    exact ⟨rfl, rfl, rfl, rfl, rfl, fun w => writeBack_wf _ _ w, rfl, rfl, rfl, rfl, rfl, rfl⟩

theorem writeBlock_mem (s : State) (b off : Nat) (bs : List Byte) (alloc : Bool) :
    KeepsMem s (writeBlock s b off bs alloc) := by
  unfold writeBlock
  split
  · exact .refl s
  · rename_i hm _
    extract_lets old new s'
    split
    · exact .refl s
    · split
      · exact (clearBad_mem s hm b).trans (putSector_mem ..)
      · have k := clearBad_mem s hm b
        exact ⟨k.1, k.2, k.3, k.4, k.5, fun w => memWrite_wf _ _ (k.6 w), k.7, k.8, k.9, k.10, k.11, k.12⟩

theorem ldTouch_keeps {a s : State} (h : Keeps a s) (x n : Nat) (alloc : Bool) : Keeps a (ldTouch s x n alloc) := by
  refine KeepsMem.keeps (each_mem (fun b s => ?_) _ s) h fun p w => (ldTouch_ok p w x n alloc).ok
  split
  · exact .refl s
  · split
    · exact putSector_mem ..
    · split
      · exact putSector_mem ..
      · exact .refl s

theorem ldWrite_keeps {a s : State} (h : Keeps a s) (x : Nat) (bs : List Byte) (alloc : Bool) :
    Keeps a (ldWrite s x bs alloc) :=
  KeepsMem.keeps (each_mem (fun _ s => writeBlock_mem s ..) _ s) h fun p w => (ldWrite_ok p w x bs alloc).ok

/-- What a step of a fold keeps when it needs the charter as it was. -/
theorem each_charter {α : Type} {a s : State} {f : α → State → State} (P : α → Prop)
    (hf : ∀ x, P x → ∀ u, Keeps a u → u.charter = s.charter → Keeps a (f x u) ∧ (f x u).charter = s.charter) :
    ∀ (l : List α), (∀ x ∈ l, P x) → ∀ u, Keeps a u → u.charter = s.charter →
      Keeps a (each l f u) ∧ (each l f u).charter = s.charter
  | [], _, _, k, hc => ⟨k, hc⟩
  | x :: l, hm, u, k, hc =>
    have h1 := hf x (hm x (List.mem_cons_self ..)) u k hc
    each_charter P hf l (fun y hy => hm y (List.mem_cons_of_mem _ hy)) _ h1.1 h1.2

theorem partTiles_part {s : State} {n t : Nat} (h : t ∈ partTiles s n) : n < 16 := by
  unfold partTiles upTo at h
  have h1 := (List.mem_filter.1 h).2
  refine Decidable.byContradiction fun hn => ?_
  unfold chtPart at h1
  rw [if_neg hn] at h1
  simp [partWordHas, bit] at h1

theorem flushPart_keeps {a s : State} (h : Keeps a s) (n : Nat) (lost : List Nat) : Keeps a (flushPart s n lost) := by
  unfold flushPart
  refine (each_charter (s := s) (· ∈ partTiles s n) (fun t ht u k hc => ?_) _ (fun _ h => h) s h rfl).1
  refine each_charter (s := s) (· < 16) (fun r hr u k hc => ?_) _ (fun _ h => List.mem_range.1 h) u k hc
  dsimp only
  have hpt : partTiles u n = partTiles s n := by unfold partTiles chtPart cht; rw [hc]
  generalize hv : ({ setSlice u t r [] with mem := _ } : State) = v
  have hk : Keeps a v ∧ v.charter = s.charter := by
    subst hv
    exact ⟨⟨k.1, k.2, k.3, k.4, k.5, fun w => foldl_writeBack_wf _ _ (k.6 w), fun p w =>
      flushSlice_ok ((partsApart_congr k.3).trans p) (k.7 p w) (partTiles_part ht) (hpt ▸ ht) hr _, k.8, k.9, k.10, k.11⟩, hc⟩
  generalize List.filter _ (sliceLines u t r) = l
  have hm := each_mem (fun c s => clearDirty_mem s (regionBase u n) c) l v
  have hs : SameMem v (each l (fun c s => clearDirty s (regionBase u n) c) v) :=
    SameMem.each (fun c s => clearDirty_same s _ c) l v
  exact ⟨hm.keeps hk.1 fun _ w => hs.slicesOk w, hm.charter.trans hk.2⟩

theorem provRising_le {l : List Prov} {n m : Nat} (h : provRising l n) (hm : n ≤ m) : provRising l m :=
  ⟨h.1, fun e he => Nat.lt_of_lt_of_le (h.2 e he) hm⟩

theorem provRising_put {l : List Prov} {n k : Nat} {e : Prov} (h : provRising l n) (he : e.number = n) :
    provRising ((l ++ [e]).drop k) (n + 1) := by
  have h1 : provRising (l ++ [e]) (n + 1) := by
    refine ⟨List.pairwise_append.2 ⟨h.1, List.pairwise_singleton .., fun a ha b hb => ?_⟩, fun x hx => ?_⟩
    · rw [List.mem_singleton.1 hb, he]; exact h.2 a ha
    · rcases List.mem_append.1 hx with hx | hx
      · exact Nat.lt_succ_of_lt (h.2 x hx)
      · rw [List.mem_singleton.1 hx, he]; exact Nat.lt_succ_self n
  exact ⟨h1.1.sublist (List.drop_sublist ..), fun x hx => h1.2 x (List.mem_of_mem_drop hx)⟩

theorem raiseFloor_later (k : Counter) (type svn : Nat) : CounterLater k (raiseFloor k type svn) := by
  refine ⟨fun i => ?_, fun h => ⟨Nat.le_refl _, h⟩⟩
  unfold raiseFloor
  dsimp only
  rw [tblGet_tblSet]
  split
  · subst i; exact Nat.le_max_left ..
  · exact Nat.le_refl _

theorem commitRecord_later (s : State) (type floor : Nat) : CounterLater s.counter (commitRecord s type floor) := by
  unfold commitRecord
  extract_lets k active k1 svn
  have h1 : CounterLater s.counter k1 := ⟨fun _ => Nat.le_refl _, fun h => ⟨Nat.le_refl _, h⟩⟩
  split
  · exact h1.trans ⟨fun _ => Nat.le_refl _, fun h => ⟨Nat.le_refl _, h⟩⟩
  · split
    · exact h1.trans (raiseFloor_later ..)
    · exact h1.trans ⟨fun _ => Nat.le_refl _, fun h => ⟨Nat.le_refl _, h⟩⟩

theorem foldl_raiseFloor_later (f : Nat → Nat) (l : List Nat) (k : Counter) :
    CounterLater k (l.foldl (fun k type => raiseFloor k type (f type)) k) := by
  induction l generalizing k with
  | nil => exact .refl k
  | cons x l ih => exact (raiseFloor_later k x (f x)).trans (ih _)

theorem addProv_keeps {a s : State} (h : Keeps a s) (e : Prov) : Keeps a (addProv s e) := by
  refine ⟨h.1, h.2, h.3, h.4, h.5, h.6, h.7, fun w => ?_, Nat.le_trans h.9 (Nat.le_succ _), h.10, h.11⟩
  have hw := h.8 w
  constructor
  · show provRising (if s.bf0.alive then _ else _) (s.provNext + 1)
    split
    · exact provRising_put hw.1 rfl
    · exact provRising_le hw.1 (Nat.le_succ _)
  · show provRising (if s.bf1.alive then _ else _) (s.provNext + 1)
    split
    · exact provRising_put hw.2 rfl
    · exact provRising_le hw.2 (Nat.le_succ _)

/-- Fewer commands, in the same order. -/
theorem Keeps.fewer {a s : State} (h : Keeps a s) (p : Cmd → Bool) : Keeps a { s with cmds := s.cmds.filter p } :=
  ⟨h.1, h.2, h.3, h.4, h.5, h.6, h.7, h.8, h.9, h.10, fun w =>
    ⟨(h.11 w).1.sublist (List.Sublist.map _ List.filter_sublist), fun c hc => (h.11 w).2 c ((List.mem_filter.1 hc).1)⟩⟩

/-- Commands changed, each under its number. -/
theorem Keeps.others {a s : State} (h : Keeps a s) (f : Cmd → Cmd) (hf : ∀ c, (f c).uid = c.uid) :
    Keeps a { s with cmds := s.cmds.map f } :=
  ⟨h.1, h.2, h.3, h.4, h.5, h.6, h.7, h.8, h.9, h.10, fun w => by
    have he : ∀ l : List Cmd, (l.map f).map (·.uid) = l.map (·.uid) := fun l => by
      rw [List.map_map]; exact List.map_congr_left fun c _ => hf c
    refine ⟨(he _).symm ▸ (h.11 w).1, fun c hc => ?_⟩
    obtain ⟨d, hd, rfl⟩ := List.mem_map.1 hc
    exact (hf d).symm ▸ (h.11 w).2 d hd⟩

/-- One more command, of the next number. -/
theorem Keeps.more {a s : State} (h : Keeps a s) (c : Cmd) (hc : c.uid = s.nextCmd) :
    Keeps a { s with cmds := s.cmds ++ [c], nextCmd := s.nextCmd + 1 } :=
  ⟨h.1, h.2, h.3, h.4, h.5, h.6, h.7, h.8, h.9, h.10, fun w => by
    refine ⟨?_, fun d hd => ?_⟩
    · show ((s.cmds ++ [c]).map (·.uid)).Pairwise _
      rw [List.map_append]
      refine List.pairwise_append.2 ⟨(h.11 w).1, List.pairwise_singleton .., fun x hx y hy => ?_⟩
      obtain ⟨d, hd, rfl⟩ := List.mem_map.1 hx
      have hy : y = c.uid := by simpa using hy
      rw [hy, hc]
      exact (h.11 w).2 d hd
    · rcases List.mem_append.1 hd with hd | hd
      · exact Nat.lt_succ_of_lt ((h.11 w).2 d hd)
      · rw [List.mem_singleton.1 hd, hc]; exact Nat.lt_succ_self _⟩

theorem modIf_eq_map {α : Type} (p : α → Bool) (f : α → α) (l : List α) : modIf p f l = l.map fun x => if p x then f x else x := rfl

/-- A new counter record, and an update of other fields. -/
theorem Keeps.count {a s : State} (h : Keeps a s) {k : Counter} (hk : CounterLater s.counter k) :
    Keeps a { s with counter := k } :=
  ⟨h.1, h.2, h.3, h.4, h.5, h.6, h.7, h.8, h.9, h.10.trans hk, h.11⟩

/-- One more record written. -/
theorem putRecord_keeps {a s : State} (h : Keeps a s) {k : Counter} (hk : CounterLater s.counter k) : Keeps a (putRecord s k) := by
  unfold putRecord
  refine ⟨h.1, h.2, h.3, h.4, h.5, h.6, h.7, h.8, h.9, h.10.trans (hk.trans ⟨fun _ => Nat.le_refl _, fun q => ⟨Nat.le_refl _, q⟩⟩), h.11⟩

end Sys2Proof.Machine
end

