-- ==== Sys2Proof/Laws/KeepsOps.lean ====
section
/-! SUPPORT. What the shared operations of cores, networks, clocks and resets keep (Laws/Keeps.lean): one lemma each. -/

namespace Sys2Proof.Machine

theorem setCore_keeps {a s : State} (h : Keeps a s) (k : Nat) (v : Core) :
    Keeps a (setCore s k v) := by
  unfold setCore
  repeat' first
    | dsimp only
    | with_reducible exact k
    | with_reducible exact h
    | split
    | simp only [Keeps.put_iff]

theorem modCore_keeps {a s : State} (h : Keeps a s) (k : Nat) (f : Core → Core) :
    Keeps a (modCore s k f) := by
  unfold modCore
  repeat' first
    | dsimp only
    | with_reducible exact k
    | with_reducible exact h
    | with_reducible refine setCore_keeps ?_ ..
    | split
    | simp only [Keeps.put_iff]

theorem setPstate_keeps {a s : State} (h : Keeps a s) (k : Nat) (v : PState) :
    Keeps a (setPstate s k v) := by
  unfold setPstate
  repeat' first
    | dsimp only
    | with_reducible exact k
    | with_reducible exact h
    | split
    | simp only [Keeps.put_iff]

theorem modPstate_keeps {a s : State} (h : Keeps a s) (k : Nat) (f : PState → PState) :
    Keeps a (modPstate s k f) := by
  unfold modPstate
  repeat' first
    | dsimp only
    | with_reducible exact k
    | with_reducible exact h
    | with_reducible refine setPstate_keeps ?_ ..
    | split
    | simp only [Keeps.put_iff]

theorem setCat_keeps {a s : State} (h : Keeps a s) (k : Nat) (v : CatEntry) :
    Keeps a (setCat s k v) := by
  unfold setCat
  repeat' first
    | dsimp only
    | with_reducible exact k
    | with_reducible exact h
    | split
    | simp only [Keeps.put_iff]

theorem modCat_keeps {a s : State} (h : Keeps a s) (k : Nat) (f : CatEntry → CatEntry) :
    Keeps a (modCat s k f) := by
  unfold modCat
  repeat' first
    | dsimp only
    | with_reducible exact k
    | with_reducible exact h
    | with_reducible refine setCat_keeps ?_ ..
    | split
    | simp only [Keeps.put_iff]

theorem setWins_keeps {a s : State} (h : Keeps a s) (k : Nat) (v : Windows) :
    Keeps a (setWins s k v) := by
  unfold setWins
  repeat' first
    | dsimp only
    | with_reducible exact k
    | with_reducible exact h
    | split
    | simp only [Keeps.put_iff]

theorem modWins_keeps {a s : State} (h : Keeps a s) (k : Nat) (f : Windows → Windows) :
    Keeps a (modWins s k f) := by
  unfold modWins
  repeat' first
    | dsimp only
    | with_reducible exact k
    | with_reducible exact h
    | with_reducible refine setWins_keeps ?_ ..
    | split
    | simp only [Keeps.put_iff]

theorem setTile_keeps {a s : State} (h : Keeps a s) (k : Nat) (v : TileNet) :
    Keeps a (setTile s k v) := by
  unfold setTile
  repeat' first
    | dsimp only
    | with_reducible exact k
    | with_reducible exact h
    | split
    | simp only [Keeps.put_iff]

theorem modTile_keeps {a s : State} (h : Keeps a s) (k : Nat) (f : TileNet → TileNet) :
    Keeps a (modTile s k f) := by
  unfold modTile
  repeat' first
    | dsimp only
    | with_reducible exact k
    | with_reducible exact h
    | with_reducible refine setTile_keeps ?_ ..
    | split
    | simp only [Keeps.put_iff]

theorem setDevice_keeps {a s : State} (h : Keeps a s) (k : Nat) (v : Device) :
    Keeps a (setDevice s k v) := by
  unfold setDevice
  repeat' first
    | dsimp only
    | with_reducible exact k
    | with_reducible exact h
    | split
    | simp only [Keeps.put_iff]

theorem modDevice_keeps {a s : State} (h : Keeps a s) (k : Nat) (f : Device → Device) :
    Keeps a (modDevice s k f) := by
  unfold modDevice
  repeat' first
    | dsimp only
    | with_reducible exact k
    | with_reducible exact h
    | with_reducible refine setDevice_keeps ?_ ..
    | split
    | simp only [Keeps.put_iff]

theorem setHost_keeps {a s : State} (h : Keeps a s) (k : Nat) (v : HostDie) :
    Keeps a (setHost s k v) := by
  unfold setHost
  repeat' first
    | dsimp only
    | with_reducible exact k
    | with_reducible exact h
    | split
    | simp only [Keeps.put_iff]

theorem modHost_keeps {a s : State} (h : Keeps a s) (k : Nat) (f : HostDie → HostDie) :
    Keeps a (modHost s k f) := by
  unfold modHost
  repeat' first
    | dsimp only
    | with_reducible exact k
    | with_reducible exact h
    | with_reducible refine setHost_keeps ?_ ..
    | split
    | simp only [Keeps.put_iff]

theorem setQueue_keeps {a s : State} (h : Keeps a s) (k : Nat) (v : Queue) :
    Keeps a (setQueue s k v) := by
  unfold setQueue
  repeat' first
    | dsimp only
    | with_reducible exact k
    | with_reducible exact h
    | split
    | simp only [Keeps.put_iff]

theorem modQueue_keeps {a s : State} (h : Keeps a s) (k : Nat) (f : Queue → Queue) :
    Keeps a (modQueue s k f) := by
  unfold modQueue
  repeat' first
    | dsimp only
    | with_reducible exact k
    | with_reducible exact h
    | with_reducible refine setQueue_keeps ?_ ..
    | split
    | simp only [Keeps.put_iff]

theorem setUnit_keeps {a s : State} (h : Keeps a s) (k : Nat) (v : CmdUnit) :
    Keeps a (setUnit s k v) := by
  unfold setUnit
  repeat' first
    | dsimp only
    | with_reducible exact k
    | with_reducible exact h
    | split
    | simp only [Keeps.put_iff]

theorem modUnit_keeps {a s : State} (h : Keeps a s) (k : Nat) (f : CmdUnit → CmdUnit) :
    Keeps a (modUnit s k f) := by
  unfold modUnit
  repeat' first
    | dsimp only
    | with_reducible exact k
    | with_reducible exact h
    | with_reducible refine setUnit_keeps ?_ ..
    | split
    | simp only [Keeps.put_iff]

theorem setMailbox_keeps {a s : State} (h : Keeps a s) (k : Nat) (v : Mailbox) :
    Keeps a (setMailbox s k v) := by
  unfold setMailbox
  repeat' first
    | dsimp only
    | with_reducible exact k
    | with_reducible exact h
    | split
    | simp only [Keeps.put_iff]

theorem modMailbox_keeps {a s : State} (h : Keeps a s) (k : Nat) (f : Mailbox → Mailbox) :
    Keeps a (modMailbox s k f) := by
  unfold modMailbox
  repeat' first
    | dsimp only
    | with_reducible exact k
    | with_reducible exact h
    | with_reducible refine setMailbox_keeps ?_ ..
    | split
    | simp only [Keeps.put_iff]

theorem setTransient_keeps {a s : State} (h : Keeps a s) (k : Nat) (v : Transient) :
    Keeps a (setTransient s k v) := by
  unfold setTransient
  repeat' first
    | dsimp only
    | with_reducible exact k
    | with_reducible exact h
    | split
    | simp only [Keeps.put_iff]

theorem modTransient_keeps {a s : State} (h : Keeps a s) (k : Nat) (f : Transient → Transient) :
    Keeps a (modTransient s k f) := by
  unfold modTransient
  repeat' first
    | dsimp only
    | with_reducible exact k
    | with_reducible exact h
    | with_reducible refine setTransient_keeps ?_ ..
    | split
    | simp only [Keeps.put_iff]

theorem setPart_keeps {a s : State} (h : Keeps a s) (k : Nat) (v : Part) :
    Keeps a (setPart s k v) := by
  unfold setPart
  repeat' first
    | dsimp only
    | with_reducible exact k
    | with_reducible exact h
    | split
    | simp only [Keeps.put_iff]

theorem modPart_keeps {a s : State} (h : Keeps a s) (k : Nat) (f : Part → Part) :
    Keeps a (modPart s k f) := by
  unfold modPart
  repeat' first
    | dsimp only
    | with_reducible exact k
    | with_reducible exact h
    | with_reducible refine setPart_keeps ?_ ..
    | split
    | simp only [Keeps.put_iff]

theorem setCurator_keeps {a s : State} (h : Keeps a s) (k : Nat) (v : Curator) :
    Keeps a (setCurator s k v) := by
  unfold setCurator
  repeat' first
    | dsimp only
    | with_reducible exact k
    | with_reducible exact h
    | split
    | simp only [Keeps.put_iff]

theorem modCurator_keeps {a s : State} (h : Keeps a s) (k : Nat) (f : Curator → Curator) :
    Keeps a (modCurator s k f) := by
  unfold modCurator
  repeat' first
    | dsimp only
    | with_reducible exact k
    | with_reducible exact h
    | with_reducible refine setCurator_keeps ?_ ..
    | split
    | simp only [Keeps.put_iff]

theorem setClk_keeps {a s : State} (h : Keeps a s) (k : Nat) (v : ClkDom) :
    Keeps a (setClk s k v) := by
  unfold setClk
  repeat' first
    | dsimp only
    | with_reducible exact k
    | with_reducible exact h
    | split
    | simp only [Keeps.put_iff]

theorem modClk_keeps {a s : State} (h : Keeps a s) (k : Nat) (f : ClkDom → ClkDom) :
    Keeps a (modClk s k f) := by
  unfold modClk
  repeat' first
    | dsimp only
    | with_reducible exact k
    | with_reducible exact h
    | with_reducible refine setClk_keeps ?_ ..
    | split
    | simp only [Keeps.put_iff]

theorem setPwr_keeps {a s : State} (h : Keeps a s) (k : Nat) (v : PwrDom) :
    Keeps a (setPwr s k v) := by
  unfold setPwr
  repeat' first
    | dsimp only
    | with_reducible exact k
    | with_reducible exact h
    | split
    | simp only [Keeps.put_iff]

theorem modPwr_keeps {a s : State} (h : Keeps a s) (k : Nat) (f : PwrDom → PwrDom) :
    Keeps a (modPwr s k f) := by
  unfold modPwr
  repeat' first
    | dsimp only
    | with_reducible exact k
    | with_reducible exact h
    | with_reducible refine setPwr_keeps ?_ ..
    | split
    | simp only [Keeps.put_iff]

theorem setTpwr_keeps {a s : State} (h : Keeps a s) (k : Nat) (v : TilePwr) :
    Keeps a (setTpwr s k v) := by
  unfold setTpwr
  repeat' first
    | dsimp only
    | with_reducible exact k
    | with_reducible exact h
    | split
    | simp only [Keeps.put_iff]

theorem modTpwr_keeps {a s : State} (h : Keeps a s) (k : Nat) (f : TilePwr → TilePwr) :
    Keeps a (modTpwr s k f) := by
  unfold modTpwr
  repeat' first
    | dsimp only
    | with_reducible exact k
    | with_reducible exact h
    | with_reducible refine setTpwr_keeps ?_ ..
    | split
    | simp only [Keeps.put_iff]

theorem modPort_keeps {a s : State} (h : Keeps a s) (k : Nat) (f : Port → Port) :
    Keeps a (modPort s k f) := by
  unfold modPort
  repeat' first
    | dsimp only
    | with_reducible exact k
    | with_reducible exact h
    | split
    | simp only [Keeps.put_iff]

theorem transmit_keeps {a s : State} (h : Keeps a s) (port : Nat) (f : Frame) :
    Keeps a (transmit s port f) := by
  unfold transmit
  repeat' first
    | dsimp only
    | with_reducible exact k
    | with_reducible exact h
    | split
    | simp only [Keeps.put_iff]

theorem setCoreMon_keeps {a s : State} (h : Keeps a s) (k : Nat) (m : Monitor) :
    Keeps a (setCoreMon s k m) := by
  unfold setCoreMon
  repeat' first
    | dsimp only
    | with_reducible exact k
    | with_reducible exact h
    | split
    | simp only [Keeps.put_iff]

theorem setTileMon_keeps {a s : State} (h : Keeps a s) (k : Nat) (m : Monitor) :
    Keeps a (setTileMon s k m) := by
  unfold setTileMon
  repeat' first
    | dsimp only
    | with_reducible exact k
    | with_reducible exact h
    | split
    | simp only [Keeps.put_iff]

theorem freshCoreMons_keeps {a s : State} (h : Keeps a s) (l : Nat) :
    Keeps a (freshCoreMons s l) := by
  unfold freshCoreMons
  repeat' first
    | dsimp only
    | with_reducible exact k
    | with_reducible exact h
    | with_reducible refine each_keeps (fun _ _ k => ?_) _ ?_
    | with_reducible refine setCoreMon_keeps ?_ ..
    | split
    | simp only [Keeps.put_iff]

theorem feedCoreMons_keeps {a s : State} (h : Keeps a s) (l : Nat) (source : Nat) (inst : Option Nat) (v : Nat) :
    Keeps a (feedCoreMons s l source inst v) := by
  unfold feedCoreMons
  repeat' first
    | dsimp only
    | with_reducible exact k
    | with_reducible exact h
    | with_reducible refine each_keeps (fun _ _ k => ?_) _ ?_
    | with_reducible refine setCoreMon_keeps ?_ ..
    | split
    | simp only [Keeps.put_iff]

theorem feedTileMons_keeps {a s : State} (h : Keeps a s) (t : Nat) (source : Nat) (inst : Option Nat) (v : Nat) :
    Keeps a (feedTileMons s t source inst v) := by
  unfold feedTileMons
  repeat' first
    | dsimp only
    | with_reducible exact k
    | with_reducible exact h
    | with_reducible refine each_keeps (fun _ _ k => ?_) _ ?_
    | with_reducible refine setTileMon_keeps ?_ ..
    | split
    | simp only [Keeps.put_iff]

theorem sampleQueue_keeps {a s : State} (h : Keeps a s) (q : Queue) (r : Rec) :
    Keeps a (sampleQueue s q r) := by
  unfold sampleQueue
  repeat' first
    | dsimp only
    | with_reducible exact k
    | with_reducible exact h
    | with_reducible refine feedTileMons_keeps ?_ ..
    | split
    | simp only [Keeps.put_iff]

theorem sampleBarrier_keeps {a s : State} (h : Keeps a s) (p : Nat) (t : Task) :
    Keeps a (sampleBarrier s p t) := by
  unfold sampleBarrier
  repeat' first
    | dsimp only
    | with_reducible exact k
    | with_reducible exact h
    | with_reducible refine feedCoreMons_keeps ?_ ..
    | split
    | simp only [Keeps.put_iff]

theorem sampleMargin_keeps {a s : State} (h : Keeps a s) (p : Nat) (code : Nat) :
    Keeps a (sampleMargin s p code) := by
  unfold sampleMargin
  repeat' first
    | dsimp only
    | with_reducible exact k
    | with_reducible exact h
    | with_reducible refine feedCoreMons_keeps ?_ ..
    | split
    | simp only [Keeps.put_iff]

theorem sendMsi_keeps {a s : State} (h : Keeps a s) (h_1 : Nat) (m : Msi) :
    Keeps a (sendMsi s h_1 m) := by
  unfold sendMsi
  repeat' first
    | dsimp only
    | with_reducible exact k
    | with_reducible exact h
    | with_reducible refine modHost_keeps ?_ ..
    | split
    | simp only [Keeps.put_iff]

theorem writeRecord_keeps {a s : State} (h : Keeps a s) (n : Nat) :
    Keeps a (writeRecord s n) := by
  unfold writeRecord
  repeat' first
    | dsimp only
    | with_reducible exact k
    | with_reducible exact h
    | with_reducible refine ldWrite_keeps ?_ ..
    | with_reducible refine modQueue_keeps ?_ ..
    | with_reducible refine sampleQueue_keeps ?_ ..
    | with_reducible refine sendMsi_keeps ?_ ..
    | with_reducible refine setQueue_keeps ?_ ..
    | split
    | simp only [Keeps.put_iff]

theorem writeRecords_keeps {a s : State} (h : Keeps a s) (n : Nat) (a_2 : Nat) :
    Keeps a (writeRecords s n a_2) := by
  unfold writeRecords
  repeat' first
    | dsimp only
    | with_reducible exact k
    | with_reducible exact h
    | with_reducible refine writeRecord_keeps ?_ ..
    | with_reducible refine writeRecords_keeps ?_ ..
    | split
    | simp only [Keeps.put_iff]

theorem modCmd_keeps {a s : State} (h : Keeps a s) (uid : Nat) (f : Cmd → Cmd) :
    Keeps a (modCmd s uid f) := by
  unfold modCmd
  rw [modIf_eq_map]
  exact h.others _ fun c => by split <;> rfl

theorem completeOne_keeps {a s : State} (h : Keeps a s) (c : Cmd) (st : Status) (attempts : Nat) (r0 : Nat) (r1 : Nat) (r2 : Nat) (r3 : Nat) :
    Keeps a (completeOne s c st attempts r0 r1 r2 r3) := by
  unfold completeOne
  extract_lets s1 retry r tally s2
  exact modQueue_keeps ((h.fewer _).others _ fun e => by
    show (tally e).uid = e.uid
    unfold tally; split
    · split <;> rfl
    · rfl) ..

theorem freeQueue_keeps {a s : State} (h : Keeps a s) (n : Nat) :
    Keeps a (freeQueue s n) := by
  unfold freeQueue
  repeat' first
    | dsimp only
    | with_reducible exact k
    | with_reducible exact h
    | with_reducible refine each_keeps (fun _ _ k => ?_) _ ?_
    | with_reducible refine modUnit_keeps ?_ ..
    | with_reducible refine setQueue_keeps ?_ ..
    | with_reducible refine writeRecords_keeps ?_ ..
    | split
    | simp only [Keeps.put_iff]

theorem endDisable_keeps {a s : State} (h : Keeps a s) (c : Cmd) :
    Keeps a (endDisable s c) := by
  unfold endDisable
  repeat' first
    | dsimp only
    | with_reducible exact k
    | with_reducible exact h
    | with_reducible refine completeOne_keeps ?_ ..
    | with_reducible refine freeQueue_keeps ?_ ..
    | with_reducible refine modQueue_keeps ?_ ..
    | split
    | simp only [Keeps.put_iff]

theorem settle_keeps {a s : State} (h : Keeps a s) (a_1 : Nat) :
    Keeps a (settle s a_1) := by
  unfold settle
  repeat' first
    | dsimp only
    | with_reducible exact k
    | with_reducible exact h
    | with_reducible refine endDisable_keeps ?_ ..
    | with_reducible refine settle_keeps ?_ ..
    | split
    | simp only [Keeps.put_iff]

theorem complete_keeps {a s : State} (h : Keeps a s) (uid : Nat) (st : Status) (attempts : Nat) (r0 : Nat) (r1 : Nat) (r2 : Nat) (r3 : Nat) :
    Keeps a (complete s uid st attempts r0 r1 r2 r3) := by
  unfold complete
  repeat' first
    | dsimp only
    | with_reducible exact k
    | with_reducible exact h
    | with_reducible refine completeOne_keeps ?_ ..
    | with_reducible refine settle_keeps ?_ ..
    | split
    | simp only [Keeps.put_iff]

theorem finish_keeps {a s : State} (h : Keeps a s) (uid : Nat) (st : Status) (r0 : Nat) (r1 : Nat) (r2 : Nat) (r3 : Nat) :
    Keeps a (finish s uid st r0 r1 r2 r3) := by
  unfold finish
  repeat' first
    | dsimp only
    | with_reducible exact k
    | with_reducible exact h
    | with_reducible refine complete_keeps ?_ ..
    | split
    | simp only [Keeps.put_iff]

theorem refuse_keeps {a s : State} (h : Keeps a s) (uid : Nat) (st : Status) :
    Keeps a (refuse s uid st) := by
  unfold refuse
  repeat' first
    | dsimp only
    | with_reducible exact k
    | with_reducible exact h
    | with_reducible refine complete_keeps ?_ ..
    | split
    | simp only [Keeps.put_iff]

theorem stopCmd_keeps {a s : State} (h : Keeps a s) (c : Cmd) (st : Status) :
    Keeps a (stopCmd s c st) := by
  unfold stopCmd
  repeat' first
    | dsimp only
    | with_reducible exact k
    | with_reducible exact h
    | with_reducible refine finish_keeps ?_ ..
    | with_reducible refine refuse_keeps ?_ ..
    | split
    | simp only [Keeps.put_iff]

theorem startAs_keeps {a s : State} (h : Keeps a s) (q : Nat) (mine : Cmd → Bool) (run : Cmd → State → State) (hrun : ∀ y0 y1, Keeps a y1 → Keeps a (run y0 y1)) :
    Keeps a (startAs s q mine run) := by
  unfold startAs
  repeat' first
    | dsimp only
    | with_reducible exact k
    | with_reducible exact h
    | with_reducible refine modCmd_keeps ?_ ..
    | with_reducible refine hrun _ _ ?_
    | split
    | simp only [Keeps.put_iff]

theorem checked_keeps {a s : State} (h : Keeps a s) (c : Cmd) (checks : List (Bool × Status)) (act : State → State) (hact : ∀ y0, Keeps a y0 → Keeps a (act y0)) :
    Keeps a (checked c checks act s) := by
  unfold checked
  repeat' first
    | dsimp only
    | with_reducible exact k
    | with_reducible exact h
    | with_reducible refine refuse_keeps ?_ ..
    | with_reducible refine hact _ ?_
    | split
    | simp only [Keeps.put_iff]

theorem faultLogCopy_keeps {a s : State} (h : Keeps a s) (c : Cmd) :
    Keeps a (faultLogCopy s c) := by
  unfold faultLogCopy
  repeat' first
    | dsimp only
    | with_reducible exact k
    | with_reducible exact h
    | with_reducible refine finish_keeps ?_ ..
    | with_reducible refine ldWrite_keeps ?_ ..
    | with_reducible refine modHost_keeps ?_ ..
    | with_reducible refine refuse_keeps ?_ ..
    | split
    | simp only [Keeps.put_iff]

theorem wakeFaultReads_keeps {a s : State} (h : Keeps a s)  :
    Keeps a (wakeFaultReads s) := by
  unfold wakeFaultReads
  repeat' first
    | dsimp only
    | with_reducible exact k
    | with_reducible exact h
    | with_reducible refine each_keeps (fun _ _ k => ?_) _ ?_
    | with_reducible refine faultLogCopy_keeps ?_ ..
    | split
    | simp only [Keeps.put_iff]

theorem raiseCause_keeps {a s : State} (h : Keeps a s) (b : Nat) :
    Keeps a (raiseCause s b) := by
  unfold raiseCause
  repeat' first
    | dsimp only
    | with_reducible exact k
    | with_reducible exact h
    | split
    | simp only [Keeps.put_iff]

theorem noteSpares_keeps {a s : State} (h : Keeps a s) (t : Nat) :
    Keeps a (noteSpares s t) := by
  unfold noteSpares
  repeat' first
    | dsimp only
    | with_reducible exact k
    | with_reducible exact h
    | with_reducible refine raiseCause_keeps ?_ ..
    | split
    | simp only [Keeps.put_iff]

theorem addFault_keeps {a s : State} (h : Keeps a s) (r : FaultRec) :
    Keeps a (addFault s r) := by
  unfold addFault
  repeat' first
    | dsimp only
    | with_reducible exact k
    | with_reducible exact h
    | with_reducible refine each_keeps (fun _ _ k => ?_) _ ?_
    | with_reducible refine modHost_keeps ?_ ..
    | with_reducible refine wakeFaultReads_keeps ?_ ..
    | split
    | simp only [Keeps.put_iff]

theorem addLasting_keeps {a s : State} (h : Keeps a s) (r : FaultRec) (unit : Option Nat) :
    Keeps a (addLasting s r unit) := by
  unfold addLasting
  repeat' first
    | dsimp only
    | with_reducible exact k
    | with_reducible exact h
    | with_reducible refine addFault_keeps ?_ ..
    | with_reducible refine addProv_keeps ?_ ..
    | with_reducible refine modTransient_keeps ?_ ..
    | split
    | simp only [Keeps.put_iff]

theorem katFail_keeps {a s : State} (h : Keeps a s) (p : Nat) (word : Option Nat) :
    Keeps a (katFail s p word) := by
  unfold katFail
  repeat' first
    | dsimp only
    | with_reducible exact k
    | with_reducible exact h
    | with_reducible refine addLasting_keeps ?_ ..
    | with_reducible refine bumpFresh_keeps ?_ ..
    | split
    | simp only [Keeps.put_iff]

theorem katAgain_keeps {a s : State} (h : Keeps a s) (p : Nat) :
    Keeps a (katAgain s p) := by
  unfold katAgain
  repeat' first
    | dsimp only
    | with_reducible exact k
    | with_reducible exact h
    | with_reducible refine modTransient_keeps ?_ ..
    | split
    | simp only [Keeps.put_iff]

theorem modTask_keeps {a s : State} (h : Keeps a s) (p : Nat) (id : Nat) (f : Task → Task) :
    Keeps a (modTask s p id f) := by
  unfold modTask
  repeat' first
    | dsimp only
    | with_reducible exact k
    | with_reducible exact h
    | with_reducible refine modCore_keeps ?_ ..
    | split
    | simp only [Keeps.put_iff]

theorem finishTask_keeps {a s : State} (h : Keeps a s) (p : Nat) (id : Nat) (st : Status) (af : AFlags) :
    Keeps a (finishTask s p id st af) := by
  unfold finishTask
  repeat' first
    | dsimp only
    | with_reducible exact k
    | with_reducible exact h
    | with_reducible refine modTask_keeps ?_ ..
    | split
    | simp only [Keeps.put_iff]

theorem finishOk_keeps {a s : State} (h : Keeps a s) (p : Nat) (id : Nat) (af : AFlags) (stream : List Byte) :
    Keeps a (finishOk s p id af stream) := by
  unfold finishOk
  repeat' first
    | dsimp only
    | with_reducible exact k
    | with_reducible exact h
    | with_reducible refine modTask_keeps ?_ ..
    | split
    | simp only [Keeps.put_iff]

theorem issueAs_keeps {a s : State} (h : Keeps a s) (p : Nat) (op : Nat) (isRoot : Core → Desc → Bool) (more : Core → Desc → Option Status) (unit : State → Task → State) (hunit : ∀ y0 y1, Keeps a y0 → Keeps a (unit y0 y1)) :
    Keeps a (issueAs s p op isRoot more unit) := by
  unfold issueAs
  repeat' first
    | dsimp only
    | with_reducible exact k
    | with_reducible exact h
    | with_reducible refine finishTask_keeps ?_ ..
    | with_reducible refine modTask_keeps ?_ ..
    | with_reducible refine modTransient_keeps ?_ ..
    | with_reducible refine setCore_keeps ?_ ..
    | with_reducible refine hunit _ _ ?_
    | split
    | simp only [Keeps.put_iff]

theorem endAborts_keeps {a s : State} (h : Keeps a s) (uid : Nat) (st : Status) :
    Keeps a (endAborts s uid st) := by
  unfold endAborts
  repeat' first
    | dsimp only
    | with_reducible exact k
    | with_reducible exact h
    | with_reducible refine each_keeps (fun _ _ k => ?_) _ ?_
    | with_reducible refine refuse_keeps ?_ ..
    | split
    | simp only [Keeps.put_iff]

theorem settleRuns_keeps {a s : State} (h : Keeps a s)  :
    Keeps a (settleRuns s) := by
  unfold settleRuns
  repeat' first
    | dsimp only
    | with_reducible exact k
    | with_reducible exact h
    | with_reducible refine each_keeps (fun _ _ k => ?_) _ ?_
    | with_reducible refine complete_keeps ?_ ..
    | with_reducible refine endAborts_keeps ?_ ..
    | split
    | simp only [Keeps.put_iff]

theorem endFeeds_keeps {a s : State} (h : Keeps a s)  :
    Keeps a (endFeeds s) := by
  unfold endFeeds
  repeat' first
    | dsimp only
    | with_reducible exact k
    | with_reducible exact h
    | with_reducible refine each_keeps (fun _ _ k => ?_) _ ?_
    | with_reducible refine finish_keeps ?_ ..
    | split
    | simp only [Keeps.put_iff]

theorem feedEnded_keeps {a s : State} (h : Keeps a s) (gone : Nat × Nat → Bool) (done : Bool) :
    Keeps a (feedEnded s gone done) := by
  unfold feedEnded
  extract_lets upd
  exact endFeeds_keeps (h.others _ fun c => by
    show (upd c).uid = c.uid
    unfold upd; split <;> rfl) ..

theorem coreDone_keeps {a s : State} (h : Keeps a s) (p : Nat) (aborted : Bool) :
    Keeps a (coreDone s p aborted) := by
  unfold coreDone
  repeat' first
    | dsimp only
    | with_reducible exact k
    | with_reducible exact h
    | with_reducible refine feedEnded_keeps ?_ ..
    | with_reducible refine modCore_keeps ?_ ..
    | with_reducible refine setCore_keeps ?_ ..
    | with_reducible refine settleRuns_keeps ?_ ..
    | split
    | simp only [Keeps.put_iff]

theorem commitTask_keeps {a s : State} (h : Keeps a s) (p : Nat) (t : Task) :
    Keeps a (commitTask s p t) := by
  unfold commitTask
  repeat' first
    | dsimp only
    | with_reducible exact k
    | with_reducible exact h
    | with_reducible refine coreDone_keeps ?_ ..
    | with_reducible refine modTransient_keeps ?_ ..
    | with_reducible refine sampleBarrier_keeps ?_ ..
    | with_reducible refine setCore_keeps ?_ ..
    | split
    | simp only [Keeps.put_iff]

theorem hostLoad_keeps {a s : State} (h : Keeps a s) (h_1 : Nat) (hart : Nat) (data : Option (BitVec 512)) :
    Keeps a (hostLoad s h_1 hart data) := by
  unfold hostLoad
  repeat' first
    | dsimp only
    | with_reducible exact k
    | with_reducible exact h
    | split
    | simp only [Keeps.put_iff]

theorem unpopStore_keeps {a s : State} (h : Keeps a s) (h_1 : Nat) (hart : Nat) (addr : Nat) :
    Keeps a (unpopStore s h_1 hart addr) := by
  unfold unpopStore
  repeat' first
    | dsimp only
    | with_reducible exact k
    | with_reducible exact h
    | with_reducible refine modHost_keeps ?_ ..
    | split
    | simp only [Keeps.put_iff]

theorem fetchFails_keeps {a s : State} (h : Keeps a s) (p : Nat) (st : Status) :
    Keeps a (fetchFails s p st) := by
  unfold fetchFails
  repeat' first
    | dsimp only
    | with_reducible exact k
    | with_reducible exact h
    | with_reducible refine modCore_keeps ?_ ..
    | split
    | simp only [Keeps.put_iff]

theorem endAsker_keeps {a s : State} (h : Keeps a s) (who : Asker) (st : Status) :
    Keeps a (endAsker s who st) := by
  unfold endAsker
  repeat' first
    | dsimp only
    | with_reducible exact k
    | with_reducible exact h
    | with_reducible refine fetchFails_keeps ?_ ..
    | with_reducible refine finishTask_keeps ?_ ..
    | with_reducible refine hostLoad_keeps ?_ ..
    | split
    | simp only [Keeps.put_iff]

theorem countDrop_keeps {a s : State} (h : Keeps a s) (t : Nat) (f : NiDrop → NiDrop) :
    Keeps a (countDrop s t f) := by
  unfold countDrop
  repeat' first
    | dsimp only
    | with_reducible exact k
    | with_reducible exact h
    | with_reducible refine modTile_keeps ?_ ..
    | split
    | simp only [Keeps.put_iff]

theorem noteVc0_keeps {a s : State} (h : Keeps a s) (k : Packet) :
    Keeps a (noteVc0 s k) := by
  unfold noteVc0
  repeat' first
    | dsimp only
    | with_reducible exact k
    | with_reducible exact h
    | with_reducible refine countDrop_keeps ?_ ..
    | split
    | simp only [Keeps.put_iff]

theorem launch_keeps {a s : State} (h : Keeps a s) (k : Packet) :
    Keeps a (launch s k) := by
  unfold launch
  repeat' first
    | dsimp only
    | with_reducible exact k
    | with_reducible exact h
    | with_reducible refine endAsker_keeps ?_ ..
    | with_reducible refine noteVc0_keeps ?_ ..
    | split
    | simp only [Keeps.put_iff]

theorem enqueue_keeps {a s : State} (h : Keeps a s) (k : Packet) :
    Keeps a (enqueue s k) := by
  unfold enqueue
  repeat' first
    | dsimp only
    | with_reducible exact k
    | with_reducible exact h
    | with_reducible refine launch_keeps ?_ ..
    | split
    | simp only [Keeps.put_iff]

theorem inject_keeps {a s : State} (h : Keeps a s) (part : Nat) (vc : Nat) (kind : Nat) (sunit : Nat) (src : Nat) (dunit : Nat) (dst : Nat) (bytes : Nat) (urg : Bool) (tag : Nat) (body : Body) :
    Keeps a (inject s part vc kind sunit src dunit dst bytes urg tag body) := by
  unfold inject
  repeat' first
    | dsimp only
    | with_reducible exact k
    | with_reducible exact h
    | with_reducible refine enqueue_keeps ?_ ..
    | split
    | simp only [Keeps.put_iff]

theorem reply_keeps {a s : State} (h : Keeps a s) (k : Packet) (kind : Nat) (bytes : Nat) (body : Body) :
    Keeps a (reply s k kind bytes body) := by
  unfold reply
  repeat' first
    | dsimp only
    | with_reducible exact k
    | with_reducible exact h
    | with_reducible refine enqueue_keeps ?_ ..
    | split
    | simp only [Keeps.put_iff]

theorem dropPacket_keeps {a s : State} (h : Keeps a s) (id : Nat) :
    Keeps a (dropPacket s id) := by
  unfold dropPacket
  repeat' first
    | dsimp only
    | with_reducible exact k
    | with_reducible exact h
    | split
    | simp only [Keeps.put_iff]

theorem injectHeld_keeps {a s : State} (h : Keeps a s) (id : Nat) :
    Keeps a (injectHeld s id) := by
  unfold injectHeld
  repeat' first
    | dsimp only
    | with_reducible exact k
    | with_reducible exact h
    | with_reducible refine dropPacket_keeps ?_ ..
    | with_reducible refine launch_keeps ?_ ..
    | split
    | simp only [Keeps.put_iff]

theorem modTx_keeps {a s : State} (h : Keeps a s) (k : FlowKey) (f : TxFlow → TxFlow) :
    Keeps a (modTx s k f) := by
  unfold modTx
  repeat' first
    | dsimp only
    | with_reducible exact k
    | with_reducible exact h
    | split
    | simp only [Keeps.put_iff]

theorem sendLast_keeps {a s : State} (h : Keeps a s) (k : FlowKey) :
    Keeps a (sendLast s k) := by
  unfold sendLast
  repeat' first
    | dsimp only
    | with_reducible exact k
    | with_reducible exact h
    | with_reducible refine transmit_keeps ?_ ..
    | split
    | simp only [Keeps.put_iff]

theorem pushTx_keeps {a s : State} (h : Keeps a s) (k : FlowKey) (f : TxFlow → TxFlow) :
    Keeps a (pushTx s k f) := by
  unfold pushTx
  repeat' first
    | dsimp only
    | with_reducible exact k
    | with_reducible exact h
    | with_reducible refine modTx_keeps ?_ ..
    | with_reducible refine sendLast_keeps ?_ ..
    | split
    | simp only [Keeps.put_iff]

theorem sendFrame_keeps {a s : State} (h : Keeps a s) (f : Frame) (who : Asker) :
    Keeps a (sendFrame s f who) := by
  unfold sendFrame
  repeat' first
    | dsimp only
    | with_reducible exact k
    | with_reducible exact h
    | with_reducible refine endAsker_keeps ?_ ..
    | with_reducible refine pushTx_keeps ?_ ..
    | split
    | simp only [Keeps.put_iff]

theorem toPort_keeps {a s : State} (h : Keeps a s) (p : Nat) (f : Frame) (who : Asker) (urg : Bool) :
    Keeps a (toPort s p f who urg) := by
  unfold toPort
  repeat' first
    | dsimp only
    | with_reducible exact k
    | with_reducible exact h
    | with_reducible refine endAsker_keeps ?_ ..
    | with_reducible refine inject_keeps ?_ ..
    | split
    | simp only [Keeps.put_iff]

theorem sendReq_keeps {a s : State} (h : Keeps a s) (p : Nat) (peer : Nat) (vc : Nat) (kind : Nat) (bytes : Nat) (task : Nat × Nat) (body : Body) :
    Keeps a (sendReq s p peer vc kind bytes task body) := by
  unfold sendReq
  repeat' first
    | dsimp only
    | with_reducible exact k
    | with_reducible exact h
    | with_reducible refine inject_keeps ?_ ..
    | with_reducible refine toPort_keeps ?_ ..
    | split
    | simp only [Keeps.put_iff]

theorem sendReply_keeps {a s : State} (h : Keeps a s) (p : Nat) (peer : Nat × Nat) (kind : Nat) (bytes : Nat) (urg : Bool) (body : Body) :
    Keeps a (sendReply s p peer kind bytes urg body) := by
  unfold sendReply
  repeat' first
    | dsimp only
    | with_reducible exact k
    | with_reducible exact h
    | with_reducible refine inject_keeps ?_ ..
    | with_reducible refine toPort_keeps ?_ ..
    | split
    | simp only [Keeps.put_iff]

theorem nackPacket_keeps {a s : State} (h : Keeps a s) (k : Packet) (st : Status) :
    Keeps a (nackPacket s k st) := by
  unfold nackPacket
  repeat' first
    | dsimp only
    | with_reducible exact k
    | with_reducible exact h
    | with_reducible refine reply_keeps ?_ ..
    | with_reducible refine sendReply_keeps ?_ ..
    | split
    | simp only [Keeps.put_iff]

theorem addReq_keeps {a s : State} (h : Keeps a s) (who : Asker) (packets : List Packet) (frames : List Frame) :
    Keeps a (addReq s who packets frames) := by
  unfold addReq
  repeat' first
    | dsimp only
    | with_reducible exact k
    | with_reducible exact h
    | split
    | simp only [Keeps.put_iff]

theorem dropReqs_keeps {a s : State} (h : Keeps a s) (who : Asker) :
    Keeps a (dropReqs s who) := by
  unfold dropReqs
  repeat' first
    | dsimp only
    | with_reducible exact k
    | with_reducible exact h
    | split
    | simp only [Keeps.put_iff]

theorem endReqs_keeps {a s : State} (h : Keeps a s) (who : Asker) :
    Keeps a (endReqs s who) := by
  unfold endReqs
  repeat' first
    | dsimp only
    | with_reducible exact k
    | with_reducible exact h
    | with_reducible refine dropReqs_keeps ?_ ..
    | with_reducible refine modTask_keeps ?_ ..
    | with_reducible refine modTransient_keeps ?_ ..
    | split
    | simp only [Keeps.put_iff]

theorem ask_keeps {a s : State} (h : Keeps a s) (who : Asker) (part : Nat) (vc : Nat) (kind : Nat) (sunit : Nat) (src : Nat) (dunit : Nat) (dst : Nat) (bytes : Nat) (tag : Nat) (body : Body) :
    Keeps a (ask s who part vc kind sunit src dunit dst bytes tag body) := by
  unfold ask
  repeat' first
    | dsimp only
    | with_reducible exact k
    | with_reducible exact h
    | with_reducible refine addReq_keeps ?_ ..
    | with_reducible refine inject_keeps ?_ ..
    | split
    | simp only [Keeps.put_iff]

theorem releaseHeld_keeps {a s : State} (h : Keeps a s)  :
    Keeps a (releaseHeld s) := by
  unfold releaseHeld
  repeat' first
    | dsimp only
    | with_reducible exact k
    | with_reducible exact h
    | with_reducible refine each_keeps (fun _ _ k => ?_) _ ?_
    | with_reducible refine injectHeld_keeps ?_ ..
    | split
    | simp only [Keeps.put_iff]

theorem modWin_keeps {a s : State} (h : Keeps a s) (l : Nat) (slot : Nat) (f : Win → Win) :
    Keeps a (modWin s l slot f) := by
  unfold modWin
  repeat' first
    | dsimp only
    | with_reducible exact k
    | with_reducible exact h
    | with_reducible refine modWins_keeps ?_ ..
    | split
    | simp only [Keeps.put_iff]

theorem putAck_keeps {a s : State} (h : Keeps a s) (l : Nat) (sender : Nat × Nat) (srank : Nat) (urg : Bool) (st : Status) :
    Keeps a (putAck s l sender srank urg st) := by
  unfold putAck
  repeat' first
    | dsimp only
    | with_reducible exact k
    | with_reducible exact h
    | with_reducible refine sendReply_keeps ?_ ..
    | split
    | simp only [Keeps.put_iff]

theorem cutSlot_keeps {a s : State} (h : Keeps a s) (l : Nat) (slot : Nat) (st : Status) :
    Keeps a (cutSlot s l slot st) := by
  unfold cutSlot
  repeat' first
    | dsimp only
    | with_reducible exact k
    | with_reducible exact h
    | with_reducible refine each_keeps (fun _ _ k => ?_) _ ?_
    | with_reducible refine modWins_keeps ?_ ..
    | with_reducible refine putAck_keeps ?_ ..
    | split
    | simp only [Keeps.put_iff]

theorem met_keeps {a s : State} (h : Keeps a s) (p : Nat) (id : Nat) :
    Keeps a (met s p id) := by
  unfold met
  repeat' first
    | dsimp only
    | with_reducible exact k
    | with_reducible exact h
    | with_reducible refine modTask_keeps ?_ ..
    | with_reducible refine modTransient_keeps ?_ ..
    | split
    | simp only [Keeps.put_iff]

theorem serveWaits_keeps {a s : State} (h : Keeps a s) (l : Nat) (slot : Nat) :
    Keeps a (serveWaits s l slot) := by
  unfold serveWaits
  repeat' first
    | dsimp only
    | with_reducible exact k
    | with_reducible exact h
    | with_reducible refine foldl_fst_keeps (fun _ _ k => ?_) _ ?_
    | with_reducible refine foldl_keeps (fun _ _ k => ?_) _ ?_
    | with_reducible refine finishOk_keeps ?_ ..
    | with_reducible refine met_keeps ?_ ..
    | with_reducible refine modWin_keeps ?_ ..
    | split
    | simp only [Keeps.put_iff]

theorem advanceGen_keeps {a s : State} (h : Keeps a s) (l : Nat) (slot : Nat) :
    Keeps a (advanceGen s l slot) := by
  unfold advanceGen
  repeat' first
    | dsimp only
    | with_reducible exact k
    | with_reducible exact h
    | with_reducible refine each_keeps (fun _ _ k => ?_) _ ?_
    | with_reducible refine finish_keeps ?_ ..
    | with_reducible refine finishTask_keeps ?_ ..
    | with_reducible refine modWin_keeps ?_ ..
    | split
    | simp only [Keeps.put_iff]

theorem tryAdvance_keeps {a s : State} (h : Keeps a s) (l : Nat) (slot : Nat) :
    Keeps a (tryAdvance s l slot) := by
  unfold tryAdvance
  repeat' first
    | dsimp only
    | with_reducible exact k
    | with_reducible exact h
    | with_reducible refine advanceGen_keeps ?_ ..
    | with_reducible refine modWin_keeps ?_ ..
    | split
    | simp only [Keeps.put_iff]

theorem closeAll_keeps {a s : State} (h : Keeps a s) (l : Nat) (st : Status) :
    Keeps a (closeAll s l st) := by
  unfold closeAll
  repeat' first
    | dsimp only
    | with_reducible exact k
    | with_reducible exact h
    | with_reducible refine each_keeps (fun _ _ k => ?_) _ ?_
    | with_reducible refine cutSlot_keeps ?_ ..
    | with_reducible refine modWin_keeps ?_ ..
    | with_reducible refine tryAdvance_keeps ?_ ..
    | split
    | simp only [Keeps.put_iff]

theorem modGroup_keeps {a s : State} (h : Keeps a s) (key : Nat) (f : Group → Group) :
    Keeps a (modGroup s key f) := by
  unfold modGroup
  repeat' first
    | dsimp only
    | with_reducible exact k
    | with_reducible exact h
    | split
    | simp only [Keeps.put_iff]

theorem dropGroups_keeps {a s : State} (h : Keeps a s) (p : Nat → Bool) :
    Keeps a (dropGroups s p) := by
  unfold dropGroups
  repeat' first
    | dsimp only
    | with_reducible exact k
    | with_reducible exact h
    | split
    | simp only [Keeps.put_iff]

theorem requestStep_keeps {a s : State} (h : Keeps a s) (p : Nat) (st : Nat) :
    Keeps a (requestStep s p st) := by
  unfold requestStep
  repeat' first
    | dsimp only
    | with_reducible exact k
    | with_reducible exact h
    | with_reducible refine modCore_keeps ?_ ..
    | split
    | simp only [Keeps.put_iff]

theorem stepFinish_keeps {a s : State} (h : Keeps a s) (uid : Nat) (n : Nat) (w0 : Nat) (replaced : Bool) :
    Keeps a (stepFinish s uid n w0 replaced) := by
  unfold stepFinish
  repeat' first
    | dsimp only
    | with_reducible exact k
    | with_reducible exact h
    | with_reducible refine finish_keeps ?_ ..
    | split
    | simp only [Keeps.put_iff]

theorem endStepSets_keeps {a s : State} (h : Keeps a s) (n : Nat) (replaced : Bool) :
    Keeps a (endStepSets s n replaced) := by
  unfold endStepSets
  repeat' first
    | dsimp only
    | with_reducible exact k
    | with_reducible exact h
    | with_reducible refine each_keeps (fun _ _ k => ?_) _ ?_
    | with_reducible refine stepFinish_keeps ?_ ..
    | split
    | simp only [Keeps.put_iff]

theorem settleSteps_keeps {a s : State} (h : Keeps a s) (n : Nat) :
    Keeps a (settleSteps s n) := by
  unfold settleSteps
  repeat' first
    | dsimp only
    | with_reducible exact k
    | with_reducible exact h
    | with_reducible refine endStepSets_keeps ?_ ..
    | split
    | simp only [Keeps.put_iff]

theorem retarget_keeps {a s : State} (h : Keeps a s) (p : Nat) :
    Keeps a (retarget s p) := by
  unfold retarget
  repeat' first
    | dsimp only
    | with_reducible exact k
    | with_reducible exact h
    | with_reducible refine foldl_fst_keeps (fun _ _ k => ?_) _ ?_
    | with_reducible refine foldl_keeps (fun _ _ k => ?_) _ ?_
    | with_reducible refine modClk_keeps ?_ ..
    | with_reducible refine requestStep_keeps ?_ ..
    | split
    | simp only [Keeps.put_iff]

theorem retargetPart_keeps {a s : State} (h : Keeps a s) (n : Nat) :
    Keeps a (retargetPart s n) := by
  unfold retargetPart
  repeat' first
    | dsimp only
    | with_reducible exact k
    | with_reducible exact h
    | with_reducible refine each_keeps (fun _ _ k => ?_) _ ?_
    | with_reducible refine retarget_keeps ?_ ..
    | with_reducible refine settleSteps_keeps ?_ ..
    | split
    | simp only [Keeps.put_iff]

theorem signBoot_keeps {a s : State} (h : Keeps a s)  :
    Keeps a (signBoot s) := by
  unfold signBoot
  repeat' first
    | dsimp only
    | with_reducible exact k
    | with_reducible exact h
    | split
    | simp only [Keeps.put_iff]

theorem scramble_keeps {a s : State} (h : Keeps a s) (p : Nat) (r : Region) :
    Keeps a (scramble s p r) := by
  unfold scramble
  repeat' first
    | dsimp only
    | with_reducible exact k
    | with_reducible exact h
    | with_reducible refine bumpFresh_keeps ?_ ..
    | with_reducible refine modCore_keeps ?_ ..
    | split
    | simp only [Keeps.put_iff]

theorem scrambleOut_keeps {a s : State} (h : Keeps a s) (t : Task) :
    Keeps a (scrambleOut s t) := by
  unfold scrambleOut
  repeat' first
    | dsimp only
    | with_reducible exact k
    | with_reducible exact h
    | with_reducible refine each_keeps (fun _ _ k => ?_) _ ?_
    | with_reducible refine bumpFresh_keeps ?_ ..
    | with_reducible refine ldWrite_keeps ?_ ..
    | split
    | simp only [Keeps.put_iff]

theorem dropCollectives_keeps {a s : State} (h : Keeps a s) (key : Nat) :
    Keeps a (dropCollectives s key) := by
  unfold dropCollectives
  repeat' first
    | dsimp only
    | with_reducible exact k
    | with_reducible exact h
    | split
    | simp only [Keeps.put_iff]

theorem leaveColl_keeps {a s : State} (h : Keeps a s) (t : Task) :
    Keeps a (leaveColl s t) := by
  unfold leaveColl
  repeat' first
    | dsimp only
    | with_reducible exact k
    | with_reducible exact h
    | with_reducible refine modGroup_keeps ?_ ..
    | split
    | simp only [Keeps.put_iff]

theorem cancelNet_keeps {a s : State} (h : Keeps a s) (p : Nat) :
    Keeps a (cancelNet s p) := by
  unfold cancelNet
  repeat' first
    | dsimp only
    | with_reducible exact k
    | with_reducible exact h
    | split
    | simp only [Keeps.put_iff]

theorem abortCore_keeps {a s : State} (h : Keeps a s) (p : Nat) :
    Keeps a (abortCore s p) := by
  unfold abortCore
  repeat' first
    | dsimp only
    | with_reducible exact k
    | with_reducible exact h
    | with_reducible refine foldl_fst_keeps (fun _ _ k => ?_) _ ?_
    | with_reducible refine foldl_keeps (fun _ _ k => ?_) _ ?_
    | with_reducible refine each_keeps (fun _ _ k => ?_) _ ?_
    | with_reducible refine cancelNet_keeps ?_ ..
    | with_reducible refine coreDone_keeps ?_ ..
    | with_reducible refine dropCollectives_keeps ?_ ..
    | with_reducible refine leaveColl_keeps ?_ ..
    | with_reducible refine scramble_keeps ?_ ..
    | with_reducible refine scrambleOut_keeps ?_ ..
    | with_reducible refine setCore_keeps ?_ ..
    | split
    | simp only [Keeps.put_iff]

theorem failCmds_keeps {a s : State} (h : Keeps a s) (n : Nat) (st : Status) :
    Keeps a (failCmds s n st) := by
  unfold failCmds
  repeat' first
    | dsimp only
    | with_reducible exact k
    | with_reducible exact h
    | with_reducible refine each_keeps (fun _ _ k => ?_) _ ?_
    | with_reducible refine stopCmd_keeps ?_ ..
    | split
    | simp only [Keeps.put_iff]

theorem failRuns_keeps {a s : State} (h : Keeps a s) (n : Nat) (st : Status) :
    Keeps a (failRuns s n st) := by
  unfold failRuns
  repeat' first
    | dsimp only
    | with_reducible exact k
    | with_reducible exact h
    | with_reducible refine each_keeps (fun _ _ k => ?_) _ ?_
    | with_reducible refine abortCore_keeps ?_ ..
    | with_reducible refine modCore_keeps ?_ ..
    | with_reducible refine refuse_keeps ?_ ..
    | split
    | simp only [Keeps.put_iff]

theorem tellSender_keeps {a s : State} (h : Keeps a s) (p : Nat) (x : Nat × Nat) (st : Status) :
    Keeps a (tellSender s p x st) := by
  unfold tellSender
  repeat' first
    | dsimp only
    | with_reducible exact k
    | with_reducible exact h
    | with_reducible refine nackPacket_keeps ?_ ..
    | split
    | simp only [Keeps.put_iff]

theorem tellOutside_keeps {a s : State} (h : Keeps a s) (n : Nat) (st : Status) :
    Keeps a (tellOutside s n st) := by
  unfold tellOutside
  repeat' first
    | dsimp only
    | with_reducible exact k
    | with_reducible exact h
    | with_reducible refine each_keeps (fun _ _ k => ?_) _ ?_
    | with_reducible refine tellSender_keeps ?_ ..
    | split
    | simp only [Keeps.put_iff]

theorem dropDelivered_keeps {a s : State} (h : Keeps a s) (n : Nat) (st : Status) :
    Keeps a (dropDelivered s n st) := by
  unfold dropDelivered
  repeat' first
    | dsimp only
    | with_reducible exact k
    | with_reducible exact h
    | with_reducible refine each_keeps (fun _ _ k => ?_) _ ?_
    | with_reducible refine nackPacket_keeps ?_ ..
    | split
    | simp only [Keeps.put_iff]

theorem clearPart_keeps {a s : State} (h : Keeps a s) (n : Nat) (st : Status) (lost : List Nat) :
    Keeps a (clearPart s n st lost) := by
  unfold clearPart
  repeat' first
    | dsimp only
    | with_reducible exact k
    | with_reducible exact h
    | with_reducible refine each_keeps (fun _ _ k => ?_) _ ?_
    | with_reducible refine closeAll_keeps ?_ ..
    | with_reducible refine dropDelivered_keeps ?_ ..
    | with_reducible refine dropGroups_keeps ?_ ..
    | with_reducible refine failCmds_keeps ?_ ..
    | with_reducible refine failRuns_keeps ?_ ..
    | with_reducible refine flushPart_keeps ?_ ..
    | with_reducible refine freshCoreMons_keeps ?_ ..
    | with_reducible refine modClk_keeps ?_ ..
    | with_reducible refine modCore_keeps ?_ ..
    | with_reducible refine modPart_keeps ?_ ..
    | with_reducible refine tellOutside_keeps ?_ ..
    | split
    | simp only [Keeps.put_iff]

theorem emptyCore_keeps {a s : State} (h : Keeps a s) (p : Nat) :
    Keeps a (emptyCore s p) := by
  unfold emptyCore
  repeat' first
    | dsimp only
    | with_reducible exact k
    | with_reducible exact h
    | with_reducible refine modCore_keeps ?_ ..
    | split
    | simp only [Keeps.put_iff]

theorem abandonSwaps_keeps {a s : State} (h : Keeps a s) (n : Nat) :
    Keeps a (abandonSwaps s n) := by
  unfold abandonSwaps
  repeat' first
    | dsimp only
    | with_reducible exact k
    | with_reducible exact h
    | with_reducible refine each_keeps (fun _ _ k => ?_) _ ?_
    | with_reducible refine emptyCore_keeps ?_ ..
    | with_reducible refine modPart_keeps ?_ ..
    | with_reducible refine setPstate_keeps ?_ ..
    | split
    | simp only [Keeps.put_iff]

theorem dropCore_keeps {a s : State} (h : Keeps a s) (p : Nat) :
    Keeps a (dropCore s p) := by
  unfold dropCore
  repeat' first
    | dsimp only
    | with_reducible exact k
    | with_reducible exact h
    | with_reducible refine emptyCore_keeps ?_ ..
    | with_reducible refine setPstate_keeps ?_ ..
    | split
    | simp only [Keeps.put_iff]

theorem retireAs_keeps {a s : State} (h : Keeps a s) (p : Nat) (l : Nat) :
    Keeps a (retireAs s p l) := by
  unfold retireAs
  repeat' first
    | dsimp only
    | with_reducible exact k
    | with_reducible exact h
    | with_reducible refine addProv_keeps ?_ ..
    | with_reducible refine dropCore_keeps ?_ ..
    | with_reducible refine noteSpares_keeps ?_ ..
    | split
    | simp only [Keeps.put_iff]

theorem retireCore_keeps {a s : State} (h : Keeps a s) (p : Nat) :
    Keeps a (retireCore s p) := by
  unfold retireCore
  repeat' first
    | dsimp only
    | with_reducible exact k
    | with_reducible exact h
    | with_reducible refine retireAs_keeps ?_ ..
    | split
    | simp only [Keeps.put_iff]

theorem retireStack_keeps {a s : State} (h : Keeps a s) (k : Nat) :
    Keeps a (retireStack s k) := by
  unfold retireStack
  repeat' first
    | dsimp only
    | with_reducible exact k
    | with_reducible exact h
    | with_reducible refine each_keeps (fun _ _ k => ?_) _ ?_
    | with_reducible refine addProv_keeps ?_ ..
    | with_reducible refine dropCore_keeps ?_ ..
    | with_reducible refine noteSpares_keeps ?_ ..
    | split
    | simp only [Keeps.put_iff]

theorem stageSpares_keeps {a s : State} (h : Keeps a s) (n : Nat) :
    Keeps a (stageSpares s n).1 := by
  unfold stageSpares
  repeat' first
    | dsimp only
    | with_reducible exact k
    | with_reducible exact h
    | with_reducible refine foldl_fst_keeps (fun _ _ k => ?_) _ ?_
    | with_reducible refine foldl_keeps (fun _ _ k => ?_) _ ?_
    | with_reducible refine modPart_keeps ?_ ..
    | with_reducible refine noteSpares_keeps ?_ ..
    | with_reducible refine setPstate_keeps ?_ ..
    | split
    | simp only [Keeps.put_iff]

theorem endResetCmds_keeps {a s : State} (h : Keeps a s) (n : Nat) :
    Keeps a (endResetCmds s n) := by
  unfold endResetCmds
  repeat' first
    | dsimp only
    | with_reducible exact k
    | with_reducible exact h
    | with_reducible refine each_keeps (fun _ _ k => ?_) _ ?_
    | with_reducible refine finish_keeps ?_ ..
    | split
    | simp only [Keeps.put_iff]

theorem replaceLost_keeps {a s : State} (h : Keeps a s) (n : Nat) (d : Nat) :
    Keeps a (replaceLost s n d) := by
  unfold replaceLost
  repeat' first
    | dsimp only
    | with_reducible exact k
    | with_reducible exact h
    | with_reducible refine bumpFresh_keeps ?_ ..
    | with_reducible refine modDevice_keeps ?_ ..
    | split
    | simp only [Keeps.put_iff]

theorem finishReplacements_keeps {a s : State} (h : Keeps a s) (n : Nat) :
    Keeps a (finishReplacements s n) := by
  unfold finishReplacements
  repeat' first
    | dsimp only
    | with_reducible exact k
    | with_reducible exact h
    | with_reducible refine each_keeps (fun _ _ k => ?_) _ ?_
    | with_reducible refine addProv_keeps ?_ ..
    | with_reducible refine modDevice_keeps ?_ ..
    | with_reducible refine raiseCause_keeps ?_ ..
    | split
    | simp only [Keeps.put_iff]

theorem addDrain_keeps {a s : State} (h : Keeps a s) (own : Bool) (routes : List (Nat × Rte)) (cats : List (Nat × CatEntry)) (copies : List (Nat × Nat × List Nat)) (cmds : List Nat) :
    Keeps a (addDrain s own routes cats copies cmds) := by
  unfold addDrain
  repeat' first
    | dsimp only
    | with_reducible exact k
    | with_reducible exact h
    | split
    | simp only [Keeps.put_iff]

theorem detour_keeps {a s : State} (h : Keeps a s) (own : Bool) :
    Keeps a (detour s own) := by
  unfold detour
  repeat' first
    | dsimp only
    | with_reducible exact k
    | with_reducible exact h
    | with_reducible refine each_keeps (fun _ _ k => ?_) _ ?_
    | with_reducible refine addDrain_keeps ?_ ..
    | with_reducible refine addProv_keeps ?_ ..
    | split
    | simp only [Keeps.put_iff]

theorem darkCore_keeps {a s : State} (h : Keeps a s) (p : Nat) :
    Keeps a (darkCore s p) := by
  unfold darkCore
  repeat' first
    | dsimp only
    | with_reducible exact k
    | with_reducible exact h
    | with_reducible refine emptyCore_keeps ?_ ..
    | with_reducible refine noteSpares_keeps ?_ ..
    | with_reducible refine setPstate_keeps ?_ ..
    | split
    | simp only [Keeps.put_iff]

theorem stopStart_keeps {a s : State} (h : Keeps a s)  :
    Keeps a (stopStart s) := by
  unfold stopStart
  repeat' first
    | dsimp only
    | with_reducible exact k
    | with_reducible exact h
    | with_reducible refine signBoot_keeps ?_ ..
    | split
    | simp only [Keeps.put_iff]

theorem leaveService_keeps {a s : State} (h : Keeps a s) (cls : Nat) (runSt : Status) (cmdSt : Status) :
    Keeps a (leaveService s cls runSt cmdSt) := by
  unfold leaveService
  repeat' first
    | dsimp only
    | with_reducible exact k
    | with_reducible exact h
    | with_reducible refine each_keeps (fun _ _ k => ?_) _ ?_
    | with_reducible refine abandonSwaps_keeps ?_ ..
    | with_reducible refine addProv_keeps ?_ ..
    | with_reducible refine clearPart_keeps ?_ ..
    | with_reducible refine darkCore_keeps ?_ ..
    | with_reducible refine finishReplacements_keeps ?_ ..
    | with_reducible refine modPart_keeps ?_ ..
    | with_reducible refine modPort_keeps ?_ ..
    | with_reducible refine refuse_keeps ?_ ..
    | with_reducible refine stopCmd_keeps ?_ ..
    | split
    | simp only [Keeps.put_iff]

theorem outOfService_keeps {a s : State} (h : Keeps a s) (cls : Nat) :
    Keeps a (outOfService s cls) := by
  unfold outOfService
  repeat' first
    | dsimp only
    | with_reducible exact k
    | with_reducible exact h
    | with_reducible refine leaveService_keeps ?_ ..
    | split
    | simp only [Keeps.put_iff]

theorem withdrawPart_keeps {a s : State} (h : Keeps a s) (n : Nat) (cls : Nat) :
    Keeps a (withdrawPart s n cls) := by
  unfold withdrawPart
  repeat' first
    | dsimp only
    | with_reducible exact k
    | with_reducible exact h
    | with_reducible refine each_keeps (fun _ _ k => ?_) _ ?_
    | with_reducible refine abandonSwaps_keeps ?_ ..
    | with_reducible refine addProv_keeps ?_ ..
    | with_reducible refine clearPart_keeps ?_ ..
    | with_reducible refine darkCore_keeps ?_ ..
    | with_reducible refine detour_keeps ?_ ..
    | with_reducible refine finishReplacements_keeps ?_ ..
    | with_reducible refine modPart_keeps ?_ ..
    | with_reducible refine outOfService_keeps ?_ ..
    | with_reducible refine raiseCause_keeps ?_ ..
    | with_reducible refine refuse_keeps ?_ ..
    | split
    | simp only [Keeps.put_iff]

theorem exhausted_keeps {a s : State} (h : Keeps a s) (n : Nat) (p : Nat) :
    Keeps a (exhausted s n p) := by
  unfold exhausted
  repeat' first
    | dsimp only
    | with_reducible exact k
    | with_reducible exact h
    | with_reducible refine addLasting_keeps ?_ ..
    | with_reducible refine outOfService_keeps ?_ ..
    | with_reducible refine withdrawPart_keeps ?_ ..
    | split
    | simp only [Keeps.put_iff]

theorem countReset_keeps {a s : State} (h : Keeps a s) (n : Nat) :
    Keeps a (countReset s n).1 := by
  unfold countReset
  repeat' first
    | dsimp only
    | with_reducible exact k
    | with_reducible exact h
    | with_reducible refine modPart_keeps ?_ ..
    | split
    | simp only [Keeps.put_iff]

theorem holdPart_keeps {a s : State} (h : Keeps a s) (n : Nat) :
    Keeps a (holdPart s n) := by
  unfold holdPart
  repeat' first
    | dsimp only
    | with_reducible exact k
    | with_reducible exact h
    | with_reducible refine abandonSwaps_keeps ?_ ..
    | with_reducible refine failCmds_keeps ?_ ..
    | with_reducible refine failRuns_keeps ?_ ..
    | with_reducible refine modPart_keeps ?_ ..
    | split
    | simp only [Keeps.put_iff]

theorem decidePart_keeps {a s : State} (h : Keeps a s) (n : Nat) (cls : Nat) (withdraw : Bool) :
    Keeps a (decidePart s n cls withdraw) := by
  unfold decidePart
  repeat' first
    | dsimp only
    | with_reducible exact k
    | with_reducible exact h
    | with_reducible refine abandonSwaps_keeps ?_ ..
    | with_reducible refine holdPart_keeps ?_ ..
    | with_reducible refine modPart_keeps ?_ ..
    | with_reducible refine withdrawPart_keeps ?_ ..
    | with_reducible refine countReset_keeps ?_ ..
    | (have q := countReset_keeps k ..; simp only [*] at q; exact q)
    | (have q := countReset_keeps h ..; simp only [*] at q; exact q)
    | split
    | simp only [Keeps.put_iff]

theorem takeBack_keeps {a s : State} (h : Keeps a s) (n : Nat) (cores : List Nat) :
    Keeps a (takeBack s n cores) := by
  unfold takeBack
  repeat' first
    | dsimp only
    | with_reducible exact k
    | with_reducible exact h
    | with_reducible refine modPart_keeps ?_ ..
    | split
    | simp only [Keeps.put_iff]

theorem joinAccession_keeps {a s : State} (h : Keeps a s) (n : Nat) (cores : List Nat) (dies : List Nat) :
    Keeps a (joinAccession s n cores dies) := by
  unfold joinAccession
  repeat' first
    | dsimp only
    | with_reducible exact k
    | with_reducible exact h
    | with_reducible refine each_keeps (fun _ _ k => ?_) _ ?_
    | with_reducible refine exhausted_keeps ?_ ..
    | with_reducible refine modCat_keeps ?_ ..
    | with_reducible refine modPart_keeps ?_ ..
    | with_reducible refine retireAs_keeps ?_ ..
    | with_reducible refine retireStack_keeps ?_ ..
    | with_reducible refine takeBack_keeps ?_ ..
    | with_reducible refine stageSpares_keeps ?_ ..
    | (have q := stageSpares_keeps k ..; simp only [*] at q; exact q)
    | (have q := stageSpares_keeps h ..; simp only [*] at q; exact q)
    | split
    | simp only [Keeps.put_iff]

theorem disposeCore_keeps {a s : State} (h : Keeps a s) (p : Nat) (cls : Nat) :
    Keeps a (disposeCore s p cls) := by
  unfold disposeCore
  repeat' first
    | dsimp only
    | with_reducible exact k
    | with_reducible exact h
    | with_reducible refine darkCore_keeps ?_ ..
    | with_reducible refine decidePart_keeps ?_ ..
    | with_reducible refine joinAccession_keeps ?_ ..
    | with_reducible refine modCore_keeps ?_ ..
    | with_reducible refine modPart_keeps ?_ ..
    | split
    | simp only [Keeps.put_iff]

theorem fenceDie_keeps {a s : State} (h : Keeps a s) (t : Nat) (d : Nat) :
    Keeps a (fenceDie s t d) := by
  unfold fenceDie
  repeat' first
    | dsimp only
    | with_reducible exact k
    | with_reducible exact h
    | with_reducible refine each_keeps (fun _ _ k => ?_) _ ?_
    | with_reducible refine finishTask_keeps ?_ ..
    | with_reducible refine modCore_keeps ?_ ..
    | split
    | simp only [Keeps.put_iff]

theorem disposeStack_keeps {a s : State} (h : Keeps a s) (t : Nat) (d : Nat) (cls : Nat) :
    Keeps a (disposeStack s t d cls) := by
  unfold disposeStack
  repeat' first
    | dsimp only
    | with_reducible exact k
    | with_reducible exact h
    | with_reducible refine each_keeps (fun _ _ k => ?_) _ ?_
    | with_reducible refine darkCore_keeps ?_ ..
    | with_reducible refine decidePart_keeps ?_ ..
    | with_reducible refine fenceDie_keeps ?_ ..
    | with_reducible refine joinAccession_keeps ?_ ..
    | with_reducible refine modPart_keeps ?_ ..
    | split
    | simp only [Keeps.put_iff]

theorem disposeTile_keeps {a s : State} (h : Keeps a s) (t : Nat) (cls : Nat) :
    Keeps a (disposeTile s t cls) := by
  unfold disposeTile
  repeat' first
    | dsimp only
    | with_reducible exact k
    | with_reducible exact h
    | with_reducible refine each_keeps (fun _ _ k => ?_) _ ?_
    | with_reducible refine darkCore_keeps ?_ ..
    | with_reducible refine decidePart_keeps ?_ ..
    | split
    | simp only [Keeps.put_iff]

theorem stackFailed_keeps {a s : State} (h : Keeps a s) (t : Nat) (d : Nat) (cls : Nat) (detail : Nat) :
    Keeps a (stackFailed s t d cls detail) := by
  unfold stackFailed
  repeat' first
    | dsimp only
    | with_reducible exact k
    | with_reducible exact h
    | with_reducible refine addLasting_keeps ?_ ..
    | with_reducible refine disposeStack_keeps ?_ ..
    | split
    | simp only [Keeps.put_iff]

theorem tileFailed_keeps {a s : State} (h : Keeps a s) (t : Nat) (cls : Nat) (detail : Nat) :
    Keeps a (tileFailed s t cls detail) := by
  unfold tileFailed
  repeat' first
    | dsimp only
    | with_reducible exact k
    | with_reducible exact h
    | with_reducible refine addLasting_keeps ?_ ..
    | with_reducible refine disposeTile_keeps ?_ ..
    | split
    | simp only [Keeps.put_iff]

theorem abandonCopies_keeps {a s : State} (h : Keeps a s) (n : Nat) (lost : List Nat) :
    Keeps a (abandonCopies s n lost) := by
  unfold abandonCopies
  repeat' first
    | dsimp only
    | with_reducible exact k
    | with_reducible exact h
    | with_reducible refine each_keeps (fun _ _ k => ?_) _ ?_
    | with_reducible refine modDevice_keeps ?_ ..
    | split
    | simp only [Keeps.put_iff]

theorem startResetAs_keeps {a s : State} (h : Keeps a s) (n : Nat) (st : Status) :
    Keeps a (startResetAs s n st) := by
  unfold startResetAs
  repeat' first
    | dsimp only
    | with_reducible exact k
    | with_reducible exact h
    | with_reducible refine each_keeps (fun _ _ k => ?_) _ ?_
    | with_reducible refine abandonCopies_keeps ?_ ..
    | with_reducible refine abandonSwaps_keeps ?_ ..
    | with_reducible refine clearPart_keeps ?_ ..
    | with_reducible refine modPart_keeps ?_ ..
    | with_reducible refine replaceLost_keeps ?_ ..
    | split
    | simp only [Keeps.put_iff]

theorem startReset_keeps {a s : State} (h : Keeps a s) (n : Nat) :
    Keeps a (startReset s n) := by
  unfold startReset
  repeat' first
    | dsimp only
    | with_reducible exact k
    | with_reducible exact h
    | with_reducible refine startResetAs_keeps ?_ ..
    | split
    | simp only [Keeps.put_iff]

theorem markRebalance_keeps {a s : State} (h : Keeps a s) (n : Nat) :
    Keeps a (markRebalance s n) := by
  unfold markRebalance
  repeat' first
    | dsimp only
    | with_reducible exact k
    | with_reducible exact h
    | with_reducible refine modPart_keeps ?_ ..
    | split
    | simp only [Keeps.put_iff]

theorem inService_keeps {a s : State} (h : Keeps a s) (n : Nat) :
    Keeps a (inService s n) := by
  unfold inService
  repeat' first
    | dsimp only
    | with_reducible exact k
    | with_reducible exact h
    | with_reducible refine endResetCmds_keeps ?_ ..
    | with_reducible refine modPart_keeps ?_ ..
    | with_reducible refine releaseHeld_keeps ?_ ..
    | split
    | simp only [Keeps.put_iff]

theorem Keeps.ite {a x y : State} {c : Prop} [Decidable c] (hx : Keeps a x) (hy : Keeps a y) : Keeps a (if c then x else y) := by
  split <;> assumption

theorem releasePart_keeps {a s : State} (h : Keeps a s) (n : Nat) (failing : List Nat) (second : List Nat) :
    Keeps a (releasePart s n failing second) := by
  unfold releasePart
  repeat' first
    | dsimp only
    | with_reducible exact k
    | with_reducible exact h
    | with_reducible refine each_keeps (fun _ _ k => ?_) _ ?_
    | with_reducible refine addProv_keeps ?_ ..
    | with_reducible refine exhausted_keeps ?_ ..
    | with_reducible refine finishReplacements_keeps ?_ ..
    | with_reducible refine inService_keeps ?_ ..
    | with_reducible refine katAgain_keeps ?_ ..
    | with_reducible refine katFail_keeps ?_ ..
    | with_reducible refine markRebalance_keeps ?_ ..
    | with_reducible refine modCat_keeps ?_ ..
    | with_reducible refine modPart_keeps ?_ ..
    | with_reducible refine releaseHeld_keeps ?_ ..
    | with_reducible refine retargetPart_keeps ?_ ..
    | with_reducible refine retireAs_keeps ?_ ..
    | with_reducible refine retireStack_keeps ?_ ..
    | with_reducible refine stageSpares_keeps ?_ ..
    | (have q := stageSpares_keeps k ..; simp only [*] at q; exact q)
    | (have q := stageSpares_keeps h ..; simp only [*] at q; exact q)
    | with_reducible refine Keeps.ite ?_ ?_
    | split
    | simp only [Keeps.put_iff]

theorem enterCore_keeps {a s : State} (h : Keeps a s) (l : Nat) (former : Nat) (spare : Nat) :
    Keeps a (enterCore s l former spare) := by
  unfold enterCore
  repeat' first
    | dsimp only
    | with_reducible exact k
    | with_reducible exact h
    | with_reducible refine addProv_keeps ?_ ..
    | with_reducible refine closeAll_keeps ?_ ..
    | with_reducible refine freshCoreMons_keeps ?_ ..
    | with_reducible refine inService_keeps ?_ ..
    | with_reducible refine modClk_keeps ?_ ..
    | with_reducible refine modCore_keeps ?_ ..
    | with_reducible refine retarget_keeps ?_ ..
    | with_reducible refine setCat_keeps ?_ ..
    | with_reducible refine setPstate_keeps ?_ ..
    | split
    | simp only [Keeps.put_iff]

theorem accessed_keeps {a s : State} (h : Keeps a s) (n : Nat) (ls : List Nat) :
    Keeps a (accessed s n ls) := by
  unfold accessed
  repeat' first
    | dsimp only
    | with_reducible exact k
    | with_reducible exact h
    | with_reducible refine inService_keeps ?_ ..
    | with_reducible refine modPart_keeps ?_ ..
    | split
    | simp only [Keeps.put_iff]

end Sys2Proof.Machine
end

