-- ==== Sys2Proof/Laws/KeepsTask.lean ====
section
/-! SUPPORT. What the operations of tasks, windows, drains and core events keep (Laws/Keeps.lean): one lemma each. -/

namespace Sys2Proof.Machine

theorem addSpdUe_keeps {a s : State} (h : Keeps a s) (p : Nat) (r : FaultRec) (k : MemKind) (w : Nat) :
    Keeps a (addSpdUe s p r k w) := by
  unfold addSpdUe
  repeat' first
    | dsimp only
    | with_reducible exact k
    | with_reducible exact h
    | with_reducible refine addLasting_keeps ?_ ..
    | with_reducible refine modCore_keeps ?_ ..
    | split
    | simp only [Keeps.put_iff]

theorem strayUe_keeps {a s : State} (h : Keeps a s) (p : Nat) (f : MemKind × Nat) :
    Keeps a (strayUe s p f) := by
  unfold strayUe
  repeat' first
    | dsimp only
    | with_reducible exact k
    | with_reducible exact h
    | with_reducible refine addSpdUe_keeps ?_ ..
    | split
    | simp only [Keeps.put_iff]

theorem seeAccesses_keeps {a s : State} (h : Keeps a s) (p : Nat) (id : Nat) (l : List Acc) :
    Keeps a (seeAccesses s p id l) := by
  unfold seeAccesses
  repeat' first
    | dsimp only
    | with_reducible exact k
    | with_reducible exact h
    | with_reducible refine each_keeps (fun _ _ k => ?_) _ ?_
    | with_reducible refine modCore_keeps ?_ ..
    | with_reducible refine strayUe_keeps ?_ ..
    | split
    | simp only [Keeps.put_iff]

theorem failTask_keeps {a s : State} (h : Keeps a s) (p : Nat) (id : Nat) (st : Status) :
    Keeps a (failTask s p id st) := by
  unfold failTask
  repeat' first
    | dsimp only
    | with_reducible exact k
    | with_reducible exact h
    | with_reducible refine feedEnded_keeps ?_ ..
    | with_reducible refine modCore_keeps ?_ ..
    | with_reducible refine modTask_keeps ?_ ..
    | split
    | simp only [Keeps.put_iff]

theorem eccTask_keeps {a s : State} (h : Keeps a s) (p : Nat) (t : Task) (f : MemKind × Nat) :
    Keeps a (eccTask s p t f) := by
  unfold eccTask
  repeat' first
    | dsimp only
    | with_reducible exact k
    | with_reducible exact h
    | with_reducible refine addSpdUe_keeps ?_ ..
    | with_reducible refine failTask_keeps ?_ ..
    | with_reducible refine modTask_keeps ?_ ..
    | split
    | simp only [Keeps.put_iff]

theorem runUnit_keeps {a s : State} (h : Keeps a s) (p : Nat) (t : Task) (accs : List Acc) (compute : Core → Core × AFlags) (stream : Core → List Byte) :
    Keeps a (runUnit s p t accs compute stream) := by
  unfold runUnit
  repeat' first
    | dsimp only
    | with_reducible exact k
    | with_reducible exact h
    | with_reducible refine each_keeps (fun _ _ k => ?_) _ ?_
    | with_reducible refine eccTask_keeps ?_ ..
    | with_reducible refine finishOk_keeps ?_ ..
    | with_reducible refine scramble_keeps ?_ ..
    | with_reducible refine seeAccesses_keeps ?_ ..
    | with_reducible refine setCore_keeps ?_ ..
    | split
    | simp only [Keeps.put_iff]

theorem deviceExhausted_keeps {a s : State} (h : Keeps a s) (n : Nat) (d : Nat) :
    Keeps a (deviceExhausted s n d) := by
  unfold deviceExhausted
  repeat' first
    | dsimp only
    | with_reducible exact k
    | with_reducible exact h
    | with_reducible refine addLasting_keeps ?_ ..
    | with_reducible refine modDevice_keeps ?_ ..
    | with_reducible refine outOfService_keeps ?_ ..
    | with_reducible refine withdrawPart_keeps ?_ ..
    | split
    | simp only [Keeps.put_iff]

theorem exhaustWaiting_keeps {a s : State} (h : Keeps a s) (n : Nat) (sp : Nat) :
    Keeps a (exhaustWaiting s n sp) := by
  unfold exhaustWaiting
  repeat' first
    | dsimp only
    | with_reducible exact k
    | with_reducible exact h
    | with_reducible refine each_keeps (fun _ _ k => ?_) _ ?_
    | with_reducible refine deviceExhausted_keeps ?_ ..
    | split
    | simp only [Keeps.put_iff]

theorem spareLost_keeps {a s : State} (h : Keeps a s) (n : Nat) (sp : Nat) :
    Keeps a (spareLost s n sp) := by
  unfold spareLost
  repeat' first
    | dsimp only
    | with_reducible exact k
    | with_reducible exact h
    | with_reducible refine deviceExhausted_keeps ?_ ..
    | with_reducible refine exhaustWaiting_keeps ?_ ..
    | with_reducible refine modDevice_keeps ?_ ..
    | split
    | simp only [Keeps.put_iff]

theorem servingLost_keeps {a s : State} (h : Keeps a s) (n : Nat) (d : Nat) :
    Keeps a (servingLost s n d) := by
  unfold servingLost
  repeat' first
    | dsimp only
    | with_reducible exact k
    | with_reducible exact h
    | with_reducible refine decidePart_keeps ?_ ..
    | with_reducible refine deviceExhausted_keeps ?_ ..
    | with_reducible refine finishReplacements_keeps ?_ ..
    | with_reducible refine modDevice_keeps ?_ ..
    | with_reducible refine modPart_keeps ?_ ..
    | with_reducible refine replaceLost_keeps ?_ ..
    | split
    | simp only [Keeps.put_iff]

theorem deviceLost_keeps {a s : State} (h : Keeps a s) (d : Nat) :
    Keeps a (deviceLost s d) := by
  unfold deviceLost
  repeat' first
    | dsimp only
    | with_reducible exact k
    | with_reducible exact h
    | with_reducible refine modDevice_keeps ?_ ..
    | with_reducible refine servingLost_keeps ?_ ..
    | with_reducible refine spareLost_keeps ?_ ..
    | split
    | simp only [Keeps.put_iff]

theorem endCopy_keeps {a s : State} (h : Keeps a s) (c : Nat × Nat × List Nat) :
    Keeps a (endCopy s c) := by
  unfold endCopy
  repeat' first
    | dsimp only
    | with_reducible exact k
    | with_reducible exact h
    | with_reducible refine foldl_fst_keeps (fun _ _ k => ?_) _ ?_
    | with_reducible refine foldl_keeps (fun _ _ k => ?_) _ ?_
    | with_reducible refine addProv_keeps ?_ ..
    | with_reducible refine exhaustWaiting_keeps ?_ ..
    | with_reducible refine modDevice_keeps ?_ ..
    | with_reducible refine raiseCause_keeps ?_ ..
    | split
    | simp only [Keeps.put_iff]

theorem bumpUe_keeps {a s : State} (h : Keeps a s) (d : Nat) :
    Keeps a (bumpUe s d) := by
  unfold bumpUe
  repeat' first
    | dsimp only
    | with_reducible exact k
    | with_reducible exact h
    | with_reducible refine deviceLost_keeps ?_ ..
    | with_reducible refine modDevice_keeps ?_ ..
    | split
    | simp only [Keeps.put_iff]

theorem ldUe_keeps {a s : State} (h : Keeps a s) (r : FaultRec) (b : Nat) :
    Keeps a (ldUe s r b) := by
  unfold ldUe
  repeat' first
    | dsimp only
    | with_reducible exact k
    | with_reducible exact h
    | with_reducible refine addLasting_keeps ?_ ..
    | with_reducible refine bumpUe_keeps ?_ ..
    | split
    | simp only [Keeps.put_iff]

theorem runCopy_keeps {a s : State} (h : Keeps a s) (p : Nat) (t : Task) :
    Keeps a (runCopy p s t) := by
  unfold runCopy
  repeat' first
    | dsimp only
    | with_reducible exact k
    | with_reducible exact h
    | with_reducible refine foldl_fst_keeps (fun _ _ k => ?_) _ ?_
    | with_reducible refine foldl_keeps (fun _ _ k => ?_) _ ?_
    | with_reducible refine runUnit_keeps ?_ ..
    | split
    | simp only [Keeps.put_iff]

theorem askSlice_keeps {a s : State} (h : Keeps a s) (who : Asker) (p : Nat) (vc : Nat) (kind : Nat) (a_5 : Nat) (bytes : Nat) (tag : Nat) (body : Body) :
    Keeps a (askSlice s who p vc kind a_5 bytes tag body) := by
  unfold askSlice
  repeat' first
    | dsimp only
    | with_reducible exact k
    | with_reducible exact h
    | with_reducible refine ask_keeps ?_ ..
    | with_reducible refine endAsker_keeps ?_ ..
    | split
    | simp only [Keeps.put_iff]

theorem nextMove_keeps {a s : State} (h : Keeps a s) (p : Nat) (t : Task) :
    Keeps a (nextMove s p t) := by
  unfold nextMove
  repeat' first
    | dsimp only
    | with_reducible exact k
    | with_reducible exact h
    | with_reducible refine askSlice_keeps ?_ ..
    | with_reducible refine eccTask_keeps ?_ ..
    | with_reducible refine finishOk_keeps ?_ ..
    | with_reducible refine seeAccesses_keeps ?_ ..
    | split
    | simp only [Keeps.put_iff]

theorem moved_keeps {a s : State} (h : Keeps a s) (p : Nat) (t : Task) (n : Nat) :
    Keeps a (moved s p t n) := by
  unfold moved
  repeat' first
    | dsimp only
    | with_reducible exact k
    | with_reducible exact h
    | with_reducible refine endReqs_keeps ?_ ..
    | with_reducible refine modTask_keeps ?_ ..
    | with_reducible refine nextMove_keeps ?_ ..
    | split
    | simp only [Keeps.put_iff]

theorem takeRead_keeps {a s : State} (h : Keeps a s) (p : Nat) (id : Nat) (a_3 : Nat) (bs : List Byte) :
    Keeps a (takeRead s p id a_3 bs) := by
  unfold takeRead
  repeat' first
    | dsimp only
    | with_reducible exact k
    | with_reducible exact h
    | with_reducible refine modCore_keeps ?_ ..
    | with_reducible refine moved_keeps ?_ ..
    | with_reducible refine seeAccesses_keeps ?_ ..
    | split
    | simp only [Keeps.put_iff]

theorem takeWritten_keeps {a s : State} (h : Keeps a s) (p : Nat) (id : Nat) (a_3 : Nat) :
    Keeps a (takeWritten s p id a_3) := by
  unfold takeWritten
  repeat' first
    | dsimp only
    | with_reducible exact k
    | with_reducible exact h
    | with_reducible refine moved_keeps ?_ ..
    | split
    | simp only [Keeps.put_iff]

theorem joinStream_keeps {a s : State} (h : Keeps a s) (p : Nat) (t : Task) :
    Keeps a (joinStream s p t) := by
  unfold joinStream
  repeat' first
    | dsimp only
    | with_reducible exact k
    | with_reducible exact h
    | with_reducible refine finishTask_keeps ?_ ..
    | split
    | simp only [Keeps.put_iff]

theorem runStreamIn_keeps {a s : State} (h : Keeps a s) (p : Nat) (t : Task) :
    Keeps a (runStreamIn p s t) := by
  unfold runStreamIn
  repeat' first
    | dsimp only
    | with_reducible exact k
    | with_reducible exact h
    | with_reducible refine joinStream_keeps ?_ ..
    | with_reducible refine nextMove_keeps ?_ ..
    | split
    | simp only [Keeps.put_iff]

theorem runStreamOut_keeps {a s : State} (h : Keeps a s) (p : Nat) (t : Task) :
    Keeps a (runStreamOut p s t) := by
  unfold runStreamOut
  repeat' first
    | dsimp only
    | with_reducible exact k
    | with_reducible exact h
    | with_reducible refine nextMove_keeps ?_ ..
    | split
    | simp only [Keeps.put_iff]

theorem failMembers_keeps {a s : State} (h : Keeps a s) (l : List (Nat × Nat)) (st : Status) :
    Keeps a (failMembers s l st) := by
  unfold failMembers
  repeat' first
    | dsimp only
    | with_reducible exact k
    | with_reducible exact h
    | with_reducible refine each_keeps (fun _ _ k => ?_) _ ?_
    | with_reducible refine failTask_keeps ?_ ..
    | split
    | simp only [Keeps.put_iff]

theorem failStream_keeps {a s : State} (h : Keeps a s) (x : BStream) (st : Status) :
    Keeps a (failStream s x st) := by
  unfold failStream
  repeat' first
    | dsimp only
    | with_reducible exact k
    | with_reducible exact h
    | with_reducible refine failMembers_keeps ?_ ..
    | split
    | simp only [Keeps.put_iff]

theorem startShared_keeps {a s : State} (h : Keeps a s) (n : Nat) (share : Nat) :
    Keeps a (startShared s n share) := by
  unfold startShared
  repeat' first
    | dsimp only
    | with_reducible exact k
    | with_reducible exact h
    | with_reducible refine each_keeps (fun _ _ k => ?_) _ ?_
    | with_reducible refine failMembers_keeps ?_ ..
    | with_reducible refine met_keeps ?_ ..
    | split
    | simp only [Keeps.put_iff]

theorem request_keeps {a s : State} (h : Keeps a s) (p : Nat) (peer : Nat) (vc : Nat) (kind : Nat) (bytes : Nat) (id : Nat) (body : Body) :
    Keeps a (request s p peer vc kind bytes id body) := by
  unfold request
  repeat' first
    | dsimp only
    | with_reducible exact k
    | with_reducible exact h
    | with_reducible refine finishTask_keeps ?_ ..
    | with_reducible refine sendReq_keeps ?_ ..
    | split
    | simp only [Keeps.put_iff]

theorem runSend_keeps {a s : State} (h : Keeps a s) (p : Nat) (t : Task) :
    Keeps a (runSend p s t) := by
  unfold runSend
  repeat' first
    | dsimp only
    | with_reducible exact k
    | with_reducible exact h
    | with_reducible refine finishTask_keeps ?_ ..
    | with_reducible refine modCore_keeps ?_ ..
    | with_reducible refine request_keeps ?_ ..
    | split
    | simp only [Keeps.put_iff]

theorem pullData_keeps {a s : State} (h : Keeps a s) (p : Nat) (id : Nat) (a_3 : Announce) :
    Keeps a (pullData s p id a_3) := by
  unfold pullData
  repeat' first
    | dsimp only
    | with_reducible exact k
    | with_reducible exact h
    | with_reducible refine addReq_keeps ?_ ..
    | with_reducible refine met_keeps ?_ ..
    | with_reducible refine modTask_keeps ?_ ..
    | with_reducible refine request_keeps ?_ ..
    | split
    | simp only [Keeps.put_iff]

theorem runRecv_keeps {a s : State} (h : Keeps a s) (p : Nat) (t : Task) :
    Keeps a (runRecv p s t) := by
  unfold runRecv
  repeat' first
    | dsimp only
    | with_reducible exact k
    | with_reducible exact h
    | with_reducible refine finishTask_keeps ?_ ..
    | with_reducible refine modCore_keeps ?_ ..
    | with_reducible refine modTask_keeps ?_ ..
    | with_reducible refine pullData_keeps ?_ ..
    | split
    | simp only [Keeps.put_iff]

theorem takeAnnounce_keeps {a s : State} (h : Keeps a s) (k : Packet) (a_2 : Announce) :
    Keeps a (takeAnnounce s k a_2) := by
  unfold takeAnnounce
  repeat' first
    | dsimp only
    | with_reducible exact k
    | with_reducible exact h
    | with_reducible refine dropPacket_keeps ?_ ..
    | with_reducible refine modCore_keeps ?_ ..
    | with_reducible refine pullData_keeps ?_ ..
    | split
    | simp only [Keeps.put_iff]

theorem unsend_keeps {a s : State} (h : Keeps a s) (p : Nat) (t : Task) (n : Nat) :
    Keeps a (unsend s p t n) := by
  unfold unsend
  repeat' first
    | dsimp only
    | with_reducible exact k
    | with_reducible exact h
    | with_reducible refine toPort_keeps ?_ ..
    | split
    | simp only [Keeps.put_iff]

theorem sendData_keeps {a s : State} (h : Keeps a s) (p : Nat) (recv : Nat × Nat) (sender : Nat × Nat) (urg : Bool) (total : Nat) (off : Nat) (bs : List Byte) (a_8 : Nat) :
    Keeps a (sendData s p recv sender urg total off bs a_8) := by
  unfold sendData
  repeat' first
    | dsimp only
    | with_reducible exact k
    | with_reducible exact h
    | with_reducible refine sendReply_keeps ?_ ..
    | with_reducible refine sendData_keeps ?_ ..
    | split
    | simp only [Keeps.put_iff]

theorem answerPull_keeps {a s : State} (h : Keeps a s) (k : Packet) (recv : Nat × Nat) (sender : Nat × Nat) (cap : Nat) :
    Keeps a (answerPull s k recv sender cap) := by
  unfold answerPull
  repeat' first
    | dsimp only
    | with_reducible exact k
    | with_reducible exact h
    | with_reducible refine dropPacket_keeps ?_ ..
    | with_reducible refine eccTask_keeps ?_ ..
    | with_reducible refine met_keeps ?_ ..
    | with_reducible refine modTask_keeps ?_ ..
    | with_reducible refine seeAccesses_keeps ?_ ..
    | with_reducible refine sendData_keeps ?_ ..
    | with_reducible refine sendReply_keeps ?_ ..
    | split
    | simp only [Keeps.put_iff]

theorem takeData_keeps {a s : State} (h : Keeps a s) (k : Packet) (recv : Nat × Nat) (sender : Nat × Nat) (off : Nat) (bs : List Byte) (last : Bool) :
    Keeps a (takeData s k recv sender off bs last) := by
  unfold takeData
  repeat' first
    | dsimp only
    | with_reducible exact k
    | with_reducible exact h
    | with_reducible refine dropPacket_keeps ?_ ..
    | with_reducible refine endReqs_keeps ?_ ..
    | with_reducible refine finishOk_keeps ?_ ..
    | with_reducible refine modCore_keeps ?_ ..
    | with_reducible refine modTask_keeps ?_ ..
    | with_reducible refine seeAccesses_keeps ?_ ..
    | with_reducible refine sendReply_keeps ?_ ..
    | split
    | simp only [Keeps.put_iff]

theorem takeNack_keeps {a s : State} (h : Keeps a s) (who : Asker) (st : Status) :
    Keeps a (takeNack s who st) := by
  unfold takeNack
  repeat' first
    | dsimp only
    | with_reducible exact k
    | with_reducible exact h
    | with_reducible refine endAsker_keeps ?_ ..
    | with_reducible refine endReqs_keeps ?_ ..
    | split
    | simp only [Keeps.put_iff]

theorem sendPut_keeps {a s : State} (h : Keeps a s) (p : Nat) (t : Task) :
    Keeps a (sendPut s p t) := by
  unfold sendPut
  repeat' first
    | dsimp only
    | with_reducible exact k
    | with_reducible exact h
    | with_reducible refine each_keeps (fun _ _ k => ?_) _ ?_
    | with_reducible refine addReq_keeps ?_ ..
    | with_reducible refine eccTask_keeps ?_ ..
    | with_reducible refine finishTask_keeps ?_ ..
    | with_reducible refine request_keeps ?_ ..
    | with_reducible refine seeAccesses_keeps ?_ ..
    | split
    | simp only [Keeps.put_iff]

theorem runPut_keeps {a s : State} (h : Keeps a s) (p : Nat) (t : Task) :
    Keeps a (runPut p s t) := by
  unfold runPut
  repeat' first
    | dsimp only
    | with_reducible exact k
    | with_reducible exact h
    | with_reducible refine sendPut_keeps ?_ ..
    | split
    | simp only [Keeps.put_iff]

theorem runWindowWait_keeps {a s : State} (h : Keeps a s) (p : Nat) (t : Task) :
    Keeps a (runWindowWait p s t) := by
  unfold runWindowWait
  repeat' first
    | dsimp only
    | with_reducible exact k
    | with_reducible exact h
    | with_reducible refine serveWaits_keeps ?_ ..
    | split
    | simp only [Keeps.put_iff]

theorem timeoutReqs_keeps {a s : State} (h : Keeps a s) (l : List Req) :
    Keeps a (timeoutReqs s l) := by
  unfold timeoutReqs
  repeat' first
    | dsimp only
    | with_reducible exact k
    | with_reducible exact h
    | with_reducible refine each_keeps (fun _ _ k => ?_) _ ?_
    | with_reducible refine endAsker_keeps ?_ ..
    | split
    | simp only [Keeps.put_iff]

theorem timeoutFrames_keeps {a s : State} (h : Keeps a s) (l : List Frame) :
    Keeps a (timeoutFrames s l) := by
  unfold timeoutFrames
  repeat' first
    | dsimp only
    | with_reducible exact k
    | with_reducible exact h
    | with_reducible refine each_keeps (fun _ _ k => ?_) _ ?_
    | with_reducible refine finishTask_keeps ?_ ..
    | with_reducible refine timeoutReqs_keeps ?_ ..
    | split
    | simp only [Keeps.put_iff]

theorem strandFlow_keeps {a s : State} (h : Keeps a s) (t : TxFlow) :
    Keeps a (strandFlow s t) := by
  unfold strandFlow
  repeat' first
    | dsimp only
    | with_reducible exact k
    | with_reducible exact h
    | with_reducible refine modTx_keeps ?_ ..
    | with_reducible refine timeoutFrames_keeps ?_ ..
    | split
    | simp only [Keeps.put_iff]

theorem resumeFlow_keeps {a s : State} (h : Keeps a s) (t : TxFlow) :
    Keeps a (resumeFlow s t) := by
  unfold resumeFlow
  repeat' first
    | dsimp only
    | with_reducible exact k
    | with_reducible exact h
    | with_reducible refine modPort_keeps ?_ ..
    | with_reducible refine modTx_keeps ?_ ..
    | with_reducible refine sendLast_keeps ?_ ..
    | with_reducible refine strandFlow_keeps ?_ ..
    | split
    | simp only [Keeps.put_iff]

theorem applyChange_keeps {a s : State} (h : Keeps a s) (a_1 : FabChange) :
    Keeps a (applyChange s a_1) := by
  unfold applyChange
  repeat' first
    | dsimp only
    | with_reducible exact k
    | with_reducible exact h
    | split
    | simp only [Keeps.put_iff]

theorem endMoves_keeps {a s : State} (h : Keeps a s)  :
    Keeps a (endMoves s) := by
  unfold endMoves
  repeat' first
    | dsimp only
    | with_reducible exact k
    | with_reducible exact h
    | with_reducible refine each_keeps (fun _ _ k => ?_) _ ?_
    | with_reducible refine applyChange_keeps ?_ ..
    | with_reducible refine finish_keeps ?_ ..
    | with_reducible refine resumeFlow_keeps ?_ ..
    | split
    | simp only [Keeps.put_iff]

theorem stopFlow_keeps {a s : State} (h : Keeps a s) (k : FlowKey) :
    Keeps a (stopFlow s k) := by
  unfold stopFlow
  repeat' first
    | dsimp only
    | with_reducible exact k
    | with_reducible exact h
    | with_reducible refine modTx_keeps ?_ ..
    | split
    | simp only [Keeps.put_iff]

theorem planChange_keeps {a s : State} (h : Keeps a s) (c : Cmd) (ks : List FlowKey) (x : FabChange) :
    Keeps a (planChange s c ks x) := by
  unfold planChange
  repeat' first
    | dsimp only
    | with_reducible exact k
    | with_reducible exact h
    | with_reducible refine each_keeps (fun _ _ k => ?_) _ ?_
    | with_reducible refine endMoves_keeps ?_ ..
    | with_reducible refine modCmd_keeps ?_ ..
    | with_reducible refine stopFlow_keeps ?_ ..
    | split
    | simp only [Keeps.put_iff]

theorem moveFlow_keeps {a s : State} (h : Keeps a s) (k : FlowKey) :
    Keeps a (moveFlow s k) := by
  unfold moveFlow
  repeat' first
    | dsimp only
    | with_reducible exact k
    | with_reducible exact h
    | with_reducible refine modTx_keeps ?_ ..
    | with_reducible refine stopFlow_keeps ?_ ..
    | with_reducible refine strandFlow_keeps ?_ ..
    | split
    | simp only [Keeps.put_iff]

theorem moveFlows_keeps {a s : State} (h : Keeps a s)  :
    Keeps a (moveFlows s) := by
  unfold moveFlows
  repeat' first
    | dsimp only
    | with_reducible exact k
    | with_reducible exact h
    | with_reducible refine each_keeps (fun _ _ k => ?_) _ ?_
    | with_reducible refine endMoves_keeps ?_ ..
    | with_reducible refine moveFlow_keeps ?_ ..
    | split
    | simp only [Keeps.put_iff]

theorem expireMoves_keeps {a s : State} (h : Keeps a s) (l : List Nat) :
    Keeps a (expireMoves s l) := by
  unfold expireMoves
  repeat' first
    | dsimp only
    | with_reducible exact k
    | with_reducible exact h
    | with_reducible refine endMoves_keeps ?_ ..
    | split
    | simp only [Keeps.put_iff]

theorem settlePorts_keeps {a s : State} (h : Keeps a s)  :
    Keeps a (settlePorts s) := by
  unfold settlePorts
  repeat' first
    | dsimp only
    | with_reducible exact k
    | with_reducible exact h
    | with_reducible refine foldl_fst_keeps (fun _ _ k => ?_) _ ?_
    | with_reducible refine foldl_keeps (fun _ _ k => ?_) _ ?_
    | with_reducible refine each_keeps (fun _ _ k => ?_) _ ?_
    | with_reducible refine finish_keeps ?_ ..
    | split
    | simp only [Keeps.put_iff]

theorem setPorts_keeps {a s : State} (h : Keeps a s) (l : List Nat) (f : Port → Port) :
    Keeps a (setPorts s l f) := by
  unfold setPorts
  repeat' first
    | dsimp only
    | with_reducible exact k
    | with_reducible exact h
    | with_reducible refine each_keeps (fun _ _ k => ?_) _ ?_
    | with_reducible refine modPort_keeps ?_ ..
    | with_reducible refine moveFlows_keeps ?_ ..
    | with_reducible refine settlePorts_keeps ?_ ..
    | split
    | simp only [Keeps.put_iff]

theorem losePorts_keeps {a s : State} (h : Keeps a s) (die : Nat) :
    Keeps a (losePorts s die) := by
  unfold losePorts
  repeat' first
    | dsimp only
    | with_reducible exact k
    | with_reducible exact h
    | with_reducible refine expireMoves_keeps ?_ ..
    | with_reducible refine raiseCause_keeps ?_ ..
    | with_reducible refine setPorts_keeps ?_ ..
    | split
    | simp only [Keeps.put_iff]

theorem edgeDieFault_keeps {a s : State} (h : Keeps a s) (die : Nat) (cls : Nat) :
    Keeps a (edgeDieFault s die cls) := by
  unfold edgeDieFault
  repeat' first
    | dsimp only
    | with_reducible exact k
    | with_reducible exact h
    | with_reducible refine addLasting_keeps ?_ ..
    | with_reducible refine losePorts_keeps ?_ ..
    | split
    | simp only [Keeps.put_iff]

theorem sendPart_keeps {a s : State} (h : Keeps a s) (key : Nat) (g : Group) (vc : Nat) (tag : Nat) (fromTile : Nat) (fromInst : Nat) (node : Nat) (seq : Nat) (elem : Nat) (who : Nat) (left : Bool) (v : RedVal) (mismatch : Bool) :
    Keeps a (sendPart s key g vc tag fromTile fromInst node seq elem who left v mismatch) := by
  unfold sendPart
  repeat' first
    | dsimp only
    | with_reducible exact k
    | with_reducible exact h
    | with_reducible refine inject_keeps ?_ ..
    | split
    | simp only [Keeps.put_iff]

theorem sendResult_keeps {a s : State} (h : Keeps a s) (key : Nat) (g : Group) (vc : Nat) (tag : Nat) (fromTile : Nat) (fromInst : Nat) (m : Nat) (seq : Nat) (elem : Nat) (v : RedVal) (mismatch : Bool) (final : Bool) :
    Keeps a (sendResult s key g vc tag fromTile fromInst m seq elem v mismatch final) := by
  unfold sendResult
  repeat' first
    | dsimp only
    | with_reducible exact k
    | with_reducible exact h
    | with_reducible refine inject_keeps ?_ ..
    | split
    | simp only [Keeps.put_iff]

theorem sendDown_keeps {a s : State} (h : Keeps a s) (key : Nat) (g : Group) (vc : Nat) (tag : Nat) (fromTile : Nat) (fromInst : Nat) (node : Nat) (seq : Nat) (elem : Nat) (v : RedVal) (mismatch : Bool) (final : Bool) :
    Keeps a (sendDown s key g vc tag fromTile fromInst node seq elem v mismatch final) := by
  unfold sendDown
  repeat' first
    | dsimp only
    | with_reducible exact k
    | with_reducible exact h
    | with_reducible refine each_keeps (fun _ _ k => ?_) _ ?_
    | with_reducible refine inject_keeps ?_ ..
    | with_reducible refine sendResult_keeps ?_ ..
    | split
    | simp only [Keeps.put_iff]

theorem takeSeq_keeps {a s : State} (h : Keeps a s) (p : Nat) (t : Task) (key : Nat) (g : Group) (m : Nat) :
    Keeps a (takeSeq s p t key g m).1 := by
  unfold takeSeq
  repeat' first
    | dsimp only
    | with_reducible exact k
    | with_reducible exact h
    | with_reducible refine modGroup_keeps ?_ ..
    | with_reducible refine modTask_keeps ?_ ..
    | split
    | simp only [Keeps.put_iff]

theorem finishColl_keeps {a s : State} (h : Keeps a s) (p : Nat) (t : Task) (writes : Bool) :
    Keeps a (finishColl s p t writes) := by
  unfold finishColl
  repeat' first
    | dsimp only
    | with_reducible exact k
    | with_reducible exact h
    | with_reducible refine finishOk_keeps ?_ ..
    | with_reducible refine met_keeps ?_ ..
    | with_reducible refine modTask_keeps ?_ ..
    | split
    | simp only [Keeps.put_iff]

theorem sendParts_keeps {a s : State} (h : Keeps a s) (p : Nat) (t : Task) (key : Nat) (g : Group) (m : Nat) (seq : Nat) (sig : BitVec 51) (elem : Nat) (vs : List FVal) (a_10 : Nat) :
    Keeps a (sendParts s p t key g m seq sig elem vs a_10) := by
  unfold sendParts
  repeat' first
    | dsimp only
    | with_reducible exact k
    | with_reducible exact h
    | with_reducible refine inject_keeps ?_ ..
    | with_reducible refine sendParts_keeps ?_ ..
    | split
    | simp only [Keeps.put_iff]

theorem runReduce_keeps {a s : State} (h : Keeps a s) (p : Nat) (t : Task) :
    Keeps a (runReduce p s t) := by
  unfold runReduce
  repeat' first
    | dsimp only
    | with_reducible exact k
    | with_reducible exact h
    | with_reducible refine eccTask_keeps ?_ ..
    | with_reducible refine finishOk_keeps ?_ ..
    | with_reducible refine finishTask_keeps ?_ ..
    | with_reducible refine modTask_keeps ?_ ..
    | with_reducible refine seeAccesses_keeps ?_ ..
    | with_reducible refine sendParts_keeps ?_ ..
    | with_reducible refine setCore_keeps ?_ ..
    | with_reducible refine takeSeq_keeps ?_ ..
    | (have q := takeSeq_keeps k ..; simp only [*] at q; exact q)
    | (have q := takeSeq_keeps h ..; simp only [*] at q; exact q)
    | split
    | simp only [Keeps.put_iff]

theorem runBroadcast_keeps {a s : State} (h : Keeps a s) (p : Nat) (t : Task) :
    Keeps a (runBroadcast p s t) := by
  unfold runBroadcast
  repeat' first
    | dsimp only
    | with_reducible exact k
    | with_reducible exact h
    | with_reducible refine finishOk_keeps ?_ ..
    | with_reducible refine finishTask_keeps ?_ ..
    | with_reducible refine sendParts_keeps ?_ ..
    | with_reducible refine takeSeq_keeps ?_ ..
    | (have q := takeSeq_keeps k ..; simp only [*] at q; exact q)
    | (have q := takeSeq_keeps h ..; simp only [*] at q; exact q)
    | split
    | simp only [Keeps.put_iff]

theorem combinePhase_keeps {a s : State} (h : Keeps a s) (key : Nat) :
    Keeps a (combinePhase s key) := by
  unfold combinePhase
  repeat' first
    | dsimp only
    | with_reducible exact k
    | with_reducible exact h
    | with_reducible refine modGroup_keeps ?_ ..
    | split
    | simp only [Keeps.put_iff]

theorem runBarrier_keeps {a s : State} (h : Keeps a s) (p : Nat) (t : Task) :
    Keeps a (runBarrier p s t) := by
  unfold runBarrier
  repeat' first
    | dsimp only
    | with_reducible exact k
    | with_reducible exact h
    | with_reducible refine combinePhase_keeps ?_ ..
    | with_reducible refine finishOk_keeps ?_ ..
    | with_reducible refine finishTask_keeps ?_ ..
    | with_reducible refine modGroup_keeps ?_ ..
    | with_reducible refine modTask_keeps ?_ ..
    | split
    | simp only [Keeps.put_iff]

theorem releaseBarrier_keeps {a s : State} (h : Keeps a s) (p : Nat) (n : Nat) :
    Keeps a (releaseBarrier s p n) := by
  unfold releaseBarrier
  repeat' first
    | dsimp only
    | with_reducible exact k
    | with_reducible exact h
    | with_reducible refine each_keeps (fun _ _ k => ?_) _ ?_
    | with_reducible refine combinePhase_keeps ?_ ..
    | with_reducible refine finishTask_keeps ?_ ..
    | with_reducible refine met_keeps ?_ ..
    | with_reducible refine modGroup_keeps ?_ ..
    | split
    | simp only [Keeps.put_iff]

theorem putRed_keeps {a s : State} (h : Keeps a s) (n : RedNode) :
    Keeps a (putRed s n) := by
  unfold putRed
  repeat' first
    | dsimp only
    | with_reducible exact k
    | with_reducible exact h
    | split
    | simp only [Keeps.put_iff]

theorem sendMismatch_keeps {a s : State} (h : Keeps a s) (key : Nat) (g : Group) (k : Packet) (seq : Nat) (v : RedVal) :
    Keeps a (sendMismatch s key g k seq v) := by
  unfold sendMismatch
  repeat' first
    | dsimp only
    | with_reducible exact k
    | with_reducible exact h
    | with_reducible refine putRed_keeps ?_ ..
    | with_reducible refine sendDown_keeps ?_ ..
    | split
    | simp only [Keeps.put_iff]

theorem tellMismatch_keeps {a s : State} (h : Keeps a s) (key : Nat) (g : Group) (k : Packet) (node : Nat) (seq : Nat) (elem : Nat) (v : RedVal) :
    Keeps a (tellMismatch s key g k node seq elem v) := by
  unfold tellMismatch
  repeat' first
    | dsimp only
    | with_reducible exact k
    | with_reducible exact h
    | with_reducible refine sendMismatch_keeps ?_ ..
    | with_reducible refine sendPart_keeps ?_ ..
    | split
    | simp only [Keeps.put_iff]

theorem rootResult_keeps {a s : State} (h : Keeps a s) (key : Nat) (g : Group) (k : Packet) (seq : Nat) (node : Nat) (elem : Nat) (v : RedVal) :
    Keeps a (rootResult s key g k seq node elem v) := by
  unfold rootResult
  repeat' first
    | dsimp only
    | with_reducible exact k
    | with_reducible exact h
    | with_reducible refine foldl_fst_keeps (fun _ _ k => ?_) _ ?_
    | with_reducible refine foldl_keeps (fun _ _ k => ?_) _ ?_
    | with_reducible refine sendDown_keeps ?_ ..
    | with_reducible refine sendResult_keeps ?_ ..
    | split
    | simp only [Keeps.put_iff]

theorem answerNode_keeps {a s : State} (h : Keeps a s) (key : Nat) (g : Group) (k : Packet) (n : RedNode) (a_5 : RedVal) (b : RedVal) :
    Keeps a (answerNode s key g k n a_5 b) := by
  unfold answerNode
  repeat' first
    | dsimp only
    | with_reducible exact k
    | with_reducible exact h
    | with_reducible refine rootResult_keeps ?_ ..
    | with_reducible refine sendPart_keeps ?_ ..
    | with_reducible refine tellMismatch_keeps ?_ ..
    | split
    | simp only [Keeps.put_iff]

theorem takeTree_keeps {a s : State} (h : Keeps a s) (key : Nat) (g : Group) (k : Packet) (seq : Nat) (node : Nat) (elem : Nat) (left : Bool) (v : RedVal) :
    Keeps a (takeTree s key g k seq node elem left v) := by
  unfold takeTree
  repeat' first
    | dsimp only
    | with_reducible exact k
    | with_reducible exact h
    | with_reducible refine answerNode_keeps ?_ ..
    | with_reducible refine putRed_keeps ?_ ..
    | split
    | simp only [Keeps.put_iff]

theorem answerFast_keeps {a s : State} (h : Keeps a s) (key : Nat) (g : Group) (k : Packet) (seq : Nat) (node : Nat) (elem : Nat) (run : RedVal) :
    Keeps a (answerFast s key g k seq node elem run) := by
  unfold answerFast
  repeat' first
    | dsimp only
    | with_reducible exact k
    | with_reducible exact h
    | with_reducible refine rootResult_keeps ?_ ..
    | with_reducible refine sendPart_keeps ?_ ..
    | split
    | simp only [Keeps.put_iff]

theorem takeFast_keeps {a s : State} (h : Keeps a s) (key : Nat) (g : Group) (k : Packet) (seq : Nat) (node : Nat) (elem : Nat) (who : Nat) (v : RedVal) :
    Keeps a (takeFast s key g k seq node elem who v) := by
  unfold takeFast
  repeat' first
    | dsimp only
    | with_reducible exact k
    | with_reducible exact h
    | with_reducible refine answerFast_keeps ?_ ..
    | with_reducible refine putRed_keeps ?_ ..
    | with_reducible refine tellMismatch_keeps ?_ ..
    | split
    | simp only [Keeps.put_iff]

theorem takePart_keeps {a s : State} (h : Keeps a s) (k : Packet) (key : Nat) (seq : Nat) (node : Nat) (elem : Nat) (who : Nat) (left : Bool) (v : RedVal) (mismatch : Bool) :
    Keeps a (takePart s k key seq node elem who left v mismatch) := by
  unfold takePart
  repeat' first
    | dsimp only
    | with_reducible exact k
    | with_reducible exact h
    | with_reducible refine dropPacket_keeps ?_ ..
    | with_reducible refine sendMismatch_keeps ?_ ..
    | with_reducible refine takeFast_keeps ?_ ..
    | with_reducible refine takeTree_keeps ?_ ..
    | with_reducible refine tellMismatch_keeps ?_ ..
    | split
    | simp only [Keeps.put_iff]

theorem startBroadcast_keeps {a s : State} (h : Keeps a s) (p : Nat) (t : Task) (key : Nat) (g : Group) :
    Keeps a (startBroadcast s p t key g) := by
  unfold startBroadcast
  repeat' first
    | dsimp only
    | with_reducible exact k
    | with_reducible exact h
    | with_reducible refine each_keeps (fun _ _ k => ?_) _ ?_
    | with_reducible refine eccTask_keeps ?_ ..
    | with_reducible refine seeAccesses_keeps ?_ ..
    | with_reducible refine sendReply_keeps ?_ ..
    | split
    | simp only [Keeps.put_iff]

theorem takeResult_keeps {a s : State} (h : Keeps a s) (k : Packet) (key : Nat) (seq : Nat) (_m : Nat) (elem : Nat) (v : RedVal) (mismatch : Bool) (final : Bool) :
    Keeps a (takeResult s k key seq _m elem v mismatch final) := by
  unfold takeResult
  repeat' first
    | dsimp only
    | with_reducible exact k
    | with_reducible exact h
    | with_reducible refine dropPacket_keeps ?_ ..
    | with_reducible refine eccTask_keeps ?_ ..
    | with_reducible refine finishColl_keeps ?_ ..
    | with_reducible refine finishTask_keeps ?_ ..
    | with_reducible refine met_keeps ?_ ..
    | with_reducible refine modTask_keeps ?_ ..
    | with_reducible refine seeAccesses_keeps ?_ ..
    | with_reducible refine setCore_keeps ?_ ..
    | with_reducible refine startBroadcast_keeps ?_ ..
    | split
    | simp only [Keeps.put_iff]

theorem relayResult_keeps {a s : State} (h : Keeps a s) (k : Packet) (key : Nat) (seq : Nat) (node : Nat) (elem : Nat) (v : RedVal) (mismatch : Bool) (final : Bool) :
    Keeps a (relayResult s k key seq node elem v mismatch final) := by
  unfold relayResult
  repeat' first
    | dsimp only
    | with_reducible exact k
    | with_reducible exact h
    | with_reducible refine dropPacket_keeps ?_ ..
    | with_reducible refine sendDown_keeps ?_ ..
    | split
    | simp only [Keeps.put_iff]

theorem settleGroups_keeps {a s : State} (h : Keeps a s)  :
    Keeps a (settleGroups s) := by
  unfold settleGroups
  repeat' first
    | dsimp only
    | with_reducible exact k
    | with_reducible exact h
    | with_reducible refine each_keeps (fun _ _ k => ?_) _ ?_
    | with_reducible refine dropGroups_keeps ?_ ..
    | with_reducible refine finish_keeps ?_ ..
    | split
    | simp only [Keeps.put_iff]

theorem createGroup_keeps {a s : State} (h : Keeps a s) (c : Cmd) :
    Keeps a (createGroup c s) := by
  unfold createGroup
  repeat' first
    | dsimp only
    | with_reducible exact k
    | with_reducible exact h
    | with_reducible refine foldl_fst_keeps (fun _ _ k => ?_) _ ?_
    | with_reducible refine foldl_keeps (fun _ _ k => ?_) _ ?_
    | with_reducible refine finish_keeps ?_ ..
    | with_reducible refine refuse_keeps ?_ ..
    | split
    | simp only [Keeps.put_iff]

theorem destroyGroup_keeps {a s : State} (h : Keeps a s) (c : Cmd) :
    Keeps a (destroyGroup c s) := by
  unfold destroyGroup
  repeat' first
    | dsimp only
    | with_reducible exact k
    | with_reducible exact h
    | with_reducible refine modCmd_keeps ?_ ..
    | with_reducible refine modGroup_keeps ?_ ..
    | with_reducible refine refuse_keeps ?_ ..
    | with_reducible refine settleGroups_keeps ?_ ..
    | split
    | simp only [Keeps.put_iff]

theorem destroyGroupExpert_keeps {a s : State} (h : Keeps a s) (c : Cmd) :
    Keeps a (destroyGroupExpert c s) := by
  unfold destroyGroupExpert
  repeat' first
    | dsimp only
    | with_reducible exact k
    | with_reducible exact h
    | with_reducible refine each_keeps (fun _ _ k => ?_) _ ?_
    | with_reducible refine dropCollectives_keeps ?_ ..
    | with_reducible refine dropGroups_keeps ?_ ..
    | with_reducible refine failTask_keeps ?_ ..
    | with_reducible refine finish_keeps ?_ ..
    | with_reducible refine refuse_keeps ?_ ..
    | split
    | simp only [Keeps.put_iff]

theorem openWindow_keeps {a s : State} (h : Keeps a s) (c : Cmd) :
    Keeps a (openWindow c s) := by
  unfold openWindow
  repeat' first
    | dsimp only
    | with_reducible exact k
    | with_reducible exact h
    | with_reducible refine checked_keeps ?_ (hact := fun _  k => ?_) ..
    | with_reducible refine finish_keeps ?_ ..
    | with_reducible refine modWin_keeps ?_ ..
    | split
    | simp only [Keeps.put_iff]

theorem cutForClose_keeps {a s : State} (h : Keeps a s) (l : Nat) (slot : Nat) (st : Status) (expert : Bool) :
    Keeps a (cutForClose s l slot st expert) := by
  unfold cutForClose
  repeat' first
    | dsimp only
    | with_reducible exact k
    | with_reducible exact h
    | with_reducible refine cutSlot_keeps ?_ ..
    | with_reducible refine modWin_keeps ?_ ..
    | with_reducible refine tryAdvance_keeps ?_ ..
    | split
    | simp only [Keeps.put_iff]

theorem closeWindow_keeps {a s : State} (h : Keeps a s) (c : Cmd) :
    Keeps a (closeWindow c s) := by
  unfold closeWindow
  repeat' first
    | dsimp only
    | with_reducible exact k
    | with_reducible exact h
    | with_reducible refine checked_keeps ?_ (hact := fun _  k => ?_) ..
    | with_reducible refine modCmd_keeps ?_ ..
    | with_reducible refine modWin_keeps ?_ ..
    | with_reducible refine tryAdvance_keeps ?_ ..
    | split
    | simp only [Keeps.put_iff]

theorem closeWindowExpert_keeps {a s : State} (h : Keeps a s) (c : Cmd) :
    Keeps a (closeWindowExpert c s) := by
  unfold closeWindowExpert
  repeat' first
    | dsimp only
    | with_reducible exact k
    | with_reducible exact h
    | with_reducible refine checked_keeps ?_ (hact := fun _  k => ?_) ..
    | with_reducible refine cutForClose_keeps ?_ ..
    | with_reducible refine modCmd_keeps ?_ ..
    | with_reducible refine modWin_keeps ?_ ..
    | split
    | simp only [Keeps.put_iff]

theorem refuseTransfer_keeps {a s : State} (h : Keeps a s) (l : Nat) (sender : Nat × Nat) (srank : Nat) (urg : Bool) (st : Status) :
    Keeps a (refuseTransfer s l sender srank urg st) := by
  unfold refuseTransfer
  repeat' first
    | dsimp only
    | with_reducible exact k
    | with_reducible exact h
    | with_reducible refine modWins_keeps ?_ ..
    | with_reducible refine putAck_keeps ?_ ..
    | split
    | simp only [Keeps.put_iff]

theorem writeTransfer_keeps {a s : State} (h : Keeps a s) (l : Nat) (t : Transfer) (off : Nat) (bs : List Byte) (last : Bool) :
    Keeps a (writeTransfer s l t off bs last) := by
  unfold writeTransfer
  repeat' first
    | dsimp only
    | with_reducible exact k
    | with_reducible exact h
    | with_reducible refine modCore_keeps ?_ ..
    | with_reducible refine modWin_keeps ?_ ..
    | with_reducible refine modWins_keeps ?_ ..
    | with_reducible refine putAck_keeps ?_ ..
    | with_reducible refine serveWaits_keeps ?_ ..
    | with_reducible refine tryAdvance_keeps ?_ ..
    | split
    | simp only [Keeps.put_iff]

theorem takePut_keeps {a s : State} (h : Keeps a s) (k : Packet) (sender : Nat × Nat) (l : Nat) (slot : Nat) (wgen : Nat) (off : Nat) (total : Nat) (srank : Nat) (first : Bool) (last : Bool) (bs : List Byte) :
    Keeps a (takePut s k sender l slot wgen off total srank first last bs) := by
  unfold takePut
  repeat' first
    | dsimp only
    | with_reducible exact k
    | with_reducible exact h
    | with_reducible refine dropPacket_keeps ?_ ..
    | with_reducible refine modWins_keeps ?_ ..
    | with_reducible refine putAck_keeps ?_ ..
    | with_reducible refine refuseTransfer_keeps ?_ ..
    | with_reducible refine writeTransfer_keeps ?_ ..
    | split
    | simp only [Keeps.put_iff]

theorem stopSending_keeps {a s : State} (h : Keeps a s) (sender : Nat × Nat) :
    Keeps a (stopSending s sender) := by
  unfold stopSending
  repeat' first
    | dsimp only
    | with_reducible exact k
    | with_reducible exact h
    | with_reducible refine toPort_keeps ?_ ..
    | split
    | simp only [Keeps.put_iff]

theorem takeAck_keeps {a s : State} (h : Keeps a s) (sender : Nat × Nat) (st : Status) :
    Keeps a (takeAck s sender st) := by
  unfold takeAck
  repeat' first
    | dsimp only
    | with_reducible exact k
    | with_reducible exact h
    | with_reducible refine endReqs_keeps ?_ ..
    | with_reducible refine finishOk_keeps ?_ ..
    | with_reducible refine finishTask_keeps ?_ ..
    | with_reducible refine met_keeps ?_ ..
    | with_reducible refine modTask_keeps ?_ ..
    | with_reducible refine stopSending_keeps ?_ ..
    | split
    | simp only [Keeps.put_iff]

theorem endAtIssue_keeps {a s : State} (h : Keeps a s) (p : Nat) (t : Task) :
    Keeps a (endAtIssue p s t) := by
  unfold endAtIssue
  repeat' first
    | dsimp only
    | with_reducible exact k
    | with_reducible exact h
    | with_reducible refine finishOk_keeps ?_ ..
    | split
    | simp only [Keeps.put_iff]

theorem runWaitFlag_keeps {a s : State} (h : Keeps a s) (p : Nat) (t : Task) :
    Keeps a (runWaitFlag p s t) := by
  unfold runWaitFlag
  repeat' first
    | dsimp only
    | with_reducible exact k
    | with_reducible exact h
    | with_reducible refine commitTask_keeps ?_ ..
    | split
    | simp only [Keeps.put_iff]

theorem runBranch_keeps {a s : State} (h : Keeps a s) (taken : Task → Bool) (p : Nat) (t : Task) :
    Keeps a (runBranch taken p s t) := by
  unfold runBranch
  repeat' first
    | dsimp only
    | with_reducible exact k
    | with_reducible exact h
    | with_reducible refine endAtIssue_keeps ?_ ..
    | with_reducible refine modCore_keeps ?_ ..
    | split
    | simp only [Keeps.put_iff]

theorem runEnd_keeps {a s : State} (h : Keeps a s) (p : Nat) (t : Task) :
    Keeps a (runEnd p s t) := by
  unfold runEnd
  repeat' first
    | dsimp only
    | with_reducible exact k
    | with_reducible exact h
    | with_reducible refine endAtIssue_keeps ?_ ..
    | with_reducible refine modCore_keeps ?_ ..
    | split
    | simp only [Keeps.put_iff]

theorem waitCheck_keeps {a s : State} (h : Keeps a s) (x : Nat) (x_2 : Task) :
    Keeps a (waitCheck x s x_2) := by
  unfold waitCheck
  repeat' first
    | dsimp only
    | with_reducible exact k
    | with_reducible exact h
    | split
    | simp only [Keeps.put_iff]

theorem runCheck_keeps {a s : State} (h : Keeps a s) (p : Nat) (t : Task) :
    Keeps a (runCheck s p t) := by
  unfold runCheck
  repeat' first
    | dsimp only
    | with_reducible exact k
    | with_reducible exact h
    | with_reducible refine modCore_keeps ?_ ..
    | with_reducible refine seeAccesses_keeps ?_ ..
    | split
    | simp only [Keeps.put_iff]

theorem runBind_keeps {a s : State} (h : Keeps a s) (p : Nat) (t : Task) :
    Keeps a (runBind p s t) := by
  unfold runBind
  repeat' first
    | dsimp only
    | with_reducible exact k
    | with_reducible exact h
    | with_reducible refine endAtIssue_keeps ?_ ..
    | with_reducible refine finishTask_keeps ?_ ..
    | with_reducible refine modCore_keeps ?_ ..
    | split
    | simp only [Keeps.put_iff]

theorem runFree_keeps {a s : State} (h : Keeps a s) (p : Nat) (t : Task) :
    Keeps a (runFree p s t) := by
  unfold runFree
  repeat' first
    | dsimp only
    | with_reducible exact k
    | with_reducible exact h
    | with_reducible refine endAtIssue_keeps ?_ ..
    | with_reducible refine finishTask_keeps ?_ ..
    | with_reducible refine modCore_keeps ?_ ..
    | split
    | simp only [Keeps.put_iff]

theorem waitDrain_keeps {a s : State} (h : Keeps a s) (c : Cmd) (routes : List (Nat × Rte)) (cats : List (Nat × CatEntry)) :
    Keeps a (waitDrain s c routes cats) := by
  unfold waitDrain
  repeat' first
    | dsimp only
    | with_reducible exact k
    | with_reducible exact h
    | with_reducible refine addDrain_keeps ?_ ..
    | with_reducible refine modCmd_keeps ?_ ..
    | split
    | simp only [Keeps.put_iff]

theorem reroute_keeps {a s : State} (h : Keeps a s) (own : Bool) :
    Keeps a (reroute s own) := by
  unfold reroute
  repeat' first
    | dsimp only
    | with_reducible exact k
    | with_reducible exact h
    | with_reducible refine each_keeps (fun _ _ k => ?_) _ ?_
    | with_reducible refine addLasting_keeps ?_ ..
    | with_reducible refine detour_keeps ?_ ..
    | with_reducible refine withdrawPart_keeps ?_ ..
    | split
    | simp only [Keeps.put_iff]

theorem settleMatrix_keeps {a s : State} (h : Keeps a s) (p : Nat) (id : Nat) :
    Keeps a (settleMatrix s p id) := by
  unfold settleMatrix
  repeat' first
    | dsimp only
    | with_reducible exact k
    | with_reducible exact h
    | with_reducible refine finishOk_keeps ?_ ..
    | split
    | simp only [Keeps.put_iff]

theorem itemWritten_keeps {a s : State} (h : Keeps a s) (p : Nat) (t : Task) (w : WorkItem) (af : AFlags) :
    Keeps a (itemWritten s p t w af) := by
  unfold itemWritten
  repeat' first
    | dsimp only
    | with_reducible exact k
    | with_reducible exact h
    | with_reducible refine modTask_keeps ?_ ..
    | with_reducible refine settleMatrix_keeps ?_ ..
    | split
    | simp only [Keeps.put_iff]

theorem startMatrix_keeps {a s : State} (h : Keeps a s) (p : Nat) (t : Task) :
    Keeps a (startMatrix p s t) := by
  unfold startMatrix
  repeat' first
    | dsimp only
    | with_reducible exact k
    | with_reducible exact h
    | with_reducible refine modTask_keeps ?_ ..
    | split
    | simp only [Keeps.put_iff]

theorem issueMatrix_keeps {a s : State} (h : Keeps a s) (p : Nat) (op : Nat) :
    Keeps a (issueMatrix s p op) := by
  unfold issueMatrix
  repeat' first
    | dsimp only
    | with_reducible exact k
    | with_reducible exact h
    | with_reducible refine issueAs_keeps ?_ (hunit := fun _ _  k => ?_) ..
    | with_reducible refine startMatrix_keeps ?_ ..
    | split
    | simp only [Keeps.put_iff]

theorem dispatchTile_keeps {a s : State} (h : Keeps a s) (p : Nat) :
    Keeps a (dispatchTile s p) := by
  unfold dispatchTile
  repeat' first
    | dsimp only
    | with_reducible exact k
    | with_reducible exact h
    | with_reducible refine modCore_keeps ?_ ..
    | with_reducible refine modTask_keeps ?_ ..
    | split
    | simp only [Keeps.put_iff]

theorem tileBoundary_keeps {a s : State} (h : Keeps a s) (p : Nat) (e : Nat) :
    Keeps a (tileBoundary s p e) := by
  unfold tileBoundary
  repeat' first
    | dsimp only
    | with_reducible exact k
    | with_reducible exact h
    | with_reducible refine modCore_keeps ?_ ..
    | split
    | simp only [Keeps.put_iff]

theorem settleDomain_keeps {a s : State} (h : Keeps a s) (p : Nat) :
    Keeps a (settleDomain s p) := by
  unfold settleDomain
  repeat' first
    | dsimp only
    | with_reducible exact k
    | with_reducible exact h
    | with_reducible refine settleSteps_keeps ?_ ..
    | split
    | simp only [Keeps.put_iff]

theorem tileDone_keeps {a s : State} (h : Keeps a s) (p : Nat) (e : Nat) :
    Keeps a (tileDone s p e) := by
  unfold tileDone
  repeat' first
    | dsimp only
    | with_reducible exact k
    | with_reducible exact h
    | with_reducible refine eccTask_keeps ?_ ..
    | with_reducible refine itemWritten_keeps ?_ ..
    | with_reducible refine modTransient_keeps ?_ ..
    | with_reducible refine seeAccesses_keeps ?_ ..
    | with_reducible refine setCore_keeps ?_ ..
    | with_reducible refine settleDomain_keeps ?_ ..
    | with_reducible refine tileBoundary_keeps ?_ ..
    | split
    | simp only [Keeps.put_iff]

theorem taskFaultLasting_keeps {a s : State} (h : Keeps a s) (p : Nat) (t : Task) (unit : Nat) (e : Option Nat) :
    Keeps a (taskFaultLasting s p t unit e) := by
  unfold taskFaultLasting
  repeat' first
    | dsimp only
    | with_reducible exact k
    | with_reducible exact h
    | with_reducible refine addLasting_keeps ?_ ..
    | with_reducible refine disposeCore_keeps ?_ ..
    | with_reducible refine failTask_keeps ?_ ..
    | with_reducible refine modCore_keeps ?_ ..
    | split
    | simp only [Keeps.put_iff]

theorem tileError_keeps {a s : State} (h : Keeps a s) (p : Nat) (e : Nat) :
    Keeps a (tileError s p e) := by
  unfold tileError
  repeat' first
    | dsimp only
    | with_reducible exact k
    | with_reducible exact h
    | with_reducible refine modCore_keeps ?_ ..
    | with_reducible refine modTask_keeps ?_ ..
    | with_reducible refine settleDomain_keeps ?_ ..
    | with_reducible refine taskFaultLasting_keeps ?_ ..
    | with_reducible refine tileBoundary_keeps ?_ ..
    | split
    | simp only [Keeps.put_iff]

theorem engineOff_keeps {a s : State} (h : Keeps a s) (p : Nat) (e : Nat) (record : Bool) :
    Keeps a (engineOff s p e record) := by
  unfold engineOff
  repeat' first
    | dsimp only
    | with_reducible exact k
    | with_reducible exact h
    | with_reducible refine addLasting_keeps ?_ ..
    | with_reducible refine disposeCore_keeps ?_ ..
    | with_reducible refine modCore_keeps ?_ ..
    | split
    | simp only [Keeps.put_iff]

theorem runMap_keeps {a s : State} (h : Keeps a s) (p : Nat) (t : Task) :
    Keeps a (runMap p s t) := by
  unfold runMap
  repeat' first
    | dsimp only
    | with_reducible exact k
    | with_reducible exact h
    | with_reducible refine finishTask_keeps ?_ ..
    | with_reducible refine runUnit_keeps ?_ ..
    | with_reducible refine seeAccesses_keeps ?_ ..
    | split
    | simp only [Keeps.put_iff]

theorem runRows_keeps {a s : State} (h : Keeps a s) (p : Nat) (t : Task) :
    Keeps a (runRows p s t) := by
  unfold runRows
  repeat' first
    | dsimp only
    | with_reducible exact k
    | with_reducible exact h
    | with_reducible refine foldl_fst_keeps (fun _ _ k => ?_) _ ?_
    | with_reducible refine foldl_keeps (fun _ _ k => ?_) _ ?_
    | with_reducible refine runUnit_keeps ?_ ..
    | split
    | simp only [Keeps.put_iff]

theorem issueRows_keeps {a s : State} (h : Keeps a s) (p : Nat) (op : Nat) :
    Keeps a (issueRows s p op) := by
  unfold issueRows
  repeat' first
    | dsimp only
    | with_reducible exact k
    | with_reducible exact h
    | with_reducible refine issueAs_keeps ?_ (hunit := fun _ _  k => ?_) ..
    | with_reducible refine runRows_keeps ?_ ..
    | split
    | simp only [Keeps.put_iff]

theorem runGather_keeps {a s : State} (h : Keeps a s) (p : Nat) (t : Task) :
    Keeps a (runGather p s t) := by
  unfold runGather
  repeat' first
    | dsimp only
    | with_reducible exact k
    | with_reducible exact h
    | with_reducible refine foldl_fst_keeps (fun _ _ k => ?_) _ ?_
    | with_reducible refine foldl_keeps (fun _ _ k => ?_) _ ?_
    | with_reducible refine eccTask_keeps ?_ ..
    | with_reducible refine finishTask_keeps ?_ ..
    | with_reducible refine runUnit_keeps ?_ ..
    | with_reducible refine seeAccesses_keeps ?_ ..
    | split
    | simp only [Keeps.put_iff]

theorem issueGather_keeps {a s : State} (h : Keeps a s) (p : Nat) (op : Nat) :
    Keeps a (issueGather s p op) := by
  unfold issueGather
  repeat' first
    | dsimp only
    | with_reducible exact k
    | with_reducible exact h
    | with_reducible refine issueAs_keeps ?_ (hunit := fun _ _  k => ?_) ..
    | with_reducible refine runGather_keeps ?_ ..
    | split
    | simp only [Keeps.put_iff]

theorem fetchResident_keeps {a s : State} (h : Keeps a s) (p : Nat) (sl : Slot) :
    Keeps a (fetchResident s p sl) := by
  unfold fetchResident
  repeat' first
    | dsimp only
    | with_reducible exact k
    | with_reducible exact h
    | with_reducible refine addSpdUe_keeps ?_ ..
    | with_reducible refine modCore_keeps ?_ ..
    | split
    | simp only [Keeps.put_iff]

theorem askFetch_keeps {a s : State} (h : Keeps a s) (p : Nat) (sl : Slot) (n : Nat) :
    Keeps a (askFetch s p sl n) := by
  unfold askFetch
  repeat' first
    | dsimp only
    | with_reducible exact k
    | with_reducible exact h
    | with_reducible refine askSlice_keeps ?_ ..
    | split
    | simp only [Keeps.put_iff]

theorem fetchStreamed_keeps {a s : State} (h : Keeps a s) (p : Nat) (sl : Slot) :
    Keeps a (fetchStreamed s p sl) := by
  unfold fetchStreamed
  repeat' first
    | dsimp only
    | with_reducible exact k
    | with_reducible exact h
    | with_reducible refine askFetch_keeps ?_ ..
    | with_reducible refine dropPacket_keeps ?_ ..
    | with_reducible refine endReqs_keeps ?_ ..
    | with_reducible refine modCore_keeps ?_ ..
    | split
    | simp only [Keeps.put_iff]

theorem fetchDescriptor_keeps {a s : State} (h : Keeps a s) (p : Nat) :
    Keeps a (fetchDescriptor s p) := by
  unfold fetchDescriptor
  repeat' first
    | dsimp only
    | with_reducible exact k
    | with_reducible exact h
    | with_reducible refine fetchResident_keeps ?_ ..
    | with_reducible refine fetchStreamed_keeps ?_ ..
    | split
    | simp only [Keeps.put_iff]

theorem refetchStreamed_keeps {a s : State} (h : Keeps a s) (p : Nat) :
    Keeps a (refetchStreamed s p) := by
  unfold refetchStreamed
  repeat' first
    | dsimp only
    | with_reducible exact k
    | with_reducible exact h
    | with_reducible refine fetchStreamed_keeps ?_ ..
    | split
    | simp only [Keeps.put_iff]

theorem commitRefused_keeps {a s : State} (h : Keeps a s) (p : Nat) :
    Keeps a (commitRefused s p) := by
  unfold commitRefused
  repeat' first
    | dsimp only
    | with_reducible exact k
    | with_reducible exact h
    | with_reducible refine commitTask_keeps ?_ ..
    | with_reducible refine modCore_keeps ?_ ..
    | split
    | simp only [Keeps.put_iff]

theorem tryCommit_keeps {a s : State} (h : Keeps a s) (p : Nat) (id : Nat) :
    Keeps a (tryCommit s p id) := by
  unfold tryCommit
  repeat' first
    | dsimp only
    | with_reducible exact k
    | with_reducible exact h
    | with_reducible refine commitTask_keeps ?_ ..
    | with_reducible refine runCheck_keeps ?_ ..
    | with_reducible refine settleGroups_keeps ?_ ..
    | split
    | simp only [Keeps.put_iff]

theorem rerunTask_keeps {a s : State} (h : Keeps a s) (p : Nat) (t : Task) :
    Keeps a (rerunTask s p t) := by
  unfold rerunTask
  repeat' first
    | dsimp only
    | with_reducible exact k
    | with_reducible exact h
    | with_reducible refine modTask_keeps ?_ ..
    | with_reducible refine runCopy_keeps ?_ ..
    | with_reducible refine runGather_keeps ?_ ..
    | with_reducible refine runMap_keeps ?_ ..
    | with_reducible refine runRows_keeps ?_ ..
    | split
    | simp only [Keeps.put_iff]

theorem taskFault_keeps {a s : State} (h : Keeps a s) (p : Nat) (id : Nat) :
    Keeps a (taskFault s p id) := by
  unfold taskFault
  repeat' first
    | dsimp only
    | with_reducible exact k
    | with_reducible exact h
    | with_reducible refine modTask_keeps ?_ ..
    | with_reducible refine rerunTask_keeps ?_ ..
    | with_reducible refine taskFaultLasting_keeps ?_ ..
    | split
    | simp only [Keeps.put_iff]

theorem waitLimit_keeps {a s : State} (h : Keeps a s) (p : Nat) (a_2 : WaitRef) :
    Keeps a (waitLimit s p a_2) := by
  unfold waitLimit
  repeat' first
    | dsimp only
    | with_reducible exact k
    | with_reducible exact h
    | with_reducible refine modCore_keeps ?_ ..
    | with_reducible refine modTask_keeps ?_ ..
    | split
    | simp only [Keeps.put_iff]

theorem timeoutRecord_keeps {a s : State} (h : Keeps a s) (p : Nat) (t : Task) :
    Keeps a (timeoutRecord s p t) := by
  unfold timeoutRecord
  repeat' first
    | dsimp only
    | with_reducible exact k
    | with_reducible exact h
    | with_reducible refine addLasting_keeps ?_ ..
    | split
    | simp only [Keeps.put_iff]

theorem headTimeout_keeps {a s : State} (h : Keeps a s) (p : Nat) (c : Core) (f : Fetched) :
    Keeps a (headTimeout s p c f) := by
  unfold headTimeout
  repeat' first
    | dsimp only
    | with_reducible exact k
    | with_reducible exact h
    | with_reducible refine commitTask_keeps ?_ ..
    | with_reducible refine modCore_keeps ?_ ..
    | with_reducible refine timeoutRecord_keeps ?_ ..
    | split
    | simp only [Keeps.put_iff]

theorem taskTimeout_keeps {a s : State} (h : Keeps a s) (p : Nat) (t : Task) :
    Keeps a (taskTimeout s p t) := by
  unfold taskTimeout
  repeat' first
    | dsimp only
    | with_reducible exact k
    | with_reducible exact h
    | with_reducible refine dropReqs_keeps ?_ ..
    | with_reducible refine failTask_keeps ?_ ..
    | with_reducible refine modTask_keeps ?_ ..
    | with_reducible refine stopSending_keeps ?_ ..
    | with_reducible refine timeoutRecord_keeps ?_ ..
    | split
    | simp only [Keeps.put_iff]

theorem furtherLimit_keeps {a s : State} (h : Keeps a s) (p : Nat) (a_2 : WaitRef) :
    Keeps a (furtherLimit s p a_2) := by
  unfold furtherLimit
  repeat' first
    | dsimp only
    | with_reducible exact k
    | with_reducible exact h
    | with_reducible refine headTimeout_keeps ?_ ..
    | with_reducible refine taskTimeout_keeps ?_ ..
    | split
    | simp only [Keeps.put_iff]

theorem startCore_keeps {a s : State} (h : Keeps a s) (p : Nat) :
    Keeps a (startCore s p) := by
  unfold startCore
  repeat' first
    | dsimp only
    | with_reducible exact k
    | with_reducible exact h
    | with_reducible refine dropReqs_keeps ?_ ..
    | with_reducible refine setCore_keeps ?_ ..
    | split
    | simp only [Keeps.put_iff]

theorem abortPending_keeps {a s : State} (h : Keeps a s) (p : Nat) (u : Nat) :
    Keeps a (abortPending s p u) := by
  unfold abortPending
  repeat' first
    | dsimp only
    | with_reducible exact k
    | with_reducible exact h
    | with_reducible refine modCore_keeps ?_ ..
    | with_reducible refine settleRuns_keeps ?_ ..
    | split
    | simp only [Keeps.put_iff]

theorem actAbort_keeps {a s : State} (h : Keeps a s) (p : Nat) :
    Keeps a (actAbort s p) := by
  unfold actAbort
  repeat' first
    | dsimp only
    | with_reducible exact k
    | with_reducible exact h
    | with_reducible refine abortCore_keeps ?_ ..
    | with_reducible refine abortPending_keeps ?_ ..
    | with_reducible refine modCore_keeps ?_ ..
    | with_reducible refine settleGroups_keeps ?_ ..
    | split
    | simp only [Keeps.put_iff]

theorem endStepMark_keeps {a s : State} (h : Keeps a s) (c : Cmd) :
    Keeps a (endStepMark s c) := by
  unfold endStepMark
  repeat' first
    | dsimp only
    | with_reducible exact k
    | with_reducible exact h
    | with_reducible refine finish_keeps ?_ ..
    | with_reducible refine inService_keeps ?_ ..
    | with_reducible refine modPart_keeps ?_ ..
    | with_reducible refine waitDrain_keeps ?_ ..
    | split
    | simp only [Keeps.put_iff]

theorem stepApplied_keeps {a s : State} (h : Keeps a s) (uid : Nat) (p : Nat) :
    Keeps a (stepApplied s uid p) := by
  unfold stepApplied
  repeat' first
    | dsimp only
    | with_reducible exact k
    | with_reducible exact h
    | with_reducible refine endStepMark_keeps ?_ ..
    | with_reducible refine modCmd_keeps ?_ ..
    | split
    | simp only [Keeps.put_iff]

theorem stepBoundary_keeps {a s : State} (h : Keeps a s) (p : Nat) :
    Keeps a (stepBoundary s p) := by
  unfold stepBoundary
  repeat' first
    | dsimp only
    | with_reducible exact k
    | with_reducible exact h
    | with_reducible refine setCore_keeps ?_ ..
    | with_reducible refine stepApplied_keeps ?_ ..
    | split
    | simp only [Keeps.put_iff]

theorem doSwap_keeps {a s : State} (h : Keeps a s) (l : Nat) (old : Nat) (new : Nat) :
    Keeps a (doSwap s l old new) := by
  unfold doSwap
  repeat' first
    | dsimp only
    | with_reducible exact k
    | with_reducible exact h
    | with_reducible refine addProv_keeps ?_ ..
    | with_reducible refine closeAll_keeps ?_ ..
    | with_reducible refine freshCoreMons_keeps ?_ ..
    | with_reducible refine inService_keeps ?_ ..
    | with_reducible refine modClk_keeps ?_ ..
    | with_reducible refine modCore_keeps ?_ ..
    | with_reducible refine modPart_keeps ?_ ..
    | with_reducible refine retarget_keeps ?_ ..
    | with_reducible refine retireAs_keeps ?_ ..
    | with_reducible refine setCat_keeps ?_ ..
    | with_reducible refine setPstate_keeps ?_ ..
    | split
    | simp only [Keeps.put_iff]

theorem writeCats_keeps {a s : State} (h : Keeps a s) (cats : List (Nat × CatEntry)) :
    Keeps a (writeCats s cats) := by
  unfold writeCats
  repeat' first
    | dsimp only
    | with_reducible exact k
    | with_reducible exact h
    | with_reducible refine each_keeps (fun _ _ k => ?_) _ ?_
    | with_reducible refine doSwap_keeps ?_ ..
    | with_reducible refine emptyCore_keeps ?_ ..
    | with_reducible refine enterCore_keeps ?_ ..
    | with_reducible refine setPstate_keeps ?_ ..
    | split
    | simp only [Keeps.put_iff]

theorem askServer_keeps {a s : State} (h : Keeps a s) (p : Nat) (t : Task) (f : Frame) :
    Keeps a (askServer s p t f) := by
  unfold askServer
  repeat' first
    | dsimp only
    | with_reducible exact k
    | with_reducible exact h
    | with_reducible refine addReq_keeps ?_ ..
    | with_reducible refine finishTask_keeps ?_ ..
    | with_reducible refine toPort_keeps ?_ ..
    | split
    | simp only [Keeps.put_iff]

theorem nextPiece_keeps {a s : State} (h : Keeps a s) (p : Nat) (t : Task) :
    Keeps a (nextPiece s p t) := by
  unfold nextPiece
  repeat' first
    | dsimp only
    | with_reducible exact k
    | with_reducible exact h
    | with_reducible refine askServer_keeps ?_ ..
    | with_reducible refine eccTask_keeps ?_ ..
    | with_reducible refine finishOk_keeps ?_ ..
    | with_reducible refine seeAccesses_keeps ?_ ..
    | split
    | simp only [Keeps.put_iff]

theorem runFabric_keeps {a s : State} (h : Keeps a s) (p : Nat) (t : Task) :
    Keeps a (runFabric p s t) := by
  unfold runFabric
  repeat' first
    | dsimp only
    | with_reducible exact k
    | with_reducible exact h
    | with_reducible refine nextPiece_keeps ?_ ..
    | split
    | simp only [Keeps.put_iff]

theorem pieceDone_keeps {a s : State} (h : Keeps a s) (p : Nat) (t : Task) (n : Nat) :
    Keeps a (pieceDone s p t n) := by
  unfold pieceDone
  repeat' first
    | dsimp only
    | with_reducible exact k
    | with_reducible exact h
    | with_reducible refine endReqs_keeps ?_ ..
    | with_reducible refine modTask_keeps ?_ ..
    | with_reducible refine nextPiece_keeps ?_ ..
    | split
    | simp only [Keeps.put_iff]

theorem readPiece_keeps {a s : State} (h : Keeps a s) (p : Nat) (t : Task) (bs : List Byte) :
    Keeps a (readPiece s p t bs) := by
  unfold readPiece
  repeat' first
    | dsimp only
    | with_reducible exact k
    | with_reducible exact h
    | with_reducible refine modCore_keeps ?_ ..
    | with_reducible refine pieceDone_keeps ?_ ..
    | with_reducible refine seeAccesses_keeps ?_ ..
    | split
    | simp only [Keeps.put_iff]

theorem piecePut_keeps {a s : State} (h : Keeps a s) (p : Nat) (t : Task) :
    Keeps a (piecePut s p t) := by
  unfold piecePut
  repeat' first
    | dsimp only
    | with_reducible exact k
    | with_reducible exact h
    | with_reducible refine pieceDone_keeps ?_ ..
    | split
    | simp only [Keeps.put_iff]

theorem serverReply_keeps {a s : State} (h : Keeps a s) (p : Nat) (f : Frame) :
    Keeps a (serverReply s p f) := by
  unfold serverReply
  repeat' first
    | dsimp only
    | with_reducible exact k
    | with_reducible exact h
    | with_reducible refine endReqs_keeps ?_ ..
    | with_reducible refine finishTask_keeps ?_ ..
    | with_reducible refine piecePut_keeps ?_ ..
    | with_reducible refine readPiece_keeps ?_ ..
    | split
    | simp only [Keeps.put_iff]

theorem portPacket_keeps {a s : State} (h : Keeps a s) (port : Nat) (p : Nat) (f : Frame) (b : Body) :
    Keeps a (portPacket s port p f b) := by
  unfold portPacket
  repeat' first
    | dsimp only
    | with_reducible exact k
    | with_reducible exact h
    | with_reducible refine enqueue_keeps ?_ ..
    | split
    | simp only [Keeps.put_iff]

theorem nackFrame_keeps {a s : State} (h : Keeps a s) (f : Frame) (st : Status) :
    Keeps a (nackFrame s f st) := by
  unfold nackFrame
  repeat' first
    | dsimp only
    | with_reducible exact k
    | with_reducible exact h
    | with_reducible refine sendReply_keeps ?_ ..
    | split
    | simp only [Keeps.put_iff]

theorem passFrame_keeps {a s : State} (h : Keeps a s) (port : Nat) (f : Frame) :
    Keeps a (passFrame s port f) := by
  unfold passFrame
  repeat' first
    | dsimp only
    | with_reducible exact k
    | with_reducible exact h
    | with_reducible refine nackFrame_keeps ?_ ..
    | with_reducible refine portPacket_keeps ?_ ..
    | split
    | simp only [Keeps.put_iff]

theorem deliverFrame_keeps {a s : State} (h : Keeps a s) (port : Nat) (f : Frame) :
    Keeps a (deliverFrame s port f) := by
  unfold deliverFrame
  repeat' first
    | dsimp only
    | with_reducible exact k
    | with_reducible exact h
    | with_reducible refine passFrame_keeps ?_ ..
    | split
    | simp only [Keeps.put_iff]

theorem resumeFrames_keeps {a s : State} (h : Keeps a s)  :
    Keeps a (resumeFrames s) := by
  unfold resumeFrames
  repeat' first
    | dsimp only
    | with_reducible exact k
    | with_reducible exact h
    | with_reducible refine each_keeps (fun _ _ k => ?_) _ ?_
    | with_reducible refine passFrame_keeps ?_ ..
    | split
    | simp only [Keeps.put_iff]

theorem dropFrame_keeps {a s : State} (h : Keeps a s) (n : Nat) :
    Keeps a (dropFrame s n) := by
  unfold dropFrame
  repeat' first
    | dsimp only
    | with_reducible exact k
    | with_reducible exact h
    | with_reducible refine modPort_keeps ?_ ..
    | split
    | simp only [Keeps.put_iff]

theorem acceptFrame_keeps {a s : State} (h : Keeps a s) (n : Nat) (f : Frame) (type : Nat) :
    Keeps a (acceptFrame s n f type).1 := by
  unfold acceptFrame
  repeat' first
    | dsimp only
    | with_reducible exact k
    | with_reducible exact h
    | with_reducible refine bumpFresh_keeps ?_ ..
    | with_reducible refine dropFrame_keeps ?_ ..
    | with_reducible refine modPort_keeps ?_ ..
    | split
    | simp only [Keeps.put_iff]

theorem setRx_keeps {a s : State} (h : Keeps a s) (r : RxFlow) :
    Keeps a (setRx s r) := by
  unfold setRx
  repeat' first
    | dsimp only
    | with_reducible exact k
    | with_reducible exact h
    | split
    | simp only [Keeps.put_iff]

theorem sendAck_keeps {a s : State} (h : Keeps a s) (k : FlowKey) :
    Keeps a (sendAck s k) := by
  unfold sendAck
  repeat' first
    | dsimp only
    | with_reducible exact k
    | with_reducible exact h
    | with_reducible refine setRx_keeps ?_ ..
    | with_reducible refine transmit_keeps ?_ ..
    | split
    | simp only [Keeps.put_iff]

theorem syncEpoch_keeps {a s : State} (h : Keeps a s) (f : Frame) :
    Keeps a (syncEpoch s f) := by
  unfold syncEpoch
  repeat' first
    | dsimp only
    | with_reducible exact k
    | with_reducible exact h
    | with_reducible refine setRx_keeps ?_ ..
    | split
    | simp only [Keeps.put_iff]

theorem takeFrame_keeps {a s : State} (h : Keeps a s) (port : Nat) (f : Frame) :
    Keeps a (takeFrame s port f) := by
  unfold takeFrame
  repeat' first
    | dsimp only
    | with_reducible exact k
    | with_reducible exact h
    | with_reducible refine deliverFrame_keeps ?_ ..
    | with_reducible refine dropFrame_keeps ?_ ..
    | with_reducible refine sendAck_keeps ?_ ..
    | with_reducible refine setRx_keeps ?_ ..
    | split
    | simp only [Keeps.put_iff]

theorem takeAckFrame_keeps {a s : State} (h : Keeps a s) (f : Frame) :
    Keeps a (takeAckFrame s f) := by
  unfold takeAckFrame
  repeat' first
    | dsimp only
    | with_reducible exact k
    | with_reducible exact h
    | with_reducible refine endMoves_keeps ?_ ..
    | with_reducible refine pushTx_keeps ?_ ..
    | split
    | simp only [Keeps.put_iff]

theorem flowBreaks_keeps {a s : State} (h : Keeps a s) (t : TxFlow) :
    Keeps a (flowBreaks s t) := by
  unfold flowBreaks
  repeat' first
    | dsimp only
    | with_reducible exact k
    | with_reducible exact h
    | with_reducible refine addLasting_keeps ?_ ..
    | with_reducible refine endMoves_keeps ?_ ..
    | with_reducible refine pushTx_keeps ?_ ..
    | with_reducible refine timeoutFrames_keeps ?_ ..
    | split
    | simp only [Keeps.put_iff]

theorem fabricTimeout_keeps {a s : State} (h : Keeps a s) (r : Req) :
    Keeps a (fabricTimeout s r) := by
  unfold fabricTimeout
  repeat' first
    | dsimp only
    | with_reducible exact k
    | with_reducible exact h
    | with_reducible refine each_keeps (fun _ _ k => ?_) _ ?_
    | with_reducible refine taskTimeout_keeps ?_ ..
    | with_reducible refine toPort_keeps ?_ ..
    | split
    | simp only [Keeps.put_iff]

theorem fetchFault_keeps {a s : State} (h : Keeps a s) (h_1 : Nat) (hart : Nat) :
    Keeps a (fetchFault s h_1 hart) := by
  unfold fetchFault
  repeat' first
    | dsimp only
    | with_reducible exact k
    | with_reducible exact h
    | split
    | simp only [Keeps.put_iff]

theorem copyOut_keeps {a s : State} (h : Keeps a s) (c : Cmd) (dest : Nat) (bs : List Byte) (fin : State → State) (hfin : ∀ y0, Keeps a y0 → Keeps a (fin y0)) :
    Keeps a (copyOut s c dest bs fin) := by
  unfold copyOut
  repeat' first
    | dsimp only
    | with_reducible exact k
    | with_reducible exact h
    | with_reducible refine ldUe_keeps ?_ ..
    | with_reducible refine ldWrite_keeps ?_ ..
    | with_reducible refine refuse_keeps ?_ ..
    | with_reducible refine hfin _ ?_
    | split
    | simp only [Keeps.put_iff]

theorem copyIn_keeps {a s : State} (h : Keeps a s) (c : Cmd) (a_2 : Nat) (n : Nat) (k : List Byte → State → State) (hk : ∀ y0 y1, Keeps a y1 → Keeps a (k y0 y1)) :
    Keeps a (copyIn s c a_2 n k) := by
  unfold copyIn
  repeat' first
    | dsimp only
    | with_reducible exact k
    | with_reducible exact h
    | with_reducible refine ldTouch_keeps ?_ ..
    | with_reducible refine ldUe_keeps ?_ ..
    | with_reducible refine refuse_keeps ?_ ..
    | with_reducible refine hk _ _ ?_
    | split
    | simp only [Keeps.put_iff]

theorem setBells_keeps {a s : State} (h : Keeps a s) (m : Nat) (bits : Word) :
    Keeps a (setBells s m bits) := by
  unfold setBells
  repeat' first
    | dsimp only
    | with_reducible exact k
    | with_reducible exact h
    | with_reducible refine modMailbox_keeps ?_ ..
    | with_reducible refine sendMsi_keeps ?_ ..
    | split
    | simp only [Keeps.put_iff]

theorem pushTh_keeps {a s : State} (h : Keeps a s) (m : Nat) (w : Dword) :
    Keeps a (pushTh s m w) := by
  unfold pushTh
  repeat' first
    | dsimp only
    | with_reducible exact k
    | with_reducible exact h
    | with_reducible refine modMailbox_keeps ?_ ..
    | with_reducible refine setBells_keeps ?_ ..
    | split
    | simp only [Keeps.put_iff]

theorem pushTp_keeps {a s : State} (h : Keeps a s) (m : Nat) (w : Dword) :
    Keeps a (pushTp s m w) := by
  unfold pushTp
  repeat' first
    | dsimp only
    | with_reducible exact k
    | with_reducible exact h
    | with_reducible refine modMailbox_keeps ?_ ..
    | with_reducible refine setBells_keeps ?_ ..
    | split
    | simp only [Keeps.put_iff]

theorem boxStore_keeps {a s : State} (h : Keeps a s) (h_1 : Nat) (hart : Nat) (m : Nat) (off : Nat) (may : Bool) (act : State → State) (hact : ∀ y0, Keeps a y0 → Keeps a (act y0)) :
    Keeps a (boxStore s h_1 hart m off may act) := by
  unfold boxStore
  repeat' first
    | dsimp only
    | with_reducible exact k
    | with_reducible exact h
    | with_reducible refine unpopStore_keeps ?_ ..
    | with_reducible refine hact _ ?_
    | split
    | simp only [Keeps.put_iff]

theorem feedConsole_keeps {a s : State} (h : Keeps a s) (m : Nat) (a_2 : Nat) :
    Keeps a (feedConsole s m a_2) := by
  unfold feedConsole
  repeat' first
    | dsimp only
    | with_reducible exact k
    | with_reducible exact h
    | with_reducible refine modMailbox_keeps ?_ ..
    | with_reducible refine pushTh_keeps ?_ ..
    | with_reducible refine feedConsole_keeps ?_ ..
    | split
    | simp only [Keeps.put_iff]

theorem popTh_keeps {a s : State} (h : Keeps a s) (h_1 : Nat) (hart : Nat) (m : Nat) :
    Keeps a (popTh s h_1 hart m) := by
  unfold popTh
  repeat' first
    | dsimp only
    | with_reducible exact k
    | with_reducible exact h
    | with_reducible refine feedConsole_keeps ?_ ..
    | with_reducible refine hostLoad_keeps ?_ ..
    | with_reducible refine modMailbox_keeps ?_ ..
    | split
    | simp only [Keeps.put_iff]

theorem setMask_keeps {a s : State} (h : Keeps a s) (m : Nat) (mask : Word) :
    Keeps a (setMask s m mask) := by
  unfold setMask
  repeat' first
    | dsimp only
    | with_reducible exact k
    | with_reducible exact h
    | with_reducible refine modMailbox_keeps ?_ ..
    | with_reducible refine sendMsi_keeps ?_ ..
    | split
    | simp only [Keeps.put_iff]

theorem setMsi_keeps {a s : State} (h : Keeps a s) (m : Nat) (v : Nat) :
    Keeps a (setMsi s m v) := by
  unfold setMsi
  repeat' first
    | dsimp only
    | with_reducible exact k
    | with_reducible exact h
    | with_reducible refine modMailbox_keeps ?_ ..
    | split
    | simp only [Keeps.put_iff]

theorem postHeartbeat_keeps {a s : State} (h : Keeps a s)  :
    Keeps a (postHeartbeat s) := by
  unfold postHeartbeat
  repeat' first
    | dsimp only
    | with_reducible exact k
    | with_reducible exact h
    | with_reducible refine each_keeps (fun _ _ k => ?_) _ ?_
    | with_reducible refine modCurator_keeps ?_ ..
    | with_reducible refine modMailbox_keeps ?_ ..
    | with_reducible refine setBells_keeps ?_ ..
    | split
    | simp only [Keeps.put_iff]

theorem outputConsole_keeps {a s : State} (h : Keeps a s) (m : Nat) (words : List Dword) :
    Keeps a (outputConsole s m words) := by
  unfold outputConsole
  repeat' first
    | dsimp only
    | with_reducible exact k
    | with_reducible exact h
    | with_reducible refine feedConsole_keeps ?_ ..
    | with_reducible refine modMailbox_keeps ?_ ..
    | split
    | simp only [Keeps.put_iff]

theorem ioLoad_keeps {a s : State} (h : Keeps a s) (h_1 : Nat) (hart : Nat) (addr : Nat) (size : Nat) :
    Keeps a (ioLoad s h_1 hart addr size) := by
  unfold ioLoad
  repeat' first
    | dsimp only
    | with_reducible exact k
    | with_reducible exact h
    | with_reducible refine hostLoad_keeps ?_ ..
    | with_reducible refine popTh_keeps ?_ ..
    | split
    | simp only [Keeps.put_iff]

theorem spill_keeps {a s : State} (h : Keeps a s) (u : Nat) (q : Nat) :
    Keeps a (spill s u q) := by
  unfold spill
  repeat' first
    | dsimp only
    | with_reducible exact k
    | with_reducible exact h
    | with_reducible refine modQueue_keeps ?_ ..
    | with_reducible refine modUnit_keeps ?_ ..
    | split
    | simp only [Keeps.put_iff]

theorem waitLoad_keeps {a s : State} (h : Keeps a s) (u : Nat) (q : Nat) :
    Keeps a (waitLoad s u q) := by
  unfold waitLoad
  repeat' first
    | dsimp only
    | with_reducible exact k
    | with_reducible exact h
    | with_reducible refine modUnit_keeps ?_ ..
    | split
    | simp only [Keeps.put_iff]

theorem unspill_keeps {a s : State} (h : Keeps a s) (u : Nat) (q : Nat) :
    Keeps a (unspill s u q) := by
  unfold unspill
  repeat' first
    | dsimp only
    | with_reducible exact k
    | with_reducible exact h
    | with_reducible refine each_keeps (fun _ _ k => ?_) _ ?_
    | with_reducible refine modQueue_keeps ?_ ..
    | with_reducible refine modUnit_keeps ?_ ..
    | split
    | simp only [Keeps.put_iff]

theorem loadContext_keeps {a s : State} (h : Keeps a s) (u : Nat) (q : Nat) :
    Keeps a (loadContext s u q) := by
  unfold loadContext
  repeat' first
    | dsimp only
    | with_reducible exact k
    | with_reducible exact h
    | with_reducible refine modUnit_keeps ?_ ..
    | with_reducible refine spill_keeps ?_ ..
    | with_reducible refine unspill_keeps ?_ ..
    | with_reducible refine waitLoad_keeps ?_ ..
    | split
    | simp only [Keeps.put_iff]

theorem servePending_keeps {a s : State} (h : Keeps a s) (u : Nat) (a_2 : Nat) :
    Keeps a (servePending s u a_2) := by
  unfold servePending
  repeat' first
    | dsimp only
    | with_reducible exact k
    | with_reducible exact h
    | with_reducible refine loadContext_keeps ?_ ..
    | with_reducible refine modUnit_keeps ?_ ..
    | with_reducible refine servePending_keeps ?_ ..
    | split
    | simp only [Keeps.put_iff]

theorem serveUnit_keeps {a s : State} (h : Keeps a s) (u : Nat) :
    Keeps a (serveUnit s u) := by
  unfold serveUnit
  repeat' first
    | dsimp only
    | with_reducible exact k
    | with_reducible exact h
    | with_reducible refine servePending_keeps ?_ ..
    | split
    | simp only [Keeps.put_iff]

theorem ringQueue_keeps {a s : State} (h : Keeps a s) (u : Nat) (q : Nat) :
    Keeps a (ringQueue s u q) := by
  unfold ringQueue
  repeat' first
    | dsimp only
    | with_reducible exact k
    | with_reducible exact h
    | with_reducible refine loadContext_keeps ?_ ..
    | with_reducible refine modQueue_keeps ?_ ..
    | split
    | simp only [Keeps.put_iff]

theorem writeTail_keeps {a s : State} (h : Keeps a s) (h_1 : Nat) (q : Nat) (tail : Nat) :
    Keeps a (writeTail s h_1 q tail) := by
  unfold writeTail
  repeat' first
    | dsimp only
    | with_reducible exact k
    | with_reducible exact h
    | with_reducible refine modQueue_keeps ?_ ..
    | with_reducible refine ringQueue_keeps ?_ ..
    | split
    | simp only [Keeps.put_iff]

theorem pageStore_keeps {a s : State} (h : Keeps a s) (h_1 : Nat) (hart : Nat) (q : Nat) (off : Nat) (act : State → State) (hact : ∀ y0, Keeps a y0 → Keeps a (act y0)) :
    Keeps a (pageStore s h_1 hart q off act) := by
  unfold pageStore
  repeat' first
    | dsimp only
    | with_reducible exact k
    | with_reducible exact h
    | with_reducible refine unpopStore_keeps ?_ ..
    | with_reducible refine hact _ ?_
    | split
    | simp only [Keeps.put_iff]

theorem writeHead_keeps {a s : State} (h : Keeps a s) (q : Nat) (head : Nat) :
    Keeps a (writeHead s q head) := by
  unfold writeHead
  repeat' first
    | dsimp only
    | with_reducible exact k
    | with_reducible exact h
    | with_reducible refine modQueue_keeps ?_ ..
    | split
    | simp only [Keeps.put_iff]

theorem loseHost_keeps {a s : State} (h : Keeps a s) (h_1 : Nat) :
    Keeps a (loseHost s h_1) := by
  unfold loseHost
  repeat' first
    | dsimp only
    | with_reducible exact k
    | with_reducible exact h
    | with_reducible refine each_keeps (fun _ _ k => ?_) _ ?_
    | with_reducible refine addLasting_keeps ?_ ..
    | with_reducible refine modHost_keeps ?_ ..
    | with_reducible refine modMailbox_keeps ?_ ..
    | with_reducible refine raiseCause_keeps ?_ ..
    | split
    | simp only [Keeps.put_iff]

theorem moduleFail_keeps {a s : State} (h : Keeps a s) (h_1 : Nat) :
    Keeps a (moduleFail s h_1) := by
  unfold moduleFail
  repeat' first
    | dsimp only
    | with_reducible exact k
    | with_reducible exact h
    | with_reducible refine loseHost_keeps ?_ ..
    | with_reducible refine modHost_keeps ?_ ..
    | split
    | simp only [Keeps.put_iff]

theorem storeStatus_keeps {a s : State} (h : Keeps a s) (h_1 : Nat) (hart : Nat) (addr : Nat) (size : Nat) (v : Nat) :
    Keeps a (storeStatus s h_1 hart addr size v) := by
  unfold storeStatus
  repeat' first
    | dsimp only
    | with_reducible exact k
    | with_reducible exact h
    | with_reducible refine modHost_keeps ?_ ..
    | with_reducible refine unpopStore_keeps ?_ ..
    | split
    | simp only [Keeps.put_iff]

theorem storeDoorbell_keeps {a s : State} (h : Keeps a s) (h_1 : Nat) (hart : Nat) (addr : Nat) (size : Nat) (v : Nat) :
    Keeps a (storeDoorbell s h_1 hart addr size v) := by
  unfold storeDoorbell
  repeat' first
    | dsimp only
    | with_reducible exact k
    | with_reducible exact h
    | with_reducible refine modQueue_keeps ?_ ..
    | with_reducible refine unpopStore_keeps ?_ ..
    | with_reducible refine writeHead_keeps ?_ ..
    | with_reducible refine writeTail_keeps ?_ ..
    | split
    | simp only [Keeps.put_iff]

theorem clearStatus_keeps {a s : State} (h : Keeps a s) (m : Nat) (v : Nat) :
    Keeps a (clearStatus s m v) := by
  unfold clearStatus
  repeat' first
    | dsimp only
    | with_reducible exact k
    | with_reducible exact h
    | with_reducible refine modMailbox_keeps ?_ ..
    | split
    | simp only [Keeps.put_iff]

theorem clearBells_keeps {a s : State} (h : Keeps a s) (m : Nat) (v : Nat) :
    Keeps a (clearBells s m v) := by
  unfold clearBells
  repeat' first
    | dsimp only
    | with_reducible exact k
    | with_reducible exact h
    | with_reducible refine modMailbox_keeps ?_ ..
    | split
    | simp only [Keeps.put_iff]

theorem storeBox_keeps {a s : State} (h : Keeps a s) (h_1 : Nat) (hart : Nat) (addr : Nat) (size : Nat) (v : Nat) :
    Keeps a (storeBox s h_1 hart addr size v) := by
  unfold storeBox
  repeat' first
    | dsimp only
    | with_reducible exact k
    | with_reducible exact h
    | with_reducible refine clearBells_keeps ?_ ..
    | with_reducible refine clearStatus_keeps ?_ ..
    | with_reducible refine pushTh_keeps ?_ ..
    | with_reducible refine pushTp_keeps ?_ ..
    | with_reducible refine setBells_keeps ?_ ..
    | with_reducible refine setMask_keeps ?_ ..
    | with_reducible refine setMsi_keeps ?_ ..
    | with_reducible refine unpopStore_keeps ?_ ..
    | split
    | simp only [Keeps.put_iff]

theorem storeLocal_keeps {a s : State} (h : Keeps a s) (h_1 : Nat) (hart : Nat) (addr : Nat) (size : Nat) (v : Nat) :
    Keeps a (storeLocal s h_1 hart addr size v) := by
  unfold storeLocal
  repeat' first
    | dsimp only
    | with_reducible exact k
    | with_reducible exact h
    | with_reducible refine sendMsi_keeps ?_ ..
    | with_reducible refine unpopStore_keeps ?_ ..
    | split
    | simp only [Keeps.put_iff]

theorem storeMapped_keeps {a s : State} (h : Keeps a s) (h_1 : Nat) (hart : Nat) (addr : Nat) (size : Nat) (v : Nat) :
    Keeps a (storeMapped s h_1 hart addr size v) := by
  unfold storeMapped
  repeat' first
    | dsimp only
    | with_reducible exact k
    | with_reducible exact h
    | with_reducible refine storeBox_keeps ?_ ..
    | with_reducible refine storeDoorbell_keeps ?_ ..
    | with_reducible refine storeLocal_keeps ?_ ..
    | with_reducible refine storeStatus_keeps ?_ ..
    | with_reducible refine unpopStore_keeps ?_ ..
    | split
    | simp only [Keeps.put_iff]

theorem setShares_keeps {a s : State} (h : Keeps a s) (t : Nat) (a_2 : Nat) (b : Nat) (c : Nat) :
    Keeps a (setShares s t a_2 b c) := by
  unfold setShares
  repeat' first
    | dsimp only
    | with_reducible exact k
    | with_reducible exact h
    | with_reducible refine modTile_keeps ?_ ..
    | split
    | simp only [Keeps.put_iff]

theorem storeVcw_keeps {a s : State} (h : Keeps a s) (t : Nat) (v : Nat) :
    Keeps a (storeVcw s t v) := by
  unfold storeVcw
  repeat' first
    | dsimp only
    | with_reducible exact k
    | with_reducible exact h
    | with_reducible refine setShares_keeps ?_ ..
    | split
    | simp only [Keeps.put_iff]

theorem pcWait_keeps {a s : State} (h : Keeps a s) (c : Cmd) (w : CmdWait) :
    Keeps a (pcWait s c w) := by
  unfold pcWait
  repeat' first
    | dsimp only
    | with_reducible exact k
    | with_reducible exact h
    | with_reducible refine modCmd_keeps ?_ ..
    | split
    | simp only [Keeps.put_iff]

theorem pcEnable_keeps {a s : State} (h : Keeps a s) (c : Cmd) :
    Keeps a (pcEnable c s) := by
  unfold pcEnable
  repeat' first
    | dsimp only
    | with_reducible exact k
    | with_reducible exact h
    | with_reducible refine pcWait_keeps ?_ ..
    | with_reducible refine setPorts_keeps ?_ ..
    | split
    | simp only [Keeps.put_iff]

theorem pcDisable_keeps {a s : State} (h : Keeps a s) (c : Cmd) :
    Keeps a (pcDisable c s) := by
  unfold pcDisable
  repeat' first
    | dsimp only
    | with_reducible exact k
    | with_reducible exact h
    | with_reducible refine bumpFresh_keeps ?_ ..
    | with_reducible refine pcWait_keeps ?_ ..
    | with_reducible refine setPorts_keeps ?_ ..
    | split
    | simp only [Keeps.put_iff]

theorem pcDisableNow_keeps {a s : State} (h : Keeps a s) (c : Cmd) :
    Keeps a (pcDisableNow c s) := by
  unfold pcDisableNow
  repeat' first
    | dsimp only
    | with_reducible exact k
    | with_reducible exact h
    | with_reducible refine bumpFresh_keeps ?_ ..
    | with_reducible refine expireMoves_keeps ?_ ..
    | with_reducible refine finish_keeps ?_ ..
    | with_reducible refine setPorts_keeps ?_ ..
    | split
    | simp only [Keeps.put_iff]

theorem pcRead_keeps {a s : State} (h : Keeps a s) (c : Cmd) :
    Keeps a (pcRead c s) := by
  unfold pcRead
  repeat' first
    | dsimp only
    | with_reducible exact k
    | with_reducible exact h
    | with_reducible refine bumpFresh_keeps ?_ ..
    | with_reducible refine finish_keeps ?_ ..
    | split
    | simp only [Keeps.put_iff]

theorem pcSet_keeps {a s : State} (h : Keeps a s) (c : Cmd) :
    Keeps a (pcSet c s) := by
  unfold pcSet
  repeat' first
    | dsimp only
    | with_reducible exact k
    | with_reducible exact h
    | with_reducible refine planChange_keeps ?_ ..
    | with_reducible refine setPorts_keeps ?_ ..
    | split
    | simp only [Keeps.put_iff]

theorem pcEntry_keeps {a s : State} (h : Keeps a s) (c : Cmd) :
    Keeps a (pcEntry c s) := by
  unfold pcEntry
  repeat' first
    | dsimp only
    | with_reducible exact k
    | with_reducible exact h
    | with_reducible refine copyIn_keeps ?_ (hk := fun _ _  k => ?_) ..
    | with_reducible refine planChange_keeps ?_ ..
    | split
    | simp only [Keeps.put_iff]

theorem ruPort_keeps {a s : State} (h : Keeps a s) (c : Cmd) :
    Keeps a (ruPort c s) := by
  unfold ruPort
  repeat' first
    | dsimp only
    | with_reducible exact k
    | with_reducible exact h
    | with_reducible refine planChange_keeps ?_ ..
    | split
    | simp only [Keeps.put_iff]

theorem ruRoute_keeps {a s : State} (h : Keeps a s) (c : Cmd) :
    Keeps a (ruRoute c s) := by
  unfold ruRoute
  repeat' first
    | dsimp only
    | with_reducible exact k
    | with_reducible exact h
    | with_reducible refine waitDrain_keeps ?_ ..
    | split
    | simp only [Keeps.put_iff]

theorem ruShares_keeps {a s : State} (h : Keeps a s) (c : Cmd) :
    Keeps a (ruShares c s) := by
  unfold ruShares
  repeat' first
    | dsimp only
    | with_reducible exact k
    | with_reducible exact h
    | with_reducible refine each_keeps (fun _ _ k => ?_) _ ?_
    | with_reducible refine finish_keeps ?_ ..
    | with_reducible refine setShares_keeps ?_ ..
    | split
    | simp only [Keeps.put_iff]

theorem makeResident_keeps {a s : State} (h : Keeps a s) (u : Nat) (q : Nat) :
    Keeps a (makeResident s u q) := by
  unfold makeResident
  repeat' first
    | dsimp only
    | with_reducible exact k
    | with_reducible exact h
    | with_reducible refine modQueue_keeps ?_ ..
    | with_reducible refine spill_keeps ?_ ..
    | with_reducible refine waitLoad_keeps ?_ ..
    | split
    | simp only [Keeps.put_iff]

theorem createQueue_keeps {a s : State} (h : Keeps a s) (c : Cmd) :
    Keeps a (createQueue c s) := by
  unfold createQueue
  repeat' first
    | dsimp only
    | with_reducible exact k
    | with_reducible exact h
    | with_reducible refine finish_keeps ?_ ..
    | with_reducible refine makeResident_keeps ?_ ..
    | with_reducible refine setQueue_keeps ?_ ..
    | split
    | simp only [Keeps.put_iff]

theorem enableQueue_keeps {a s : State} (h : Keeps a s) (c : Cmd) :
    Keeps a (enableQueue c s) := by
  unfold enableQueue
  repeat' first
    | dsimp only
    | with_reducible exact k
    | with_reducible exact h
    | with_reducible refine finish_keeps ?_ ..
    | with_reducible refine modQueue_keeps ?_ ..
    | with_reducible refine refuse_keeps ?_ ..
    | with_reducible refine ringQueue_keeps ?_ ..
    | split
    | simp only [Keeps.put_iff]

theorem beginDisable_keeps {a s : State} (h : Keeps a s) (c : Cmd) (destroy : Bool) (expert : Bool) :
    Keeps a (beginDisable s c destroy expert) := by
  unfold beginDisable
  repeat' first
    | dsimp only
    | with_reducible exact k
    | with_reducible exact h
    | with_reducible refine modCmd_keeps ?_ ..
    | with_reducible refine modQueue_keeps ?_ ..
    | split
    | simp only [Keeps.put_iff]

theorem disableQueue_keeps {a s : State} (h : Keeps a s) (destroy : Bool) (c : Cmd) :
    Keeps a (disableQueue destroy c s) := by
  unfold disableQueue
  repeat' first
    | dsimp only
    | with_reducible exact k
    | with_reducible exact h
    | with_reducible refine beginDisable_keeps ?_ ..
    | with_reducible refine checked_keeps ?_ (hact := fun _  k => ?_) ..
    | with_reducible refine settle_keeps ?_ ..
    | split
    | simp only [Keeps.put_iff]

theorem abortRun_keeps {a s : State} (h : Keeps a s) (r : RunRec) :
    Keeps a (abortRun s r) := by
  unfold abortRun
  repeat' first
    | dsimp only
    | with_reducible exact k
    | with_reducible exact h
    | split
    | simp only [Keeps.put_iff]

theorem abortItem_keeps {a s : State} (h : Keeps a s) (c : Cmd) :
    Keeps a (abortItem s c) := by
  unfold abortItem
  repeat' first
    | dsimp only
    | with_reducible exact k
    | with_reducible exact h
    | with_reducible refine abortRun_keeps ?_ ..
    | with_reducible refine stopCmd_keeps ?_ ..
    | split
    | simp only [Keeps.put_iff]

theorem disableExpert_keeps {a s : State} (h : Keeps a s) (destroy : Bool) (c : Cmd) :
    Keeps a (disableExpert destroy c s) := by
  unfold disableExpert
  repeat' first
    | dsimp only
    | with_reducible exact k
    | with_reducible exact h
    | with_reducible refine each_keeps (fun _ _ k => ?_) _ ?_
    | with_reducible refine abortItem_keeps ?_ ..
    | with_reducible refine beginDisable_keeps ?_ ..
    | with_reducible refine settle_keeps ?_ ..
    | split
    | simp only [Keeps.put_iff]

theorem loadCore_keeps {a s : State} (h : Keeps a s) (c : Cmd) (bs : List Byte) (p : Nat) :
    Keeps a (loadCore s c bs p) := by
  unfold loadCore
  repeat' first
    | dsimp only
    | with_reducible exact k
    | with_reducible exact h
    | with_reducible refine modCore_keeps ?_ ..
    | split
    | simp only [Keeps.put_iff]

theorem loadProgram_keeps {a s : State} (h : Keeps a s) (c : Cmd) (ws : List Nat) (mb : List Byte) (lb : List Byte) :
    Keeps a (loadProgram c ws mb lb s) := by
  unfold loadProgram
  repeat' first
    | dsimp only
    | with_reducible exact k
    | with_reducible exact h
    | with_reducible refine each_keeps (fun _ _ k => ?_) _ ?_
    | with_reducible refine finish_keeps ?_ ..
    | with_reducible refine loadCore_keeps ?_ ..
    | with_reducible refine modPart_keeps ?_ ..
    | with_reducible refine modQueue_keeps ?_ ..
    | split
    | simp only [Keeps.put_iff]

theorem validateLoad_keeps {a s : State} (h : Keeps a s) (c : Cmd) (ws : List Nat) (mb : List Byte) (lb : List Byte) :
    Keeps a (validateLoad c ws mb lb s) := by
  unfold validateLoad
  repeat' first
    | dsimp only
    | with_reducible exact k
    | with_reducible exact h
    | with_reducible refine finish_keeps ?_ ..
    | with_reducible refine loadProgram_keeps ?_ ..
    | split
    | simp only [Keeps.put_iff]

theorem readProgram_keeps {a s : State} (h : Keeps a s) (c : Cmd) (mb : List Byte) :
    Keeps a (readProgram c mb s) := by
  unfold readProgram
  repeat' first
    | dsimp only
    | with_reducible exact k
    | with_reducible exact h
    | with_reducible refine checked_keeps ?_ (hact := fun _  k => ?_) ..
    | with_reducible refine copyIn_keeps ?_ (hk := fun _ _  k => ?_) ..
    | with_reducible refine refuse_keeps ?_ ..
    | with_reducible refine validateLoad_keeps ?_ ..
    | split
    | simp only [Keeps.put_iff]

theorem programLoad_keeps {a s : State} (h : Keeps a s) (c : Cmd) :
    Keeps a (programLoad c s) := by
  unfold programLoad
  repeat' first
    | dsimp only
    | with_reducible exact k
    | with_reducible exact h
    | with_reducible refine checked_keeps ?_ (hact := fun _  k => ?_) ..
    | with_reducible refine copyIn_keeps ?_ (hk := fun _ _  k => ?_) ..
    | with_reducible refine readProgram_keeps ?_ ..
    | split
    | simp only [Keeps.put_iff]

theorem sendProgram_keeps {a s : State} (h : Keeps a s) (c : Cmd) :
    Keeps a (sendProgram s c) := by
  unfold sendProgram
  repeat' first
    | dsimp only
    | with_reducible exact k
    | with_reducible exact h
    | split
    | simp only [Keeps.put_iff]

theorem resetGroups_keeps {a s : State} (h : Keeps a s) (n : Nat) (slot : Nat) :
    Keeps a (resetGroups s n slot) := by
  unfold resetGroups
  repeat' first
    | dsimp only
    | with_reducible exact k
    | with_reducible exact h
    | with_reducible refine each_keeps (fun _ _ k => ?_) _ ?_
    | with_reducible refine dropCollectives_keeps ?_ ..
    | with_reducible refine modGroup_keeps ?_ ..
    | split
    | simp only [Keeps.put_iff]

theorem startRun_keeps {a s : State} (h : Keeps a s) (c : Cmd) :
    Keeps a (startRun c s) := by
  unfold startRun
  repeat' first
    | dsimp only
    | with_reducible exact k
    | with_reducible exact h
    | with_reducible refine modCmd_keeps ?_ ..
    | with_reducible refine resetGroups_keeps ?_ ..
    | split
    | simp only [Keeps.put_iff]

theorem abortCmd_keeps {a s : State} (h : Keeps a s) (c : Cmd) :
    Keeps a (abortCmd c s) := by
  unfold abortCmd
  repeat' first
    | dsimp only
    | with_reducible exact k
    | with_reducible exact h
    | with_reducible refine abortRun_keeps ?_ ..
    | with_reducible refine modCmd_keeps ?_ ..
    | with_reducible refine refuse_keeps ?_ ..
    | with_reducible refine stopCmd_keeps ?_ ..
    | split
    | simp only [Keeps.put_iff]

theorem stepMark_keeps {a s : State} (h : Keeps a s) (set : Option Nat) (c : Cmd) :
    Keeps a (stepMark set c s) := by
  unfold stepMark
  repeat' first
    | dsimp only
    | with_reducible exact k
    | with_reducible exact h
    | with_reducible refine checked_keeps ?_ (hact := fun _  k => ?_) ..
    | with_reducible refine endStepMark_keeps ?_ ..
    | with_reducible refine modCmd_keeps ?_ ..
    | split
    | simp only [Keeps.put_iff]

theorem failPeers_keeps {a s : State} (h : Keeps a s) (p : Nat) (t : Task) (f : MemKind × Nat) :
    Keeps a (failPeers s p t f) := by
  unfold failPeers
  repeat' first
    | dsimp only
    | with_reducible exact k
    | with_reducible exact h
    | with_reducible refine foldl_fst_keeps (fun _ _ k => ?_) _ ?_
    | with_reducible refine foldl_keeps (fun _ _ k => ?_) _ ?_
    | with_reducible refine sendReply_keeps ?_ ..
    | with_reducible refine stopSending_keeps ?_ ..
    | with_reducible refine unsend_keeps ?_ ..
    | split
    | simp only [Keeps.put_iff]

theorem failWord_keeps {a s : State} (h : Keeps a s) (p : Nat) (k : MemKind) (w : Nat) :
    Keeps a (failWord s p k w) := by
  unfold failWord
  repeat' first
    | dsimp only
    | with_reducible exact k
    | with_reducible exact h
    | with_reducible refine modCore_keeps ?_ ..
    | split
    | simp only [Keeps.put_iff]

theorem uncorrectable_keeps {a s : State} (h : Keeps a s) (p : Nat) (who : Option Nat) (k : MemKind) (w : Nat) (clean : Bool) :
    Keeps a (uncorrectable s p who k w clean) := by
  unfold uncorrectable
  repeat' first
    | dsimp only
    | with_reducible exact k
    | with_reducible exact h
    | with_reducible refine each_keeps (fun _ _ k => ?_) _ ?_
    | with_reducible refine dropReqs_keeps ?_ ..
    | with_reducible refine eccTask_keeps ?_ ..
    | with_reducible refine failPeers_keeps ?_ ..
    | with_reducible refine failWord_keeps ?_ ..
    | with_reducible refine modTask_keeps ?_ ..
    | with_reducible refine modTransient_keeps ?_ ..
    | with_reducible refine scramble_keeps ?_ ..
    | with_reducible refine strayUe_keeps ?_ ..
    | split
    | simp only [Keeps.put_iff]

theorem scrubRow_keeps {a s : State} (h : Keeps a s) (p : Nat) (corrected : Bool) (failing : Option Nat) :
    Keeps a (scrubRow s p corrected failing) := by
  unfold scrubRow
  repeat' first
    | dsimp only
    | with_reducible exact k
    | with_reducible exact h
    | with_reducible refine each_keeps (fun _ _ k => ?_) _ ?_
    | with_reducible refine modCore_keeps ?_ ..
    | with_reducible refine strayUe_keeps ?_ ..
    | with_reducible refine scrubRow_keeps ?_ ..
    | split
    | simp only [Keeps.put_iff]

theorem closeBuf_keeps {a s : State} (h : Keeps a s) (p : Nat) (b : CoBuf) :
    Keeps a (closeBuf s p b) := by
  unfold closeBuf
  repeat' first
    | dsimp only
    | with_reducible exact k
    | with_reducible exact h
    | with_reducible refine foldl_fst_keeps (fun _ _ k => ?_) _ ?_
    | with_reducible refine foldl_keeps (fun _ _ k => ?_) _ ?_
    | with_reducible refine each_keeps (fun _ _ k => ?_) _ ?_
    | with_reducible refine modCore_keeps ?_ ..
    | with_reducible refine strayUe_keeps ?_ ..
    | split
    | simp only [Keeps.put_iff]

theorem closeRow_keeps {a s : State} (h : Keeps a s) (p : Nat) (write : Bool) (k : MemKind) (row : Nat) :
    Keeps a (closeRow s p write k row) := by
  unfold closeRow
  repeat' first
    | dsimp only
    | with_reducible exact k
    | with_reducible exact h
    | with_reducible refine closeBuf_keeps ?_ ..
    | split
    | simp only [Keeps.put_iff]

theorem coalesceWord_keeps {a s : State} (h : Keeps a s) (p : Nat) (write : Bool) (k : MemKind) (row : Nat) (cells : List Host.Cell) :
    Keeps a (coalesceWord s p write k row cells) := by
  unfold coalesceWord
  repeat' first
    | dsimp only
    | with_reducible exact k
    | with_reducible exact h
    | with_reducible refine foldl_fst_keeps (fun _ _ k => ?_) _ ?_
    | with_reducible refine foldl_keeps (fun _ _ k => ?_) _ ?_
    | with_reducible refine closeBuf_keeps ?_ ..
    | with_reducible refine modCore_keeps ?_ ..
    | split
    | simp only [Keeps.put_iff]

theorem coalesce_keeps {a s : State} (h : Keeps a s) (p : Nat) (write : Bool) (k : MemKind) (row : Nat) (cells : List Host.Cell) (b : Nat) (size : Nat) :
    Keeps a (coalesce s p write k row cells b size) := by
  unfold coalesce
  repeat' first
    | dsimp only
    | with_reducible exact k
    | with_reducible exact h
    | with_reducible refine each_keeps (fun _ _ k => ?_) _ ?_
    | with_reducible refine coalesceWord_keeps ?_ ..
    | split
    | simp only [Keeps.put_iff]

theorem apReadMem_keeps {a s : State} (h : Keeps a s) (p : Nat) (k : MemKind) (byte : Nat) (size : Nat) :
    Keeps a (apReadMem s p k byte size).1 := by
  unfold apReadMem
  repeat' first
    | dsimp only
    | with_reducible exact k
    | with_reducible exact h
    | with_reducible refine each_keeps (fun _ _ k => ?_) _ ?_
    | with_reducible refine closeRow_keeps ?_ ..
    | with_reducible refine coalesce_keeps ?_ ..
    | with_reducible refine modCore_keeps ?_ ..
    | with_reducible refine strayUe_keeps ?_ ..
    | split
    | simp only [Keeps.put_iff]

theorem apWriteMem_keeps {a s : State} (h : Keeps a s) (p : Nat) (k : MemKind) (byte : Nat) (bs : List Byte) :
    Keeps a (apWriteMem s p k byte bs) := by
  unfold apWriteMem
  repeat' first
    | dsimp only
    | with_reducible exact k
    | with_reducible exact h
    | with_reducible refine closeRow_keeps ?_ ..
    | with_reducible refine coalesce_keeps ?_ ..
    | split
    | simp only [Keeps.put_iff]

theorem clearFlags_keeps {a s : State} (h : Keeps a s) (p : Nat) (w : Nat) :
    Keeps a (clearFlags s p w) := by
  unfold clearFlags
  repeat' first
    | dsimp only
    | with_reducible exact k
    | with_reducible exact h
    | with_reducible refine modCore_keeps ?_ ..
    | split
    | simp only [Keeps.put_iff]

theorem apAct_keeps {a s : State} (h : Keeps a s) (p : Nat) (place : ApPlace) (size : Nat) (a_4 : Option (BitVec 512)) :
    Keeps a (apAct s p place size a_4).1 := by
  unfold apAct
  repeat' first
    | dsimp only
    | with_reducible exact k
    | with_reducible exact h
    | with_reducible refine apWriteMem_keeps ?_ ..
    | with_reducible refine clearFlags_keeps ?_ ..
    | with_reducible refine apReadMem_keeps ?_ ..
    | (have q := apReadMem_keeps k ..; simp only [*] at q; exact q)
    | (have q := apReadMem_keeps h ..; simp only [*] at q; exact q)
    | split
    | simp only [Keeps.put_iff]

theorem askAperture_keeps {a s : State} (h : Keeps a s) (h_1 : Nat) (hart : Nat) (p : Nat) (addr : Nat) (size : Nat) (data : Option (BitVec 512)) :
    Keeps a (askAperture s h_1 hart p addr size data) := by
  unfold askAperture
  repeat' first
    | dsimp only
    | with_reducible exact k
    | with_reducible exact h
    | with_reducible refine ask_keeps ?_ ..
    | split
    | simp only [Keeps.put_iff]

theorem memErrorAct_keeps {a s : State} (h : Keeps a s) (c : Cmd) (a_2 : BadPlace) :
    Keeps a (memErrorAct s c a_2) := by
  unfold memErrorAct
  repeat' first
    | dsimp only
    | with_reducible exact k
    | with_reducible exact h
    | with_reducible refine addSpdUe_keeps ?_ ..
    | with_reducible refine ldUe_keeps ?_ ..
    | split
    | simp only [Keeps.put_iff]

theorem closeBufs_keeps {a s : State} (h : Keeps a s) (a_1 : Nat) :
    Keeps a (closeBufs s a_1) := by
  unfold closeBufs
  repeat' first
    | dsimp only
    | with_reducible exact k
    | with_reducible exact h
    | with_reducible refine each_keeps (fun _ _ k => ?_) _ ?_
    | with_reducible refine closeBuf_keeps ?_ ..
    | split
    | simp only [Keeps.put_iff]

theorem takeBytes_keeps {a s : State} (h : Keeps a s) (a_1 : Nat) (n : Nat) (alloc : Bool) :
    Keeps a (takeBytes s a_1 n alloc).2 := by
  unfold takeBytes
  split
  · exact ldTouch_keeps h ..
  · split
    · exact each_keeps (fun f s k => strayUe_keeps k ..) _ h
    · exact h

theorem putBytes_keeps {a s : State} (h : Keeps a s) (a_1 : Nat) (bs : List Byte) (alloc : Bool) :
    Keeps a (putBytes s a_1 bs alloc) := by
  unfold putBytes
  split
  · exact ldWrite_keeps h ..
  · split
    · exact modCore_keeps h ..
    · exact h

theorem putMoved_keeps {a s : State} (h : Keeps a s) (c : Cmd) (done : Nat) (bs : List Byte) (alloc : Bool) :
    Keeps a (putMoved s c done bs alloc) := by
  unfold putMoved
  repeat' first
    | dsimp only
    | with_reducible exact k
    | with_reducible exact h
    | with_reducible refine modQueue_keeps ?_ ..
    | with_reducible refine putBytes_keeps ?_ ..
    | split
    | simp only [Keeps.put_iff]

theorem movePart_keeps {a s : State} (h : Keeps a s) (copy : Bool) (alloc : Bool) (c : Cmd) (done : Nat) (m : Nat) :
    Keeps a (movePart copy alloc c done m s) := by
  unfold movePart
  repeat' first
    | dsimp only
    | with_reducible exact k
    | with_reducible exact h
    | with_reducible refine putMoved_keeps ?_ ..
    | with_reducible refine takeBytes_keeps ?_ ..
    | (have q := takeBytes_keeps k ..; simp only [*] at q; exact q)
    | (have q := takeBytes_keeps h ..; simp only [*] at q; exact q)
    | split
    | simp only [Keeps.put_iff]

theorem moveBytes_keeps {a s : State} (h : Keeps a s) (copy : Bool) (alloc : Bool) (blocks : Option Nat) (done : Nat) (c : Cmd) :
    Keeps a (moveBytes copy alloc blocks done c s) := by
  unfold moveBytes
  repeat' first
    | dsimp only
    | with_reducible exact k
    | with_reducible exact h
    | with_reducible refine closeBufs_keeps ?_ ..
    | with_reducible refine finish_keeps ?_ ..
    | with_reducible refine memErrorAct_keeps ?_ ..
    | with_reducible refine modCmd_keeps ?_ ..
    | with_reducible refine movePart_keeps ?_ ..
    | split
    | simp only [Keeps.put_iff]

theorem memCmd_keeps {a s : State} (h : Keeps a s) (copy : Bool) (alloc : Bool) (blocks : Option Nat) (c : Cmd) :
    Keeps a (memCmd copy alloc blocks c s) := by
  unfold memCmd
  repeat' first
    | dsimp only
    | with_reducible exact k
    | with_reducible exact h
    | with_reducible refine checked_keeps ?_ (hact := fun _  k => ?_) ..
    | with_reducible refine moveBytes_keeps ?_ ..
    | split
    | simp only [Keeps.put_iff]

theorem moveRow_keeps {a s : State} (h : Keeps a s) (q : Nat) (i : Option Nat) (blocks : Option Nat) (mine : Cmd → Bool) (copy : Bool) (alloc : Bool) :
    Keeps a (moveRow s q i blocks mine copy alloc) := by
  unfold moveRow
  repeat' first
    | dsimp only
    | with_reducible exact k
    | with_reducible exact h
    | with_reducible refine memCmd_keeps ?_ ..
    | with_reducible refine moveBytes_keeps ?_ ..
    | with_reducible refine startAs_keeps ?_ (hrun := fun _ _  k => ?_) ..
    | split
    | simp only [Keeps.put_iff]

theorem endFeed_keeps {a s : State} (h : Keeps a s) (p : Nat) (id : Nat) (saved : Nat) :
    Keeps a (endFeed s p id saved) := by
  unfold endFeed
  repeat' first
    | dsimp only
    | with_reducible exact k
    | with_reducible exact h
    | with_reducible refine complete_keeps ?_ ..
    | with_reducible refine feedEnded_keeps ?_ ..
    | with_reducible refine modTask_keeps ?_ ..
    | split
    | simp only [Keeps.put_iff]

theorem feedWords_keeps {a s : State} (h : Keeps a s) (p : Nat) (id : Nat) (words : Nat) :
    Keeps a (feedWords s p id words) := by
  unfold feedWords
  repeat' first
    | dsimp only
    | with_reducible exact k
    | with_reducible exact h
    | with_reducible refine endFeed_keeps ?_ ..
    | with_reducible refine modCore_keeps ?_ ..
    | with_reducible refine modTask_keeps ?_ ..
    | split
    | simp only [Keeps.put_iff]

theorem onChannels_keeps {a s : State} (h : Keeps a s) (c : Cmd) (f : FpChan → FpChan) :
    Keeps a (onChannels c f s) := by
  unfold onChannels
  repeat' first
    | dsimp only
    | with_reducible exact k
    | with_reducible exact h
    | with_reducible refine each_keeps (fun _ _ k => ?_) _ ?_
    | with_reducible refine modCore_keeps ?_ ..
    | split
    | simp only [Keeps.put_iff]

theorem fpConfigure_keeps {a s : State} (h : Keeps a s) (c : Cmd) :
    Keeps a (fpConfigure c s) := by
  unfold fpConfigure
  repeat' first
    | dsimp only
    | with_reducible exact k
    | with_reducible exact h
    | with_reducible refine checked_keeps ?_ (hact := fun _  k => ?_) ..
    | with_reducible refine finish_keeps ?_ ..
    | with_reducible refine onChannels_keeps ?_ ..
    | split
    | simp only [Keeps.put_iff]

theorem fpEnable_keeps {a s : State} (h : Keeps a s) (c : Cmd) :
    Keeps a (fpEnable c s) := by
  unfold fpEnable
  repeat' first
    | dsimp only
    | with_reducible exact k
    | with_reducible exact h
    | with_reducible refine checked_keeps ?_ (hact := fun _  k => ?_) ..
    | with_reducible refine finish_keeps ?_ ..
    | with_reducible refine onChannels_keeps ?_ ..
    | split
    | simp only [Keeps.put_iff]

theorem fpDisable_keeps {a s : State} (h : Keeps a s) (c : Cmd) :
    Keeps a (fpDisable c s) := by
  unfold fpDisable
  repeat' first
    | dsimp only
    | with_reducible exact k
    | with_reducible exact h
    | with_reducible refine checked_keeps ?_ (hact := fun _  k => ?_) ..
    | with_reducible refine endFeeds_keeps ?_ ..
    | with_reducible refine modCmd_keeps ?_ ..
    | with_reducible refine onChannels_keeps ?_ ..
    | split
    | simp only [Keeps.put_iff]

theorem cutFeed_keeps {a s : State} (h : Keeps a s) (e : Nat × Nat) :
    Keeps a (cutFeed s e) := by
  unfold cutFeed
  repeat' first
    | dsimp only
    | with_reducible exact k
    | with_reducible exact h
    | with_reducible refine complete_keeps ?_ ..
    | with_reducible refine feedEnded_keeps ?_ ..
    | with_reducible refine modCore_keeps ?_ ..
    | with_reducible refine modTask_keeps ?_ ..
    | split
    | simp only [Keeps.put_iff]

theorem fpDisableExpert_keeps {a s : State} (h : Keeps a s) (c : Cmd) :
    Keeps a (fpDisableExpert c s) := by
  unfold fpDisableExpert
  repeat' first
    | dsimp only
    | with_reducible exact k
    | with_reducible exact h
    | with_reducible refine each_keeps (fun _ _ k => ?_) _ ?_
    | with_reducible refine checked_keeps ?_ (hact := fun _  k => ?_) ..
    | with_reducible refine cutFeed_keeps ?_ ..
    | with_reducible refine finish_keeps ?_ ..
    | with_reducible refine onChannels_keeps ?_ ..
    | split
    | simp only [Keeps.put_iff]

theorem fpRead_keeps {a s : State} (h : Keeps a s) (c : Cmd) :
    Keeps a (fpRead c s) := by
  unfold fpRead
  repeat' first
    | dsimp only
    | with_reducible exact k
    | with_reducible exact h
    | with_reducible refine checked_keeps ?_ (hact := fun _  k => ?_) ..
    | with_reducible refine copyOut_keeps ?_ (hfin := fun _  k => ?_) ..
    | with_reducible refine finish_keeps ?_ ..
    | split
    | simp only [Keeps.put_iff]

theorem crcSet_keeps {a s : State} (h : Keeps a s) (c : Cmd) :
    Keeps a (crcSet c s) := by
  unfold crcSet
  repeat' first
    | dsimp only
    | with_reducible exact k
    | with_reducible exact h
    | with_reducible refine checked_keeps ?_ (hact := fun _  k => ?_) ..
    | with_reducible refine finish_keeps ?_ ..
    | with_reducible refine modQueue_keeps ?_ ..
    | with_reducible refine refuse_keeps ?_ ..
    | split
    | simp only [Keeps.put_iff]

theorem crcGet_keeps {a s : State} (h : Keeps a s) (c : Cmd) :
    Keeps a (crcGet c s) := by
  unfold crcGet
  repeat' first
    | dsimp only
    | with_reducible exact k
    | with_reducible exact h
    | with_reducible refine checked_keeps ?_ (hact := fun _  k => ?_) ..
    | with_reducible refine copyOut_keeps ?_ (hfin := fun _  k => ?_) ..
    | with_reducible refine finish_keeps ?_ ..
    | with_reducible refine refuse_keeps ?_ ..
    | split
    | simp only [Keeps.put_iff]

theorem readRecords_keeps {a s : State} (h : Keeps a s) (c : Cmd) :
    Keeps a (readRecords c s) := by
  unfold readRecords
  repeat' first
    | dsimp only
    | with_reducible exact k
    | with_reducible exact h
    | with_reducible refine faultLogCopy_keeps ?_ ..
    | with_reducible refine modCmd_keeps ?_ ..
    | split
    | simp only [Keeps.put_iff]

theorem readCounters_keeps {a s : State} (h : Keeps a s) (c : Cmd) :
    Keeps a (readCounters c s) := by
  unfold readCounters
  repeat' first
    | dsimp only
    | with_reducible exact k
    | with_reducible exact h
    | with_reducible refine copyOut_keeps ?_ (hfin := fun _  k => ?_) ..
    | with_reducible refine finish_keeps ?_ ..
    | split
    | simp only [Keeps.put_iff]

theorem resetPart_keeps {a s : State} (h : Keeps a s) (c : Cmd) :
    Keeps a (resetPart c s) := by
  unfold resetPart
  repeat' first
    | dsimp only
    | with_reducible exact k
    | with_reducible exact h
    | with_reducible refine modCmd_keeps ?_ ..
    | with_reducible refine modPart_keeps ?_ ..
    | with_reducible refine withdrawPart_keeps ?_ ..
    | with_reducible refine countReset_keeps ?_ ..
    | (have q := countReset_keeps k ..; simp only [*] at q; exact q)
    | (have q := countReset_keeps h ..; simp only [*] at q; exact q)
    | split
    | simp only [Keeps.put_iff]

theorem retestPass_keeps {a s : State} (h : Keeps a s) (c : Cmd) (passed : List Nat) :
    Keeps a (retestPass s c passed) := by
  unfold retestPass
  repeat' first
    | dsimp only
    | with_reducible exact k
    | with_reducible exact h
    | with_reducible refine each_keeps (fun _ _ k => ?_) _ ?_
    | with_reducible refine setPstate_keeps ?_ ..
    | split
    | simp only [Keeps.put_iff]

theorem passAgain_keeps {a s : State} (h : Keeps a s) (c : Cmd) (again : List Nat) :
    Keeps a (passAgain s c again) := by
  unfold passAgain
  repeat' first
    | dsimp only
    | with_reducible exact k
    | with_reducible exact h
    | with_reducible refine each_keeps (fun _ _ k => ?_) _ ?_
    | with_reducible refine katAgain_keeps ?_ ..
    | with_reducible refine modCmd_keeps ?_ ..
    | split
    | simp only [Keeps.put_iff]

theorem retest_keeps {a s : State} (h : Keeps a s) (failing : List Nat) (second : List Nat) (c : Cmd) :
    Keeps a (retest failing second c s) := by
  unfold retest
  repeat' first
    | dsimp only
    | with_reducible exact k
    | with_reducible exact h
    | with_reducible refine each_keeps (fun _ _ k => ?_) _ ?_
    | with_reducible refine checked_keeps ?_ (hact := fun _  k => ?_) ..
    | with_reducible refine finish_keeps ?_ ..
    | with_reducible refine katFail_keeps ?_ ..
    | with_reducible refine passAgain_keeps ?_ ..
    | with_reducible refine refuse_keeps ?_ ..
    | with_reducible refine retestPass_keeps ?_ ..
    | split
    | simp only [Keeps.put_iff]

theorem place_keeps {a s : State} (h : Keeps a s) (run : KatResult) (c : Cmd) :
    Keeps a (place run c s) := by
  unfold place
  repeat' first
    | dsimp only
    | with_reducible exact k
    | with_reducible exact h
    | with_reducible refine checked_keeps ?_ (hact := fun _  k => ?_) ..
    | with_reducible refine katFail_keeps ?_ ..
    | with_reducible refine noteSpares_keeps ?_ ..
    | with_reducible refine passAgain_keeps ?_ ..
    | with_reducible refine refuse_keeps ?_ ..
    | with_reducible refine retireCore_keeps ?_ ..
    | with_reducible refine setPstate_keeps ?_ ..
    | with_reducible refine waitDrain_keeps ?_ ..
    | split
    | simp only [Keeps.put_iff]

theorem rebalanceManual_keeps {a s : State} (h : Keeps a s) (n : Nat) :
    Keeps a (rebalanceManual s n) := by
  unfold rebalanceManual
  repeat' first
    | dsimp only
    | with_reducible exact k
    | with_reducible exact h
    | with_reducible refine markRebalance_keeps ?_ ..
    | split
    | simp only [Keeps.put_iff]

theorem readPolicy_keeps {a s : State} (h : Keeps a s) (c : Cmd) :
    Keeps a (readPolicy c s) := by
  unfold readPolicy
  repeat' first
    | dsimp only
    | with_reducible exact k
    | with_reducible exact h
    | with_reducible refine finish_keeps ?_ ..
    | split
    | simp only [Keeps.put_iff]

theorem writePolicy_keeps {a s : State} (h : Keeps a s) (c : Cmd) :
    Keeps a (writePolicy c s) := by
  unfold writePolicy
  repeat' first
    | dsimp only
    | with_reducible exact k
    | with_reducible exact h
    | with_reducible refine modPart_keeps ?_ ..
    | with_reducible refine readPolicy_keeps ?_ ..
    | with_reducible refine rebalanceManual_keeps ?_ ..
    | split
    | simp only [Keeps.put_iff]

theorem readProv_keeps {a s : State} (h : Keeps a s) (c : Cmd) :
    Keeps a (readProv c s) := by
  unfold readProv
  repeat' first
    | dsimp only
    | with_reducible exact k
    | with_reducible exact h
    | with_reducible refine copyOut_keeps ?_ (hfin := fun _  k => ?_) ..
    | with_reducible refine finish_keeps ?_ ..
    | split
    | simp only [Keeps.put_iff]

end Sys2Proof.Machine
end

