-- ==== Sys2Proof/Laws/KeepsHost.lean ====
section
/-! SUPPORT. What the operations of host dies, queues, commands and resets keep (Laws/Keeps.lean): one lemma each. -/

namespace Sys2Proof.Machine

theorem retargetAll_keeps {a s : State} (h : Keeps a s)  :
    Keeps a (retargetAll s) := by
  unfold retargetAll
  repeat' first
    | dsimp only
    | with_reducible exact k
    | with_reducible exact h
    | with_reducible refine each_keeps (fun _ _ k => ?_) _ ?_
    | with_reducible refine retargetPart_keeps ?_ ..
    | split
    | simp only [Keeps.put_iff]

theorem powerEntry_keeps {a s : State} (h : Keeps a s) (cause : Nat) (us : Nat) (commands : Nat) :
    Keeps a (powerEntry s cause us commands) := by
  unfold powerEntry
  repeat' first
    | dsimp only
    | with_reducible exact k
    | with_reducible exact h
    | with_reducible refine addProv_keeps ?_ ..
    | split
    | simp only [Keeps.put_iff]

theorem endMarks_keeps {a s : State} (h : Keeps a s) (n : Nat) :
    Keeps a (endMarks s n) := by
  unfold endMarks
  repeat' first
    | dsimp only
    | with_reducible exact k
    | with_reducible exact h
    | with_reducible refine each_keeps (fun _ _ k => ?_) _ ?_
    | with_reducible refine finish_keeps ?_ ..
    | split
    | simp only [Keeps.put_iff]

theorem powerReset_keeps {a s : State} (h : Keeps a s) (n : Nat) (st : Status) :
    Keeps a (powerReset s n st) := by
  unfold powerReset
  repeat' first
    | dsimp only
    | with_reducible exact k
    | with_reducible exact h
    | with_reducible refine each_keeps (fun _ _ k => ?_) _ ?_
    | with_reducible refine emptyCore_keeps ?_ ..
    | with_reducible refine endMarks_keeps ?_ ..
    | with_reducible refine failRuns_keeps ?_ ..
    | with_reducible refine modCore_keeps ?_ ..
    | with_reducible refine modPart_keeps ?_ ..
    | with_reducible refine setPstate_keeps ?_ ..
    | with_reducible refine settleGroups_keeps ?_ ..
    | with_reducible refine startResetAs_keeps ?_ ..
    | split
    | simp only [Keeps.put_iff]

theorem powerFail_keeps {a s : State} (h : Keeps a s) (cause : Nat) (us : Nat) :
    Keeps a (powerFail s cause us) := by
  unfold powerFail
  repeat' first
    | dsimp only
    | with_reducible exact k
    | with_reducible exact h
    | with_reducible refine each_keeps (fun _ _ k => ?_) _ ?_
    | with_reducible refine powerEntry_keeps ?_ ..
    | with_reducible refine powerReset_keeps ?_ ..
    | with_reducible refine stopCmd_keeps ?_ ..
    | with_reducible refine stopStart_keeps ?_ ..
    | split
    | simp only [Keeps.put_iff]

theorem powerEvent_keeps {a s : State} (h : Keeps a s) (mv : Option Nat) :
    Keeps a (powerEvent s mv) := by
  unfold powerEvent
  repeat' first
    | dsimp only
    | with_reducible exact k
    | with_reducible exact h
    | with_reducible refine bumpFresh_keeps ?_ ..
    | split
    | simp only [Keeps.put_iff]

theorem endRecovery_keeps {a s : State} (h : Keeps a s)  :
    Keeps a (endRecovery s) := by
  unfold endRecovery
  repeat' first
    | dsimp only
    | with_reducible exact k
    | with_reducible exact h
    | with_reducible refine powerEntry_keeps ?_ ..
    | with_reducible refine retargetAll_keeps ?_ ..
    | split
    | simp only [Keeps.put_iff]

theorem beginRecovery_keeps {a s : State} (h : Keeps a s)  :
    Keeps a (beginRecovery s) := by
  unfold beginRecovery
  repeat' first
    | dsimp only
    | with_reducible exact k
    | with_reducible exact h
    | with_reducible refine each_keeps (fun _ _ k => ?_) _ ?_
    | with_reducible refine endRecovery_keeps ?_ ..
    | with_reducible refine inService_keeps ?_ ..
    | with_reducible refine modCore_keeps ?_ ..
    | split
    | simp only [Keeps.put_iff]

theorem copyCatalogue_keeps {a s : State} (h : Keeps a s) (c : Cmd) :
    Keeps a (copyCatalogue s c) := by
  unfold copyCatalogue
  repeat' first
    | dsimp only
    | with_reducible exact k
    | with_reducible exact h
    | with_reducible refine copyOut_keeps ?_ (hfin := fun _  k => ?_) ..
    | with_reducible refine finish_keeps ?_ ..
    | split
    | simp only [Keeps.put_iff]

theorem joinDrain_keeps {a s : State} (h : Keeps a s) (c : Cmd) (d : Drain) :
    Keeps a (joinDrain s c d) := by
  unfold joinDrain
  repeat' first
    | dsimp only
    | with_reducible exact k
    | with_reducible exact h
    | with_reducible refine modCmd_keeps ?_ ..
    | split
    | simp only [Keeps.put_iff]

theorem readCatalogue_keeps {a s : State} (h : Keeps a s) (c : Cmd) :
    Keeps a (readCatalogue c s) := by
  unfold readCatalogue
  repeat' first
    | dsimp only
    | with_reducible exact k
    | with_reducible exact h
    | with_reducible refine copyCatalogue_keeps ?_ ..
    | with_reducible refine joinDrain_keeps ?_ ..
    | split
    | simp only [Keeps.put_iff]

theorem readCharter_keeps {a s : State} (h : Keeps a s) (c : Cmd) :
    Keeps a (readCharter c s) := by
  unfold readCharter
  repeat' first
    | dsimp only
    | with_reducible exact k
    | with_reducible exact h
    | with_reducible refine checked_keeps ?_ (hact := fun _  k => ?_) ..
    | with_reducible refine copyOut_keeps ?_ (hfin := fun _  k => ?_) ..
    | with_reducible refine finish_keeps ?_ ..
    | split
    | simp only [Keeps.put_iff]

theorem writeQuote_keeps {a s : State} (h : Keeps a s) (c : Cmd) :
    Keeps a (writeQuote s c) := by
  unfold writeQuote
  repeat' first
    | dsimp only
    | with_reducible exact k
    | with_reducible exact h
    | with_reducible refine copyOut_keeps ?_ (hfin := fun _  k => ?_) ..
    | with_reducible refine finish_keeps ?_ ..
    | split
    | simp only [Keeps.put_iff]

theorem attest_keeps {a s : State} (h : Keeps a s) (c : Cmd) :
    Keeps a (attest c s) := by
  unfold attest
  repeat' first
    | dsimp only
    | with_reducible exact k
    | with_reducible exact h
    | with_reducible refine joinDrain_keeps ?_ ..
    | with_reducible refine refuse_keeps ?_ ..
    | with_reducible refine writeQuote_keeps ?_ ..
    | split
    | simp only [Keeps.put_iff]

theorem stageBoth_keeps {a s : State} (h : Keeps a s) (c : Cmd) (staged : Bool) (bs : List Byte) :
    Keeps a (stageBoth s c staged bs) := by
  unfold stageBoth
  repeat' first
    | dsimp only
    | with_reducible exact k
    | with_reducible exact h
    | split
    | simp only [Keeps.put_iff]

theorem stageImage_keeps {a s : State} (h : Keeps a s) (c : Cmd) :
    Keeps a (stageImage c s) := by
  unfold stageImage
  repeat' first
    | dsimp only
    | with_reducible exact k
    | with_reducible exact h
    | with_reducible refine copyIn_keeps ?_ (hk := fun _ _  k => ?_) ..
    | with_reducible refine modCmd_keeps ?_ ..
    | with_reducible refine refuse_keeps ?_ ..
    | with_reducible refine stageBoth_keeps ?_ ..
    | split
    | simp only [Keeps.put_iff]

theorem stageDone_keeps {a s : State} (h : Keeps a s) (c : Cmd) (bs : List Byte) :
    Keeps a (stageDone s c bs) := by
  unfold stageDone
  repeat' first
    | dsimp only
    | with_reducible exact k
    | with_reducible exact h
    | with_reducible refine finish_keeps ?_ ..
    | with_reducible refine stageBoth_keeps ?_ ..
    | split
    | simp only [Keeps.put_iff]

theorem commitDone_keeps {a s : State} (h : Keeps a s) (c : Cmd) :
    Keeps a (commitDone s c) := by
  unfold commitDone
  extract_lets type s1
  have k : Keeps a s1 := by
    show Keeps a (if type = 5 then _ else _)
    split
    · exact h
    · exact putRecord_keeps h (commitRecord_later ..)
  refine finish_keeps ?_ ..
  exact Keeps.put_iff .. |>.2 k

theorem failBlock_keeps {a s : State} (h : Keeps a s) (k : Packet) (who : Asker) (b : Nat) :
    Keeps a (failBlock s k who b) := by
  unfold failBlock
  repeat' first
    | dsimp only
    | with_reducible exact k
    | with_reducible exact h
    | with_reducible refine ldUe_keeps ?_ ..
    | with_reducible refine modTask_keeps ?_ ..
    | with_reducible refine reply_keeps ?_ ..
    | split
    | simp only [Keeps.put_iff]

theorem serveRead_keeps {a s : State} (h : Keeps a s) (k : Packet) (who : Asker) (a_3 : Nat) (n : Nat) (alloc : Bool) :
    Keeps a (serveRead s k who a_3 n alloc) := by
  unfold serveRead
  repeat' first
    | dsimp only
    | with_reducible exact k
    | with_reducible exact h
    | with_reducible refine dropPacket_keeps ?_ ..
    | with_reducible refine failBlock_keeps ?_ ..
    | with_reducible refine ldTouch_keeps ?_ ..
    | with_reducible refine reply_keeps ?_ ..
    | split
    | simp only [Keeps.put_iff]

theorem serveWrite_keeps {a s : State} (h : Keeps a s) (k : Packet) (who : Asker) (a_3 : Nat) (alloc : Bool) (bs : List Byte) :
    Keeps a (serveWrite s k who a_3 alloc bs) := by
  unfold serveWrite
  repeat' first
    | dsimp only
    | with_reducible exact k
    | with_reducible exact h
    | with_reducible refine dropPacket_keeps ?_ ..
    | with_reducible refine failBlock_keeps ?_ ..
    | with_reducible refine ldWrite_keeps ?_ ..
    | with_reducible refine reply_keeps ?_ ..
    | split
    | simp only [Keeps.put_iff]

theorem serveAperture_keeps {a s : State} (h : Keeps a s) (k : Packet) (who : Asker) (offset : Nat) (size : Nat) (data : Option (BitVec 512)) :
    Keeps a (serveAperture s k who offset size data) := by
  unfold serveAperture
  repeat' first
    | dsimp only
    | with_reducible exact k
    | with_reducible exact h
    | with_reducible refine dropPacket_keeps ?_ ..
    | with_reducible refine place_keeps ?_ ..
    | with_reducible refine reply_keeps ?_ ..
    | with_reducible refine apAct_keeps ?_ ..
    | (have q := apAct_keeps k ..; simp only [*] at q; exact q)
    | (have q := apAct_keeps h ..; simp only [*] at q; exact q)
    | split
    | simp only [Keeps.put_iff]

theorem takeAperture_keeps {a s : State} (h : Keeps a s) (who : Asker) (data : Option (BitVec 512)) :
    Keeps a (takeAperture s who data) := by
  unfold takeAperture
  repeat' first
    | dsimp only
    | with_reducible exact k
    | with_reducible exact h
    | with_reducible refine endReqs_keeps ?_ ..
    | with_reducible refine hostLoad_keeps ?_ ..
    | split
    | simp only [Keeps.put_iff]

theorem keepPacket_keeps {a s : State} (h : Keeps a s) (k : Packet) :
    Keeps a (keepPacket s k) := by
  unfold keepPacket
  repeat' first
    | dsimp only
    | with_reducible exact k
    | with_reducible exact h
    | split
    | simp only [Keeps.put_iff]

theorem takePacketAt_keeps {a s : State} (h : Keeps a s) (k : Packet) :
    Keeps a (takePacketAt s k) := by
  unfold takePacketAt
  repeat' first
    | dsimp only
    | with_reducible exact k
    | with_reducible exact h
    | with_reducible refine dropPacket_keeps ?_ ..
    | with_reducible refine keepPacket_keeps ?_ ..
    | with_reducible refine sendFrame_keeps ?_ ..
    | with_reducible refine serveAperture_keeps ?_ ..
    | with_reducible refine serveRead_keeps ?_ ..
    | with_reducible refine serveWrite_keeps ?_ ..
    | with_reducible refine serverReply_keeps ?_ ..
    | with_reducible refine takeAperture_keeps ?_ ..
    | with_reducible refine takeRead_keeps ?_ ..
    | with_reducible refine takeWritten_keeps ?_ ..
    | with_reducible refine toPort_keeps ?_ ..
    | split
    | simp only [Keeps.put_iff]

theorem countKind_keeps {a s : State} (h : Keeps a s) (t : Nat) :
    Keeps a (countKind s t) := by
  unfold countKind
  repeat' first
    | dsimp only
    | with_reducible exact k
    | with_reducible exact h
    | with_reducible refine countDrop_keeps ?_ ..
    | split
    | simp only [Keeps.put_iff]

theorem loseRow_keeps {a s : State} (h : Keeps a s) (k : Packet) :
    Keeps a (loseRow s k) := by
  unfold loseRow
  repeat' first
    | dsimp only
    | with_reducible exact k
    | with_reducible exact h
    | with_reducible refine failStream_keeps ?_ ..
    | split
    | simp only [Keeps.put_iff]

theorem rememberLost_keeps {a s : State} (h : Keeps a s) (k : Packet) :
    Keeps a (rememberLost s k) := by
  unfold rememberLost
  repeat' first
    | dsimp only
    | with_reducible exact k
    | with_reducible exact h
    | with_reducible refine loseRow_keeps ?_ ..
    | split
    | simp only [Keeps.put_iff]

theorem losePacket_keeps {a s : State} (h : Keeps a s) (k : Packet) :
    Keeps a (losePacket s k) := by
  unfold losePacket
  repeat' first
    | dsimp only
    | with_reducible exact k
    | with_reducible exact h
    | with_reducible refine dropPacket_keeps ?_ ..
    | with_reducible refine rememberLost_keeps ?_ ..
    | split
    | simp only [Keeps.put_iff]

theorem expire_keeps {a s : State} (h : Keeps a s) (k : Packet) :
    Keeps a (expire s k) := by
  unfold expire
  repeat' first
    | dsimp only
    | with_reducible exact k
    | with_reducible exact h
    | with_reducible refine countDrop_keeps ?_ ..
    | with_reducible refine losePacket_keeps ?_ ..
    | split
    | simp only [Keeps.put_iff]

theorem modLink_keeps {a s : State} (h : Keeps a s) (t : Nat) (n : Nat) (f : NiLink → NiLink) :
    Keeps a (modLink s t n f) := by
  unfold modLink
  repeat' first
    | dsimp only
    | with_reducible exact k
    | with_reducible exact h
    | with_reducible refine modTile_keeps ?_ ..
    | split
    | simp only [Keeps.put_iff]

theorem addLost_keeps {a s : State} (h : Keeps a s) (t : Nat) (n : Nat) (k : Nat) :
    Keeps a (addLost s t n k) := by
  unfold addLost
  repeat' first
    | dsimp only
    | with_reducible exact k
    | with_reducible exact h
    | with_reducible refine modLink_keeps ?_ ..
    | split
    | simp only [Keeps.put_iff]

theorem advance_keeps {a s : State} (h : Keeps a s) (k : Packet) :
    Keeps a (advance s k) := by
  unfold advance
  repeat' first
    | dsimp only
    | with_reducible exact k
    | with_reducible exact h
    | with_reducible refine moved_keeps ?_ ..
    | with_reducible refine noteVc0_keeps ?_ ..
    | with_reducible refine place_keeps ?_ ..
    | split
    | simp only [Keeps.put_iff]

theorem sendFlit_keeps {a s : State} (h : Keeps a s) (k : Packet) :
    Keeps a (sendFlit s k) := by
  unfold sendFlit
  repeat' first
    | dsimp only
    | with_reducible exact k
    | with_reducible exact h
    | with_reducible refine advance_keeps ?_ ..
    | split
    | simp only [Keeps.put_iff]

theorem routePacket_keeps {a s : State} (h : Keeps a s) (k : Packet) :
    Keeps a (routePacket s k) := by
  unfold routePacket
  repeat' first
    | dsimp only
    | with_reducible exact k
    | with_reducible exact h
    | with_reducible refine addLost_keeps ?_ ..
    | with_reducible refine countKind_keeps ?_ ..
    | with_reducible refine dropPacket_keeps ?_ ..
    | with_reducible refine expire_keeps ?_ ..
    | with_reducible refine losePacket_keeps ?_ ..
    | with_reducible refine nackPacket_keeps ?_ ..
    | with_reducible refine place_keeps ?_ ..
    | with_reducible refine sendFlit_keeps ?_ ..
    | split
    | simp only [Keeps.put_iff]

theorem deliverPacket_keeps {a s : State} (h : Keeps a s) (k : Packet) :
    Keeps a (deliverPacket s k) := by
  unfold deliverPacket
  repeat' first
    | dsimp only
    | with_reducible exact k
    | with_reducible exact h
    | with_reducible refine countDrop_keeps ?_ ..
    | with_reducible refine countKind_keeps ?_ ..
    | with_reducible refine dropPacket_keeps ?_ ..
    | with_reducible refine expire_keeps ?_ ..
    | with_reducible refine nackPacket_keeps ?_ ..
    | with_reducible refine takePacketAt_keeps ?_ ..
    | split
    | simp only [Keeps.put_iff]

theorem injectAgain_keeps {a s : State} (h : Keeps a s) (k : Packet) :
    Keeps a (injectAgain s k) := by
  unfold injectAgain
  repeat' first
    | dsimp only
    | with_reducible exact k
    | with_reducible exact h
    | with_reducible refine enqueue_keeps ?_ ..
    | with_reducible refine place_keeps ?_ ..
    | split
    | simp only [Keeps.put_iff]

theorem unanswered_keeps {a s : State} (h : Keeps a s) (r : Req) :
    Keeps a (unanswered s r) := by
  unfold unanswered
  repeat' first
    | dsimp only
    | with_reducible exact k
    | with_reducible exact h
    | with_reducible refine addLasting_keeps ?_ ..
    | split
    | simp only [Keeps.put_iff]

theorem replyTimeout_keeps {a s : State} (h : Keeps a s) (r : Req) :
    Keeps a (replyTimeout s r) := by
  unfold replyTimeout
  repeat' first
    | dsimp only
    | with_reducible exact k
    | with_reducible exact h
    | with_reducible refine each_keeps (fun _ _ k => ?_) _ ?_
    | with_reducible refine endAsker_keeps ?_ ..
    | with_reducible refine injectAgain_keeps ?_ ..
    | with_reducible refine taskTimeout_keeps ?_ ..
    | with_reducible refine unanswered_keeps ?_ ..
    | split
    | simp only [Keeps.put_iff]

theorem downLink_keeps {a s : State} (h : Keeps a s) (t : Nat) (n : Nat) :
    Keeps a (downLink s t n) := by
  unfold downLink
  repeat' first
    | dsimp only
    | with_reducible exact k
    | with_reducible exact h
    | with_reducible refine each_keeps (fun _ _ k => ?_) _ ?_
    | with_reducible refine modLink_keeps ?_ ..
    | split
    | simp only [Keeps.put_iff]

theorem dropQueued_keeps {a s : State} (h : Keeps a s) (t : Nat) (e : Nat) :
    Keeps a (dropQueued s t e) := by
  unfold dropQueued
  repeat' first
    | dsimp only
    | with_reducible exact k
    | with_reducible exact h
    | with_reducible refine each_keeps (fun _ _ k => ?_) _ ?_
    | with_reducible refine addLost_keeps ?_ ..
    | with_reducible refine losePacket_keeps ?_ ..
    | split
    | simp only [Keeps.put_iff]

theorem failLink_keeps {a s : State} (h : Keeps a s) (t : Nat) (n : Nat) :
    Keeps a (failLink s t n) := by
  unfold failLink
  repeat' first
    | dsimp only
    | with_reducible exact k
    | with_reducible exact h
    | with_reducible refine addLasting_keeps ?_ ..
    | with_reducible refine downLink_keeps ?_ ..
    | with_reducible refine dropQueued_keeps ?_ ..
    | with_reducible refine reroute_keeps ?_ ..
    | split
    | simp only [Keeps.put_iff]

theorem linkTransient_keeps {a s : State} (h : Keeps a s) (a_1 : LinkRef) :
    Keeps a (linkTransient s a_1) := by
  unfold linkTransient
  repeat' first
    | dsimp only
    | with_reducible exact k
    | with_reducible exact h
    | with_reducible refine modLink_keeps ?_ ..
    | with_reducible refine modTransient_keeps ?_ ..
    | split
    | simp only [Keeps.put_iff]

theorem linkLasting_keeps {a s : State} (h : Keeps a s) (link : LinkRef) (group : Option Nat) :
    Keeps a (linkLasting s link group) := by
  unfold linkLasting
  repeat' first
    | dsimp only
    | with_reducible exact k
    | with_reducible exact h
    | with_reducible refine failLink_keeps ?_ ..
    | with_reducible refine modLink_keeps ?_ ..
    | with_reducible refine moduleFail_keeps ?_ ..
    | with_reducible refine stackFailed_keeps ?_ ..
    | with_reducible refine tileFailed_keeps ?_ ..
    | split
    | simp only [Keeps.put_iff]

theorem setPhase_keeps {a s : State} (h : Keeps a s) (id : Nat) (x : DrainPhase) :
    Keeps a (setPhase s id x) := by
  unfold setPhase
  repeat' first
    | dsimp only
    | with_reducible exact k
    | with_reducible exact h
    | split
    | simp only [Keeps.put_iff]

theorem writeRoutes_keeps {a s : State} (h : Keeps a s) (l : List (Nat × Rte)) :
    Keeps a (writeRoutes s l) := by
  unfold writeRoutes
  repeat' first
    | dsimp only
    | with_reducible exact k
    | with_reducible exact h
    | with_reducible refine each_keeps (fun _ _ k => ?_) _ ?_
    | with_reducible refine addProv_keeps ?_ ..
    | with_reducible refine modTile_keeps ?_ ..
    | split
    | simp only [Keeps.put_iff]

theorem writeDrain_keeps {a s : State} (h : Keeps a s) (d : Drain) :
    Keeps a (writeDrain s d) := by
  unfold writeDrain
  repeat' first
    | dsimp only
    | with_reducible exact k
    | with_reducible exact h
    | with_reducible refine each_keeps (fun _ _ k => ?_) _ ?_
    | with_reducible refine endCopy_keeps ?_ ..
    | with_reducible refine setPhase_keeps ?_ ..
    | with_reducible refine writeCats_keeps ?_ ..
    | with_reducible refine writeRoutes_keeps ?_ ..
    | split
    | simp only [Keeps.put_iff]

theorem released_keeps {a s : State} (h : Keeps a s) (uid : Nat) :
    Keeps a (released s uid) := by
  unfold released
  repeat' first
    | dsimp only
    | with_reducible exact k
    | with_reducible exact h
    | with_reducible refine attest_keeps ?_ ..
    | with_reducible refine finish_keeps ?_ ..
    | with_reducible refine readCatalogue_keeps ?_ ..
    | split
    | simp only [Keeps.put_iff]

theorem releasedCats_keeps {a s : State} (h : Keeps a s) (d : Drain) :
    Keeps a (releasedCats s d) := by
  unfold releasedCats
  repeat' first
    | dsimp only
    | with_reducible exact k
    | with_reducible exact h
    | with_reducible refine each_keeps (fun _ _ k => ?_) _ ?_
    | with_reducible refine accessed_keeps ?_ ..
    | split
    | simp only [Keeps.put_iff]

theorem takeCtrl_keeps {a s : State} (h : Keeps a s) (a_1 : CtrlMsg) :
    Keeps a (takeCtrl s a_1) := by
  unfold takeCtrl
  repeat' first
    | dsimp only
    | with_reducible exact k
    | with_reducible exact h
    | with_reducible refine modCore_keeps ?_ ..
    | with_reducible refine stepMark_keeps ?_ ..
    | split
    | simp only [Keeps.put_iff]

theorem hearCurator_keeps {a s : State} (h : Keeps a s) (t : Nat) :
    Keeps a (hearCurator s t) := by
  unfold hearCurator
  repeat' first
    | dsimp only
    | with_reducible exact k
    | with_reducible exact h
    | with_reducible refine setCurator_keeps ?_ ..
    | split
    | simp only [Keeps.put_iff]

theorem syncLasting_keeps {a s : State} (h : Keeps a s) (a_1 : SyncRef) :
    Keeps a (syncLasting s a_1) := by
  unfold syncLasting
  repeat' first
    | dsimp only
    | with_reducible exact k
    | with_reducible exact h
    | with_reducible refine stackFailed_keeps ?_ ..
    | with_reducible refine tileFailed_keeps ?_ ..
    | split
    | simp only [Keeps.put_iff]

theorem modStream_keeps {a s : State} (h : Keeps a s) (id : Nat) (f : BStream → BStream) :
    Keeps a (modStream s id f) := by
  unfold modStream
  repeat' first
    | dsimp only
    | with_reducible exact k
    | with_reducible exact h
    | split
    | simp only [Keeps.put_iff]

theorem passRow_keeps {a s : State} (h : Keeps a s) (x : BStream) (src : Nat) (t : Nat) (k : Nat) (bs : List Byte) :
    Keeps a (passRow s x src t k bs) := by
  unfold passRow
  repeat' first
    | dsimp only
    | with_reducible exact k
    | with_reducible exact h
    | with_reducible refine each_keeps (fun _ _ k => ?_) _ ?_
    | with_reducible refine inject_keeps ?_ ..
    | split
    | simp only [Keeps.put_iff]

theorem readRow_keeps {a s : State} (h : Keeps a s) (x : BStream) (k : Nat) :
    Keeps a (readRow s x k).1 := by
  unfold readRow
  repeat' first
    | dsimp only
    | with_reducible exact k
    | with_reducible exact h
    | with_reducible refine each_keeps (fun _ _ k => ?_) _ ?_
    | with_reducible refine failStream_keeps ?_ ..
    | with_reducible refine ldTouch_keeps ?_ ..
    | with_reducible refine ldUe_keeps ?_ ..
    | with_reducible refine modStream_keeps ?_ ..
    | with_reducible refine modTask_keeps ?_ ..
    | split
    | simp only [Keeps.put_iff]

theorem countRow_keeps {a s : State} (h : Keeps a s) (t : Nat) (x : BStream) :
    Keeps a (countRow s t x) := by
  unfold countRow
  repeat' first
    | dsimp only
    | with_reducible exact k
    | with_reducible exact h
    | with_reducible refine modStream_keeps ?_ ..
    | split
    | simp only [Keeps.put_iff]

theorem takeRow_keeps {a s : State} (h : Keeps a s) (t : Nat) (x : BStream) :
    Keeps a (takeRow s t x) := by
  unfold takeRow
  repeat' first
    | dsimp only
    | with_reducible exact k
    | with_reducible exact h
    | with_reducible refine countRow_keeps ?_ ..
    | with_reducible refine dropPacket_keeps ?_ ..
    | with_reducible refine failStream_keeps ?_ ..
    | with_reducible refine passRow_keeps ?_ ..
    | with_reducible refine readRow_keeps ?_ ..
    | (have q := readRow_keeps k ..; simp only [*] at q; exact q)
    | (have q := readRow_keeps h ..; simp only [*] at q; exact q)
    | (rename_i e; have q := congrArg Prod.fst e; dsimp only at q; subst q)
    | split
    | simp only [Keeps.put_iff]

theorem takeStreamRow_keeps {a s : State} (h : Keeps a s) (m : Nat × Nat) (k : Nat) (bs : List Byte) :
    Keeps a (takeStreamRow s m k bs) := by
  unfold takeStreamRow
  repeat' first
    | dsimp only
    | with_reducible exact k
    | with_reducible exact h
    | with_reducible refine modCore_keeps ?_ ..
    | with_reducible refine seeAccesses_keeps ?_ ..
    | split
    | simp only [Keeps.put_iff]

theorem endMember_keeps {a s : State} (h : Keeps a s) (m : Nat × Nat) :
    Keeps a (endMember s m) := by
  unfold endMember
  repeat' first
    | dsimp only
    | with_reducible exact k
    | with_reducible exact h
    | with_reducible refine finishColl_keeps ?_ ..
    | with_reducible refine finishOk_keeps ?_ ..
    | split
    | simp only [Keeps.put_iff]

theorem settleStream_keeps {a s : State} (h : Keeps a s) (id : Nat) :
    Keeps a (settleStream s id) := by
  unfold settleStream
  repeat' first
    | dsimp only
    | with_reducible exact k
    | with_reducible exact h
    | with_reducible refine each_keeps (fun _ _ k => ?_) _ ?_
    | with_reducible refine finishOk_keeps ?_ ..
    | with_reducible refine sendReply_keeps ?_ ..
    | split
    | simp only [Keeps.put_iff]

theorem writeRows_keeps {a s : State} (h : Keeps a s) (id : Nat) (m : Nat × Nat) (n : Nat) :
    Keeps a (writeRows s id m n) := by
  unfold writeRows
  repeat' first
    | dsimp only
    | with_reducible exact k
    | with_reducible exact h
    | with_reducible refine each_keeps (fun _ _ k => ?_) _ ?_
    | with_reducible refine modStream_keeps ?_ ..
    | with_reducible refine takeStreamRow_keeps ?_ ..
    | split
    | simp only [Keeps.put_iff]

theorem drainBuffers_keeps {a s : State} (h : Keeps a s) (x : BStream) (mine : List (Nat × Nat)) :
    Keeps a (drainBuffers s x mine) := by
  unfold drainBuffers
  repeat' first
    | dsimp only
    | with_reducible exact k
    | with_reducible exact h
    | with_reducible refine each_keeps (fun _ _ k => ?_) _ ?_
    | with_reducible refine bumpFresh_keeps ?_ ..
    | with_reducible refine writeRows_keeps ?_ ..
    | split
    | simp only [Keeps.put_iff]

theorem endDie_keeps {a s : State} (h : Keeps a s) (x : BStream) (mine : List (Nat × Nat)) :
    Keeps a (endDie s x mine) := by
  unfold endDie
  repeat' first
    | dsimp only
    | with_reducible exact k
    | with_reducible exact h
    | with_reducible refine each_keeps (fun _ _ k => ?_) _ ?_
    | with_reducible refine endMember_keeps ?_ ..
    | with_reducible refine settleStream_keeps ?_ ..
    | with_reducible refine writeRows_keeps ?_ ..
    | split
    | simp only [Keeps.put_iff]

theorem sendBeat_keeps {a s : State} (h : Keeps a s) (x : BStream) (die : Nat) :
    Keeps a (sendBeat s x die) := by
  unfold sendBeat
  repeat' first
    | dsimp only
    | with_reducible exact k
    | with_reducible exact h
    | with_reducible refine endDie_keeps ?_ ..
    | with_reducible refine modStream_keeps ?_ ..
    | split
    | simp only [Keeps.put_iff]

theorem failBeat_keeps {a s : State} (h : Keeps a s) (x : BStream) (die : Nat) :
    Keeps a (failBeat s x die) := by
  unfold failBeat
  repeat' first
    | dsimp only
    | with_reducible exact k
    | with_reducible exact h
    | with_reducible refine modStream_keeps ?_ ..
    | with_reducible refine stackFailed_keeps ?_ ..
    | split
    | simp only [Keeps.put_iff]

theorem beat_keeps {a s : State} (h : Keeps a s) (x : BStream) (die : Nat) (ok : Bool) :
    Keeps a (beat s x die ok) := by
  unfold beat
  repeat' first
    | dsimp only
    | with_reducible exact k
    | with_reducible exact h
    | with_reducible refine drainBuffers_keeps ?_ ..
    | with_reducible refine endDie_keeps ?_ ..
    | with_reducible refine failBeat_keeps ?_ ..
    | with_reducible refine sendBeat_keeps ?_ ..
    | split
    | simp only [Keeps.put_iff]

theorem startDecided_keeps {a s : State} (h : Keeps a s) (n : Nat) :
    Keeps a (startDecided s n) := by
  unfold startDecided
  repeat' first
    | dsimp only
    | with_reducible exact k
    | with_reducible exact h
    | with_reducible refine startReset_keeps ?_ ..
    | split
    | simp only [Keeps.put_iff]

theorem releaseReset_keeps {a s : State} (h : Keeps a s) (n : Nat) (failing : List Nat) (second : List Nat) :
    Keeps a (releaseReset s n failing second) := by
  unfold releaseReset
  repeat' first
    | dsimp only
    | with_reducible exact k
    | with_reducible exact h
    | with_reducible refine endRecovery_keeps ?_ ..
    | with_reducible refine releasePart_keeps ?_ ..
    | split
    | simp only [Keeps.put_iff]

theorem endHold_keeps {a s : State} (h : Keeps a s) (n : Nat) :
    Keeps a (endHold s n) := by
  unfold endHold
  repeat' first
    | dsimp only
    | with_reducible exact k
    | with_reducible exact h
    | with_reducible refine modPart_keeps ?_ ..
    | split
    | simp only [Keeps.put_iff]

theorem accessionDone_keeps {a s : State} (h : Keeps a s) (n : Nat) (l : Nat) (second : Bool) :
    Keeps a (accessionDone s n l second) := by
  unfold accessionDone
  repeat' first
    | dsimp only
    | with_reducible exact k
    | with_reducible exact h
    | with_reducible refine addDrain_keeps ?_ ..
    | with_reducible refine katAgain_keeps ?_ ..
    | with_reducible refine modPart_keeps ?_ ..
    | split
    | simp only [Keeps.put_iff]

theorem spareOrEscalate_keeps {a s : State} (h : Keeps a s) (n : Nat) (former : Nat) :
    Keeps a (spareOrEscalate s n former) := by
  unfold spareOrEscalate
  repeat' first
    | dsimp only
    | with_reducible exact k
    | with_reducible exact h
    | with_reducible refine exhausted_keeps ?_ ..
    | with_reducible refine stageSpares_keeps ?_ ..
    | (have q := stageSpares_keeps k ..; simp only [*] at q; exact q)
    | (have q := stageSpares_keeps h ..; simp only [*] at q; exact q)
    | split
    | simp only [Keeps.put_iff]

theorem accessionFail_keeps {a s : State} (h : Keeps a s) (n : Nat) (l : Nat) (word : Nat) :
    Keeps a (accessionFail s n l word) := by
  unfold accessionFail
  repeat' first
    | dsimp only
    | with_reducible exact k
    | with_reducible exact h
    | with_reducible refine katFail_keeps ?_ ..
    | with_reducible refine modPart_keeps ?_ ..
    | with_reducible refine retireCore_keeps ?_ ..
    | with_reducible refine spareOrEscalate_keeps ?_ ..
    | split
    | simp only [Keeps.put_iff]

theorem stageStraggler_keeps {a s : State} (h : Keeps a s) (p : Nat) (run : KatResult) :
    Keeps a (stageStraggler s p run) := by
  unfold stageStraggler
  repeat' first
    | dsimp only
    | with_reducible exact k
    | with_reducible exact h
    | with_reducible refine inService_keeps ?_ ..
    | with_reducible refine katAgain_keeps ?_ ..
    | with_reducible refine katFail_keeps ?_ ..
    | with_reducible refine modPart_keeps ?_ ..
    | with_reducible refine noteSpares_keeps ?_ ..
    | with_reducible refine retireCore_keeps ?_ ..
    | with_reducible refine setPstate_keeps ?_ ..
    | split
    | simp only [Keeps.put_iff]

theorem rewriteCheck_keeps {a s : State} (h : Keeps a s) (p : Nat) (k : MemKind) (w : Nat) (clean : Bool) :
    Keeps a (rewriteCheck s p k w clean) := by
  unfold rewriteCheck
  repeat' first
    | dsimp only
    | with_reducible exact k
    | with_reducible exact h
    | with_reducible refine addLasting_keeps ?_ ..
    | with_reducible refine disposeCore_keeps ?_ ..
    | with_reducible refine modCore_keeps ?_ ..
    | split
    | simp only [Keeps.put_iff]

theorem fenceFor_keeps {a s : State} (h : Keeps a s) (t : Nat) (d : Nat) (cause : FenceCause) :
    Keeps a (fenceFor s t d cause) := by
  unfold fenceFor
  repeat' first
    | dsimp only
    | with_reducible exact k
    | with_reducible exact h
    | with_reducible refine bumpFresh_keeps ?_ ..
    | with_reducible refine stackFailed_keeps ?_ ..
    | split
    | simp only [Keeps.put_iff]

theorem silence_keeps {a s : State} (h : Keeps a s) (t : Nat) :
    Keeps a (silence s t) := by
  unfold silence
  repeat' first
    | dsimp only
    | with_reducible exact k
    | with_reducible exact h
    | with_reducible refine modCurator_keeps ?_ ..
    | split
    | simp only [Keeps.put_iff]

theorem restartTimeout_keeps {a s : State} (h : Keeps a s) (t : Nat) :
    Keeps a (restartTimeout s t) := by
  unfold restartTimeout
  repeat' first
    | dsimp only
    | with_reducible exact k
    | with_reducible exact h
    | with_reducible refine modCurator_keeps ?_ ..
    | with_reducible refine tileFailed_keeps ?_ ..
    | split
    | simp only [Keeps.put_iff]

theorem restartReset_keeps {a s : State} (h : Keeps a s) (n : Nat) :
    Keeps a (restartReset s n) := by
  unfold restartReset
  repeat' first
    | dsimp only
    | with_reducible exact k
    | with_reducible exact h
    | with_reducible refine modPart_keeps ?_ ..
    | with_reducible refine startReset_keeps ?_ ..
    | split
    | simp only [Keeps.put_iff]

theorem retakeQuotes_keeps {a s : State} (h : Keeps a s)  :
    Keeps a (retakeQuotes s) := by
  unfold retakeQuotes
  extract_lets again
  exact h.others again fun c => by
    show (again c).uid = c.uid
    unfold again; split <;> rfl

theorem takeover_keeps {a s : State} (h : Keeps a s)  :
    Keeps a (takeover s) := by
  unfold takeover
  repeat' first
    | dsimp only
    | with_reducible exact k
    | with_reducible exact h
    | with_reducible refine each_keeps (fun _ _ k => ?_) _ ?_
    | with_reducible refine addProv_keeps ?_ ..
    | with_reducible refine modCurator_keeps ?_ ..
    | with_reducible refine outOfService_keeps ?_ ..
    | with_reducible refine restartReset_keeps ?_ ..
    | with_reducible refine retakeQuotes_keeps ?_ ..
    | split
    | simp only [Keeps.put_iff]

theorem summarise_keeps {a s : State} (h : Keeps a s) (u : Nat) :
    Keeps a (summarise s u) := by
  unfold summarise
  repeat' first
    | dsimp only
    | with_reducible exact k
    | with_reducible exact h
    | with_reducible refine addProv_keeps ?_ ..
    | split
    | simp only [Keeps.put_iff]

theorem setStack_keeps {a s : State} (h : Keeps a s) (t : Nat) (d : Nat) (stages : Nat) :
    Keeps a (setStack s t d stages) := by
  unfold setStack
  repeat' first
    | dsimp only
    | with_reducible exact k
    | with_reducible exact h
    | with_reducible refine each_keeps (fun _ _ k => ?_) _ ?_
    | with_reducible refine modCore_keeps ?_ ..
    | split
    | simp only [Keeps.put_iff]

theorem tapScan_keeps {a s : State} (h : Keeps a s) (ir : Nat) (out : List Bool) :
    Keeps a (tapScan s ir out) := by
  unfold tapScan
  repeat' first
    | dsimp only
    | with_reducible exact k
    | with_reducible exact h
    | split
    | simp only [Keeps.put_iff]

theorem tapTake_keeps {a s : State} (h : Keeps a s) (ir : Nat) (w : Nat) :
    Keeps a (tapTake s ir w) := by
  unfold tapTake
  repeat' first
    | dsimp only
    | with_reducible exact k
    | with_reducible exact h
    | with_reducible refine bumpFresh_keeps ?_ ..
    | with_reducible refine tapScan_keeps ?_ ..
    | split
    | simp only [Keeps.put_iff]

theorem boundaryScan_keeps {a s : State} (h : Keeps a s) (ir : Nat) (b : BitVec 48) :
    Keeps a (boundaryScan s ir b) := by
  unfold boundaryScan
  repeat' first
    | dsimp only
    | with_reducible exact k
    | with_reducible exact h
    | with_reducible refine tapScan_keeps ?_ ..
    | split
    | simp only [Keeps.put_iff]

theorem setI3cAddr_keeps {a s : State} (h : Keeps a s) (a_1 : Option (BitVec 7)) :
    Keeps a (setI3cAddr s a_1) := by
  unfold setI3cAddr
  repeat' first
    | dsimp only
    | with_reducible exact k
    | with_reducible exact h
    | split
    | simp only [Keeps.put_iff]

theorem i3cSend_keeps {a s : State} (h : Keeps a s) (bs : List Byte) :
    Keeps a (i3cSend s bs) := by
  unfold i3cSend
  repeat' first
    | dsimp only
    | with_reducible exact k
    | with_reducible exact h
    | split
    | simp only [Keeps.put_iff]

theorem setStage_keeps {a s : State} (h : Keeps a s) (x : Stage) :
    Keeps a (setStage s x) := by
  unfold setStage
  repeat' first
    | dsimp only
    | with_reducible exact k
    | with_reducible exact h
    | split
    | simp only [Keeps.put_iff]

theorem enterRun_keeps {a s : State} (h : Keeps a s)  :
    Keeps a (enterRun s) := by
  unfold enterRun
  repeat' first
    | dsimp only
    | with_reducible exact k
    | with_reducible exact h
    | split
    | simp only [Keeps.put_iff]

theorem extendChain_keeps {a s : State} (h : Keeps a s) (type : Nat) (bs : List Byte) :
    Keeps a (extendChain s type bs) := by
  unfold extendChain
  repeat' first
    | dsimp only
    | with_reducible exact k
    | with_reducible exact h
    | split
    | simp only [Keeps.put_iff]

theorem recordOther_keeps {a s : State} (h : Keeps a s)  :
    Keeps a (recordOther s) := by
  unfold recordOther
  repeat' first
    | dsimp only
    | with_reducible exact k
    | with_reducible exact h
    | with_reducible refine addProv_keeps ?_ ..
    | with_reducible refine bumpFresh_keeps ?_ ..
    | split
    | simp only [Keeps.put_iff]

theorem noFirstStage_keeps {a s : State} (h : Keeps a s)  :
    Keeps a (noFirstStage s) := by
  unfold noFirstStage
  repeat' first
    | dsimp only
    | with_reducible exact k
    | with_reducible exact h
    | split
    | simp only [Keeps.put_iff]

theorem firstGen_keeps {a s : State} (h : Keeps a s)  :
    Keeps a (firstGen s) := by
  unfold firstGen
  repeat' first
    | dsimp only
    | with_reducible exact k
    | with_reducible exact h
    | with_reducible refine each_keeps (fun _ _ k => ?_) _ ?_
    | with_reducible refine modPart_keeps ?_ ..
    | split
    | simp only [Keeps.put_iff]

theorem countBoot_keeps {a s : State} (h : Keeps a s)  :
    Keeps a (countBoot s) := by
  unfold countBoot
  dsimp only
  simp only [Keeps.put_iff]
  refine putRecord_keeps h ⟨fun _ => Nat.le_refl _, fun hk => ?_⟩
  dsimp only
  omega

theorem recordLoss_keeps {a s : State} (h : Keeps a s)  :
    Keeps a (recordLoss s) := by
  unfold recordLoss
  repeat' first
    | dsimp only
    | with_reducible exact k
    | with_reducible exact h
    | with_reducible refine addProv_keeps ?_ ..
    | split
    | simp only [Keeps.put_iff]

theorem startCurators_keeps {a s : State} (h : Keeps a s)  :
    Keeps a (startCurators s) := by
  unfold startCurators
  repeat' first
    | dsimp only
    | with_reducible exact k
    | with_reducible exact h
    | with_reducible refine each_keeps (fun _ _ k => ?_) _ ?_
    | with_reducible refine setCurator_keeps ?_ ..
    | split
    | simp only [Keeps.put_iff]

theorem noCurators_keeps {a s : State} (h : Keeps a s)  :
    Keeps a (noCurators s) := by
  unfold noCurators
  repeat' first
    | dsimp only
    | with_reducible exact k
    | with_reducible exact h
    | with_reducible refine each_keeps (fun _ _ k => ?_) _ ?_
    | with_reducible refine stopStart_keeps ?_ ..
    | with_reducible refine withdrawPart_keeps ?_ ..
    | split
    | simp only [Keeps.put_iff]

theorem loadMicrocode_keeps {a s : State} (h : Keeps a s)  :
    Keeps a (loadMicrocode s) := by
  unfold loadMicrocode
  repeat' first
    | dsimp only
    | with_reducible exact k
    | with_reducible exact h
    | with_reducible refine extendChain_keeps ?_ ..
    | with_reducible refine recordOther_keeps ?_ ..
    | split
    | simp only [Keeps.put_iff]

theorem recordFirstTile_keeps {a s : State} (h : Keeps a s)  :
    Keeps a (recordFirstTile s) := by
  unfold recordFirstTile
  repeat' first
    | dsimp only
    | with_reducible exact k
    | with_reducible exact h
    | with_reducible refine addLasting_keeps ?_ ..
    | with_reducible refine addProv_keeps ?_ ..
    | split
    | simp only [Keeps.put_iff]

theorem withdrawTile_keeps {a s : State} (h : Keeps a s) (t : Nat) (cls : Nat) :
    Keeps a (withdrawTile s t cls) := by
  unfold withdrawTile
  repeat' first
    | dsimp only
    | with_reducible exact k
    | with_reducible exact h
    | with_reducible refine withdrawPart_keeps ?_ ..
    | split
    | simp only [Keeps.put_iff]

theorem loseFirstTile_keeps {a s : State} (h : Keeps a s)  :
    Keeps a (loseFirstTile s) := by
  unfold loseFirstTile
  repeat' first
    | dsimp only
    | with_reducible exact k
    | with_reducible exact h
    | with_reducible refine recordFirstTile_keeps ?_ ..
    | with_reducible refine withdrawTile_keeps ?_ ..
    | split
    | simp only [Keeps.put_iff]

theorem afterSeal_keeps {a s : State} (h : Keeps a s) (rejected : Nat) :
    Keeps a (afterSeal s rejected) := by
  unfold afterSeal
  repeat' first
    | dsimp only
    | with_reducible exact k
    | with_reducible exact h
    | with_reducible refine each_keeps (fun _ _ k => ?_) _ ?_
    | with_reducible refine countBoot_keeps ?_ ..
    | with_reducible refine extendChain_keeps ?_ ..
    | with_reducible refine loadMicrocode_keeps ?_ ..
    | with_reducible refine loseFirstTile_keeps ?_ ..
    | with_reducible refine noCurators_keeps ?_ ..
    | with_reducible refine recordLoss_keeps ?_ ..
    | with_reducible refine recordOther_keeps ?_ ..
    | with_reducible refine setPstate_keeps ?_ ..
    | with_reducible refine setStage_keeps ?_ ..
    | with_reducible refine startCurators_keeps ?_ ..
    | split
    | simp only [Keeps.put_iff]

theorem crossingFails_keeps {a s : State} (h : Keeps a s) (t : Nat) (n : Nat) :
    Keeps a (crossingFails s t n) := by
  unfold crossingFails
  repeat' first
    | dsimp only
    | with_reducible exact k
    | with_reducible exact h
    | with_reducible refine addLasting_keeps ?_ ..
    | with_reducible refine downLink_keeps ?_ ..
    | split
    | simp only [Keeps.put_iff]

theorem dieFails_keeps {a s : State} (h : Keeps a s) (t : Nat) (d : Nat) :
    Keeps a (dieFails s t d) := by
  unfold dieFails
  repeat' first
    | dsimp only
    | with_reducible exact k
    | with_reducible exact h
    | with_reducible refine addLasting_keeps ?_ ..
    | with_reducible refine retireStack_keeps ?_ ..
    | split
    | simp only [Keeps.put_iff]

theorem replaceAgain_keeps {a s : State} (h : Keeps a s)  :
    Keeps a (replaceAgain s) := by
  unfold replaceAgain
  repeat' first
    | dsimp only
    | with_reducible exact k
    | with_reducible exact h
    | with_reducible refine each_keeps (fun _ _ k => ?_) _ ?_
    | with_reducible refine modDevice_keeps ?_ ..
    | split
    | simp only [Keeps.put_iff]

theorem deviceFailsTraining_keeps {a s : State} (h : Keeps a s) (d : Nat) :
    Keeps a (deviceFailsTraining s d) := by
  unfold deviceFailsTraining
  repeat' first
    | dsimp only
    | with_reducible exact k
    | with_reducible exact h
    | with_reducible refine finishReplacements_keeps ?_ ..
    | with_reducible refine modDevice_keeps ?_ ..
    | with_reducible refine replaceLost_keeps ?_ ..
    | split
    | simp only [Keeps.put_iff]

theorem trained_keeps {a s : State} (h : Keeps a s) (r : TrainingResult) :
    Keeps a (trained s r) := by
  unfold trained
  repeat' first
    | dsimp only
    | with_reducible exact k
    | with_reducible exact h
    | with_reducible refine each_keeps (fun _ _ k => ?_) _ ?_
    | with_reducible refine crossingFails_keeps ?_ ..
    | with_reducible refine deviceFailsTraining_keeps ?_ ..
    | with_reducible refine dieFails_keeps ?_ ..
    | with_reducible refine modDevice_keeps ?_ ..
    | with_reducible refine modHost_keeps ?_ ..
    | with_reducible refine modLink_keeps ?_ ..
    | with_reducible refine replaceAgain_keeps ?_ ..
    | with_reducible refine setStage_keeps ?_ ..
    | split
    | simp only [Keeps.put_iff]

theorem waveOn_keeps {a s : State} (h : Keeps a s)  :
    Keeps a (waveOn s) := by
  unfold waveOn
  repeat' first
    | dsimp only
    | with_reducible exact k
    | with_reducible exact h
    | with_reducible refine each_keeps (fun _ _ k => ?_) _ ?_
    | with_reducible refine modCore_keeps ?_ ..
    | with_reducible refine setPstate_keeps ?_ ..
    | with_reducible refine setStage_keeps ?_ ..
    | split
    | simp only [Keeps.put_iff]

theorem startFail_keeps {a s : State} (h : Keeps a s) (p : Nat) :
    Keeps a (startFail s p) := by
  unfold startFail
  repeat' first
    | dsimp only
    | with_reducible exact k
    | with_reducible exact h
    | with_reducible refine katFail_keeps ?_ ..
    | with_reducible refine retireCore_keeps ?_ ..
    | split
    | simp only [Keeps.put_iff]

theorem broadcastMicrocode_keeps {a s : State} (h : Keeps a s) (failing : List Nat) :
    Keeps a (broadcastMicrocode s failing) := by
  unfold broadcastMicrocode
  repeat' first
    | dsimp only
    | with_reducible exact k
    | with_reducible exact h
    | with_reducible refine each_keeps (fun _ _ k => ?_) _ ?_
    | with_reducible refine modCore_keeps ?_ ..
    | with_reducible refine setStage_keeps ?_ ..
    | with_reducible refine startFail_keeps ?_ ..
    | split
    | simp only [Keeps.put_iff]

theorem zeroMemory_keeps {a s : State} (h : Keeps a s)  :
    Keeps a (zeroMemory s) := by
  exact ⟨h.1, h.2, h.3, h.4, h.5, fun _ => rfl, fun _ _ _ => ⟨List.nodup_nil, fun _ h => nomatch h⟩, h.8, h.9, h.10, h.11⟩

theorem berFails_keeps {a s : State} (h : Keeps a s) (a_1 : LinkRef) :
    Keeps a (berFails s a_1) := by
  unfold berFails
  repeat' first
    | dsimp only
    | with_reducible exact k
    | with_reducible exact h
    | with_reducible refine crossingFails_keeps ?_ ..
    | with_reducible refine dieFails_keeps ?_ ..
    | split
    | simp only [Keeps.put_iff]

theorem placeHome_keeps {a s : State} (h : Keeps a s) (p : Nat) :
    Keeps a (placeHome s p) := by
  unfold placeHome
  repeat' first
    | dsimp only
    | with_reducible exact k
    | with_reducible exact h
    | with_reducible refine emptyCore_keeps ?_ ..
    | with_reducible refine inService_keeps ?_ ..
    | with_reducible refine modCore_keeps ?_ ..
    | with_reducible refine retireAs_keeps ?_ ..
    | with_reducible refine setPstate_keeps ?_ ..
    | split
    | simp only [Keeps.put_iff]

theorem trySpares_keeps {a s : State} (h : Keeps a s) (n : Nat) (l : Nat) (h_3 : Nat) (stack : Bool) (failing : List Nat) (a_6 : Nat) :
    Keeps a (trySpares s n l h_3 stack failing a_6) := by
  induction a_6 generalizing s with
  | zero => exact exhausted_keeps h ..
  | succ k ih =>
    unfold trySpares
    split
    · split
      · exact ih (retireCore_keeps (katFail_keeps h ..) ..)
      · exact enterCore_keeps h ..
    · exact exhausted_keeps h ..

theorem accessionAtStart_keeps {a s : State} (h : Keeps a s) (n : Nat) (l : Nat) (failing : List Nat) :
    Keeps a (accessionAtStart s n l failing) := by
  unfold accessionAtStart
  repeat' first
    | dsimp only
    | with_reducible exact k
    | with_reducible exact h
    | with_reducible refine trySpares_keeps ?_ ..
    | split
    | simp only [Keeps.put_iff]

theorem missingDevice_keeps {a s : State} (h : Keeps a s) (n : Nat) :
    Keeps a (missingDevice s n) := by
  unfold missingDevice
  repeat' first
    | dsimp only
    | with_reducible exact k
    | with_reducible exact h
    | with_reducible refine deviceExhausted_keeps ?_ ..
    | split
    | simp only [Keeps.put_iff]

theorem buildPart_keeps {a s : State} (h : Keeps a s) (n : Nat) (failing : List Nat) :
    Keeps a (buildPart s n failing) := by
  unfold buildPart
  repeat' first
    | dsimp only
    | with_reducible exact k
    | with_reducible exact h
    | with_reducible refine each_keeps (fun _ _ k => ?_) _ ?_
    | with_reducible refine accessionAtStart_keeps ?_ ..
    | with_reducible refine missingDevice_keeps ?_ ..
    | with_reducible refine setCat_keeps ?_ ..
    | split
    | simp only [Keeps.put_iff]

theorem buildRoutes_keeps {a s : State} (h : Keeps a s)  :
    Keeps a (buildRoutes s) := by
  unfold buildRoutes
  repeat' first
    | dsimp only
    | with_reducible exact k
    | with_reducible exact h
    | with_reducible refine each_keeps (fun _ _ k => ?_) _ ?_
    | with_reducible refine modTile_keeps ?_ ..
    | split
    | simp only [Keeps.put_iff]

theorem buildCatalogue_keeps {a s : State} (h : Keeps a s) (failing : List Nat) :
    Keeps a (buildCatalogue s failing) := by
  unfold buildCatalogue
  repeat' first
    | dsimp only
    | with_reducible exact k
    | with_reducible exact h
    | with_reducible refine each_keeps (fun _ _ k => ?_) _ ?_
    | with_reducible refine addLasting_keeps ?_ ..
    | with_reducible refine buildPart_keeps ?_ ..
    | with_reducible refine buildRoutes_keeps ?_ ..
    | with_reducible refine inService_keeps ?_ ..
    | with_reducible refine modPart_keeps ?_ ..
    | with_reducible refine noteSpares_keeps ?_ ..
    | with_reducible refine placeHome_keeps ?_ ..
    | with_reducible refine retargetPart_keeps ?_ ..
    | with_reducible refine setStage_keeps ?_ ..
    | with_reducible refine withdrawPart_keeps ?_ ..
    | split
    | simp only [Keeps.put_iff]

theorem releaseHost_keeps {a s : State} (h : Keeps a s) (h_1 : Nat) (image : List Byte) :
    Keeps a (releaseHost s h_1 image) := by
  unfold releaseHost
  repeat' first
    | dsimp only
    | with_reducible exact k
    | with_reducible exact h
    | with_reducible refine ldWrite_keeps ?_ ..
    | with_reducible refine modHost_keeps ?_ ..
    | with_reducible refine released_keeps ?_ ..
    | with_reducible refine setQueue_keeps ?_ ..
    | split
    | simp only [Keeps.put_iff]

theorem raiseFloors_keeps {a s : State} (h : Keeps a s)  :
    Keeps a (raiseFloors s) := by
  unfold raiseFloors
  extract_lets f good due
  split
  · exact h
  · exact putRecord_keeps h (foldl_raiseFloor_later _ due s.counter)

theorem trainPorts_keeps {a s : State} (h : Keeps a s)  :
    Keeps a (trainPorts s) := by
  unfold trainPorts
  repeat' first
    | dsimp only
    | with_reducible exact k
    | with_reducible exact h
    | with_reducible refine each_keeps (fun _ _ k => ?_) _ ?_
    | with_reducible refine modPort_keeps ?_ ..
    | split
    | simp only [Keeps.put_iff]

theorem endStart_keeps {a s : State} (h : Keeps a s)  :
    Keeps a (endStart s) := by
  unfold endStart
  repeat' first
    | dsimp only
    | with_reducible exact k
    | with_reducible exact h
    | with_reducible refine raiseFloors_keeps ?_ ..
    | with_reducible refine released_keeps ?_ ..
    | with_reducible refine setStage_keeps ?_ ..
    | with_reducible refine signBoot_keeps ?_ ..
    | split
    | simp only [Keeps.put_iff]

theorem releaseHosts_keeps {a s : State} (h : Keeps a s) (ucieDown : BitVec 4) :
    Keeps a (releaseHosts s ucieDown) := by
  unfold releaseHosts
  repeat' first
    | dsimp only
    | with_reducible exact k
    | with_reducible exact h
    | with_reducible refine each_keeps (fun _ _ k => ?_) _ ?_
    | with_reducible refine endStart_keeps ?_ ..
    | with_reducible refine extendChain_keeps ?_ ..
    | with_reducible refine loseHost_keeps ?_ ..
    | with_reducible refine markRebalance_keeps ?_ ..
    | with_reducible refine recordOther_keeps ?_ ..
    | with_reducible refine releaseHost_keeps ?_ ..
    | with_reducible refine trainPorts_keeps ?_ ..
    | split
    | simp only [Keeps.put_iff]

end Sys2Proof.Machine
end

