-- ==== Sys2Proof/Laws/KeepsPanel.lean ====
section
/-! SUPPORT. What the operations of clocks, power, cooling, monitors, service, fabric and bring-up keep (Laws/Keeps.lean): one lemma each. -/

namespace Sys2Proof.Machine

theorem switchRef_keeps {a s : State} (h : Keeps a s) (alt : Bool) :
    Keeps a (switchRef s alt) := by
  unfold switchRef
  repeat' first
    | dsimp only
    | with_reducible exact k
    | with_reducible exact h
    | split
    | simp only [Keeps.put_iff]

theorem loseRef_keeps {a s : State} (h : Keeps a s) (alt : Bool) :
    Keeps a (loseRef s alt) := by
  unfold loseRef
  repeat' first
    | dsimp only
    | with_reducible exact k
    | with_reducible exact h
    | with_reducible refine switchRef_keeps ?_ ..
    | split
    | simp only [Keeps.put_iff]

theorem primaryBack_keeps {a s : State} (h : Keeps a s)  :
    Keeps a (primaryBack s) := by
  unfold primaryBack
  repeat' first
    | dsimp only
    | with_reducible exact k
    | with_reducible exact h
    | with_reducible refine switchRef_keeps ?_ ..
    | split
    | simp only [Keeps.put_iff]

theorem recapped_keeps {a s : State} (h : Keeps a s) (p : Nat) :
    Keeps a (recapped s p) := by
  unfold recapped
  repeat' first
    | dsimp only
    | with_reducible exact k
    | with_reducible exact h
    | with_reducible refine markRebalance_keeps ?_ ..
    | with_reducible refine retarget_keeps ?_ ..
    | with_reducible refine settleSteps_keeps ?_ ..
    | split
    | simp only [Keeps.put_iff]

theorem marginCapped_keeps {a s : State} (h : Keeps a s) (p : Nat) :
    Keeps a (marginCapped s p) := by
  unfold marginCapped
  repeat' first
    | dsimp only
    | with_reducible exact k
    | with_reducible exact h
    | with_reducible refine each_keeps (fun _ _ k => ?_) _ ?_
    | with_reducible refine engineOff_keeps ?_ ..
    | with_reducible refine modClk_keeps ?_ ..
    | with_reducible refine recapped_keeps ?_ ..
    | split
    | simp only [Keeps.put_iff]

theorem regSettled_keeps {a s : State} (h : Keeps a s) (p : Nat) :
    Keeps a (regSettled s p) := by
  unfold regSettled
  repeat' first
    | dsimp only
    | with_reducible exact k
    | with_reducible exact h
    | with_reducible refine modClk_keeps ?_ ..
    | with_reducible refine requestStep_keeps ?_ ..
    | with_reducible refine settleDomain_keeps ?_ ..
    | split
    | simp only [Keeps.put_iff]

theorem startStepSet_keeps {a s : State} (h : Keeps a s) (q : Nat) (action : Nat) (run : Cmd → State → State) (hrun : ∀ y0 y1, Keeps a y1 → Keeps a (run y0 y1)) :
    Keeps a (startStepSet s q action run) := by
  unfold startStepSet
  repeat' first
    | dsimp only
    | with_reducible exact k
    | with_reducible exact h
    | with_reducible refine startAs_keeps ?_ (hrun := fun _ _  k => ?_) ..
    | with_reducible refine hrun _ _ ?_
    | split
    | simp only [Keeps.put_iff]

theorem changeSteps_keeps {a s : State} (h : Keeps a s) (c : Cmd) (change : State → State) (hchange : ∀ y0, Keeps a y0 → Keeps a (change y0)) :
    Keeps a (changeSteps s c change) := by
  unfold changeSteps
  repeat' first
    | dsimp only
    | with_reducible exact k
    | with_reducible exact h
    | with_reducible refine endStepSets_keeps ?_ ..
    | with_reducible refine modCmd_keeps ?_ ..
    | with_reducible refine retargetPart_keeps ?_ ..
    | with_reducible refine hchange _ ?_
    | split
    | simp only [Keeps.put_iff]

theorem setPolicy_keeps {a s : State} (h : Keeps a s) (c : Cmd) :
    Keeps a (setPolicy c s) := by
  unfold setPolicy
  repeat' first
    | dsimp only
    | with_reducible exact k
    | with_reducible exact h
    | with_reducible refine changeSteps_keeps ?_ (hchange := fun _  k => ?_) ..
    | with_reducible refine modPart_keeps ?_ ..
    | split
    | simp only [Keeps.put_iff]

theorem readClk_keeps {a s : State} (h : Keeps a s) (c : Cmd) :
    Keeps a (readClk c s) := by
  unfold readClk
  repeat' first
    | dsimp only
    | with_reducible exact k
    | with_reducible exact h
    | with_reducible refine copyOut_keeps ?_ (hfin := fun _  k => ?_) ..
    | with_reducible refine stepFinish_keeps ?_ ..
    | split
    | simp only [Keeps.put_iff]

theorem fixSteps_keeps {a s : State} (h : Keeps a s) (c : Cmd) :
    Keeps a (fixSteps c s) := by
  unfold fixSteps
  repeat' first
    | dsimp only
    | with_reducible exact k
    | with_reducible exact h
    | with_reducible refine each_keeps (fun _ _ k => ?_) _ ?_
    | with_reducible refine changeSteps_keeps ?_ (hchange := fun _  k => ?_) ..
    | with_reducible refine modClk_keeps ?_ ..
    | split
    | simp only [Keeps.put_iff]

theorem writeThresholds_keeps {a s : State} (h : Keeps a s) (c : Cmd) :
    Keeps a (writeThresholds c s) := by
  unfold writeThresholds
  repeat' first
    | dsimp only
    | with_reducible exact k
    | with_reducible exact h
    | with_reducible refine each_keeps (fun _ _ k => ?_) _ ?_
    | with_reducible refine modClk_keeps ?_ ..
    | with_reducible refine stepFinish_keeps ?_ ..
    | split
    | simp only [Keeps.put_iff]

theorem sliceRead_keeps {a s : State} (h : Keeps a s) (h_1 : Nat) (hart : Nat) (addr : Nat) (size : Nat) :
    Keeps a (sliceRead s h_1 hart addr size) := by
  unfold sliceRead
  repeat' first
    | dsimp only
    | with_reducible exact k
    | with_reducible exact h
    | with_reducible refine bumpFresh_keeps ?_ ..
    | with_reducible refine hostLoad_keeps ?_ ..
    | with_reducible refine ioLoad_keeps ?_ ..
    | with_reducible refine ldTouch_keeps ?_ ..
    | with_reducible refine ldUe_keeps ?_ ..
    | split
    | simp only [Keeps.put_iff]

theorem sliceWrite_keeps {a s : State} (h : Keeps a s) (h_1 : Nat) (hart : Nat) (addr : Nat) (size : Nat) (data : BitVec 512) :
    Keeps a (sliceWrite s h_1 hart addr size data) := by
  unfold sliceWrite
  repeat' first
    | dsimp only
    | with_reducible exact k
    | with_reducible exact h
    | with_reducible refine ldUe_keeps ?_ ..
    | with_reducible refine ldWrite_keeps ?_ ..
    | with_reducible refine unpopStore_keeps ?_ ..
    | split
    | simp only [Keeps.put_iff]

theorem markBad_keeps {a s : State} (h : Keeps a s) (b : Nat) :
    Keeps a (markBad s b) := by
  unfold markBad
  repeat' first
    | dsimp only
    | with_reducible exact k
    | with_reducible exact h
    | split
    | simp only [Keeps.put_iff]

theorem eccTransient_keeps {a s : State} (h : Keeps a s) (h_1 : Home) :
    Keeps a (eccTransient s h_1) := by
  unfold eccTransient
  repeat' first
    | dsimp only
    | with_reducible exact k
    | with_reducible exact h
    | with_reducible refine modTransient_keeps ?_ ..
    | split
    | simp only [Keeps.put_iff]

theorem cleanRead_keeps {a s : State} (h : Keeps a s) (a_1 : MemReader) :
    Keeps a (cleanRead s a_1) := by
  unfold cleanRead
  repeat' first
    | dsimp only
    | with_reducible exact k
    | with_reducible exact h
    | with_reducible refine modCmd_keeps ?_ ..
    | with_reducible refine modTask_keeps ?_ ..
    | split
    | simp only [Keeps.put_iff]

theorem failedRead_keeps {a s : State} (h : Keeps a s) (b : Nat) (a_2 : MemReader) :
    Keeps a (failedRead s b a_2) := by
  unfold failedRead
  repeat' first
    | dsimp only
    | with_reducible exact k
    | with_reducible exact h
    | with_reducible refine failTask_keeps ?_ ..
    | with_reducible refine ldUe_keeps ?_ ..
    | with_reducible refine modTask_keeps ?_ ..
    | split
    | simp only [Keeps.put_iff]

theorem correctedErrors_keeps {a s : State} (h : Keeps a s) (d : Nat) (k : Nat) :
    Keeps a (correctedErrors s d k) := by
  unfold correctedErrors
  repeat' first
    | dsimp only
    | with_reducible exact k
    | with_reducible exact h
    | with_reducible refine modDevice_keeps ?_ ..
    | split
    | simp only [Keeps.put_iff]

theorem startCopy_keeps {a s : State} (h : Keeps a s) (n : Nat) (d : Nat) :
    Keeps a (startCopy s n d) := by
  unfold startCopy
  repeat' first
    | dsimp only
    | with_reducible exact k
    | with_reducible exact h
    | with_reducible refine addFault_keeps ?_ ..
    | with_reducible refine modDevice_keeps ?_ ..
    | split
    | simp only [Keeps.put_iff]

theorem deviceFault_keeps {a s : State} (h : Keeps a s) (d : Nat) (channel : Nat) :
    Keeps a (deviceFault s d channel) := by
  unfold deviceFault
  repeat' first
    | dsimp only
    | with_reducible exact k
    | with_reducible exact h
    | with_reducible refine addLasting_keeps ?_ ..
    | with_reducible refine deviceLost_keeps ?_ ..
    | split
    | simp only [Keeps.put_iff]

theorem mcApply_keeps {a s : State} (h : Keeps a s) (c : Cmd) (one : Bool) (f : Nat → Nat → Monitor → Monitor) :
    Keeps a (mcApply c one f s) := by
  unfold mcApply
  repeat' first
    | dsimp only
    | with_reducible exact k
    | with_reducible exact h
    | with_reducible refine each_keeps (fun _ _ k => ?_) _ ?_
    | with_reducible refine finish_keeps ?_ ..
    | with_reducible refine setCoreMon_keeps ?_ ..
    | with_reducible refine setTileMon_keeps ?_ ..
    | split
    | simp only [Keeps.put_iff]

theorem mrClearAll_keeps {a s : State} (h : Keeps a s) (c : Cmd) :
    Keeps a (mrClearAll c s) := by
  unfold mrClearAll
  repeat' first
    | dsimp only
    | with_reducible exact k
    | with_reducible exact h
    | with_reducible refine each_keeps (fun _ _ k => ?_) _ ?_
    | with_reducible refine setCoreMon_keeps ?_ ..
    | with_reducible refine setTileMon_keeps ?_ ..
    | split
    | simp only [Keeps.put_iff]

theorem mrCopy_keeps {a s : State} (h : Keeps a s) (c : Cmd) :
    Keeps a (mrCopy c s) := by
  unfold mrCopy
  repeat' first
    | dsimp only
    | with_reducible exact k
    | with_reducible exact h
    | with_reducible refine copyOut_keeps ?_ (hfin := fun _  k => ?_) ..
    | with_reducible refine finish_keeps ?_ ..
    | with_reducible refine mrClearAll_keeps ?_ ..
    | split
    | simp only [Keeps.put_iff]

theorem mapCopy_keeps {a s : State} (h : Keeps a s) (c : Cmd) :
    Keeps a (mapCopy s c) := by
  unfold mapCopy
  repeat' first
    | dsimp only
    | with_reducible exact k
    | with_reducible exact h
    | with_reducible refine copyOut_keeps ?_ (hfin := fun _  k => ?_) ..
    | with_reducible refine finish_keeps ?_ ..
    | with_reducible refine modCmd_keeps ?_ ..
    | split
    | simp only [Keeps.put_iff]

theorem serveMaps_keeps {a s : State} (h : Keeps a s)  :
    Keeps a (serveMaps s) := by
  unfold serveMaps
  repeat' first
    | dsimp only
    | with_reducible exact k
    | with_reducible exact h
    | with_reducible refine each_keeps (fun _ _ k => ?_) _ ?_
    | with_reducible refine mapCopy_keeps ?_ ..
    | split
    | simp only [Keeps.put_iff]

theorem intervalEnd_keeps {a s : State} (h : Keeps a s) (levels : List TileLevels) :
    Keeps a (intervalEnd s levels) := by
  unfold intervalEnd
  repeat' first
    | dsimp only
    | with_reducible exact k
    | with_reducible exact h
    | with_reducible refine foldl_fst_keeps (fun _ _ k => ?_) _ ?_
    | with_reducible refine foldl_keeps (fun _ _ k => ?_) _ ?_
    | with_reducible refine serveMaps_keeps ?_ ..
    | split
    | simp only [Keeps.put_iff]

theorem cmRun_keeps {a s : State} (h : Keeps a s) (c : Cmd) :
    Keeps a (cmRun c s) := by
  unfold cmRun
  repeat' first
    | dsimp only
    | with_reducible exact k
    | with_reducible exact h
    | with_reducible refine mapCopy_keeps ?_ ..
    | split
    | simp only [Keeps.put_iff]

theorem beginSag_keeps {a s : State} (h : Keeps a s) (mv : Nat) :
    Keeps a (beginSag s mv) := by
  unfold beginSag
  repeat' first
    | dsimp only
    | with_reducible exact k
    | with_reducible exact h
    | with_reducible refine powerEvent_keeps ?_ ..
    | with_reducible refine retargetAll_keeps ?_ ..
    | split
    | simp only [Keeps.put_iff]

theorem operatingVin_keeps {a s : State} (h : Keeps a s)  :
    Keeps a (operatingVin s) := by
  unfold operatingVin
  repeat' first
    | dsimp only
    | with_reducible exact k
    | with_reducible exact h
    | with_reducible refine bumpFresh_keeps ?_ ..
    | split
    | simp only [Keeps.put_iff]

theorem endSag_keeps {a s : State} (h : Keeps a s)  :
    Keeps a (endSag s) := by
  unfold endSag
  repeat' first
    | dsimp only
    | with_reducible exact k
    | with_reducible exact h
    | with_reducible refine operatingVin_keeps ?_ ..
    | with_reducible refine powerEntry_keeps ?_ ..
    | with_reducible refine retargetAll_keeps ?_ ..
    | split
    | simp only [Keeps.put_iff]

theorem pfwAssert_keeps {a s : State} (h : Keeps a s)  :
    Keeps a (pfwAssert s) := by
  unfold pfwAssert
  repeat' first
    | dsimp only
    | with_reducible exact k
    | with_reducible exact h
    | with_reducible refine bumpFresh_keeps ?_ ..
    | with_reducible refine powerEvent_keeps ?_ ..
    | with_reducible refine powerFail_keeps ?_ ..
    | split
    | simp only [Keeps.put_iff]

theorem serveGrants_keeps {a s : State} (h : Keeps a s) (left : Nat) (a_2 : List SlewDemand) :
    Keeps a (serveGrants s left a_2) := by
  unfold serveGrants
  repeat' first
    | dsimp only
    | with_reducible exact k
    | with_reducible exact h
    | with_reducible refine modTpwr_keeps ?_ ..
    | with_reducible refine serveGrants_keeps ?_ ..
    | split
    | simp only [Keeps.put_iff]

theorem grantSlew_keeps {a s : State} (h : Keeps a s) (demand : List SlewDemand) :
    Keeps a (grantSlew s demand) := by
  unfold grantSlew
  repeat' first
    | dsimp only
    | with_reducible exact k
    | with_reducible exact h
    | with_reducible refine each_keeps (fun _ _ k => ?_) _ ?_
    | with_reducible refine modTpwr_keeps ?_ ..
    | with_reducible refine serveGrants_keeps ?_ ..
    | split
    | simp only [Keeps.put_iff]

theorem losePhase_keeps {a s : State} (h : Keeps a s) (t : Nat) (phase : Nat) :
    Keeps a (losePhase s t phase) := by
  unfold losePhase
  repeat' first
    | dsimp only
    | with_reducible exact k
    | with_reducible exact h
    | with_reducible refine addFault_keeps ?_ ..
    | with_reducible refine addLasting_keeps ?_ ..
    | with_reducible refine disposeTile_keeps ?_ ..
    | with_reducible refine modTpwr_keeps ?_ ..
    | with_reducible refine raiseCause_keeps ?_ ..
    | split
    | simp only [Keeps.put_iff]

theorem loseCorner_keeps {a s : State} (h : Keeps a s) (t : Nat) :
    Keeps a (loseCorner s t) := by
  unfold loseCorner
  repeat' first
    | dsimp only
    | with_reducible exact k
    | with_reducible exact h
    | with_reducible refine modCurator_keeps ?_ ..
    | with_reducible refine raiseCause_keeps ?_ ..
    | split
    | simp only [Keeps.put_iff]

theorem darkTile_keeps {a s : State} (h : Keeps a s) (t : Nat) (detail : Nat) :
    Keeps a (darkTile s t detail) := by
  unfold darkTile
  repeat' first
    | dsimp only
    | with_reducible exact k
    | with_reducible exact h
    | with_reducible refine each_keeps (fun _ _ k => ?_) _ ?_
    | with_reducible refine addLasting_keeps ?_ ..
    | with_reducible refine darkCore_keeps ?_ ..
    | with_reducible refine disposeTile_keeps ?_ ..
    | with_reducible refine loseCorner_keeps ?_ ..
    | with_reducible refine loseHost_keeps ?_ ..
    | with_reducible refine losePorts_keeps ?_ ..
    | with_reducible refine modTpwr_keeps ?_ ..
    | with_reducible refine reroute_keeps ?_ ..
    | split
    | simp only [Keeps.put_iff]

theorem loseRegPhase_keeps {a s : State} (h : Keeps a s) (p : Nat) (phase : Nat) :
    Keeps a (loseRegPhase s p phase) := by
  unfold loseRegPhase
  repeat' first
    | dsimp only
    | with_reducible exact k
    | with_reducible exact h
    | with_reducible refine addFault_keeps ?_ ..
    | with_reducible refine addLasting_keeps ?_ ..
    | with_reducible refine disposeCore_keeps ?_ ..
    | with_reducible refine modClk_keeps ?_ ..
    | with_reducible refine modCore_keeps ?_ ..
    | with_reducible refine modPwr_keeps ?_ ..
    | with_reducible refine recapped_keeps ?_ ..
    | split
    | simp only [Keeps.put_iff]

theorem loseTileReg_keeps {a s : State} (h : Keeps a s) (t : Nat) :
    Keeps a (loseTileReg s t) := by
  unfold loseTileReg
  repeat' first
    | dsimp only
    | with_reducible exact k
    | with_reducible exact h
    | with_reducible refine tileFailed_keeps ?_ ..
    | split
    | simp only [Keeps.put_iff]

theorem closeStage_keeps {a s : State} (h : Keeps a s) (p : Nat) (n : Nat) :
    Keeps a (closeStage s p n) := by
  unfold closeStage
  repeat' first
    | dsimp only
    | with_reducible exact k
    | with_reducible exact h
    | with_reducible refine modCore_keeps ?_ ..
    | split
    | simp only [Keeps.put_iff]

theorem divideTile_keeps {a s : State} (h : Keeps a s) (fits : Bool) (demand : Nat → Nat) (t : Nat) :
    Keeps a (divideTile fits demand t s) := by
  unfold divideTile
  repeat' first
    | dsimp only
    | with_reducible exact k
    | with_reducible exact h
    | with_reducible refine bumpFresh_keeps ?_ ..
    | with_reducible refine modTpwr_keeps ?_ ..
    | split
    | simp only [Keeps.put_iff]

theorem dividePower_keeps {a s : State} (h : Keeps a s) (demand : List Nat) :
    Keeps a (dividePower s demand) := by
  unfold dividePower
  repeat' first
    | dsimp only
    | with_reducible exact k
    | with_reducible exact h
    | with_reducible refine each_keeps (fun _ _ k => ?_) _ ?_
    | with_reducible refine divideTile_keeps ?_ ..
    | split
    | simp only [Keeps.put_iff]

theorem powerCapStep_keeps {a s : State} (h : Keeps a s) (n : Nat) (lower : Bool) :
    Keeps a (powerCapStep s n lower) := by
  unfold powerCapStep
  repeat' first
    | dsimp only
    | with_reducible exact k
    | with_reducible exact h
    | with_reducible refine modPart_keeps ?_ ..
    | with_reducible refine retargetPart_keeps ?_ ..
    | split
    | simp only [Keeps.put_iff]

theorem ppFinish_keeps {a s : State} (h : Keeps a s) (uid : Nat) (w0 : Nat) :
    Keeps a (ppFinish s uid w0) := by
  unfold ppFinish
  repeat' first
    | dsimp only
    | with_reducible exact k
    | with_reducible exact h
    | with_reducible refine finish_keeps ?_ ..
    | split
    | simp only [Keeps.put_iff]

theorem measureDomain_keeps {a s : State} (h : Keeps a s) (p : Nat) :
    Keeps a (measureDomain s p) := by
  unfold measureDomain
  repeat' first
    | dsimp only
    | with_reducible exact k
    | with_reducible exact h
    | with_reducible refine bumpFresh_keeps ?_ ..
    | with_reducible refine modPwr_keeps ?_ ..
    | split
    | simp only [Keeps.put_iff]

theorem ppMeasured_keeps {a s : State} (h : Keeps a s) (c : Cmd) :
    Keeps a (ppMeasured s c) := by
  unfold ppMeasured
  repeat' first
    | dsimp only
    | with_reducible exact k
    | with_reducible exact h
    | with_reducible refine each_keeps (fun _ _ k => ?_) _ ?_
    | with_reducible refine measureDomain_keeps ?_ ..
    | split
    | simp only [Keeps.put_iff]

theorem readPwr_keeps {a s : State} (h : Keeps a s) (c : Cmd) :
    Keeps a (readPwr c s) := by
  unfold readPwr
  repeat' first
    | dsimp only
    | with_reducible exact k
    | with_reducible exact h
    | with_reducible refine copyOut_keeps ?_ (hfin := fun _  k => ?_) ..
    | with_reducible refine ppFinish_keeps ?_ ..
    | with_reducible refine ppMeasured_keeps ?_ ..
    | split
    | simp only [Keeps.put_iff]

theorem setSensor_keeps {a s : State} (h : Keeps a s) (t : Nat) (k : Nat) (x : Sensor) :
    Keeps a (setSensor s t k x) := by
  unfold setSensor
  repeat' first
    | dsimp only
    | with_reducible exact k
    | with_reducible exact h
    | split
    | simp only [Keeps.put_iff]

theorem blindDie_keeps {a s : State} (h : Keeps a s) (t : Nat) (k : Nat) :
    Keeps a (blindDie s t k) := by
  unfold blindDie
  repeat' first
    | dsimp only
    | with_reducible exact k
    | with_reducible exact h
    | with_reducible refine edgeDieFault_keeps ?_ ..
    | with_reducible refine loseHost_keeps ?_ ..
    | with_reducible refine released_keeps ?_ ..
    | with_reducible refine stackFailed_keeps ?_ ..
    | with_reducible refine tileFailed_keeps ?_ ..
    | split
    | simp only [Keeps.put_iff]

theorem badReading_keeps {a s : State} (h : Keeps a s) (t : Nat) (k : Nat) :
    Keeps a (badReading s t k) := by
  unfold badReading
  repeat' first
    | dsimp only
    | with_reducible exact k
    | with_reducible exact h
    | with_reducible refine blindDie_keeps ?_ ..
    | with_reducible refine setSensor_keeps ?_ ..
    | split
    | simp only [Keeps.put_iff]

theorem stopWarming_keeps {a s : State} (h : Keeps a s)  :
    Keeps a (stopWarming s) := by
  unfold stopWarming
  repeat' first
    | dsimp only
    | with_reducible exact k
    | with_reducible exact h
    | with_reducible refine each_keeps (fun _ _ k => ?_) _ ?_
    | with_reducible refine modTpwr_keeps ?_ ..
    | split
    | simp only [Keeps.put_iff]

theorem warnTile_keeps {a s : State} (h : Keeps a s) (t : Nat) :
    Keeps a (warnTile s t) := by
  unfold warnTile
  repeat' first
    | dsimp only
    | with_reducible exact k
    | with_reducible exact h
    | with_reducible refine addFault_keeps ?_ ..
    | with_reducible refine stopWarming_keeps ?_ ..
    | split
    | simp only [Keeps.put_iff]

theorem setThermalCap_keeps {a s : State} (h : Keeps a s) (n : Nat) (cap : Nat) :
    Keeps a (setThermalCap s n cap) := by
  unfold setThermalCap
  repeat' first
    | dsimp only
    | with_reducible exact k
    | with_reducible exact h
    | with_reducible refine modPart_keeps ?_ ..
    | with_reducible refine retargetPart_keeps ?_ ..
    | with_reducible refine stopWarming_keeps ?_ ..
    | split
    | simp only [Keeps.put_iff]

theorem capTile_keeps {a s : State} (h : Keeps a s) (t : Nat) (before : Nat) :
    Keeps a (capTile s t before) := by
  unfold capTile
  repeat' first
    | dsimp only
    | with_reducible exact k
    | with_reducible exact h
    | with_reducible refine addFault_keeps ?_ ..
    | with_reducible refine setThermalCap_keeps ?_ ..
    | split
    | simp only [Keeps.put_iff]

theorem thermalShutdown_keeps {a s : State} (h : Keeps a s) (t : Nat) :
    Keeps a (thermalShutdown s t) := by
  unfold thermalShutdown
  repeat' first
    | dsimp only
    | with_reducible exact k
    | with_reducible exact h
    | with_reducible refine each_keeps (fun _ _ k => ?_) _ ?_
    | with_reducible refine addFault_keeps ?_ ..
    | with_reducible refine leaveService_keeps ?_ ..
    | with_reducible refine powerReset_keeps ?_ ..
    | with_reducible refine stopStart_keeps ?_ ..
    | split
    | simp only [Keeps.put_iff]

theorem sampleSensor_keeps {a s : State} (h : Keeps a s) (t : Nat) (k : Nat) (r : Int) :
    Keeps a (sampleSensor s t k r) := by
  unfold sampleSensor
  repeat' first
    | dsimp only
    | with_reducible exact k
    | with_reducible exact h
    | with_reducible refine badReading_keeps ?_ ..
    | with_reducible refine capTile_keeps ?_ ..
    | with_reducible refine setSensor_keeps ?_ ..
    | with_reducible refine thermalShutdown_keeps ?_ ..
    | with_reducible refine warnTile_keeps ?_ ..
    | split
    | simp only [Keeps.put_iff]

theorem capWindow_keeps {a s : State} (h : Keeps a s) (n : Nat) :
    Keeps a (capWindow s n) := by
  unfold capWindow
  repeat' first
    | dsimp only
    | with_reducible exact k
    | with_reducible exact h
    | with_reducible refine addFault_keeps ?_ ..
    | with_reducible refine setThermalCap_keeps ?_ ..
    | split
    | simp only [Keeps.put_iff]

theorem capRecovery_keeps {a s : State} (h : Keeps a s) (n : Nat) :
    Keeps a (capRecovery s n) := by
  unfold capRecovery
  repeat' first
    | dsimp only
    | with_reducible exact k
    | with_reducible exact h
    | with_reducible refine setThermalCap_keeps ?_ ..
    | split
    | simp only [Keeps.put_iff]

theorem shareWarmth_keeps {a s : State} (h : Keeps a s) (left : Nat) (a_2 : List Nat) :
    Keeps a (shareWarmth s left a_2) := by
  unfold shareWarmth
  repeat' first
    | dsimp only
    | with_reducible exact k
    | with_reducible exact h
    | with_reducible refine modTpwr_keeps ?_ ..
    | with_reducible refine shareWarmth_keeps ?_ ..
    | split
    | simp only [Keeps.put_iff]

theorem evaluateWarmth_keeps {a s : State} (h : Keeps a s) (t : Nat) (load : Nat) :
    Keeps a (evaluateWarmth s t load) := by
  unfold evaluateWarmth
  repeat' first
    | dsimp only
    | with_reducible exact k
    | with_reducible exact h
    | with_reducible refine modTpwr_keeps ?_ ..
    | with_reducible refine shareWarmth_keeps ?_ ..
    | split
    | simp only [Keeps.put_iff]

theorem kwFinish_keeps {a s : State} (h : Keeps a s) (uid : Nat) :
    Keeps a (kwFinish s uid) := by
  unfold kwFinish
  repeat' first
    | dsimp only
    | with_reducible exact k
    | with_reducible exact h
    | with_reducible refine finish_keeps ?_ ..
    | split
    | simp only [Keeps.put_iff]

theorem writeWarmth_keeps {a s : State} (h : Keeps a s) (c : Cmd) :
    Keeps a (writeWarmth c s) := by
  unfold writeWarmth
  repeat' first
    | dsimp only
    | with_reducible exact k
    | with_reducible exact h
    | with_reducible refine kwFinish_keeps ?_ ..
    | split
    | simp only [Keeps.put_iff]

theorem takePacket_keeps {a s : State} (h : Keeps a s) (n : Nat) (slots : Nat) (pkt : BitVec 1024) (early : Option Status) :
    Keeps a (takePacket s n slots pkt early) := by
  unfold takePacket
  extract_lets c s1 s2
  have k : Keeps a s1 := modQueue_keeps h ..
  have k2 : Keeps a s2 := k.more c rfl
  split
  · exact refuse_keeps (modCmd_keeps k2 ..) ..
  · exact k2

theorem fetchPacket_keeps {a s : State} (h : Keeps a s) (n : Nat) :
    Keeps a (fetchPacket s n) := by
  unfold fetchPacket
  repeat' first
    | dsimp only
    | with_reducible exact k
    | with_reducible exact h
    | with_reducible refine each_keeps (fun _ _ k => ?_) _ ?_
    | with_reducible refine bumpFresh_keeps ?_ ..
    | with_reducible refine ldTouch_keeps ?_ ..
    | with_reducible refine ldUe_keeps ?_ ..
    | with_reducible refine takePacket_keeps ?_ ..
    | split
    | simp only [Keeps.put_iff]

end Sys2Proof.Machine
end

