-- ==== Sys2Proof/Laws/KeepsExec.lean ====
section
/-! SUPPORT. Every command but five answers a next state that keeps what Laws/Keeps.lean names. -/

namespace Sys2Proof.Machine

theorem execDmaCopy_keeps (p : Nat) (s : State) : ∃ t, execDmaCopy p s = .next t ∧ Keeps s t := by
  refine ⟨_, rfl, ?_⟩
  have h := Keeps.refl s
  repeat' first
    | dsimp only
    | with_reducible exact k
    | with_reducible exact h
    | with_reducible refine issueAs_keeps ?_ (hunit := fun _ _  k => ?_) ..
    | with_reducible refine runCopy_keeps ?_ ..
    | split
    | simp only [Keeps.put_iff]

theorem execStreamIn_keeps (p : Nat) (s : State) : ∃ t, execStreamIn p s = .next t ∧ Keeps s t := by
  refine ⟨_, rfl, ?_⟩
  have h := Keeps.refl s
  repeat' first
    | dsimp only
    | with_reducible exact k
    | with_reducible exact h
    | with_reducible refine issueAs_keeps ?_ (hunit := fun _ _  k => ?_) ..
    | with_reducible refine runStreamIn_keeps ?_ ..
    | split
    | simp only [Keeps.put_iff]

theorem execStreamOut_keeps (p : Nat) (s : State) : ∃ t, execStreamOut p s = .next t ∧ Keeps s t := by
  refine ⟨_, rfl, ?_⟩
  have h := Keeps.refl s
  repeat' first
    | dsimp only
    | with_reducible exact k
    | with_reducible exact h
    | with_reducible refine issueAs_keeps ?_ (hunit := fun _ _  k => ?_) ..
    | with_reducible refine runStreamOut_keeps ?_ ..
    | split
    | simp only [Keeps.put_iff]

theorem execSharedStreamFetchStart_keeps (part : Nat) (share : Nat) (s : State) : ∃ t, execSharedStreamFetchStart part share s = .next t ∧ Keeps s t := by
  refine ⟨_, rfl, ?_⟩
  have h := Keeps.refl s
  repeat' first
    | dsimp only
    | with_reducible exact k
    | with_reducible exact h
    | with_reducible refine startShared_keeps ?_ ..
    | split
    | simp only [Keeps.put_iff]

theorem execSend_keeps (p : Nat) (s : State) : ∃ t, execSend p s = .next t ∧ Keeps s t := by
  refine ⟨_, rfl, ?_⟩
  have h := Keeps.refl s
  repeat' first
    | dsimp only
    | with_reducible exact k
    | with_reducible exact h
    | with_reducible refine issueAs_keeps ?_ (hunit := fun _ _  k => ?_) ..
    | with_reducible refine runSend_keeps ?_ ..
    | split
    | simp only [Keeps.put_iff]

theorem execRecv_keeps (p : Nat) (s : State) : ∃ t, execRecv p s = .next t ∧ Keeps s t := by
  refine ⟨_, rfl, ?_⟩
  have h := Keeps.refl s
  repeat' first
    | dsimp only
    | with_reducible exact k
    | with_reducible exact h
    | with_reducible refine issueAs_keeps ?_ (hunit := fun _ _  k => ?_) ..
    | with_reducible refine runRecv_keeps ?_ ..
    | split
    | simp only [Keeps.put_iff]

theorem execMsgAnnounce_keeps (id : Nat) (s : State) : ∃ t, execMsgAnnounce id s = .next t ∧ Keeps s t := by
  refine ⟨_, rfl, ?_⟩
  have h := Keeps.refl s
  repeat' first
    | dsimp only
    | with_reducible exact k
    | with_reducible exact h
    | with_reducible refine takeAnnounce_keeps ?_ ..
    | split
    | simp only [Keeps.put_iff]

theorem execMsgPull_keeps (id : Nat) (s : State) : ∃ t, execMsgPull id s = .next t ∧ Keeps s t := by
  refine ⟨_, rfl, ?_⟩
  have h := Keeps.refl s
  repeat' first
    | dsimp only
    | with_reducible exact k
    | with_reducible exact h
    | with_reducible refine answerPull_keeps ?_ ..
    | split
    | simp only [Keeps.put_iff]

theorem execMsgData_keeps (id : Nat) (s : State) : ∃ t, execMsgData id s = .next t ∧ Keeps s t := by
  refine ⟨_, rfl, ?_⟩
  have h := Keeps.refl s
  repeat' first
    | dsimp only
    | with_reducible exact k
    | with_reducible exact h
    | with_reducible refine takeData_keeps ?_ ..
    | split
    | simp only [Keeps.put_iff]

theorem execMsgDone_keeps (id : Nat) (s : State) : ∃ t, execMsgDone id s = .next t ∧ Keeps s t := by
  refine ⟨_, rfl, ?_⟩
  have h := Keeps.refl s
  repeat' first
    | dsimp only
    | with_reducible exact k
    | with_reducible exact h
    | with_reducible refine dropPacket_keeps ?_ ..
    | with_reducible refine modTask_keeps ?_ ..
    | split
    | simp only [Keeps.put_iff]

theorem execNack_keeps (id : Nat) (s : State) : ∃ t, execNack id s = .next t ∧ Keeps s t := by
  refine ⟨_, rfl, ?_⟩
  have h := Keeps.refl s
  repeat' first
    | dsimp only
    | with_reducible exact k
    | with_reducible exact h
    | with_reducible refine dropPacket_keeps ?_ ..
    | with_reducible refine takeNack_keeps ?_ ..
    | split
    | simp only [Keeps.put_iff]

theorem execPut_keeps (p : Nat) (s : State) : ∃ t, execPut p s = .next t ∧ Keeps s t := by
  refine ⟨_, rfl, ?_⟩
  have h := Keeps.refl s
  repeat' first
    | dsimp only
    | with_reducible exact k
    | with_reducible exact h
    | with_reducible refine issueAs_keeps ?_ (hunit := fun _ _  k => ?_) ..
    | with_reducible refine runPut_keeps ?_ ..
    | split
    | simp only [Keeps.put_iff]

theorem execWindowWait_keeps (p : Nat) (s : State) : ∃ t, execWindowWait p s = .next t ∧ Keeps s t := by
  refine ⟨_, rfl, ?_⟩
  have h := Keeps.refl s
  repeat' first
    | dsimp only
    | with_reducible exact k
    | with_reducible exact h
    | with_reducible refine issueAs_keeps ?_ (hunit := fun _ _  k => ?_) ..
    | with_reducible refine runWindowWait_keeps ?_ ..
    | split
    | simp only [Keeps.put_iff]

theorem execReduce_keeps (p : Nat) (s : State) : ∃ t, execReduce p s = .next t ∧ Keeps s t := by
  refine ⟨_, rfl, ?_⟩
  have h := Keeps.refl s
  repeat' first
    | dsimp only
    | with_reducible exact k
    | with_reducible exact h
    | with_reducible refine issueAs_keeps ?_ (hunit := fun _ _  k => ?_) ..
    | with_reducible refine runReduce_keeps ?_ ..
    | split
    | simp only [Keeps.put_iff]

theorem execAllreduce_keeps (p : Nat) (s : State) : ∃ t, execAllreduce p s = .next t ∧ Keeps s t := by
  refine ⟨_, rfl, ?_⟩
  have h := Keeps.refl s
  repeat' first
    | dsimp only
    | with_reducible exact k
    | with_reducible exact h
    | with_reducible refine issueAs_keeps ?_ (hunit := fun _ _  k => ?_) ..
    | with_reducible refine runReduce_keeps ?_ ..
    | split
    | simp only [Keeps.put_iff]

theorem execBroadcast_keeps (p : Nat) (s : State) : ∃ t, execBroadcast p s = .next t ∧ Keeps s t := by
  refine ⟨_, rfl, ?_⟩
  have h := Keeps.refl s
  repeat' first
    | dsimp only
    | with_reducible exact k
    | with_reducible exact h
    | with_reducible refine issueAs_keeps ?_ (hunit := fun _ _  k => ?_) ..
    | with_reducible refine runBroadcast_keeps ?_ ..
    | split
    | simp only [Keeps.put_iff]

theorem execBarrier_keeps (p : Nat) (s : State) : ∃ t, execBarrier p s = .next t ∧ Keeps s t := by
  refine ⟨_, rfl, ?_⟩
  have h := Keeps.refl s
  repeat' first
    | dsimp only
    | with_reducible exact k
    | with_reducible exact h
    | with_reducible refine issueAs_keeps ?_ (hunit := fun _ _  k => ?_) ..
    | with_reducible refine runBarrier_keeps ?_ ..
    | split
    | simp only [Keeps.put_iff]

theorem execBarrierRelease_keeps (p : Nat) (group : Nat) (s : State) : ∃ t, execBarrierRelease p group s = .next t ∧ Keeps s t := by
  refine ⟨_, rfl, ?_⟩
  have h := Keeps.refl s
  repeat' first
    | dsimp only
    | with_reducible exact k
    | with_reducible exact h
    | with_reducible refine releaseBarrier_keeps ?_ ..
    | split
    | simp only [Keeps.put_iff]

theorem execRedPart_keeps (id : Nat) (s : State) : ∃ t, execRedPart id s = .next t ∧ Keeps s t := by
  refine ⟨_, rfl, ?_⟩
  have h := Keeps.refl s
  repeat' first
    | dsimp only
    | with_reducible exact k
    | with_reducible exact h
    | with_reducible refine takePart_keeps ?_ ..
    | split
    | simp only [Keeps.put_iff]

theorem execFastReductionCombine_keeps (id : Nat) (s : State) : ∃ t, execFastReductionCombine id s = .next t ∧ Keeps s t := by
  refine ⟨_, rfl, ?_⟩
  have h := Keeps.refl s
  repeat' first
    | dsimp only
    | with_reducible exact k
    | with_reducible exact h
    | with_reducible refine takePart_keeps ?_ ..
    | split
    | simp only [Keeps.put_iff]

theorem execRedResult_keeps (id : Nat) (s : State) : ∃ t, execRedResult id s = .next t ∧ Keeps s t := by
  refine ⟨_, rfl, ?_⟩
  have h := Keeps.refl s
  repeat' first
    | dsimp only
    | with_reducible exact k
    | with_reducible exact h
    | with_reducible refine relayResult_keeps ?_ ..
    | with_reducible refine takeResult_keeps ?_ ..
    | split
    | simp only [Keeps.put_iff]

theorem execBarrierGroupCreate_keeps (q : Nat) (s : State) : ∃ t, execBarrierGroupCreate q s = .next t ∧ Keeps s t := by
  refine ⟨_, rfl, ?_⟩
  have h := Keeps.refl s
  repeat' first
    | dsimp only
    | with_reducible exact k
    | with_reducible exact h
    | with_reducible refine createGroup_keeps ?_ ..
    | with_reducible refine startAs_keeps ?_ (hrun := fun _ _  k => ?_) ..
    | split
    | simp only [Keeps.put_iff]

theorem execBarrierGroupDestroy_keeps (q : Nat) (s : State) : ∃ t, execBarrierGroupDestroy q s = .next t ∧ Keeps s t := by
  refine ⟨_, rfl, ?_⟩
  have h := Keeps.refl s
  repeat' first
    | dsimp only
    | with_reducible exact k
    | with_reducible exact h
    | with_reducible refine destroyGroup_keeps ?_ ..
    | with_reducible refine startAs_keeps ?_ (hrun := fun _ _  k => ?_) ..
    | split
    | simp only [Keeps.put_iff]

theorem execBarrierGroupDestroyExpert_keeps (q : Nat) (s : State) : ∃ t, execBarrierGroupDestroyExpert q s = .next t ∧ Keeps s t := by
  refine ⟨_, rfl, ?_⟩
  have h := Keeps.refl s
  repeat' first
    | dsimp only
    | with_reducible exact k
    | with_reducible exact h
    | with_reducible refine destroyGroupExpert_keeps ?_ ..
    | with_reducible refine startAs_keeps ?_ (hrun := fun _ _  k => ?_) ..
    | split
    | simp only [Keeps.put_iff]

theorem execWindowOpen_keeps (q : Nat) (s : State) : ∃ t, execWindowOpen q s = .next t ∧ Keeps s t := by
  refine ⟨_, rfl, ?_⟩
  have h := Keeps.refl s
  repeat' first
    | dsimp only
    | with_reducible exact k
    | with_reducible exact h
    | with_reducible refine openWindow_keeps ?_ ..
    | with_reducible refine startAs_keeps ?_ (hrun := fun _ _  k => ?_) ..
    | split
    | simp only [Keeps.put_iff]

theorem execWindowClose_keeps (q : Nat) (s : State) : ∃ t, execWindowClose q s = .next t ∧ Keeps s t := by
  refine ⟨_, rfl, ?_⟩
  have h := Keeps.refl s
  repeat' first
    | dsimp only
    | with_reducible exact k
    | with_reducible exact h
    | with_reducible refine closeWindow_keeps ?_ ..
    | with_reducible refine startAs_keeps ?_ (hrun := fun _ _  k => ?_) ..
    | split
    | simp only [Keeps.put_iff]

theorem execWindowCloseExpert_keeps (q : Nat) (s : State) : ∃ t, execWindowCloseExpert q s = .next t ∧ Keeps s t := by
  refine ⟨_, rfl, ?_⟩
  have h := Keeps.refl s
  repeat' first
    | dsimp only
    | with_reducible exact k
    | with_reducible exact h
    | with_reducible refine closeWindowExpert_keeps ?_ ..
    | with_reducible refine startAs_keeps ?_ (hrun := fun _ _  k => ?_) ..
    | split
    | simp only [Keeps.put_iff]

theorem execWindowCloseWaitExpiry_keeps (l : Nat) (slot : Nat) (s : State) : ∃ t, execWindowCloseWaitExpiry l slot s = .next t ∧ Keeps s t := by
  refine ⟨_, rfl, ?_⟩
  have h := Keeps.refl s
  repeat' first
    | dsimp only
    | with_reducible exact k
    | with_reducible exact h
    | with_reducible refine cutForClose_keeps ?_ ..
    | split
    | simp only [Keeps.put_iff]

theorem execWindowGenAdvance_keeps (l : Nat) (slot : Nat) (s : State) : ∃ t, execWindowGenAdvance l slot s = .next t ∧ Keeps s t := by
  refine ⟨_, rfl, ?_⟩
  have h := Keeps.refl s
  repeat' first
    | dsimp only
    | with_reducible exact k
    | with_reducible exact h
    | with_reducible refine advanceGen_keeps ?_ ..
    | split
    | simp only [Keeps.put_iff]

theorem execPutData_keeps (id : Nat) (s : State) : ∃ t, execPutData id s = .next t ∧ Keeps s t := by
  refine ⟨_, rfl, ?_⟩
  have h := Keeps.refl s
  repeat' first
    | dsimp only
    | with_reducible exact k
    | with_reducible exact h
    | with_reducible refine takePut_keeps ?_ ..
    | split
    | simp only [Keeps.put_iff]

theorem execPutAck_keeps (id : Nat) (s : State) : ∃ t, execPutAck id s = .next t ∧ Keeps s t := by
  refine ⟨_, rfl, ?_⟩
  have h := Keeps.refl s
  repeat' first
    | dsimp only
    | with_reducible exact k
    | with_reducible exact h
    | with_reducible refine dropPacket_keeps ?_ ..
    | with_reducible refine putAck_keeps ?_ ..
    | with_reducible refine takeAck_keeps ?_ ..
    | split
    | simp only [Keeps.put_iff]

theorem execPutResendTimer_keeps (p : Nat) (id : Nat) (s : State) : ∃ t, execPutResendTimer p id s = .next t ∧ Keeps s t := by
  refine ⟨_, rfl, ?_⟩
  have h := Keeps.refl s
  repeat' first
    | dsimp only
    | with_reducible exact k
    | with_reducible exact h
    | with_reducible refine modTask_keeps ?_ ..
    | with_reducible refine sendPut_keeps ?_ ..
    | split
    | simp only [Keeps.put_iff]

theorem execWindowTransferSilence_keeps (l : Nat) (src : Nat) (tag : Nat) (s : State) : ∃ t, execWindowTransferSilence l src tag s = .next t ∧ Keeps s t := by
  refine ⟨_, rfl, ?_⟩
  have h := Keeps.refl s
  repeat' first
    | dsimp only
    | with_reducible exact k
    | with_reducible exact h
    | with_reducible refine modWin_keeps ?_ ..
    | with_reducible refine modWins_keeps ?_ ..
    | with_reducible refine putAck_keeps ?_ ..
    | with_reducible refine tryAdvance_keeps ?_ ..
    | split
    | simp only [Keeps.put_iff]

theorem execWaitFlag_keeps (p : Nat) (s : State) : ∃ t, execWaitFlag p s = .next t ∧ Keeps s t := by
  refine ⟨_, rfl, ?_⟩
  have h := Keeps.refl s
  repeat' first
    | dsimp only
    | with_reducible exact k
    | with_reducible exact h
    | with_reducible refine issueAs_keeps ?_ (hunit := fun _ _  k => ?_) ..
    | with_reducible refine runWaitFlag_keeps ?_ ..
    | split
    | simp only [Keeps.put_iff]

theorem execSetFlag_keeps (p : Nat) (s : State) : ∃ t, execSetFlag p s = .next t ∧ Keeps s t := by
  refine ⟨_, rfl, ?_⟩
  have h := Keeps.refl s
  repeat' first
    | dsimp only
    | with_reducible exact k
    | with_reducible exact h
    | with_reducible refine endAtIssue_keeps ?_ ..
    | with_reducible refine issueAs_keeps ?_ (hunit := fun _ _  k => ?_) ..
    | split
    | simp only [Keeps.put_iff]

theorem execClearFlag_keeps (p : Nat) (s : State) : ∃ t, execClearFlag p s = .next t ∧ Keeps s t := by
  refine ⟨_, rfl, ?_⟩
  have h := Keeps.refl s
  repeat' first
    | dsimp only
    | with_reducible exact k
    | with_reducible exact h
    | with_reducible refine endAtIssue_keeps ?_ ..
    | with_reducible refine issueAs_keeps ?_ (hunit := fun _ _  k => ?_) ..
    | split
    | simp only [Keeps.put_iff]

theorem execLoop_keeps (p : Nat) (s : State) : ∃ t, execLoop p s = .next t ∧ Keeps s t := by
  refine ⟨_, rfl, ?_⟩
  have h := Keeps.refl s
  repeat' first
    | dsimp only
    | with_reducible exact k
    | with_reducible exact h
    | with_reducible refine issueAs_keeps ?_ (hunit := fun _ _  k => ?_) ..
    | with_reducible refine runBranch_keeps ?_ ..
    | split
    | simp only [Keeps.put_iff]

theorem execBranchCount_keeps (p : Nat) (s : State) : ∃ t, execBranchCount p s = .next t ∧ Keeps s t := by
  refine ⟨_, rfl, ?_⟩
  have h := Keeps.refl s
  repeat' first
    | dsimp only
    | with_reducible exact k
    | with_reducible exact h
    | with_reducible refine issueAs_keeps ?_ (hunit := fun _ _  k => ?_) ..
    | with_reducible refine runBranch_keeps ?_ ..
    | split
    | simp only [Keeps.put_iff]

theorem execEndRun_keeps (p : Nat) (s : State) : ∃ t, execEndRun p s = .next t ∧ Keeps s t := by
  refine ⟨_, rfl, ?_⟩
  have h := Keeps.refl s
  repeat' first
    | dsimp only
    | with_reducible exact k
    | with_reducible exact h
    | with_reducible refine issueAs_keeps ?_ (hunit := fun _ _  k => ?_) ..
    | with_reducible refine runEnd_keeps ?_ ..
    | split
    | simp only [Keeps.put_iff]

theorem execFingerprintMark_keeps (p : Nat) (s : State) : ∃ t, execFingerprintMark p s = .next t ∧ Keeps s t := by
  refine ⟨_, rfl, ?_⟩
  have h := Keeps.refl s
  repeat' first
    | dsimp only
    | with_reducible exact k
    | with_reducible exact h
    | with_reducible refine issueAs_keeps ?_ (hunit := fun _ _  k => ?_) ..
    | with_reducible refine waitCheck_keeps ?_ ..
    | split
    | simp only [Keeps.put_iff]

theorem execFingerprintClear_keeps (p : Nat) (s : State) : ∃ t, execFingerprintClear p s = .next t ∧ Keeps s t := by
  refine ⟨_, rfl, ?_⟩
  have h := Keeps.refl s
  repeat' first
    | dsimp only
    | with_reducible exact k
    | with_reducible exact h
    | with_reducible refine issueAs_keeps ?_ (hunit := fun _ _  k => ?_) ..
    | with_reducible refine waitCheck_keeps ?_ ..
    | split
    | simp only [Keeps.put_iff]

theorem execFingerprintStore_keeps (p : Nat) (s : State) : ∃ t, execFingerprintStore p s = .next t ∧ Keeps s t := by
  refine ⟨_, rfl, ?_⟩
  have h := Keeps.refl s
  repeat' first
    | dsimp only
    | with_reducible exact k
    | with_reducible exact h
    | with_reducible refine issueAs_keeps ?_ (hunit := fun _ _  k => ?_) ..
    | with_reducible refine waitCheck_keeps ?_ ..
    | split
    | simp only [Keeps.put_iff]

theorem execHandleBind_keeps (p : Nat) (s : State) : ∃ t, execHandleBind p s = .next t ∧ Keeps s t := by
  refine ⟨_, rfl, ?_⟩
  have h := Keeps.refl s
  repeat' first
    | dsimp only
    | with_reducible exact k
    | with_reducible exact h
    | with_reducible refine issueAs_keeps ?_ (hunit := fun _ _  k => ?_) ..
    | with_reducible refine runBind_keeps ?_ ..
    | split
    | simp only [Keeps.put_iff]

theorem execHandleFree_keeps (p : Nat) (s : State) : ∃ t, execHandleFree p s = .next t ∧ Keeps s t := by
  refine ⟨_, rfl, ?_⟩
  have h := Keeps.refl s
  repeat' first
    | dsimp only
    | with_reducible exact k
    | with_reducible exact h
    | with_reducible refine issueAs_keeps ?_ (hunit := fun _ _  k => ?_) ..
    | with_reducible refine runFree_keeps ?_ ..
    | split
    | simp only [Keeps.put_iff]

theorem execBaseBoundSet_keeps (p : Nat) (s : State) : ∃ t, execBaseBoundSet p s = .next t ∧ Keeps s t := by
  refine ⟨_, rfl, ?_⟩
  have h := Keeps.refl s
  repeat' first
    | dsimp only
    | with_reducible exact k
    | with_reducible exact h
    | with_reducible refine endAtIssue_keeps ?_ ..
    | with_reducible refine issueAs_keeps ?_ (hunit := fun _ _  k => ?_) ..
    | with_reducible refine modCore_keeps ?_ ..
    | split
    | simp only [Keeps.put_iff]

theorem execMma_keeps (p : Nat) (s : State) : ∃ t, execMma p s = .next t ∧ Keeps s t := by
  refine ⟨_, rfl, ?_⟩
  have h := Keeps.refl s
  repeat' first
    | dsimp only
    | with_reducible exact k
    | with_reducible exact h
    | with_reducible refine issueMatrix_keeps ?_ ..
    | split
    | simp only [Keeps.put_iff]

theorem execMmaAt_keeps (p : Nat) (s : State) : ∃ t, execMmaAt p s = .next t ∧ Keeps s t := by
  refine ⟨_, rfl, ?_⟩
  have h := Keeps.refl s
  repeat' first
    | dsimp only
    | with_reducible exact k
    | with_reducible exact h
    | with_reducible refine issueMatrix_keeps ?_ ..
    | split
    | simp only [Keeps.put_iff]

theorem execMmaBt_keeps (p : Nat) (s : State) : ∃ t, execMmaBt p s = .next t ∧ Keeps s t := by
  refine ⟨_, rfl, ?_⟩
  have h := Keeps.refl s
  repeat' first
    | dsimp only
    | with_reducible exact k
    | with_reducible exact h
    | with_reducible refine issueMatrix_keeps ?_ ..
    | split
    | simp only [Keeps.put_iff]

theorem execMmaAcc_keeps (p : Nat) (s : State) : ∃ t, execMmaAcc p s = .next t ∧ Keeps s t := by
  refine ⟨_, rfl, ?_⟩
  have h := Keeps.refl s
  repeat' first
    | dsimp only
    | with_reducible exact k
    | with_reducible exact h
    | with_reducible refine issueMatrix_keeps ?_ ..
    | split
    | simp only [Keeps.put_iff]

theorem execMmaAccAt_keeps (p : Nat) (s : State) : ∃ t, execMmaAccAt p s = .next t ∧ Keeps s t := by
  refine ⟨_, rfl, ?_⟩
  have h := Keeps.refl s
  repeat' first
    | dsimp only
    | with_reducible exact k
    | with_reducible exact h
    | with_reducible refine issueMatrix_keeps ?_ ..
    | split
    | simp only [Keeps.put_iff]

theorem execMmaAccBt_keeps (p : Nat) (s : State) : ∃ t, execMmaAccBt p s = .next t ∧ Keeps s t := by
  refine ⟨_, rfl, ?_⟩
  have h := Keeps.refl s
  repeat' first
    | dsimp only
    | with_reducible exact k
    | with_reducible exact h
    | with_reducible refine issueMatrix_keeps ?_ ..
    | split
    | simp only [Keeps.put_iff]

theorem execMmaKsplit_keeps (p : Nat) (s : State) : ∃ t, execMmaKsplit p s = .next t ∧ Keeps s t := by
  refine ⟨_, rfl, ?_⟩
  have h := Keeps.refl s
  repeat' first
    | dsimp only
    | with_reducible exact k
    | with_reducible exact h
    | with_reducible refine issueMatrix_keeps ?_ ..
    | split
    | simp only [Keeps.put_iff]

theorem execMmaKsplitBt_keeps (p : Nat) (s : State) : ∃ t, execMmaKsplitBt p s = .next t ∧ Keeps s t := by
  refine ⟨_, rfl, ?_⟩
  have h := Keeps.refl s
  repeat' first
    | dsimp only
    | with_reducible exact k
    | with_reducible exact h
    | with_reducible refine issueMatrix_keeps ?_ ..
    | split
    | simp only [Keeps.put_iff]

theorem execTileDispatch_keeps (p : Nat) (s : State) : ∃ t, execTileDispatch p s = .next t ∧ Keeps s t := by
  refine ⟨_, rfl, ?_⟩
  have h := Keeps.refl s
  repeat' first
    | dsimp only
    | with_reducible exact k
    | with_reducible exact h
    | with_reducible refine dispatchTile_keeps ?_ ..
    | split
    | simp only [Keeps.put_iff]

theorem execEngineTileDone_keeps (p : Nat) (e : Nat) (s : State) : ∃ t, execEngineTileDone p e s = .next t ∧ Keeps s t := by
  refine ⟨_, rfl, ?_⟩
  have h := Keeps.refl s
  repeat' first
    | dsimp only
    | with_reducible exact k
    | with_reducible exact h
    | with_reducible refine tileDone_keeps ?_ ..
    | split
    | simp only [Keeps.put_iff]

theorem execEngineTileError_keeps (p : Nat) (e : Nat) (s : State) : ∃ t, execEngineTileError p e s = .next t ∧ Keeps s t := by
  refine ⟨_, rfl, ?_⟩
  have h := Keeps.refl s
  repeat' first
    | dsimp only
    | with_reducible exact k
    | with_reducible exact h
    | with_reducible refine tileError_keeps ?_ ..
    | split
    | simp only [Keeps.put_iff]

theorem execEngineKatTileDone_keeps (p : Nat) (e : Nat) (pass : Bool) (s : State) : ∃ t, execEngineKatTileDone p e pass s = .next t ∧ Keeps s t := by
  refine ⟨_, rfl, ?_⟩
  have h := Keeps.refl s
  repeat' first
    | dsimp only
    | with_reducible exact k
    | with_reducible exact h
    | with_reducible refine engineOff_keeps ?_ ..
    | with_reducible refine modCore_keeps ?_ ..
    | with_reducible refine modTransient_keeps ?_ ..
    | split
    | simp only [Keeps.put_iff]

theorem execEngineOffline_keeps (p : Nat) (e : Nat) (s : State) : ∃ t, execEngineOffline p e s = .next t ∧ Keeps s t := by
  refine ⟨_, rfl, ?_⟩
  have h := Keeps.refl s
  repeat' first
    | dsimp only
    | with_reducible exact k
    | with_reducible exact h
    | with_reducible refine engineOff_keeps ?_ ..
    | split
    | simp only [Keeps.put_iff]

theorem execVecMap_keeps (p : Nat) (s : State) : ∃ t, execVecMap p s = .next t ∧ Keeps s t := by
  refine ⟨_, rfl, ?_⟩
  have h := Keeps.refl s
  repeat' first
    | dsimp only
    | with_reducible exact k
    | with_reducible exact h
    | with_reducible refine issueAs_keeps ?_ (hunit := fun _ _  k => ?_) ..
    | with_reducible refine runMap_keeps ?_ ..
    | split
    | simp only [Keeps.put_iff]

theorem execVecReduce_keeps (p : Nat) (s : State) : ∃ t, execVecReduce p s = .next t ∧ Keeps s t := by
  refine ⟨_, rfl, ?_⟩
  have h := Keeps.refl s
  repeat' first
    | dsimp only
    | with_reducible exact k
    | with_reducible exact h
    | with_reducible refine issueRows_keeps ?_ ..
    | split
    | simp only [Keeps.put_iff]

theorem execVecScan_keeps (p : Nat) (s : State) : ∃ t, execVecScan p s = .next t ∧ Keeps s t := by
  refine ⟨_, rfl, ?_⟩
  have h := Keeps.refl s
  repeat' first
    | dsimp only
    | with_reducible exact k
    | with_reducible exact h
    | with_reducible refine issueRows_keeps ?_ ..
    | split
    | simp only [Keeps.put_iff]

theorem execVecSoftmax_keeps (p : Nat) (s : State) : ∃ t, execVecSoftmax p s = .next t ∧ Keeps s t := by
  refine ⟨_, rfl, ?_⟩
  have h := Keeps.refl s
  repeat' first
    | dsimp only
    | with_reducible exact k
    | with_reducible exact h
    | with_reducible refine issueRows_keeps ?_ ..
    | split
    | simp only [Keeps.put_iff]

theorem execVecNorm_keeps (p : Nat) (s : State) : ∃ t, execVecNorm p s = .next t ∧ Keeps s t := by
  refine ⟨_, rfl, ?_⟩
  have h := Keeps.refl s
  repeat' first
    | dsimp only
    | with_reducible exact k
    | with_reducible exact h
    | with_reducible refine issueRows_keeps ?_ ..
    | split
    | simp only [Keeps.put_iff]

theorem execVecConvert_keeps (p : Nat) (s : State) : ∃ t, execVecConvert p s = .next t ∧ Keeps s t := by
  refine ⟨_, rfl, ?_⟩
  have h := Keeps.refl s
  repeat' first
    | dsimp only
    | with_reducible exact k
    | with_reducible exact h
    | with_reducible refine issueRows_keeps ?_ ..
    | split
    | simp only [Keeps.put_iff]

theorem execGather_keeps (p : Nat) (s : State) : ∃ t, execGather p s = .next t ∧ Keeps s t := by
  refine ⟨_, rfl, ?_⟩
  have h := Keeps.refl s
  repeat' first
    | dsimp only
    | with_reducible exact k
    | with_reducible exact h
    | with_reducible refine issueGather_keeps ?_ ..
    | split
    | simp only [Keeps.put_iff]

theorem execGatherSum_keeps (p : Nat) (s : State) : ∃ t, execGatherSum p s = .next t ∧ Keeps s t := by
  refine ⟨_, rfl, ?_⟩
  have h := Keeps.refl s
  repeat' first
    | dsimp only
    | with_reducible exact k
    | with_reducible exact h
    | with_reducible refine issueGather_keeps ?_ ..
    | split
    | simp only [Keeps.put_iff]

theorem execScatter_keeps (p : Nat) (s : State) : ∃ t, execScatter p s = .next t ∧ Keeps s t := by
  refine ⟨_, rfl, ?_⟩
  have h := Keeps.refl s
  repeat' first
    | dsimp only
    | with_reducible exact k
    | with_reducible exact h
    | with_reducible refine issueGather_keeps ?_ ..
    | split
    | simp only [Keeps.put_iff]

theorem execScatterAdd_keeps (p : Nat) (s : State) : ∃ t, execScatterAdd p s = .next t ∧ Keeps s t := by
  refine ⟨_, rfl, ?_⟩
  have h := Keeps.refl s
  repeat' first
    | dsimp only
    | with_reducible exact k
    | with_reducible exact h
    | with_reducible refine issueGather_keeps ?_ ..
    | split
    | simp only [Keeps.put_iff]

theorem execDescriptorFetch_keeps (p : Nat) (s : State) : ∃ t, execDescriptorFetch p s = .next t ∧ Keeps s t := by
  refine ⟨_, rfl, ?_⟩
  have h := Keeps.refl s
  repeat' first
    | dsimp only
    | with_reducible exact k
    | with_reducible exact h
    | with_reducible refine fetchDescriptor_keeps ?_ ..
    | split
    | simp only [Keeps.put_iff]

theorem execStreamedListRefetch_keeps (p : Nat) (s : State) : ∃ t, execStreamedListRefetch p s = .next t ∧ Keeps s t := by
  refine ⟨_, rfl, ?_⟩
  have h := Keeps.refl s
  repeat' first
    | dsimp only
    | with_reducible exact k
    | with_reducible exact h
    | with_reducible refine refetchStreamed_keeps ?_ ..
    | split
    | simp only [Keeps.put_iff]

theorem execRefusedDescriptorCommit_keeps (p : Nat) (s : State) : ∃ t, execRefusedDescriptorCommit p s = .next t ∧ Keeps s t := by
  refine ⟨_, rfl, ?_⟩
  have h := Keeps.refl s
  repeat' first
    | dsimp only
    | with_reducible exact k
    | with_reducible exact h
    | with_reducible refine commitRefused_keeps ?_ ..
    | split
    | simp only [Keeps.put_iff]

theorem execTaskCommit_keeps (p : Nat) (id : Nat) (s : State) : ∃ t, execTaskCommit p id s = .next t ∧ Keeps s t := by
  refine ⟨_, rfl, ?_⟩
  have h := Keeps.refl s
  repeat' first
    | dsimp only
    | with_reducible exact k
    | with_reducible exact h
    | with_reducible refine tryCommit_keeps ?_ ..
    | split
    | simp only [Keeps.put_iff]

theorem execTaskFaultDetect_keeps (p : Nat) (id : Nat) (s : State) : ∃ t, execTaskFaultDetect p id s = .next t ∧ Keeps s t := by
  refine ⟨_, rfl, ?_⟩
  have h := Keeps.refl s
  repeat' first
    | dsimp only
    | with_reducible exact k
    | with_reducible exact h
    | with_reducible refine taskFault_keeps ?_ ..
    | split
    | simp only [Keeps.put_iff]

theorem execWaitLimitExpiry_keeps (p : Nat) (who : WaitRef) (s : State) : ∃ t, execWaitLimitExpiry p who s = .next t ∧ Keeps s t := by
  refine ⟨_, rfl, ?_⟩
  have h := Keeps.refl s
  repeat' first
    | dsimp only
    | with_reducible exact k
    | with_reducible exact h
    | with_reducible refine waitLimit_keeps ?_ ..
    | split
    | simp only [Keeps.put_iff]

theorem execWaitFurtherLimitExpiry_keeps (p : Nat) (who : WaitRef) (s : State) : ∃ t, execWaitFurtherLimitExpiry p who s = .next t ∧ Keeps s t := by
  refine ⟨_, rfl, ?_⟩
  have h := Keeps.refl s
  repeat' first
    | dsimp only
    | with_reducible exact k
    | with_reducible exact h
    | with_reducible refine furtherLimit_keeps ?_ ..
    | split
    | simp only [Keeps.put_iff]

theorem execCoreRunStart_keeps (p : Nat) (s : State) : ∃ t, execCoreRunStart p s = .next t ∧ Keeps s t := by
  refine ⟨_, rfl, ?_⟩
  have h := Keeps.refl s
  repeat' first
    | dsimp only
    | with_reducible exact k
    | with_reducible exact h
    | with_reducible refine startCore_keeps ?_ ..
    | split
    | simp only [Keeps.put_iff]

theorem execCoreAbort_keeps (p : Nat) (s : State) : ∃ t, execCoreAbort p s = .next t ∧ Keeps s t := by
  refine ⟨_, rfl, ?_⟩
  have h := Keeps.refl s
  repeat' first
    | dsimp only
    | with_reducible exact k
    | with_reducible exact h
    | with_reducible refine actAbort_keeps ?_ ..
    | split
    | simp only [Keeps.put_iff]

theorem execStepBoundary_keeps (p : Nat) (s : State) : ∃ t, execStepBoundary p s = .next t ∧ Keeps s t := by
  refine ⟨_, rfl, ?_⟩
  have h := Keeps.refl s
  repeat' first
    | dsimp only
    | with_reducible exact k
    | with_reducible exact h
    | with_reducible refine stepBoundary_keeps ?_ ..
    | split
    | simp only [Keeps.put_iff]

theorem execFabricIn_keeps (p : Nat) (s : State) : ∃ t, execFabricIn p s = .next t ∧ Keeps s t := by
  refine ⟨_, rfl, ?_⟩
  have h := Keeps.refl s
  repeat' first
    | dsimp only
    | with_reducible exact k
    | with_reducible exact h
    | with_reducible refine issueAs_keeps ?_ (hunit := fun _ _  k => ?_) ..
    | with_reducible refine runFabric_keeps ?_ ..
    | split
    | simp only [Keeps.put_iff]

theorem execFabricOut_keeps (p : Nat) (s : State) : ∃ t, execFabricOut p s = .next t ∧ Keeps s t := by
  refine ⟨_, rfl, ?_⟩
  have h := Keeps.refl s
  repeat' first
    | dsimp only
    | with_reducible exact k
    | with_reducible exact h
    | with_reducible refine issueAs_keeps ?_ (hunit := fun _ _  k => ?_) ..
    | with_reducible refine runFabric_keeps ?_ ..
    | split
    | simp only [Keeps.put_iff]

theorem execFabricDataFrame_keeps (port : Nat) (f : Frame) (s : State) : ∃ t, execFabricDataFrame port f s = .next t ∧ Keeps s t := by
  refine ⟨_, rfl, ?_⟩
  have h := Keeps.refl s
  repeat' first
    | dsimp only
    | with_reducible exact k
    | with_reducible exact h
    | with_reducible refine acceptFrame_keeps ?_ ..
    | with_reducible refine dropFrame_keeps ?_ ..
    | with_reducible refine syncEpoch_keeps ?_ ..
    | with_reducible refine takeFrame_keeps ?_ ..
    | (have q := acceptFrame_keeps k ..; simp only [*] at q; exact q)
    | (have q := acceptFrame_keeps h ..; simp only [*] at q; exact q)
    | split
    | simp only [Keeps.put_iff]

theorem execFabricAckFrame_keeps (port : Nat) (f : Frame) (s : State) : ∃ t, execFabricAckFrame port f s = .next t ∧ Keeps s t := by
  refine ⟨_, rfl, ?_⟩
  have h := Keeps.refl s
  repeat' first
    | dsimp only
    | with_reducible exact k
    | with_reducible exact h
    | with_reducible refine acceptFrame_keeps ?_ ..
    | with_reducible refine takeAckFrame_keeps ?_ ..
    | (have q := acceptFrame_keeps k ..; simp only [*] at q; exact q)
    | (have q := acceptFrame_keeps h ..; simp only [*] at q; exact q)
    | split
    | simp only [Keeps.put_iff]

theorem execFabricAckTimer_keeps (flow : FlowKey) (s : State) : ∃ t, execFabricAckTimer flow s = .next t ∧ Keeps s t := by
  refine ⟨_, rfl, ?_⟩
  have h := Keeps.refl s
  repeat' first
    | dsimp only
    | with_reducible exact k
    | with_reducible exact h
    | with_reducible refine sendAck_keeps ?_ ..
    | split
    | simp only [Keeps.put_iff]

theorem execFabricRetransmitTimer_keeps (flow : FlowKey) (s : State) : ∃ t, execFabricRetransmitTimer flow s = .next t ∧ Keeps s t := by
  refine ⟨_, rfl, ?_⟩
  have h := Keeps.refl s
  repeat' first
    | dsimp only
    | with_reducible exact k
    | with_reducible exact h
    | with_reducible refine endMoves_keeps ?_ ..
    | with_reducible refine flowBreaks_keeps ?_ ..
    | with_reducible refine modPort_keeps ?_ ..
    | with_reducible refine modTx_keeps ?_ ..
    | with_reducible refine sendLast_keeps ?_ ..
    | split
    | simp only [Keeps.put_iff]

theorem execFabricRequestTimeout_keeps (id : Nat) (s : State) : ∃ t, execFabricRequestTimeout id s = .next t ∧ Keeps s t := by
  refine ⟨_, rfl, ?_⟩
  have h := Keeps.refl s
  repeat' first
    | dsimp only
    | with_reducible exact k
    | with_reducible exact h
    | with_reducible refine fabricTimeout_keeps ?_ ..
    | split
    | simp only [Keeps.put_iff]

theorem execFlowEpochAdvance_keeps (flow : FlowKey) (s : State) : ∃ t, execFlowEpochAdvance flow s = .next t ∧ Keeps s t := by
  refine ⟨_, rfl, ?_⟩
  have h := Keeps.refl s
  repeat' first
    | dsimp only
    | with_reducible exact k
    | with_reducible exact h
    | with_reducible refine pushTx_keeps ?_ ..
    | split
    | simp only [Keeps.put_iff]

theorem execPortTrainingDone_keeps (port : Nat) (up : Bool) (s : State) : ∃ t, execPortTrainingDone port up s = .next t ∧ Keeps s t := by
  refine ⟨_, rfl, ?_⟩
  have h := Keeps.refl s
  repeat' first
    | dsimp only
    | with_reducible exact k
    | with_reducible exact h
    | with_reducible refine setPorts_keeps ?_ ..
    | split
    | simp only [Keeps.put_iff]

theorem execPortLinkDown_keeps (port : Nat) (s : State) : ∃ t, execPortLinkDown port s = .next t ∧ Keeps s t := by
  refine ⟨_, rfl, ?_⟩
  have h := Keeps.refl s
  repeat' first
    | dsimp only
    | with_reducible exact k
    | with_reducible exact h
    | with_reducible refine setPorts_keeps ?_ ..
    | split
    | simp only [Keeps.put_iff]

theorem execPortDisableDrainExpiry_keeps (port : Nat) (s : State) : ∃ t, execPortDisableDrainExpiry port s = .next t ∧ Keeps s t := by
  refine ⟨_, rfl, ?_⟩
  have h := Keeps.refl s
  repeat' first
    | dsimp only
    | with_reducible exact k
    | with_reducible exact h
    | with_reducible refine expireMoves_keeps ?_ ..
    | with_reducible refine setPorts_keeps ?_ ..
    | split
    | simp only [Keeps.put_iff]

theorem execEdgePortDieFault_keeps (die : Nat) (s : State) : ∃ t, execEdgePortDieFault die s = .next t ∧ Keeps s t := by
  refine ⟨_, rfl, ?_⟩
  have h := Keeps.refl s
  repeat' first
    | dsimp only
    | with_reducible exact k
    | with_reducible exact h
    | with_reducible refine bumpFresh_keeps ?_ ..
    | with_reducible refine edgeDieFault_keeps ?_ ..
    | split
    | simp only [Keeps.put_iff]

theorem execMbxThPush_keeps (h0 : Nat) (hart : Nat) (m : Nat) (word : BitVec 64) (s : State) : ∃ t, execMbxThPush h0 hart m word s = .next t ∧ Keeps s t := by
  refine ⟨_, rfl, ?_⟩
  have h := Keeps.refl s
  repeat' first
    | dsimp only
    | with_reducible exact k
    | with_reducible exact h
    | with_reducible refine boxStore_keeps ?_ (hact := fun _  k => ?_) ..
    | with_reducible refine pushTh_keeps ?_ ..
    | split
    | simp only [Keeps.put_iff]

theorem execMbxTpPush_keeps (h0 : Nat) (hart : Nat) (m : Nat) (word : BitVec 64) (s : State) : ∃ t, execMbxTpPush h0 hart m word s = .next t ∧ Keeps s t := by
  refine ⟨_, rfl, ?_⟩
  have h := Keeps.refl s
  repeat' first
    | dsimp only
    | with_reducible exact k
    | with_reducible exact h
    | with_reducible refine boxStore_keeps ?_ (hact := fun _  k => ?_) ..
    | with_reducible refine pushTp_keeps ?_ ..
    | split
    | simp only [Keeps.put_iff]

theorem execMbxThPop_keeps (h0 : Nat) (hart : Nat) (m : Nat) (s : State) : ∃ t, execMbxThPop h0 hart m s = .next t ∧ Keeps s t := by
  refine ⟨_, rfl, ?_⟩
  have h := Keeps.refl s
  repeat' first
    | dsimp only
    | with_reducible exact k
    | with_reducible exact h
    | with_reducible refine hostLoad_keeps ?_ ..
    | with_reducible refine popTh_keeps ?_ ..
    | split
    | simp only [Keeps.put_iff]

theorem execMbxRing_keeps (h0 : Nat) (hart : Nat) (m : Nat) (bits : BitVec 32) (s : State) : ∃ t, execMbxRing h0 hart m bits s = .next t ∧ Keeps s t := by
  refine ⟨_, rfl, ?_⟩
  have h := Keeps.refl s
  repeat' first
    | dsimp only
    | with_reducible exact k
    | with_reducible exact h
    | with_reducible refine boxStore_keeps ?_ (hact := fun _  k => ?_) ..
    | with_reducible refine setBells_keeps ?_ ..
    | split
    | simp only [Keeps.put_iff]

theorem execMbxMask_keeps (h0 : Nat) (hart : Nat) (m : Nat) (mask : BitVec 32) (s : State) : ∃ t, execMbxMask h0 hart m mask s = .next t ∧ Keeps s t := by
  refine ⟨_, rfl, ?_⟩
  have h := Keeps.refl s
  repeat' first
    | dsimp only
    | with_reducible exact k
    | with_reducible exact h
    | with_reducible refine boxStore_keeps ?_ (hact := fun _  k => ?_) ..
    | with_reducible refine setMask_keeps ?_ ..
    | split
    | simp only [Keeps.put_iff]

theorem execMbxMsi_keeps (h0 : Nat) (hart : Nat) (m : Nat) (value : BitVec 32) (s : State) : ∃ t, execMbxMsi h0 hart m value s = .next t ∧ Keeps s t := by
  refine ⟨_, rfl, ?_⟩
  have h := Keeps.refl s
  repeat' first
    | dsimp only
    | with_reducible exact k
    | with_reducible exact h
    | with_reducible refine boxStore_keeps ?_ (hact := fun _  k => ?_) ..
    | with_reducible refine setMsi_keeps ?_ ..
    | split
    | simp only [Keeps.put_iff]

theorem execHeartbeatPost_keeps  (s : State) : ∃ t, execHeartbeatPost  s = .next t ∧ Keeps s t := by
  refine ⟨_, rfl, ?_⟩
  have h := Keeps.refl s
  repeat' first
    | dsimp only
    | with_reducible exact k
    | with_reducible exact h
    | with_reducible refine postHeartbeat_keeps ?_ ..
    | split
    | simp only [Keeps.put_iff]

theorem execConsoleOutput_keeps (m : Nat) (words : List (BitVec 64)) (s : State) : ∃ t, execConsoleOutput m words s = .next t ∧ Keeps s t := by
  refine ⟨_, rfl, ?_⟩
  have h := Keeps.refl s
  repeat' first
    | dsimp only
    | with_reducible exact k
    | with_reducible exact h
    | with_reducible refine outputConsole_keeps ?_ ..
    | split
    | simp only [Keeps.put_iff]

theorem execConsolePop_keeps  (s : State) : ∃ t, execConsolePop  s = .next t ∧ Keeps s t := by
  refine ⟨_, rfl, ?_⟩
  have h := Keeps.refl s
  repeat' first
    | dsimp only
    | with_reducible exact k
    | with_reducible exact h
    | with_reducible refine each_keeps (fun _ _ k => ?_) _ ?_
    | with_reducible refine modMailbox_keeps ?_ ..
    | split
    | simp only [Keeps.put_iff]

theorem execContextLoadDone_keeps (u : Nat) (q : Nat) (s : State) : ∃ t, execContextLoadDone u q s = .next t ∧ Keeps s t := by
  refine ⟨_, rfl, ?_⟩
  have h := Keeps.refl s
  repeat' first
    | dsimp only
    | with_reducible exact k
    | with_reducible exact h
    | with_reducible refine modQueue_keeps ?_ ..
    | with_reducible refine modUnit_keeps ?_ ..
    | with_reducible refine serveUnit_keeps ?_ ..
    | split
    | simp only [Keeps.put_iff]

theorem execSpillWriteAck_keeps (u : Nat) (q : Nat) (s : State) : ∃ t, execSpillWriteAck u q s = .next t ∧ Keeps s t := by
  refine ⟨_, rfl, ?_⟩
  have h := Keeps.refl s
  repeat' first
    | dsimp only
    | with_reducible exact k
    | with_reducible exact h
    | with_reducible refine bumpFresh_keeps ?_ ..
    | with_reducible refine ldWrite_keeps ?_ ..
    | with_reducible refine modUnit_keeps ?_ ..
    | with_reducible refine serveUnit_keeps ?_ ..
    | split
    | simp only [Keeps.put_iff]

theorem execDblSqTail_keeps (h0 : Nat) (hart : Nat) (q : Nat) (tail : BitVec 32) (s : State) : ∃ t, execDblSqTail h0 hart q tail s = .next t ∧ Keeps s t := by
  refine ⟨_, rfl, ?_⟩
  have h := Keeps.refl s
  repeat' first
    | dsimp only
    | with_reducible exact k
    | with_reducible exact h
    | with_reducible refine pageStore_keeps ?_ (hact := fun _  k => ?_) ..
    | with_reducible refine writeTail_keeps ?_ ..
    | split
    | simp only [Keeps.put_iff]

theorem execDblCqHead_keeps (h0 : Nat) (hart : Nat) (q : Nat) (head : BitVec 32) (s : State) : ∃ t, execDblCqHead h0 hart q head s = .next t ∧ Keeps s t := by
  refine ⟨_, rfl, ?_⟩
  have h := Keeps.refl s
  repeat' first
    | dsimp only
    | with_reducible exact k
    | with_reducible exact h
    | with_reducible refine pageStore_keeps ?_ (hact := fun _  k => ?_) ..
    | with_reducible refine writeHead_keeps ?_ ..
    | split
    | simp only [Keeps.put_iff]

theorem execCompletionRecordWrite_keeps (q : Nat) (s : State) : ∃ t, execCompletionRecordWrite q s = .next t ∧ Keeps s t := by
  refine ⟨_, rfl, ?_⟩
  have h := Keeps.refl s
  repeat' first
    | dsimp only
    | with_reducible exact k
    | with_reducible exact h
    | with_reducible refine writeRecord_keeps ?_ ..
    | split
    | simp only [Keeps.put_iff]

theorem execUcieModuleFail_keeps (h0 : Nat) (s : State) : ∃ t, execUcieModuleFail h0 s = .next t ∧ Keeps s t := by
  refine ⟨_, rfl, ?_⟩
  have h := Keeps.refl s
  repeat' first
    | dsimp only
    | with_reducible exact k
    | with_reducible exact h
    | with_reducible refine moduleFail_keeps ?_ ..
    | split
    | simp only [Keeps.put_iff]

theorem execUcieLinkDownTimeout_keeps (h0 : Nat) (s : State) : ∃ t, execUcieLinkDownTimeout h0 s = .next t ∧ Keeps s t := by
  refine ⟨_, rfl, ?_⟩
  have h := Keeps.refl s
  repeat' first
    | dsimp only
    | with_reducible exact k
    | with_reducible exact h
    | with_reducible refine loseHost_keeps ?_ ..
    | with_reducible refine released_keeps ?_ ..
    | split
    | simp only [Keeps.put_iff]

theorem execUnpopulatedAccess_keeps (h0 : Nat) (hart : Nat) (addr : Nat) (kind : AccessKind) (s : State) : ∃ t, execUnpopulatedAccess h0 hart addr kind s = .next t ∧ Keeps s t := by
  refine ⟨_, rfl, ?_⟩
  have h := Keeps.refl s
  repeat' first
    | dsimp only
    | with_reducible exact k
    | with_reducible exact h
    | with_reducible refine fetchFault_keeps ?_ ..
    | with_reducible refine hostLoad_keeps ?_ ..
    | with_reducible refine unpopStore_keeps ?_ ..
    | split
    | simp only [Keeps.put_iff]

theorem execPortConfigEnable_keeps (q : Nat) (s : State) : ∃ t, execPortConfigEnable q s = .next t ∧ Keeps s t := by
  refine ⟨_, rfl, ?_⟩
  have h := Keeps.refl s
  repeat' first
    | dsimp only
    | with_reducible exact k
    | with_reducible exact h
    | with_reducible refine checked_keeps ?_ (hact := fun _  k => ?_) ..
    | with_reducible refine pcEnable_keeps ?_ ..
    | with_reducible refine startAs_keeps ?_ (hrun := fun _ _  k => ?_) ..
    | split
    | simp only [Keeps.put_iff]

theorem execPortConfigDisable_keeps (q : Nat) (s : State) : ∃ t, execPortConfigDisable q s = .next t ∧ Keeps s t := by
  refine ⟨_, rfl, ?_⟩
  have h := Keeps.refl s
  repeat' first
    | dsimp only
    | with_reducible exact k
    | with_reducible exact h
    | with_reducible refine checked_keeps ?_ (hact := fun _  k => ?_) ..
    | with_reducible refine pcDisable_keeps ?_ ..
    | with_reducible refine startAs_keeps ?_ (hrun := fun _ _  k => ?_) ..
    | split
    | simp only [Keeps.put_iff]

theorem execPortConfigDisableExpert_keeps (q : Nat) (s : State) : ∃ t, execPortConfigDisableExpert q s = .next t ∧ Keeps s t := by
  refine ⟨_, rfl, ?_⟩
  have h := Keeps.refl s
  repeat' first
    | dsimp only
    | with_reducible exact k
    | with_reducible exact h
    | with_reducible refine checked_keeps ?_ (hact := fun _  k => ?_) ..
    | with_reducible refine pcDisableNow_keeps ?_ ..
    | with_reducible refine startAs_keeps ?_ (hrun := fun _ _  k => ?_) ..
    | split
    | simp only [Keeps.put_iff]

theorem execPortConfigRead_keeps (q : Nat) (s : State) : ∃ t, execPortConfigRead q s = .next t ∧ Keeps s t := by
  refine ⟨_, rfl, ?_⟩
  have h := Keeps.refl s
  repeat' first
    | dsimp only
    | with_reducible exact k
    | with_reducible exact h
    | with_reducible refine checked_keeps ?_ (hact := fun _  k => ?_) ..
    | with_reducible refine pcRead_keeps ?_ ..
    | with_reducible refine startAs_keeps ?_ (hrun := fun _ _  k => ?_) ..
    | split
    | simp only [Keeps.put_iff]

theorem execPortConfigSet_keeps (q : Nat) (s : State) : ∃ t, execPortConfigSet q s = .next t ∧ Keeps s t := by
  refine ⟨_, rfl, ?_⟩
  have h := Keeps.refl s
  repeat' first
    | dsimp only
    | with_reducible exact k
    | with_reducible exact h
    | with_reducible refine checked_keeps ?_ (hact := fun _  k => ?_) ..
    | with_reducible refine pcSet_keeps ?_ ..
    | with_reducible refine startAs_keeps ?_ (hrun := fun _ _  k => ?_) ..
    | split
    | simp only [Keeps.put_iff]

theorem execPortConfigEndpoint_keeps (q : Nat) (s : State) : ∃ t, execPortConfigEndpoint q s = .next t ∧ Keeps s t := by
  refine ⟨_, rfl, ?_⟩
  have h := Keeps.refl s
  repeat' first
    | dsimp only
    | with_reducible exact k
    | with_reducible exact h
    | with_reducible refine checked_keeps ?_ (hact := fun _  k => ?_) ..
    | with_reducible refine pcEntry_keeps ?_ ..
    | with_reducible refine startAs_keeps ?_ (hrun := fun _ _  k => ?_) ..
    | split
    | simp only [Keeps.put_iff]

theorem execRouteUpdatePortset_keeps (q : Nat) (s : State) : ∃ t, execRouteUpdatePortset q s = .next t ∧ Keeps s t := by
  refine ⟨_, rfl, ?_⟩
  have h := Keeps.refl s
  repeat' first
    | dsimp only
    | with_reducible exact k
    | with_reducible exact h
    | with_reducible refine checked_keeps ?_ (hact := fun _  k => ?_) ..
    | with_reducible refine ruPort_keeps ?_ ..
    | with_reducible refine startAs_keeps ?_ (hrun := fun _ _  k => ?_) ..
    | split
    | simp only [Keeps.put_iff]

theorem execRouteUpdatePanelRoute_keeps (q : Nat) (s : State) : ∃ t, execRouteUpdatePanelRoute q s = .next t ∧ Keeps s t := by
  refine ⟨_, rfl, ?_⟩
  have h := Keeps.refl s
  repeat' first
    | dsimp only
    | with_reducible exact k
    | with_reducible exact h
    | with_reducible refine checked_keeps ?_ (hact := fun _  k => ?_) ..
    | with_reducible refine ruRoute_keeps ?_ ..
    | with_reducible refine startAs_keeps ?_ (hrun := fun _ _  k => ?_) ..
    | split
    | simp only [Keeps.put_iff]

theorem execRouteUpdateShares_keeps (q : Nat) (s : State) : ∃ t, execRouteUpdateShares q s = .next t ∧ Keeps s t := by
  refine ⟨_, rfl, ?_⟩
  have h := Keeps.refl s
  repeat' first
    | dsimp only
    | with_reducible exact k
    | with_reducible exact h
    | with_reducible refine checked_keeps ?_ (hact := fun _  k => ?_) ..
    | with_reducible refine ruShares_keeps ?_ ..
    | with_reducible refine startAs_keeps ?_ (hrun := fun _ _  k => ?_) ..
    | split
    | simp only [Keeps.put_iff]

theorem execEcho_keeps (q : Nat) (s : State) : ∃ t, execEcho q s = .next t ∧ Keeps s t := by
  refine ⟨_, rfl, ?_⟩
  have h := Keeps.refl s
  repeat' first
    | dsimp only
    | with_reducible exact k
    | with_reducible exact h
    | with_reducible refine finish_keeps ?_ ..
    | with_reducible refine startAs_keeps ?_ (hrun := fun _ _  k => ?_) ..
    | split
    | simp only [Keeps.put_iff]

theorem execEchoExpert_keeps (q : Nat) (s : State) : ∃ t, execEchoExpert q s = .next t ∧ Keeps s t := by
  refine ⟨_, rfl, ?_⟩
  have h := Keeps.refl s
  repeat' first
    | dsimp only
    | with_reducible exact k
    | with_reducible exact h
    | with_reducible refine finish_keeps ?_ ..
    | with_reducible refine startAs_keeps ?_ (hrun := fun _ _  k => ?_) ..
    | split
    | simp only [Keeps.put_iff]

theorem execQueueCreate_keeps (q : Nat) (s : State) : ∃ t, execQueueCreate q s = .next t ∧ Keeps s t := by
  refine ⟨_, rfl, ?_⟩
  have h := Keeps.refl s
  repeat' first
    | dsimp only
    | with_reducible exact k
    | with_reducible exact h
    | with_reducible refine checked_keeps ?_ (hact := fun _  k => ?_) ..
    | with_reducible refine createQueue_keeps ?_ ..
    | with_reducible refine startAs_keeps ?_ (hrun := fun _ _  k => ?_) ..
    | split
    | simp only [Keeps.put_iff]

theorem execQueueEnable_keeps (q : Nat) (s : State) : ∃ t, execQueueEnable q s = .next t ∧ Keeps s t := by
  refine ⟨_, rfl, ?_⟩
  have h := Keeps.refl s
  repeat' first
    | dsimp only
    | with_reducible exact k
    | with_reducible exact h
    | with_reducible refine checked_keeps ?_ (hact := fun _  k => ?_) ..
    | with_reducible refine enableQueue_keeps ?_ ..
    | with_reducible refine startAs_keeps ?_ (hrun := fun _ _  k => ?_) ..
    | split
    | simp only [Keeps.put_iff]

theorem execQueueDisable_keeps (q : Nat) (s : State) : ∃ t, execQueueDisable q s = .next t ∧ Keeps s t := by
  refine ⟨_, rfl, ?_⟩
  have h := Keeps.refl s
  repeat' first
    | dsimp only
    | with_reducible exact k
    | with_reducible exact h
    | with_reducible refine checked_keeps ?_ (hact := fun _  k => ?_) ..
    | with_reducible refine disableQueue_keeps ?_ ..
    | with_reducible refine startAs_keeps ?_ (hrun := fun _ _  k => ?_) ..
    | split
    | simp only [Keeps.put_iff]

theorem execQueueDisableExpert_keeps (q : Nat) (s : State) : ∃ t, execQueueDisableExpert q s = .next t ∧ Keeps s t := by
  refine ⟨_, rfl, ?_⟩
  have h := Keeps.refl s
  repeat' first
    | dsimp only
    | with_reducible exact k
    | with_reducible exact h
    | with_reducible refine checked_keeps ?_ (hact := fun _  k => ?_) ..
    | with_reducible refine disableExpert_keeps ?_ ..
    | with_reducible refine startAs_keeps ?_ (hrun := fun _ _  k => ?_) ..
    | split
    | simp only [Keeps.put_iff]

theorem execQueueDestroy_keeps (q : Nat) (s : State) : ∃ t, execQueueDestroy q s = .next t ∧ Keeps s t := by
  refine ⟨_, rfl, ?_⟩
  have h := Keeps.refl s
  repeat' first
    | dsimp only
    | with_reducible exact k
    | with_reducible exact h
    | with_reducible refine checked_keeps ?_ (hact := fun _  k => ?_) ..
    | with_reducible refine disableQueue_keeps ?_ ..
    | with_reducible refine startAs_keeps ?_ (hrun := fun _ _  k => ?_) ..
    | split
    | simp only [Keeps.put_iff]

theorem execQueueDestroyExpert_keeps (q : Nat) (s : State) : ∃ t, execQueueDestroyExpert q s = .next t ∧ Keeps s t := by
  refine ⟨_, rfl, ?_⟩
  have h := Keeps.refl s
  repeat' first
    | dsimp only
    | with_reducible exact k
    | with_reducible exact h
    | with_reducible refine checked_keeps ?_ (hact := fun _  k => ?_) ..
    | with_reducible refine disableExpert_keeps ?_ ..
    | with_reducible refine startAs_keeps ?_ (hrun := fun _ _  k => ?_) ..
    | split
    | simp only [Keeps.put_iff]

theorem execProgramLoad_keeps (q : Nat) (commit : Bool) (s : State) : ∃ t, execProgramLoad q commit s = .next t ∧ Keeps s t := by
  refine ⟨_, rfl, ?_⟩
  have h := Keeps.refl s
  repeat' first
    | dsimp only
    | with_reducible exact k
    | with_reducible exact h
    | with_reducible refine checked_keeps ?_ (hact := fun _  k => ?_) ..
    | with_reducible refine modCmd_keeps ?_ ..
    | with_reducible refine programLoad_keeps ?_ ..
    | with_reducible refine sendProgram_keeps ?_ ..
    | with_reducible refine startAs_keeps ?_ (hrun := fun _ _  k => ?_) ..
    | split
    | simp only [Keeps.put_iff]

theorem execRun_keeps (q : Nat) (s : State) : ∃ t, execRun q s = .next t ∧ Keeps s t := by
  refine ⟨_, rfl, ?_⟩
  have h := Keeps.refl s
  repeat' first
    | dsimp only
    | with_reducible exact k
    | with_reducible exact h
    | with_reducible refine checked_keeps ?_ (hact := fun _  k => ?_) ..
    | with_reducible refine startAs_keeps ?_ (hrun := fun _ _  k => ?_) ..
    | with_reducible refine startRun_keeps ?_ ..
    | split
    | simp only [Keeps.put_iff]

theorem execAbort_keeps (q : Nat) (s : State) : ∃ t, execAbort q s = .next t ∧ Keeps s t := by
  refine ⟨_, rfl, ?_⟩
  have h := Keeps.refl s
  repeat' first
    | dsimp only
    | with_reducible exact k
    | with_reducible exact h
    | with_reducible refine abortCmd_keeps ?_ ..
    | with_reducible refine checked_keeps ?_ (hact := fun _  k => ?_) ..
    | with_reducible refine startAs_keeps ?_ (hrun := fun _ _  k => ?_) ..
    | split
    | simp only [Keeps.put_iff]

theorem execStepMark_keeps (q : Nat) (s : State) : ∃ t, execStepMark q s = .next t ∧ Keeps s t := by
  refine ⟨_, rfl, ?_⟩
  have h := Keeps.refl s
  repeat' first
    | dsimp only
    | with_reducible exact k
    | with_reducible exact h
    | with_reducible refine startAs_keeps ?_ (hrun := fun _ _  k => ?_) ..
    | with_reducible refine stepMark_keeps ?_ ..
    | split
    | simp only [Keeps.put_iff]

theorem execStepMarkExpert_keeps (q : Nat) (s : State) : ∃ t, execStepMarkExpert q s = .next t ∧ Keeps s t := by
  refine ⟨_, rfl, ?_⟩
  have h := Keeps.refl s
  repeat' first
    | dsimp only
    | with_reducible exact k
    | with_reducible exact h
    | with_reducible refine startAs_keeps ?_ (hrun := fun _ _  k => ?_) ..
    | with_reducible refine stepMark_keeps ?_ ..
    | split
    | simp only [Keeps.put_iff]

theorem execSpdCorrectedWriteback_keeps (p : Nat) (kind : MemKind) (word : Nat) (_superseded : Bool) (s : State) : ∃ t, execSpdCorrectedWriteback p kind word _superseded s = .next t ∧ Keeps s t := by
  refine ⟨_, rfl, ?_⟩
  have h := Keeps.refl s
  repeat' first
    | dsimp only
    | with_reducible exact k
    | with_reducible exact h
    | with_reducible refine modCore_keeps ?_ ..
    | split
    | simp only [Keeps.put_iff]

theorem execSpdUncorrectableRead_keeps (p : Nat) (who : Option Nat) (kind : MemKind) (word : Nat) (clean : Bool) (s : State) : ∃ t, execSpdUncorrectableRead p who kind word clean s = .next t ∧ Keeps s t := by
  refine ⟨_, rfl, ?_⟩
  have h := Keeps.refl s
  repeat' first
    | dsimp only
    | with_reducible exact k
    | with_reducible exact h
    | with_reducible refine uncorrectable_keeps ?_ ..
    | split
    | simp only [Keeps.put_iff]

theorem execPatrolScrubRead_keeps (p : Nat) (corrected : Bool) (failing : Option Nat) (s : State) : ∃ t, execPatrolScrubRead p corrected failing s = .next t ∧ Keeps s t := by
  refine ⟨_, rfl, ?_⟩
  have h := Keeps.refl s
  repeat' first
    | dsimp only
    | with_reducible exact k
    | with_reducible exact h
    | with_reducible refine scrubRow_keeps ?_ ..
    | split
    | simp only [Keeps.put_iff]

theorem execCoalescingBufferClose_keeps (p : Nat) (write : Bool) (s : State) : ∃ t, execCoalescingBufferClose p write s = .next t ∧ Keeps s t := by
  refine ⟨_, rfl, ?_⟩
  have h := Keeps.refl s
  repeat' first
    | dsimp only
    | with_reducible exact k
    | with_reducible exact h
    | with_reducible refine closeBuf_keeps ?_ ..
    | split
    | simp only [Keeps.put_iff]

theorem execArbitrationStarvationPriority_keeps (p : Nat) (kind : MemKind) (bank : Nat) (stream : Nat) (s : State) : ∃ t, execArbitrationStarvationPriority p kind bank stream s = .next t ∧ Keeps s t := by
  refine ⟨_, rfl, ?_⟩
  have h := Keeps.refl s
  repeat' first
    | dsimp only
    | with_reducible exact k
    | with_reducible exact h
    | with_reducible refine modCore_keeps ?_ ..
    | split
    | simp only [Keeps.put_iff]

theorem execApertureRead_keeps (h0 : Nat) (hart : Nat) (addr : Nat) (size : Nat) (s : State) : ∃ t, execApertureRead h0 hart addr size s = .next t ∧ Keeps s t := by
  refine ⟨_, rfl, ?_⟩
  have h := Keeps.refl s
  repeat' first
    | dsimp only
    | with_reducible exact k
    | with_reducible exact h
    | with_reducible refine askAperture_keeps ?_ ..
    | with_reducible refine hostLoad_keeps ?_ ..
    | split
    | simp only [Keeps.put_iff]

theorem execApertureWrite_keeps (h0 : Nat) (hart : Nat) (addr : Nat) (size : Nat) (data : BitVec 512) (s : State) : ∃ t, execApertureWrite h0 hart addr size data s = .next t ∧ Keeps s t := by
  refine ⟨_, rfl, ?_⟩
  have h := Keeps.refl s
  repeat' first
    | dsimp only
    | with_reducible exact k
    | with_reducible exact h
    | with_reducible refine askAperture_keeps ?_ ..
    | with_reducible refine place_keeps ?_ ..
    | with_reducible refine unpopStore_keeps ?_ ..
    | split
    | simp only [Keeps.put_iff]

theorem execMemCopy_keeps (q : Nat) (i : Option Nat) (blocks : Option Nat) (s : State) : ∃ t, execMemCopy q i blocks s = .next t ∧ Keeps s t := by
  refine ⟨_, rfl, ?_⟩
  have h := Keeps.refl s
  repeat' first
    | dsimp only
    | with_reducible exact k
    | with_reducible exact h
    | with_reducible refine moveRow_keeps ?_ ..
    | split
    | simp only [Keeps.put_iff]

theorem execMemCopyExpert_keeps (q : Nat) (i : Option Nat) (blocks : Option Nat) (s : State) : ∃ t, execMemCopyExpert q i blocks s = .next t ∧ Keeps s t := by
  refine ⟨_, rfl, ?_⟩
  have h := Keeps.refl s
  repeat' first
    | dsimp only
    | with_reducible exact k
    | with_reducible exact h
    | with_reducible refine moveRow_keeps ?_ ..
    | split
    | simp only [Keeps.put_iff]

theorem execMemFill_keeps (q : Nat) (i : Option Nat) (blocks : Option Nat) (s : State) : ∃ t, execMemFill q i blocks s = .next t ∧ Keeps s t := by
  refine ⟨_, rfl, ?_⟩
  have h := Keeps.refl s
  repeat' first
    | dsimp only
    | with_reducible exact k
    | with_reducible exact h
    | with_reducible refine moveRow_keeps ?_ ..
    | split
    | simp only [Keeps.put_iff]

theorem execMemFillExpert_keeps (q : Nat) (i : Option Nat) (blocks : Option Nat) (s : State) : ∃ t, execMemFillExpert q i blocks s = .next t ∧ Keeps s t := by
  refine ⟨_, rfl, ?_⟩
  have h := Keeps.refl s
  repeat' first
    | dsimp only
    | with_reducible exact k
    | with_reducible exact h
    | with_reducible refine moveRow_keeps ?_ ..
    | split
    | simp only [Keeps.put_iff]

theorem execFingerprintFeed_keeps (p : Nat) (id : Nat) (words : Nat) (s : State) : ∃ t, execFingerprintFeed p id words s = .next t ∧ Keeps s t := by
  refine ⟨_, rfl, ?_⟩
  have h := Keeps.refl s
  repeat' first
    | dsimp only
    | with_reducible exact k
    | with_reducible exact h
    | with_reducible refine feedWords_keeps ?_ ..
    | split
    | simp only [Keeps.put_iff]

theorem execFingerprintConfigure_keeps (q : Nat) (s : State) : ∃ t, execFingerprintConfigure q s = .next t ∧ Keeps s t := by
  refine ⟨_, rfl, ?_⟩
  have h := Keeps.refl s
  repeat' first
    | dsimp only
    | with_reducible exact k
    | with_reducible exact h
    | with_reducible refine fpConfigure_keeps ?_ ..
    | with_reducible refine startAs_keeps ?_ (hrun := fun _ _  k => ?_) ..
    | split
    | simp only [Keeps.put_iff]

theorem execFingerprintEnable_keeps (q : Nat) (s : State) : ∃ t, execFingerprintEnable q s = .next t ∧ Keeps s t := by
  refine ⟨_, rfl, ?_⟩
  have h := Keeps.refl s
  repeat' first
    | dsimp only
    | with_reducible exact k
    | with_reducible exact h
    | with_reducible refine fpEnable_keeps ?_ ..
    | with_reducible refine startAs_keeps ?_ (hrun := fun _ _  k => ?_) ..
    | split
    | simp only [Keeps.put_iff]

theorem execFingerprintDisable_keeps (q : Nat) (s : State) : ∃ t, execFingerprintDisable q s = .next t ∧ Keeps s t := by
  refine ⟨_, rfl, ?_⟩
  have h := Keeps.refl s
  repeat' first
    | dsimp only
    | with_reducible exact k
    | with_reducible exact h
    | with_reducible refine fpDisable_keeps ?_ ..
    | with_reducible refine startAs_keeps ?_ (hrun := fun _ _  k => ?_) ..
    | split
    | simp only [Keeps.put_iff]

theorem execFingerprintDisableExpert_keeps (q : Nat) (s : State) : ∃ t, execFingerprintDisableExpert q s = .next t ∧ Keeps s t := by
  refine ⟨_, rfl, ?_⟩
  have h := Keeps.refl s
  repeat' first
    | dsimp only
    | with_reducible exact k
    | with_reducible exact h
    | with_reducible refine fpDisableExpert_keeps ?_ ..
    | with_reducible refine startAs_keeps ?_ (hrun := fun _ _  k => ?_) ..
    | split
    | simp only [Keeps.put_iff]

theorem execFingerprintRead_keeps (q : Nat) (s : State) : ∃ t, execFingerprintRead q s = .next t ∧ Keeps s t := by
  refine ⟨_, rfl, ?_⟩
  have h := Keeps.refl s
  repeat' first
    | dsimp only
    | with_reducible exact k
    | with_reducible exact h
    | with_reducible refine fpRead_keeps ?_ ..
    | with_reducible refine startAs_keeps ?_ (hrun := fun _ _  k => ?_) ..
    | split
    | simp only [Keeps.put_iff]

theorem execCrcContextSet_keeps (q : Nat) (s : State) : ∃ t, execCrcContextSet q s = .next t ∧ Keeps s t := by
  refine ⟨_, rfl, ?_⟩
  have h := Keeps.refl s
  repeat' first
    | dsimp only
    | with_reducible exact k
    | with_reducible exact h
    | with_reducible refine crcSet_keeps ?_ ..
    | with_reducible refine startAs_keeps ?_ (hrun := fun _ _  k => ?_) ..
    | split
    | simp only [Keeps.put_iff]

theorem execCrcContextGet_keeps (q : Nat) (s : State) : ∃ t, execCrcContextGet q s = .next t ∧ Keeps s t := by
  refine ⟨_, rfl, ?_⟩
  have h := Keeps.refl s
  repeat' first
    | dsimp only
    | with_reducible exact k
    | with_reducible exact h
    | with_reducible refine crcGet_keeps ?_ ..
    | with_reducible refine startAs_keeps ?_ (hrun := fun _ _  k => ?_) ..
    | split
    | simp only [Keeps.put_iff]

theorem execFaultLogReadRecords_keeps (q : Nat) (s : State) : ∃ t, execFaultLogReadRecords q s = .next t ∧ Keeps s t := by
  refine ⟨_, rfl, ?_⟩
  have h := Keeps.refl s
  repeat' first
    | dsimp only
    | with_reducible exact k
    | with_reducible exact h
    | with_reducible refine checked_keeps ?_ (hact := fun _  k => ?_) ..
    | with_reducible refine readRecords_keeps ?_ ..
    | with_reducible refine startAs_keeps ?_ (hrun := fun _ _  k => ?_) ..
    | split
    | simp only [Keeps.put_iff]

theorem execFaultLogReadCounters_keeps (q : Nat) (s : State) : ∃ t, execFaultLogReadCounters q s = .next t ∧ Keeps s t := by
  refine ⟨_, rfl, ?_⟩
  have h := Keeps.refl s
  repeat' first
    | dsimp only
    | with_reducible exact k
    | with_reducible exact h
    | with_reducible refine checked_keeps ?_ (hact := fun _  k => ?_) ..
    | with_reducible refine readCounters_keeps ?_ ..
    | with_reducible refine startAs_keeps ?_ (hrun := fun _ _  k => ?_) ..
    | split
    | simp only [Keeps.put_iff]

theorem execPartitionReset_keeps (q : Nat) (s : State) : ∃ t, execPartitionReset q s = .next t ∧ Keeps s t := by
  refine ⟨_, rfl, ?_⟩
  have h := Keeps.refl s
  repeat' first
    | dsimp only
    | with_reducible exact k
    | with_reducible exact h
    | with_reducible refine checked_keeps ?_ (hact := fun _  k => ?_) ..
    | with_reducible refine resetPart_keeps ?_ ..
    | with_reducible refine startAs_keeps ?_ (hrun := fun _ _  k => ?_) ..
    | split
    | simp only [Keeps.put_iff]

theorem execAccessionRetest_keeps (q : Nat) (failing : List Nat) (second : List Nat) (s : State) : ∃ t, execAccessionRetest q failing second s = .next t ∧ Keeps s t := by
  refine ⟨_, rfl, ?_⟩
  have h := Keeps.refl s
  repeat' first
    | dsimp only
    | with_reducible exact k
    | with_reducible exact h
    | with_reducible refine retest_keeps ?_ ..
    | with_reducible refine startAs_keeps ?_ (hrun := fun _ _  k => ?_) ..
    | split
    | simp only [Keeps.put_iff]

theorem execAccessionPlace_keeps (q : Nat) (run : KatResult) (s : State) : ∃ t, execAccessionPlace q run s = .next t ∧ Keeps s t := by
  refine ⟨_, rfl, ?_⟩
  have h := Keeps.refl s
  repeat' first
    | dsimp only
    | with_reducible exact k
    | with_reducible exact h
    | with_reducible refine place_keeps ?_ ..
    | with_reducible refine startAs_keeps ?_ (hrun := fun _ _  k => ?_) ..
    | split
    | simp only [Keeps.put_iff]

theorem execEscalationPolicyRead_keeps (q : Nat) (s : State) : ∃ t, execEscalationPolicyRead q s = .next t ∧ Keeps s t := by
  refine ⟨_, rfl, ?_⟩
  have h := Keeps.refl s
  repeat' first
    | dsimp only
    | with_reducible exact k
    | with_reducible exact h
    | with_reducible refine checked_keeps ?_ (hact := fun _  k => ?_) ..
    | with_reducible refine readPolicy_keeps ?_ ..
    | with_reducible refine startAs_keeps ?_ (hrun := fun _ _  k => ?_) ..
    | split
    | simp only [Keeps.put_iff]

theorem execEscalationPolicySet_keeps (q : Nat) (s : State) : ∃ t, execEscalationPolicySet q s = .next t ∧ Keeps s t := by
  refine ⟨_, rfl, ?_⟩
  have h := Keeps.refl s
  repeat' first
    | dsimp only
    | with_reducible exact k
    | with_reducible exact h
    | with_reducible refine checked_keeps ?_ (hact := fun _  k => ?_) ..
    | with_reducible refine startAs_keeps ?_ (hrun := fun _ _  k => ?_) ..
    | with_reducible refine writePolicy_keeps ?_ ..
    | split
    | simp only [Keeps.put_iff]

theorem execProvenanceRead_keeps (q : Nat) (s : State) : ∃ t, execProvenanceRead q s = .next t ∧ Keeps s t := by
  refine ⟨_, rfl, ?_⟩
  have h := Keeps.refl s
  repeat' first
    | dsimp only
    | with_reducible exact k
    | with_reducible exact h
    | with_reducible refine checked_keeps ?_ (hact := fun _  k => ?_) ..
    | with_reducible refine readProv_keeps ?_ ..
    | with_reducible refine startAs_keeps ?_ (hrun := fun _ _  k => ?_) ..
    | split
    | simp only [Keeps.put_iff]

theorem execCatalogueRead_keeps (q : Nat) (s : State) : ∃ t, execCatalogueRead q s = .next t ∧ Keeps s t := by
  refine ⟨_, rfl, ?_⟩
  have h := Keeps.refl s
  repeat' first
    | dsimp only
    | with_reducible exact k
    | with_reducible exact h
    | with_reducible refine checked_keeps ?_ (hact := fun _  k => ?_) ..
    | with_reducible refine readCatalogue_keeps ?_ ..
    | with_reducible refine startAs_keeps ?_ (hrun := fun _ _  k => ?_) ..
    | split
    | simp only [Keeps.put_iff]

theorem execCatalogueReadExpert_keeps (q : Nat) (s : State) : ∃ t, execCatalogueReadExpert q s = .next t ∧ Keeps s t := by
  refine ⟨_, rfl, ?_⟩
  have h := Keeps.refl s
  repeat' first
    | dsimp only
    | with_reducible exact k
    | with_reducible exact h
    | with_reducible refine checked_keeps ?_ (hact := fun _  k => ?_) ..
    | with_reducible refine copyCatalogue_keeps ?_ ..
    | with_reducible refine startAs_keeps ?_ (hrun := fun _ _  k => ?_) ..
    | split
    | simp only [Keeps.put_iff]

theorem execCharterRead_keeps (q : Nat) (s : State) : ∃ t, execCharterRead q s = .next t ∧ Keeps s t := by
  refine ⟨_, rfl, ?_⟩
  have h := Keeps.refl s
  repeat' first
    | dsimp only
    | with_reducible exact k
    | with_reducible exact h
    | with_reducible refine readCharter_keeps ?_ ..
    | with_reducible refine startAs_keeps ?_ (hrun := fun _ _  k => ?_) ..
    | split
    | simp only [Keeps.put_iff]

theorem execAttest_keeps (q : Nat) (s : State) : ∃ t, execAttest q s = .next t ∧ Keeps s t := by
  refine ⟨_, rfl, ?_⟩
  have h := Keeps.refl s
  repeat' first
    | dsimp only
    | with_reducible exact k
    | with_reducible exact h
    | with_reducible refine attest_keeps ?_ ..
    | with_reducible refine checked_keeps ?_ (hact := fun _  k => ?_) ..
    | with_reducible refine startAs_keeps ?_ (hrun := fun _ _  k => ?_) ..
    | split
    | simp only [Keeps.put_iff]

theorem execFwStage_keeps (q : Nat) (s : State) : ∃ t, execFwStage q s = .next t ∧ Keeps s t := by
  refine ⟨_, rfl, ?_⟩
  have h := Keeps.refl s
  repeat' first
    | dsimp only
    | with_reducible exact k
    | with_reducible exact h
    | with_reducible refine checked_keeps ?_ (hact := fun _  k => ?_) ..
    | with_reducible refine stageDone_keeps ?_ ..
    | with_reducible refine stageImage_keeps ?_ ..
    | with_reducible refine startAs_keeps ?_ (hrun := fun _ _  k => ?_) ..
    | split
    | simp only [Keeps.put_iff]

theorem execFwCommit_keeps (q : Nat) (s : State) : ∃ t, execFwCommit q s = .next t ∧ Keeps s t := by
  refine ⟨_, rfl, ?_⟩
  have h := Keeps.refl s
  repeat' first
    | dsimp only
    | with_reducible exact k
    | with_reducible exact h
    | with_reducible refine checked_keeps ?_ (hact := fun _  k => ?_) ..
    | with_reducible refine commitDone_keeps ?_ ..
    | with_reducible refine modCmd_keeps ?_ ..
    | with_reducible refine startAs_keeps ?_ (hrun := fun _ _  k => ?_) ..
    | split
    | simp only [Keeps.put_iff]

theorem execPacketRoute_keeps (id : Nat) (s : State) : ∃ t, execPacketRoute id s = .next t ∧ Keeps s t := by
  refine ⟨_, rfl, ?_⟩
  have h := Keeps.refl s
  repeat' first
    | dsimp only
    | with_reducible exact k
    | with_reducible exact h
    | with_reducible refine injectHeld_keeps ?_ ..
    | with_reducible refine routePacket_keeps ?_ ..
    | split
    | simp only [Keeps.put_iff]

theorem execPacketDeliver_keeps (id : Nat) (s : State) : ∃ t, execPacketDeliver id s = .next t ∧ Keeps s t := by
  refine ⟨_, rfl, ?_⟩
  have h := Keeps.refl s
  repeat' first
    | dsimp only
    | with_reducible exact k
    | with_reducible exact h
    | with_reducible refine deliverPacket_keeps ?_ ..
    | split
    | simp only [Keeps.put_iff]

theorem execPacketLifetimeExpiry_keeps (id : Nat) (s : State) : ∃ t, execPacketLifetimeExpiry id s = .next t ∧ Keeps s t := by
  refine ⟨_, rfl, ?_⟩
  have h := Keeps.refl s
  repeat' first
    | dsimp only
    | with_reducible exact k
    | with_reducible exact h
    | with_reducible refine expire_keeps ?_ ..
    | split
    | simp only [Keeps.put_iff]

theorem execRequestReplyTimeout_keeps (id : Nat) (s : State) : ∃ t, execRequestReplyTimeout id s = .next t ∧ Keeps s t := by
  refine ⟨_, rfl, ?_⟩
  have h := Keeps.refl s
  repeat' first
    | dsimp only
    | with_reducible exact k
    | with_reducible exact h
    | with_reducible refine replyTimeout_keeps ?_ ..
    | split
    | simp only [Keeps.put_iff]

theorem execFlitCrcFail_keeps (link : LinkRef) (s : State) : ∃ t, execFlitCrcFail link s = .next t ∧ Keeps s t := by
  refine ⟨_, rfl, ?_⟩
  have h := Keeps.refl s
  repeat' first
    | dsimp only
    | with_reducible exact k
    | with_reducible exact h
    | split
    | simp only [Keeps.put_iff]

theorem execFlitReplayResult_keeps (link : LinkRef) (ok : Bool) (group : Option Nat) (s : State) : ∃ t, execFlitReplayResult link ok group s = .next t ∧ Keeps s t := by
  refine ⟨_, rfl, ?_⟩
  have h := Keeps.refl s
  repeat' first
    | dsimp only
    | with_reducible exact k
    | with_reducible exact h
    | with_reducible refine linkLasting_keeps ?_ ..
    | with_reducible refine linkTransient_keeps ?_ ..
    | split
    | simp only [Keeps.put_iff]

theorem execLaneGroupRetrainDone_keeps (tile : Nat) (n : Nat) (ok : Bool) (s : State) : ∃ t, execLaneGroupRetrainDone tile n ok s = .next t ∧ Keeps s t := by
  refine ⟨_, rfl, ?_⟩
  have h := Keeps.refl s
  repeat' first
    | dsimp only
    | with_reducible exact k
    | with_reducible exact h
    | with_reducible refine failLink_keeps ?_ ..
    | with_reducible refine modLink_keeps ?_ ..
    | split
    | simp only [Keeps.put_iff]

theorem execDrainHold_keeps (id : Nat) (s : State) : ∃ t, execDrainHold id s = .next t ∧ Keeps s t := by
  refine ⟨_, rfl, ?_⟩
  have h := Keeps.refl s
  repeat' first
    | dsimp only
    | with_reducible exact k
    | with_reducible exact h
    | with_reducible refine setPhase_keeps ?_ ..
    | split
    | simp only [Keeps.put_iff]

theorem execDrainTableWrite_keeps (id : Nat) (s : State) : ∃ t, execDrainTableWrite id s = .next t ∧ Keeps s t := by
  refine ⟨_, rfl, ?_⟩
  have h := Keeps.refl s
  repeat' first
    | dsimp only
    | with_reducible exact k
    | with_reducible exact h
    | with_reducible refine writeDrain_keeps ?_ ..
    | split
    | simp only [Keeps.put_iff]

theorem execDrainRelease_keeps (id : Nat) (s : State) : ∃ t, execDrainRelease id s = .next t ∧ Keeps s t := by
  refine ⟨_, rfl, ?_⟩
  have h := Keeps.refl s
  repeat' first
    | dsimp only
    | with_reducible exact k
    | with_reducible exact h
    | with_reducible refine each_keeps (fun _ _ k => ?_) _ ?_
    | with_reducible refine releaseHeld_keeps ?_ ..
    | with_reducible refine released_keeps ?_ ..
    | with_reducible refine releasedCats_keeps ?_ ..
    | with_reducible refine resumeFrames_keeps ?_ ..
    | split
    | simp only [Keeps.put_iff]

theorem execControlMessage_keeps (m : CtrlRef) (s : State) : ∃ t, execControlMessage m s = .next t ∧ Keeps s t := by
  refine ⟨_, rfl, ?_⟩
  have h := Keeps.refl s
  repeat' first
    | dsimp only
    | with_reducible exact k
    | with_reducible exact h
    | with_reducible refine hearCurator_keeps ?_ ..
    | with_reducible refine takeCtrl_keeps ?_ ..
    | split
    | simp only [Keeps.put_iff]

theorem execBroadcastTreeMessage_keeps (words : List Dword) (failing : List Nat) (s : State) : ∃ t, execBroadcastTreeMessage words failing s = .next t ∧ Keeps s t := by
  refine ⟨_, rfl, ?_⟩
  have h := Keeps.refl s
  repeat' first
    | dsimp only
    | with_reducible exact k
    | with_reducible exact h
    | with_reducible refine each_keeps (fun _ _ k => ?_) _ ?_
    | with_reducible refine addLasting_keeps ?_ ..
    | with_reducible refine disposeCore_keeps ?_ ..
    | split
    | simp only [Keeps.put_iff]

theorem execSyncSampleError_keeps (link : SyncRef) (s : State) : ∃ t, execSyncSampleError link s = .next t ∧ Keeps s t := by
  refine ⟨_, rfl, ?_⟩
  have h := Keeps.refl s
  repeat' first
    | dsimp only
    | with_reducible exact k
    | with_reducible exact h
    | with_reducible refine syncLasting_keeps ?_ ..
    | split
    | simp only [Keeps.put_iff]

theorem execReplicatorRow_keeps (tile : Nat) (stream : Nat) (s : State) : ∃ t, execReplicatorRow tile stream s = .next t ∧ Keeps s t := by
  refine ⟨_, rfl, ?_⟩
  have h := Keeps.refl s
  repeat' first
    | dsimp only
    | with_reducible exact k
    | with_reducible exact h
    | with_reducible refine takeRow_keeps ?_ ..
    | split
    | simp only [Keeps.put_iff]

theorem execBroadcastBeat_keeps (tile : Nat) (stream : Nat) (site : Nat) (ok : Bool) (s : State) : ∃ t, execBroadcastBeat tile stream site ok s = .next t ∧ Keeps s t := by
  refine ⟨_, rfl, ?_⟩
  have h := Keeps.refl s
  repeat' first
    | dsimp only
    | with_reducible exact k
    | with_reducible exact h
    | with_reducible refine beat_keeps ?_ ..
    | split
    | simp only [Keeps.put_iff]

theorem execPartitionResetStart_keeps (part : Nat) (s : State) : ∃ t, execPartitionResetStart part s = .next t ∧ Keeps s t := by
  refine ⟨_, rfl, ?_⟩
  have h := Keeps.refl s
  repeat' first
    | dsimp only
    | with_reducible exact k
    | with_reducible exact h
    | with_reducible refine startDecided_keeps ?_ ..
    | split
    | simp only [Keeps.put_iff]

theorem execPartitionResetRelease_keeps (part : Nat) (failing : List Nat) (second : List Nat) (s : State) : ∃ t, execPartitionResetRelease part failing second s = .next t ∧ Keeps s t := by
  refine ⟨_, rfl, ?_⟩
  have h := Keeps.refl s
  repeat' first
    | dsimp only
    | with_reducible exact k
    | with_reducible exact h
    | with_reducible refine releaseReset_keeps ?_ ..
    | split
    | simp only [Keeps.put_iff]

theorem execHoldLimitExpiry_keeps (part : Nat) (s : State) : ∃ t, execHoldLimitExpiry part s = .next t ∧ Keeps s t := by
  refine ⟨_, rfl, ?_⟩
  have h := Keeps.refl s
  repeat' first
    | dsimp only
    | with_reducible exact k
    | with_reducible exact h
    | with_reducible refine endHold_keeps ?_ ..
    | split
    | simp only [Keeps.put_iff]

theorem execAccessionComplete_keeps (part : Nat) (l : Nat) (second : Bool) (s : State) : ∃ t, execAccessionComplete part l second s = .next t ∧ Keeps s t := by
  refine ⟨_, rfl, ?_⟩
  have h := Keeps.refl s
  repeat' first
    | dsimp only
    | with_reducible exact k
    | with_reducible exact h
    | with_reducible refine accessionDone_keeps ?_ ..
    | split
    | simp only [Keeps.put_iff]

theorem execAccessionKatFail_keeps (part : Nat) (l : Nat) (word : Nat) (s : State) : ∃ t, execAccessionKatFail part l word s = .next t ∧ Keeps s t := by
  refine ⟨_, rfl, ?_⟩
  have h := Keeps.refl s
  repeat' first
    | dsimp only
    | with_reducible exact k
    | with_reducible exact h
    | with_reducible refine accessionFail_keeps ?_ ..
    | split
    | simp only [Keeps.put_iff]

theorem execStragglerStaging_keeps (p : Nat) (run : KatResult) (s : State) : ∃ t, execStragglerStaging p run s = .next t ∧ Keeps s t := by
  refine ⟨_, rfl, ?_⟩
  have h := Keeps.refl s
  repeat' first
    | dsimp only
    | with_reducible exact k
    | with_reducible exact h
    | with_reducible refine stageStraggler_keeps ?_ ..
    | split
    | simp only [Keeps.put_iff]

theorem execSpdWordRewriteCheck_keeps (p : Nat) (kind : MemKind) (word : Nat) (clean : Bool) (s : State) : ∃ t, execSpdWordRewriteCheck p kind word clean s = .next t ∧ Keeps s t := by
  refine ⟨_, rfl, ?_⟩
  have h := Keeps.refl s
  repeat' first
    | dsimp only
    | with_reducible exact k
    | with_reducible exact h
    | with_reducible refine rewriteCheck_keeps ?_ ..
    | split
    | simp only [Keeps.put_iff]

theorem execDieFence_keeps (tile : Nat) (site : Nat) (cause : FenceCause) (s : State) : ∃ t, execDieFence tile site cause s = .next t ∧ Keeps s t := by
  refine ⟨_, rfl, ?_⟩
  have h := Keeps.refl s
  repeat' first
    | dsimp only
    | with_reducible exact k
    | with_reducible exact h
    | with_reducible refine fenceFor_keeps ?_ ..
    | split
    | simp only [Keeps.put_iff]

theorem execCuratorSilence_keeps (tile : Nat) (s : State) : ∃ t, execCuratorSilence tile s = .next t ∧ Keeps s t := by
  refine ⟨_, rfl, ?_⟩
  have h := Keeps.refl s
  repeat' first
    | dsimp only
    | with_reducible exact k
    | with_reducible exact h
    | with_reducible refine silence_keeps ?_ ..
    | split
    | simp only [Keeps.put_iff]

theorem execCuratorRestartTimeout_keeps (tile : Nat) (s : State) : ∃ t, execCuratorRestartTimeout tile s = .next t ∧ Keeps s t := by
  refine ⟨_, rfl, ?_⟩
  have h := Keeps.refl s
  repeat' first
    | dsimp only
    | with_reducible exact k
    | with_reducible exact h
    | with_reducible refine restartTimeout_keeps ?_ ..
    | split
    | simp only [Keeps.put_iff]

theorem execLeadTakeover_keeps  (s : State) : ∃ t, execLeadTakeover  s = .next t ∧ Keeps s t := by
  refine ⟨_, rfl, ?_⟩
  have h := Keeps.refl s
  repeat' first
    | dsimp only
    | with_reducible exact k
    | with_reducible exact h
    | with_reducible refine takeover_keeps ?_ ..
    | split
    | simp only [Keeps.put_iff]

theorem execTransientSummary_keeps  (s : State) : ∃ t, execTransientSummary  s = .next t ∧ Keeps s t := by
  refine ⟨_, rfl, ?_⟩
  have h := Keeps.refl s
  repeat' first
    | dsimp only
    | with_reducible exact k
    | with_reducible exact h
    | with_reducible refine each_keeps (fun _ _ k => ?_) _ ?_
    | with_reducible refine modDevice_keeps ?_ ..
    | with_reducible refine summarise_keeps ?_ ..
    | split
    | simp only [Keeps.put_iff]

theorem execTestPhaseEmergency_keeps  (s : State) : ∃ t, execTestPhaseEmergency  s = .next t ∧ Keeps s t := by
  refine ⟨_, rfl, ?_⟩
  have h := Keeps.refl s
  repeat' first
    | dsimp only
    | with_reducible exact k
    | with_reducible exact h
    | with_reducible refine each_keeps (fun _ _ k => ?_) _ ?_
    | with_reducible refine setStack_keeps ?_ ..
    | split
    | simp only [Keeps.put_iff]

theorem execExtest_keeps (b : BitVec 48) (s : State) : ∃ t, execExtest b s = .next t ∧ Keeps s t := by
  refine ⟨_, rfl, ?_⟩
  have h := Keeps.refl s
  repeat' first
    | dsimp only
    | with_reducible exact k
    | with_reducible exact h
    | with_reducible refine boundaryScan_keeps ?_ ..
    | split
    | simp only [Keeps.put_iff]

theorem execSamplePreload_keeps (b : BitVec 48) (s : State) : ∃ t, execSamplePreload b s = .next t ∧ Keeps s t := by
  refine ⟨_, rfl, ?_⟩
  have h := Keeps.refl s
  repeat' first
    | dsimp only
    | with_reducible exact k
    | with_reducible exact h
    | with_reducible refine boundaryScan_keeps ?_ ..
    | split
    | simp only [Keeps.put_iff]

theorem execIdcode_keeps  (s : State) : ∃ t, execIdcode  s = .next t ∧ Keeps s t := by
  refine ⟨_, rfl, ?_⟩
  have h := Keeps.refl s
  repeat' first
    | dsimp only
    | with_reducible exact k
    | with_reducible exact h
    | with_reducible refine tapScan_keeps ?_ ..
    | split
    | simp only [Keeps.put_iff]

theorem execDieSelect_keeps (die : Nat) (s : State) : ∃ t, execDieSelect die s = .next t ∧ Keeps s t := by
  refine ⟨_, rfl, ?_⟩
  have h := Keeps.refl s
  repeat' first
    | dsimp only
    | with_reducible exact k
    | with_reducible exact h
    | with_reducible refine tapTake_keeps ?_ ..
    | split
    | simp only [Keeps.put_iff]

theorem execDieStandalone_keeps  (s : State) : ∃ t, execDieStandalone  s = .next t ∧ Keeps s t := by
  refine ⟨_, rfl, ?_⟩
  have h := Keeps.refl s
  repeat' first
    | dsimp only
    | with_reducible exact k
    | with_reducible exact h
    | with_reducible refine tapTake_keeps ?_ ..
    | split
    | simp only [Keeps.put_iff]

theorem execLoopback_keeps (port : Nat) (s : State) : ∃ t, execLoopback port s = .next t ∧ Keeps s t := by
  refine ⟨_, rfl, ?_⟩
  have h := Keeps.refl s
  repeat' first
    | dsimp only
    | with_reducible exact k
    | with_reducible exact h
    | with_reducible refine tapTake_keeps ?_ ..
    | split
    | simp only [Keeps.put_iff]

theorem execStackPower_keeps (on : Bool) (tile : Nat) (site : Nat) (s : State) : ∃ t, execStackPower on tile site s = .next t ∧ Keeps s t := by
  refine ⟨_, rfl, ?_⟩
  have h := Keeps.refl s
  repeat' first
    | dsimp only
    | with_reducible exact k
    | with_reducible exact h
    | with_reducible refine setStack_keeps ?_ ..
    | with_reducible refine tapTake_keeps ?_ ..
    | split
    | simp only [Keeps.put_iff]

theorem execFlashAccess_keeps (die : Nat) (write : FlashWrite) (s : State) : ∃ t, execFlashAccess die write s = .next t ∧ Keeps s t := by
  refine ⟨_, rfl, ?_⟩
  have h := Keeps.refl s
  repeat' first
    | dsimp only
    | with_reducible exact k
    | with_reducible exact h
    | with_reducible refine tapTake_keeps ?_ ..
    | split
    | simp only [Keeps.put_iff]

theorem execBypass_keeps (code : Nat) (s : State) : ∃ t, execBypass code s = .next t ∧ Keeps s t := by
  refine ⟨_, rfl, ?_⟩
  have h := Keeps.refl s
  repeat' first
    | dsimp only
    | with_reducible exact k
    | with_reducible exact h
    | with_reducible refine bumpFresh_keeps ?_ ..
    | with_reducible refine tapScan_keeps ?_ ..
    | split
    | simp only [Keeps.put_iff]

theorem execTapTestLogicReset_keeps  (s : State) : ∃ t, execTapTestLogicReset  s = .next t ∧ Keeps s t := by
  refine ⟨_, rfl, ?_⟩
  have h := Keeps.refl s
  repeat' first
    | dsimp only
    | with_reducible exact k
    | with_reducible exact h
    | with_reducible refine tapScan_keeps ?_ ..
    | split
    | simp only [Keeps.put_iff]

theorem execEntdaa_keeps (addr : BitVec 7) (s : State) : ∃ t, execEntdaa addr s = .next t ∧ Keeps s t := by
  refine ⟨_, rfl, ?_⟩
  have h := Keeps.refl s
  repeat' first
    | dsimp only
    | with_reducible exact k
    | with_reducible exact h
    | with_reducible refine i3cSend_keeps ?_ ..
    | with_reducible refine setI3cAddr_keeps ?_ ..
    | split
    | simp only [Keeps.put_iff]

theorem execSetdasa_keeps (target : BitVec 7) (addr : BitVec 7) (s : State) : ∃ t, execSetdasa target addr s = .next t ∧ Keeps s t := by
  refine ⟨_, rfl, ?_⟩
  have h := Keeps.refl s
  repeat' first
    | dsimp only
    | with_reducible exact k
    | with_reducible exact h
    | with_reducible refine setI3cAddr_keeps ?_ ..
    | split
    | simp only [Keeps.put_iff]

theorem execRstdaa_keeps  (s : State) : ∃ t, execRstdaa  s = .next t ∧ Keeps s t := by
  refine ⟨_, rfl, ?_⟩
  have h := Keeps.refl s
  repeat' first
    | dsimp only
    | with_reducible exact k
    | with_reducible exact h
    | with_reducible refine setI3cAddr_keeps ?_ ..
    | split
    | simp only [Keeps.put_iff]

theorem execGetpid_keeps  (s : State) : ∃ t, execGetpid  s = .next t ∧ Keeps s t := by
  refine ⟨_, rfl, ?_⟩
  have h := Keeps.refl s
  repeat' first
    | dsimp only
    | with_reducible exact k
    | with_reducible exact h
    | with_reducible refine i3cSend_keeps ?_ ..
    | split
    | simp only [Keeps.put_iff]

theorem execGetbcr_keeps  (s : State) : ∃ t, execGetbcr  s = .next t ∧ Keeps s t := by
  refine ⟨_, rfl, ?_⟩
  have h := Keeps.refl s
  repeat' first
    | dsimp only
    | with_reducible exact k
    | with_reducible exact h
    | with_reducible refine i3cSend_keeps ?_ ..
    | split
    | simp only [Keeps.put_iff]

theorem execGetdcr_keeps  (s : State) : ∃ t, execGetdcr  s = .next t ∧ Keeps s t := by
  refine ⟨_, rfl, ?_⟩
  have h := Keeps.refl s
  repeat' first
    | dsimp only
    | with_reducible exact k
    | with_reducible exact h
    | with_reducible refine i3cSend_keeps ?_ ..
    | split
    | simp only [Keeps.put_iff]

theorem execGetstatus_keeps  (s : State) : ∃ t, execGetstatus  s = .next t ∧ Keeps s t := by
  refine ⟨_, rfl, ?_⟩
  have h := Keeps.refl s
  repeat' first
    | dsimp only
    | with_reducible exact k
    | with_reducible exact h
    | with_reducible refine bumpFresh_keeps ?_ ..
    | with_reducible refine i3cSend_keeps ?_ ..
    | split
    | simp only [Keeps.put_iff]

theorem execEnec_keeps (b : BitVec 8) (s : State) : ∃ t, execEnec b s = .next t ∧ Keeps s t := by
  refine ⟨_, rfl, ?_⟩
  have h := Keeps.refl s
  repeat' first
    | dsimp only
    | with_reducible exact k
    | with_reducible exact h
    | split
    | simp only [Keeps.put_iff]

theorem execDisec_keeps (b : BitVec 8) (s : State) : ∃ t, execDisec b s = .next t ∧ Keeps s t := by
  refine ⟨_, rfl, ?_⟩
  have h := Keeps.refl s
  repeat' first
    | dsimp only
    | with_reducible exact k
    | with_reducible exact h
    | split
    | simp only [Keeps.put_iff]

theorem execI3cPrivateWrite_keeps (index : BitVec 8) (s : State) : ∃ t, execI3cPrivateWrite index s = .next t ∧ Keeps s t := by
  refine ⟨_, rfl, ?_⟩
  have h := Keeps.refl s
  repeat' first
    | dsimp only
    | with_reducible exact k
    | with_reducible exact h
    | split
    | simp only [Keeps.put_iff]

theorem execI3cPrivateRead_keeps  (s : State) : ∃ t, execI3cPrivateRead  s = .next t ∧ Keeps s t := by
  refine ⟨_, rfl, ?_⟩
  have h := Keeps.refl s
  repeat' first
    | dsimp only
    | with_reducible exact k
    | with_reducible exact h
    | with_reducible refine i3cSend_keeps ?_ ..
    | split
    | simp only [Keeps.put_iff]

theorem execI3cHotJoin_keeps  (s : State) : ∃ t, execI3cHotJoin  s = .next t ∧ Keeps s t := by
  refine ⟨_, rfl, ?_⟩
  have h := Keeps.refl s
  repeat' first
    | dsimp only
    | with_reducible exact k
    | with_reducible exact h
    | split
    | simp only [Keeps.put_iff]

theorem execI3cIbi_keeps  (s : State) : ∃ t, execI3cIbi  s = .next t ∧ Keeps s t := by
  refine ⟨_, rfl, ?_⟩
  have h := Keeps.refl s
  repeat' first
    | dsimp only
    | with_reducible exact k
    | with_reducible exact h
    | split
    | simp only [Keeps.put_iff]

theorem execPanelRstNRelease_keeps  (s : State) : ∃ t, execPanelRstNRelease  s = .next t ∧ Keeps s t := by
  refine ⟨_, rfl, ?_⟩
  have h := Keeps.refl s
  repeat' first
    | dsimp only
    | with_reducible exact k
    | with_reducible exact h
    | with_reducible refine bumpFresh_keeps ?_ ..
    | split
    | simp only [Keeps.put_iff]

theorem execStrapLatch_keeps (straps : BitVec 44) (s : State) : ∃ t, execStrapLatch straps s = .next t ∧ Keeps s t := by
  refine ⟨_, rfl, ?_⟩
  have h := Keeps.refl s
  repeat' first
    | dsimp only
    | with_reducible exact k
    | with_reducible exact h
    | with_reducible refine enterRun_keeps ?_ ..
    | split
    | simp only [Keeps.put_iff]

theorem execLinkTrainingDone_keeps (r : TrainingResult) (s : State) : ∃ t, execLinkTrainingDone r s = .next t ∧ Keeps s t := by
  refine ⟨_, rfl, ?_⟩
  have h := Keeps.refl s
  repeat' first
    | dsimp only
    | with_reducible exact k
    | with_reducible exact h
    | with_reducible refine trained_keeps ?_ ..
    | split
    | simp only [Keeps.put_iff]

theorem execStackWave_keeps  (s : State) : ∃ t, execStackWave  s = .next t ∧ Keeps s t := by
  refine ⟨_, rfl, ?_⟩
  have h := Keeps.refl s
  repeat' first
    | dsimp only
    | with_reducible exact k
    | with_reducible exact h
    | with_reducible refine trained_keeps ?_ ..
    | with_reducible refine waveOn_keeps ?_ ..
    | split
    | simp only [Keeps.put_iff]

theorem execMicrocodeBroadcast_keeps (failing : List Nat) (s : State) : ∃ t, execMicrocodeBroadcast failing s = .next t ∧ Keeps s t := by
  refine ⟨_, rfl, ?_⟩
  have h := Keeps.refl s
  repeat' first
    | dsimp only
    | with_reducible exact k
    | with_reducible exact h
    | with_reducible refine broadcastMicrocode_keeps ?_ ..
    | split
    | simp only [Keeps.put_iff]

theorem execLpddrInitialise_keeps  (s : State) : ∃ t, execLpddrInitialise  s = .next t ∧ Keeps s t := by
  refine ⟨_, rfl, ?_⟩
  have h := Keeps.refl s
  repeat' first
    | dsimp only
    | with_reducible exact k
    | with_reducible exact h
    | with_reducible refine zeroMemory_keeps ?_ ..
    | split
    | simp only [Keeps.put_iff]

theorem execLinkBerCheckDone_keeps (failing : List LinkRef) (s : State) : ∃ t, execLinkBerCheckDone failing s = .next t ∧ Keeps s t := by
  refine ⟨_, rfl, ?_⟩
  have h := Keeps.refl s
  repeat' first
    | dsimp only
    | with_reducible exact k
    | with_reducible exact h
    | with_reducible refine each_keeps (fun _ _ k => ?_) _ ?_
    | with_reducible refine berFails_keeps ?_ ..
    | with_reducible refine setStage_keeps ?_ ..
    | split
    | simp only [Keeps.put_iff]

theorem execStartKatDone_keeps (failing : List Nat) (second : List Nat) (s : State) : ∃ t, execStartKatDone failing second s = .next t ∧ Keeps s t := by
  refine ⟨_, rfl, ?_⟩
  have h := Keeps.refl s
  repeat' first
    | dsimp only
    | with_reducible exact k
    | with_reducible exact h
    | with_reducible refine each_keeps (fun _ _ k => ?_) _ ?_
    | with_reducible refine katAgain_keeps ?_ ..
    | with_reducible refine setStage_keeps ?_ ..
    | with_reducible refine startFail_keeps ?_ ..
    | split
    | simp only [Keeps.put_iff]

theorem execCatalogueBuild_keeps (failing : List Nat) (s : State) : ∃ t, execCatalogueBuild failing s = .next t ∧ Keeps s t := by
  refine ⟨_, rfl, ?_⟩
  have h := Keeps.refl s
  repeat' first
    | dsimp only
    | with_reducible exact k
    | with_reducible exact h
    | with_reducible refine buildCatalogue_keeps ?_ ..
    | split
    | simp only [Keeps.put_iff]

theorem execHostRelease_keeps (ucieDown : BitVec 4) (s : State) : ∃ t, execHostRelease ucieDown s = .next t ∧ Keeps s t := by
  refine ⟨_, rfl, ?_⟩
  have h := Keeps.refl s
  repeat' first
    | dsimp only
    | with_reducible exact k
    | with_reducible exact h
    | with_reducible refine releaseHosts_keeps ?_ ..
    | split
    | simp only [Keeps.put_iff]

theorem execRefclkLoss_keeps (alt : Bool) (s : State) : ∃ t, execRefclkLoss alt s = .next t ∧ Keeps s t := by
  refine ⟨_, rfl, ?_⟩
  have h := Keeps.refl s
  repeat' first
    | dsimp only
    | with_reducible exact k
    | with_reducible exact h
    | with_reducible refine loseRef_keeps ?_ ..
    | split
    | simp only [Keeps.put_iff]

theorem execRefclkPrimaryReturn_keeps  (s : State) : ∃ t, execRefclkPrimaryReturn  s = .next t ∧ Keeps s t := by
  refine ⟨_, rfl, ?_⟩
  have h := Keeps.refl s
  repeat' first
    | dsimp only
    | with_reducible exact k
    | with_reducible exact h
    | with_reducible refine primaryBack_keeps ?_ ..
    | split
    | simp only [Keeps.put_iff]

theorem execPllLossOfLock_keeps (tile : Nat) (site : Nat) (s : State) : ∃ t, execPllLossOfLock tile site s = .next t ∧ Keeps s t := by
  refine ⟨_, rfl, ?_⟩
  have h := Keeps.refl s
  repeat' first
    | dsimp only
    | with_reducible exact k
    | with_reducible exact h
    | with_reducible refine fenceFor_keeps ?_ ..
    | split
    | simp only [Keeps.put_iff]

theorem execMarginSample_keeps (p : Nat) (code : Nat) (s : State) : ∃ t, execMarginSample p code s = .next t ∧ Keeps s t := by
  refine ⟨_, rfl, ?_⟩
  have h := Keeps.refl s
  repeat' first
    | dsimp only
    | with_reducible exact k
    | with_reducible exact h
    | with_reducible refine modClk_keeps ?_ ..
    | split
    | simp only [Keeps.put_iff]

theorem execMarginStretchEnd_keeps (p : Nat) (s : State) : ∃ t, execMarginStretchEnd p s = .next t ∧ Keeps s t := by
  refine ⟨_, rfl, ?_⟩
  have h := Keeps.refl s
  repeat' first
    | dsimp only
    | with_reducible exact k
    | with_reducible exact h
    | with_reducible refine modClk_keeps ?_ ..
    | split
    | simp only [Keeps.put_iff]

theorem execMarginWindow_keeps (p : Nat) (s : State) : ∃ t, execMarginWindow p s = .next t ∧ Keeps s t := by
  refine ⟨_, rfl, ?_⟩
  have h := Keeps.refl s
  repeat' first
    | dsimp only
    | with_reducible exact k
    | with_reducible exact h
    | with_reducible refine marginCapped_keeps ?_ ..
    | with_reducible refine modClk_keeps ?_ ..
    | with_reducible refine sampleMargin_keeps ?_ ..
    | split
    | simp only [Keeps.put_iff]

theorem execRegulatorSettled_keeps (p : Nat) (s : State) : ∃ t, execRegulatorSettled p s = .next t ∧ Keeps s t := by
  refine ⟨_, rfl, ?_⟩
  have h := Keeps.refl s
  repeat' first
    | dsimp only
    | with_reducible exact k
    | with_reducible exact h
    | with_reducible refine regSettled_keeps ?_ ..
    | split
    | simp only [Keeps.put_iff]

theorem execStepSetPolicy_keeps (q : Nat) (s : State) : ∃ t, execStepSetPolicy q s = .next t ∧ Keeps s t := by
  refine ⟨_, rfl, ?_⟩
  have h := Keeps.refl s
  repeat' first
    | dsimp only
    | with_reducible exact k
    | with_reducible exact h
    | with_reducible refine checked_keeps ?_ (hact := fun _  k => ?_) ..
    | with_reducible refine setPolicy_keeps ?_ ..
    | with_reducible refine startStepSet_keeps ?_ (hrun := fun _ _  k => ?_) ..
    | split
    | simp only [Keeps.put_iff]

theorem execStepSetRead_keeps (q : Nat) (s : State) : ∃ t, execStepSetRead q s = .next t ∧ Keeps s t := by
  refine ⟨_, rfl, ?_⟩
  have h := Keeps.refl s
  repeat' first
    | dsimp only
    | with_reducible exact k
    | with_reducible exact h
    | with_reducible refine checked_keeps ?_ (hact := fun _  k => ?_) ..
    | with_reducible refine readClk_keeps ?_ ..
    | with_reducible refine startStepSet_keeps ?_ (hrun := fun _ _  k => ?_) ..
    | split
    | simp only [Keeps.put_iff]

theorem execStepSetFix_keeps (q : Nat) (s : State) : ∃ t, execStepSetFix q s = .next t ∧ Keeps s t := by
  refine ⟨_, rfl, ?_⟩
  have h := Keeps.refl s
  repeat' first
    | dsimp only
    | with_reducible exact k
    | with_reducible exact h
    | with_reducible refine checked_keeps ?_ (hact := fun _  k => ?_) ..
    | with_reducible refine fixSteps_keeps ?_ ..
    | with_reducible refine startStepSet_keeps ?_ (hrun := fun _ _  k => ?_) ..
    | split
    | simp only [Keeps.put_iff]

theorem execStepSetThresholds_keeps (q : Nat) (s : State) : ∃ t, execStepSetThresholds q s = .next t ∧ Keeps s t := by
  refine ⟨_, rfl, ?_⟩
  have h := Keeps.refl s
  repeat' first
    | dsimp only
    | with_reducible exact k
    | with_reducible exact h
    | with_reducible refine checked_keeps ?_ (hact := fun _  k => ?_) ..
    | with_reducible refine startStepSet_keeps ?_ (hrun := fun _ _  k => ?_) ..
    | with_reducible refine writeThresholds_keeps ?_ ..
    | split
    | simp only [Keeps.put_iff]

theorem execSliceRead_keeps (h0 : Nat) (hart : Nat) (addr : Nat) (size : Nat) (s : State) : ∃ t, execSliceRead h0 hart addr size s = .next t ∧ Keeps s t := by
  refine ⟨_, rfl, ?_⟩
  have h := Keeps.refl s
  repeat' first
    | dsimp only
    | with_reducible exact k
    | with_reducible exact h
    | with_reducible refine sliceRead_keeps ?_ ..
    | split
    | simp only [Keeps.put_iff]

theorem execSliceWrite_keeps (h0 : Nat) (hart : Nat) (addr : Nat) (size : Nat) (data : BitVec 512) (s : State) : ∃ t, execSliceWrite h0 hart addr size data s = .next t ∧ Keeps s t := by
  refine ⟨_, rfl, ?_⟩
  have h := Keeps.refl s
  repeat' first
    | dsimp only
    | with_reducible exact k
    | with_reducible exact h
    | with_reducible refine sliceWrite_keeps ?_ ..
    | split
    | simp only [Keeps.put_iff]

theorem execLpddrUncorrectableRead_keeps (addr : Nat) (who : MemReader) (error : ReadError) (s : State) : ∃ t, execLpddrUncorrectableRead addr who error s = .next t ∧ Keeps s t := by
  refine ⟨_, rfl, ?_⟩
  have h := Keeps.refl s
  repeat' first
    | dsimp only
    | with_reducible exact k
    | with_reducible exact h
    | with_reducible refine cleanRead_keeps ?_ ..
    | with_reducible refine correctedErrors_keeps ?_ ..
    | with_reducible refine eccTransient_keeps ?_ ..
    | with_reducible refine failedRead_keeps ?_ ..
    | with_reducible refine markBad_keeps ?_ ..
    | split
    | simp only [Keeps.put_iff]

theorem execDevicePredictiveTrigger_keeps (dev : Nat) (s : State) : ∃ t, execDevicePredictiveTrigger dev s = .next t ∧ Keeps s t := by
  refine ⟨_, rfl, ?_⟩
  have h := Keeps.refl s
  repeat' first
    | dsimp only
    | with_reducible exact k
    | with_reducible exact h
    | with_reducible refine startCopy_keeps ?_ ..
    | split
    | simp only [Keeps.put_iff]

theorem execDeviceCopyDone_keeps (spare : Nat) (poisoned : List Nat) (s : State) : ∃ t, execDeviceCopyDone spare poisoned s = .next t ∧ Keeps s t := by
  refine ⟨_, rfl, ?_⟩
  have h := Keeps.refl s
  repeat' first
    | dsimp only
    | with_reducible exact k
    | with_reducible exact h
    | with_reducible refine addDrain_keeps ?_ ..
    | split
    | simp only [Keeps.put_iff]

theorem execDeviceLastingFault_keeps (dev : Nat) (s : State) : ∃ t, execDeviceLastingFault dev s = .next t ∧ Keeps s t := by
  refine ⟨_, rfl, ?_⟩
  have h := Keeps.refl s
  repeat' first
    | dsimp only
    | with_reducible exact k
    | with_reducible exact h
    | with_reducible refine deviceFault_keeps ?_ ..
    | split
    | simp only [Keeps.put_iff]

theorem execWckTracking_keeps (dev : Nat) (channel : Nat) (ok : Bool) (s : State) : ∃ t, execWckTracking dev channel ok s = .next t ∧ Keeps s t := by
  refine ⟨_, rfl, ?_⟩
  have h := Keeps.refl s
  repeat' first
    | dsimp only
    | with_reducible exact k
    | with_reducible exact h
    | with_reducible refine deviceFault_keeps ?_ ..
    | split
    | simp only [Keeps.put_iff]

theorem execDeviceTemperatureReport_keeps (dev : Nat) (temp : Nat) (s : State) : ∃ t, execDeviceTemperatureReport dev temp s = .next t ∧ Keeps s t := by
  refine ⟨_, rfl, ?_⟩
  have h := Keeps.refl s
  repeat' first
    | dsimp only
    | with_reducible exact k
    | with_reducible exact h
    | with_reducible refine modDevice_keeps ?_ ..
    | split
    | simp only [Keeps.put_iff]

theorem execEcsResultRead_keeps (dev : Nat) (corrected : Nat) (s : State) : ∃ t, execEcsResultRead dev corrected s = .next t ∧ Keeps s t := by
  refine ⟨_, rfl, ?_⟩
  have h := Keeps.refl s
  repeat' first
    | dsimp only
    | with_reducible exact k
    | with_reducible exact h
    | with_reducible refine modDevice_keeps ?_ ..
    | split
    | simp only [Keeps.put_iff]

theorem execMonitorSample_keeps (mon : MonRef) (v : BitVec 32) (excess : Bool) (s : State) : ∃ t, execMonitorSample mon v excess s = .next t ∧ Keeps s t := by
  refine ⟨_, rfl, ?_⟩
  have h := Keeps.refl s
  repeat' first
    | dsimp only
    | with_reducible exact k
    | with_reducible exact h
    | with_reducible refine setCoreMon_keeps ?_ ..
    | with_reducible refine setTileMon_keeps ?_ ..
    | split
    | simp only [Keeps.put_iff]

theorem execMonitorConfigPreset_keeps (q : Nat) (s : State) : ∃ t, execMonitorConfigPreset q s = .next t ∧ Keeps s t := by
  refine ⟨_, rfl, ?_⟩
  have h := Keeps.refl s
  repeat' first
    | dsimp only
    | with_reducible exact k
    | with_reducible exact h
    | with_reducible refine checked_keeps ?_ (hact := fun _  k => ?_) ..
    | with_reducible refine mcApply_keeps ?_ ..
    | with_reducible refine startAs_keeps ?_ (hrun := fun _ _  k => ?_) ..
    | split
    | simp only [Keeps.put_iff]

theorem execMonitorConfigClear_keeps (q : Nat) (s : State) : ∃ t, execMonitorConfigClear q s = .next t ∧ Keeps s t := by
  refine ⟨_, rfl, ?_⟩
  have h := Keeps.refl s
  repeat' first
    | dsimp only
    | with_reducible exact k
    | with_reducible exact h
    | with_reducible refine checked_keeps ?_ (hact := fun _  k => ?_) ..
    | with_reducible refine mcApply_keeps ?_ ..
    | with_reducible refine startAs_keeps ?_ (hrun := fun _ _  k => ?_) ..
    | split
    | simp only [Keeps.put_iff]

theorem execMonitorConfigSet_keeps (q : Nat) (s : State) : ∃ t, execMonitorConfigSet q s = .next t ∧ Keeps s t := by
  refine ⟨_, rfl, ?_⟩
  have h := Keeps.refl s
  repeat' first
    | dsimp only
    | with_reducible exact k
    | with_reducible exact h
    | with_reducible refine checked_keeps ?_ (hact := fun _  k => ?_) ..
    | with_reducible refine mcApply_keeps ?_ ..
    | with_reducible refine startAs_keeps ?_ (hrun := fun _ _  k => ?_) ..
    | split
    | simp only [Keeps.put_iff]

theorem execMonitorRead_keeps (q : Nat) (s : State) : ∃ t, execMonitorRead q s = .next t ∧ Keeps s t := by
  refine ⟨_, rfl, ?_⟩
  have h := Keeps.refl s
  repeat' first
    | dsimp only
    | with_reducible exact k
    | with_reducible exact h
    | with_reducible refine checked_keeps ?_ (hact := fun _  k => ?_) ..
    | with_reducible refine mrCopy_keeps ?_ ..
    | with_reducible refine startAs_keeps ?_ (hrun := fun _ _  k => ?_) ..
    | split
    | simp only [Keeps.put_iff]

theorem execCongestionIntervalEnd_keeps (levels : List TileLevels) (s : State) : ∃ t, execCongestionIntervalEnd levels s = .next t ∧ Keeps s t := by
  refine ⟨_, rfl, ?_⟩
  have h := Keeps.refl s
  repeat' first
    | dsimp only
    | with_reducible exact k
    | with_reducible exact h
    | with_reducible refine intervalEnd_keeps ?_ ..
    | split
    | simp only [Keeps.put_iff]

theorem execCongestionMapRead_keeps (q : Nat) (s : State) : ∃ t, execCongestionMapRead q s = .next t ∧ Keeps s t := by
  refine ⟨_, rfl, ?_⟩
  have h := Keeps.refl s
  repeat' first
    | dsimp only
    | with_reducible exact k
    | with_reducible exact h
    | with_reducible refine checked_keeps ?_ (hact := fun _  k => ?_) ..
    | with_reducible refine cmRun_keeps ?_ ..
    | with_reducible refine startAs_keeps ?_ (hrun := fun _ _  k => ?_) ..
    | split
    | simp only [Keeps.put_iff]

theorem execSagDetect_keeps (mv : Nat) (s : State) : ∃ t, execSagDetect mv s = .next t ∧ Keeps s t := by
  refine ⟨_, rfl, ?_⟩
  have h := Keeps.refl s
  repeat' first
    | dsimp only
    | with_reducible exact k
    | with_reducible exact h
    | with_reducible refine beginSag_keeps ?_ ..
    | split
    | simp only [Keeps.put_iff]

theorem execSagEnd_keeps  (s : State) : ∃ t, execSagEnd  s = .next t ∧ Keeps s t := by
  refine ⟨_, rfl, ?_⟩
  have h := Keeps.refl s
  repeat' first
    | dsimp only
    | with_reducible exact k
    | with_reducible exact h
    | with_reducible refine endSag_keeps ?_ ..
    | split
    | simp only [Keeps.put_iff]

theorem execSagLimitExpiry_keeps  (s : State) : ∃ t, execSagLimitExpiry  s = .next t ∧ Keeps s t := by
  refine ⟨_, rfl, ?_⟩
  have h := Keeps.refl s
  repeat' first
    | dsimp only
    | with_reducible exact k
    | with_reducible exact h
    | with_reducible refine powerFail_keeps ?_ ..
    | split
    | simp only [Keeps.put_iff]

theorem execHighInput_keeps  (s : State) : ∃ t, execHighInput  s = .next t ∧ Keeps s t := by
  refine ⟨_, rfl, ?_⟩
  have h := Keeps.refl s
  repeat' first
    | dsimp only
    | with_reducible exact k
    | with_reducible exact h
    | with_reducible refine powerEvent_keeps ?_ ..
    | with_reducible refine powerFail_keeps ?_ ..
    | split
    | simp only [Keeps.put_iff]

theorem execPfwNAssert_keeps  (s : State) : ∃ t, execPfwNAssert  s = .next t ∧ Keeps s t := by
  refine ⟨_, rfl, ?_⟩
  have h := Keeps.refl s
  repeat' first
    | dsimp only
    | with_reducible exact k
    | with_reducible exact h
    | with_reducible refine pfwAssert_keeps ?_ ..
    | split
    | simp only [Keeps.put_iff]

theorem execPfwNDeassert_keeps  (s : State) : ∃ t, execPfwNDeassert  s = .next t ∧ Keeps s t := by
  refine ⟨_, rfl, ?_⟩
  have h := Keeps.refl s
  repeat' first
    | dsimp only
    | with_reducible exact k
    | with_reducible exact h
    | split
    | simp only [Keeps.put_iff]

theorem execPfwRecovery_keeps  (s : State) : ∃ t, execPfwRecovery  s = .next t ∧ Keeps s t := by
  refine ⟨_, rfl, ?_⟩
  have h := Keeps.refl s
  repeat' first
    | dsimp only
    | with_reducible exact k
    | with_reducible exact h
    | with_reducible refine beginRecovery_keeps ?_ ..
    | split
    | simp only [Keeps.put_iff]

theorem execPwrGoodRise_keeps  (s : State) : ∃ t, execPwrGoodRise  s = .next t ∧ Keeps s t := by
  refine ⟨_, rfl, ?_⟩
  have h := Keeps.refl s
  repeat' first
    | dsimp only
    | with_reducible exact k
    | with_reducible exact h
    | split
    | simp only [Keeps.put_iff]

theorem execSlewGrant_keeps (demand : List SlewDemand) (s : State) : ∃ t, execSlewGrant demand s = .next t ∧ Keeps s t := by
  refine ⟨_, rfl, ?_⟩
  have h := Keeps.refl s
  repeat' first
    | dsimp only
    | with_reducible exact k
    | with_reducible exact h
    | with_reducible refine grantSlew_keeps ?_ ..
    | split
    | simp only [Keeps.put_iff]

theorem execSlewLimit_keeps (q : Nat) (s : State) : ∃ t, execSlewLimit q s = .next t ∧ Keeps s t := by
  refine ⟨_, rfl, ?_⟩
  have h := Keeps.refl s
  repeat' first
    | dsimp only
    | with_reducible exact k
    | with_reducible exact h
    | with_reducible refine checked_keeps ?_ (hact := fun _  k => ?_) ..
    | with_reducible refine finish_keeps ?_ ..
    | with_reducible refine startAs_keeps ?_ (hrun := fun _ _  k => ?_) ..
    | split
    | simp only [Keeps.put_iff]

theorem execSlewLimitExpert_keeps (q : Nat) (s : State) : ∃ t, execSlewLimitExpert q s = .next t ∧ Keeps s t := by
  refine ⟨_, rfl, ?_⟩
  have h := Keeps.refl s
  repeat' first
    | dsimp only
    | with_reducible exact k
    | with_reducible exact h
    | with_reducible refine checked_keeps ?_ (hact := fun _  k => ?_) ..
    | with_reducible refine finish_keeps ?_ ..
    | with_reducible refine startAs_keeps ?_ (hrun := fun _ _  k => ?_) ..
    | split
    | simp only [Keeps.put_iff]

theorem execConverterPhaseFault_keeps (tile : Nat) (phase : Nat) (s : State) : ∃ t, execConverterPhaseFault tile phase s = .next t ∧ Keeps s t := by
  refine ⟨_, rfl, ?_⟩
  have h := Keeps.refl s
  repeat' first
    | dsimp only
    | with_reducible exact k
    | with_reducible exact h
    | with_reducible refine losePhase_keeps ?_ ..
    | split
    | simp only [Keeps.put_iff]

theorem execBreakerTrip_keeps (tile : Nat) (efuse : Bool) (s : State) : ∃ t, execBreakerTrip tile efuse s = .next t ∧ Keeps s t := by
  refine ⟨_, rfl, ?_⟩
  have h := Keeps.refl s
  repeat' first
    | dsimp only
    | with_reducible exact k
    | with_reducible exact h
    | with_reducible refine darkTile_keeps ?_ ..
    | split
    | simp only [Keeps.put_iff]

theorem execRegulatorPhaseFault_keeps (p : Nat) (phase : Nat) (s : State) : ∃ t, execRegulatorPhaseFault p phase s = .next t ∧ Keeps s t := by
  refine ⟨_, rfl, ?_⟩
  have h := Keeps.refl s
  repeat' first
    | dsimp only
    | with_reducible exact k
    | with_reducible exact h
    | with_reducible refine loseRegPhase_keeps ?_ ..
    | with_reducible refine loseTileReg_keeps ?_ ..
    | split
    | simp only [Keeps.put_iff]

theorem execHeaderStage_keeps (p : Nat) (output : Nat) (s : State) : ∃ t, execHeaderStage p output s = .next t ∧ Keeps s t := by
  refine ⟨_, rfl, ?_⟩
  have h := Keeps.refl s
  repeat' first
    | dsimp only
    | with_reducible exact k
    | with_reducible exact h
    | with_reducible refine closeStage_keeps ?_ ..
    | with_reducible refine modCore_keeps ?_ ..
    | split
    | simp only [Keeps.put_iff]

theorem execStagePauseRecheck_keeps (p : Nat) (output : Nat) (s : State) : ∃ t, execStagePauseRecheck p output s = .next t ∧ Keeps s t := by
  refine ⟨_, rfl, ?_⟩
  have h := Keeps.refl s
  repeat' first
    | dsimp only
    | with_reducible exact k
    | with_reducible exact h
    | with_reducible refine closeStage_keeps ?_ ..
    | split
    | simp only [Keeps.put_iff]

theorem execStagePauseLimit_keeps (p : Nat) (s : State) : ∃ t, execStagePauseLimit p s = .next t ∧ Keeps s t := by
  refine ⟨_, rfl, ?_⟩
  have h := Keeps.refl s
  repeat' first
    | dsimp only
    | with_reducible exact k
    | with_reducible exact h
    | with_reducible refine closeStage_keeps ?_ ..
    | with_reducible refine modTpwr_keeps ?_ ..
    | split
    | simp only [Keeps.put_iff]

theorem execPowerCapDivision_keeps (demand : List Nat) (s : State) : ∃ t, execPowerCapDivision demand s = .next t ∧ Keeps s t := by
  refine ⟨_, rfl, ?_⟩
  have h := Keeps.refl s
  repeat' first
    | dsimp only
    | with_reducible exact k
    | with_reducible exact h
    | with_reducible refine dividePower_keeps ?_ ..
    | split
    | simp only [Keeps.put_iff]

theorem execPowerCapStepChange_keeps (part : Nat) (lower : Bool) (s : State) : ∃ t, execPowerCapStepChange part lower s = .next t ∧ Keeps s t := by
  refine ⟨_, rfl, ?_⟩
  have h := Keeps.refl s
  repeat' first
    | dsimp only
    | with_reducible exact k
    | with_reducible exact h
    | with_reducible refine powerCapStep_keeps ?_ ..
    | split
    | simp only [Keeps.put_iff]

theorem execPowerPolicyPanelCap_keeps (q : Nat) (s : State) : ∃ t, execPowerPolicyPanelCap q s = .next t ∧ Keeps s t := by
  refine ⟨_, rfl, ?_⟩
  have h := Keeps.refl s
  repeat' first
    | dsimp only
    | with_reducible exact k
    | with_reducible exact h
    | with_reducible refine checked_keeps ?_ (hact := fun _  k => ?_) ..
    | with_reducible refine ppFinish_keeps ?_ ..
    | with_reducible refine startAs_keeps ?_ (hrun := fun _ _  k => ?_) ..
    | split
    | simp only [Keeps.put_iff]

theorem execPowerPolicyRead_keeps (q : Nat) (s : State) : ∃ t, execPowerPolicyRead q s = .next t ∧ Keeps s t := by
  refine ⟨_, rfl, ?_⟩
  have h := Keeps.refl s
  repeat' first
    | dsimp only
    | with_reducible exact k
    | with_reducible exact h
    | with_reducible refine checked_keeps ?_ (hact := fun _  k => ?_) ..
    | with_reducible refine readPwr_keeps ?_ ..
    | with_reducible refine startAs_keeps ?_ (hrun := fun _ _  k => ?_) ..
    | split
    | simp only [Keeps.put_iff]

theorem execPowerPolicyTileCap_keeps (q : Nat) (s : State) : ∃ t, execPowerPolicyTileCap q s = .next t ∧ Keeps s t := by
  refine ⟨_, rfl, ?_⟩
  have h := Keeps.refl s
  repeat' first
    | dsimp only
    | with_reducible exact k
    | with_reducible exact h
    | with_reducible refine checked_keeps ?_ (hact := fun _  k => ?_) ..
    | with_reducible refine modTpwr_keeps ?_ ..
    | with_reducible refine ppFinish_keeps ?_ ..
    | with_reducible refine startAs_keeps ?_ (hrun := fun _ _  k => ?_) ..
    | split
    | simp only [Keeps.put_iff]

theorem execPowerPolicyStaging_keeps (q : Nat) (s : State) : ∃ t, execPowerPolicyStaging q s = .next t ∧ Keeps s t := by
  refine ⟨_, rfl, ?_⟩
  have h := Keeps.refl s
  repeat' first
    | dsimp only
    | with_reducible exact k
    | with_reducible exact h
    | with_reducible refine checked_keeps ?_ (hact := fun _  k => ?_) ..
    | with_reducible refine ppFinish_keeps ?_ ..
    | with_reducible refine startAs_keeps ?_ (hrun := fun _ _  k => ?_) ..
    | split
    | simp only [Keeps.put_iff]

theorem execSensorSample_keeps (tile : Nat) (sensor : Nat) (reading : Int) (s : State) : ∃ t, execSensorSample tile sensor reading s = .next t ∧ Keeps s t := by
  refine ⟨_, rfl, ?_⟩
  have h := Keeps.refl s
  repeat' first
    | dsimp only
    | with_reducible exact k
    | with_reducible exact h
    | with_reducible refine sampleSensor_keeps ?_ ..
    | split
    | simp only [Keeps.put_iff]

theorem execThermalCapWindow_keeps (part : Nat) (s : State) : ∃ t, execThermalCapWindow part s = .next t ∧ Keeps s t := by
  refine ⟨_, rfl, ?_⟩
  have h := Keeps.refl s
  repeat' first
    | dsimp only
    | with_reducible exact k
    | with_reducible exact h
    | with_reducible refine capWindow_keeps ?_ ..
    | split
    | simp only [Keeps.put_iff]

theorem execThermalCapRecovery_keeps (part : Nat) (s : State) : ∃ t, execThermalCapRecovery part s = .next t ∧ Keeps s t := by
  refine ⟨_, rfl, ?_⟩
  have h := Keeps.refl s
  repeat' first
    | dsimp only
    | with_reducible exact k
    | with_reducible exact h
    | with_reducible refine capRecovery_keeps ?_ ..
    | split
    | simp only [Keeps.put_iff]

theorem execThermalWarnClear_keeps  (s : State) : ∃ t, execThermalWarnClear  s = .next t ∧ Keeps s t := by
  refine ⟨_, rfl, ?_⟩
  have h := Keeps.refl s
  repeat' first
    | dsimp only
    | with_reducible exact k
    | with_reducible exact h
    | split
    | simp only [Keeps.put_iff]

theorem execFlowRequestUpdate_keeps (watts : Nat) (s : State) : ∃ t, execFlowRequestUpdate watts s = .next t ∧ Keeps s t := by
  refine ⟨_, rfl, ?_⟩
  have h := Keeps.refl s
  repeat' first
    | dsimp only
    | with_reducible exact k
    | with_reducible exact h
    | split
    | simp only [Keeps.put_iff]

theorem execKeepWarmEvaluate_keeps (tile : Nat) (load : Nat) (s : State) : ∃ t, execKeepWarmEvaluate tile load s = .next t ∧ Keeps s t := by
  refine ⟨_, rfl, ?_⟩
  have h := Keeps.refl s
  repeat' first
    | dsimp only
    | with_reducible exact k
    | with_reducible exact h
    | with_reducible refine evaluateWarmth_keeps ?_ ..
    | split
    | simp only [Keeps.put_iff]

theorem execKeepWarmRead_keeps (q : Nat) (s : State) : ∃ t, execKeepWarmRead q s = .next t ∧ Keeps s t := by
  refine ⟨_, rfl, ?_⟩
  have h := Keeps.refl s
  repeat' first
    | dsimp only
    | with_reducible exact k
    | with_reducible exact h
    | with_reducible refine checked_keeps ?_ (hact := fun _  k => ?_) ..
    | with_reducible refine kwFinish_keeps ?_ ..
    | with_reducible refine startAs_keeps ?_ (hrun := fun _ _  k => ?_) ..
    | split
    | simp only [Keeps.put_iff]

theorem execKeepWarmWrite_keeps (q : Nat) (s : State) : ∃ t, execKeepWarmWrite q s = .next t ∧ Keeps s t := by
  refine ⟨_, rfl, ?_⟩
  have h := Keeps.refl s
  repeat' first
    | dsimp only
    | with_reducible exact k
    | with_reducible exact h
    | with_reducible refine checked_keeps ?_ (hact := fun _  k => ?_) ..
    | with_reducible refine startAs_keeps ?_ (hrun := fun _ _  k => ?_) ..
    | with_reducible refine writeWarmth_keeps ?_ ..
    | split
    | simp only [Keeps.put_iff]

theorem execCommandFetch_keeps (q : Nat) (s : State) : ∃ t, execCommandFetch q s = .next t ∧ Keeps s t := by
  refine ⟨_, rfl, ?_⟩
  have h := Keeps.refl s
  repeat' first
    | dsimp only
    | with_reducible exact k
    | with_reducible exact h
    | with_reducible refine fetchPacket_keeps ?_ ..
    | split
    | simp only [Keeps.put_iff]

end Sys2Proof.Machine
end

