-- ==== Sys2Proof/Laws/KeepsStart.lean ====
section
/-! SUPPORT. What the operations keep that write the charter or take the supply away: the queue, memory's form, the order of
the provenance log, the counter record, and a charter that is sealed. -/

namespace Sys2Proof.Machine

/-- Keeps, but for a charter that is not sealed. -/
structure KeepsOpen (s t : State) : Prop where
  pending : t.pending = s.pending
  order : t.order1T = s.order1T
  kept : s.sealed = true → t.charter = s.charter ∧ t.sealed = true
  fresh : s.fresh ≤ t.fresh
  wf : memWf s.mem = true → memWf t.mem = true
  slices : partsApart s = true → slicesOk s → t.charter = s.charter → slicesOk t
  prov : provOk s → provOk t
  provNext : s.provNext ≤ t.provNext
  counter : CounterLater s.counter t.counter
  cmds : cmdsOk s → cmdsOk t

theorem Keeps.toOpen {s t : State} (h : Keeps s t) : KeepsOpen s t :=
  ⟨h.1, h.2, fun q => ⟨h.3, h.4.trans q⟩, h.5, h.6, fun p w _ => h.7 p w, h.8, h.9, h.10, h.11⟩

theorem KeepsOpen.keeps {a s t : State} (h : KeepsOpen a s) (k : Keeps s t) : KeepsOpen a t :=
  ⟨k.1.trans h.1, k.2.trans h.2, fun q => ⟨k.3.trans (h.3 q).1, k.4.trans (h.3 q).2⟩, Nat.le_trans h.4 k.5,
    fun w => k.6 (h.5 w), fun p w q => by
      have hc : s.charter = a.charter := k.3.symm.trans q
      exact k.7 ((partsApart_congr hc).trans p) (h.6 p w hc),
    fun w => k.8 (h.7 w), Nat.le_trans h.8 k.9, h.9.trans k.10, fun w => k.11 (h.10 w)⟩

/-- An unsealed charter is written; memory, the log and the counter record stay. -/
theorem KeepsOpen.write {s t : State} (hs : s.sealed = false) (h1 : t.pending = s.pending) (h2 : t.order1T = s.order1T)
    (h3 : t.fresh = s.fresh) (h4 : t.mem = s.mem) (h5 : t.slices = s.slices) (h6 : t.provBF0 = s.provBF0)
    (h7 : t.provBF1 = s.provBF1) (h8 : t.provNext = s.provNext) (h9 : t.counter = s.counter)
    (h10 : t.cmds = s.cmds) (h11 : t.nextCmd = s.nextCmd) : KeepsOpen s t :=
  ⟨h1, h2, fun q => absurd q (by simp [hs]), h3 ▸ Nat.le_refl _, fun w => h4 ▸ w,
    fun _ w hc => (SameMem.mk hc h2 h4 h5).slicesOk w, fun w => by unfold provOk; rw [h6, h7, h8]; exact w,
    h8 ▸ Nat.le_refl _, h9 ▸ .refl _, fun w => by unfold cmdsOk; rw [h10, h11]; exact w⟩

theorem storeCharter_open (s : State) (off v : Nat) : KeepsOpen s (storeCharter s off v) := by
  unfold storeCharter
  extract_lets n kept s'
  split
  · exact (Keeps.refl s).toOpen
  · rename_i hc
    have hs : s.sealed = false := by
      cases h : s.sealed with
      | false => rfl
      | true => simp [h] at hc
    split <;> exact .write hs rfl rfl rfl rfl rfl rfl rfl rfl rfl rfl rfl

theorem sealCharter_open {s u : State} (hs : s.sealed = false) (c : Charter) (h1 : u.pending = s.pending)
    (h2 : u.order1T = s.order1T) (h3 : u.fresh = s.fresh) (h4 : u.mem = s.mem) (h5 : u.slices = s.slices)
    (h6 : u.provBF0 = s.provBF0) (h7 : u.provBF1 = s.provBF1) (h8 : u.provNext = s.provNext) (h9 : u.counter = s.counter)
    (h10 : u.cmds = s.cmds) (h11 : u.nextCmd = s.nextCmd) :
    KeepsOpen s (sealCharter u c) := by
  unfold sealCharter
  refine KeepsOpen.keeps (.write (t := { u with charter := tblSet (0 : Dword) c 1 1, sealed := true }) hs h1 h2 h3 h4 h5
    h6 h7 h8 h9 h10 h11) (firstGen_keeps (.refl _))

theorem chooseCharter_open (s : State) : KeepsOpen s (chooseCharter s).1 := by
  unfold chooseCharter
  split
  · exact (firstGen_keeps (.refl s)).toOpen
  · rename_i hs
    have hs : s.sealed = false := by simpa using hs
    split
    · exact sealCharter_open hs _ rfl rfl rfl rfl rfl rfl rfl rfl rfl rfl rfl
    · split
      split
      · exact sealCharter_open hs _ rfl rfl rfl rfl rfl rfl rfl rfl rfl rfl rfl
      · extract_lets t s1 s2
        have h1 : KeepsOpen s s1 := sealCharter_open hs _ rfl rfl rfl rfl rfl rfl rfl rfl rfl rfl rfl
        refine h1.keeps ?_
        have h2 : Keeps s1 s2 := modPart_keeps (.refl _) ..
        exact h2.upd rfl rfl rfl rfl rfl rfl rfl rfl rfl rfl rfl rfl rfl

theorem sealStage_open (s : State) : KeepsOpen s (sealStage s) :=
  (chooseCharter_open s).keeps (afterSeal_keeps (.refl _) ..)

/-- A loss of the supply keeps what boot flash holds. -/
theorem powerLoss_lasts (s : State) : (powerLoss s).pending = s.pending ∧ memWf (powerLoss s).mem = true ∧
    slicesOk (powerLoss s) ∧ (provOk s → provOk (powerLoss s)) ∧ (powerLoss s).provNext = s.provNext ∧
    (powerLoss s).counter = s.counter ∧ cmdsOk (powerLoss s) :=
  ⟨rfl, rfl, fun _ => ⟨List.nodup_nil, fun _ h => nomatch h⟩, id, rfl, rfl, .nil, fun _ h => nomatch h⟩

/-- A panel reset keeps that and the LPDDR5X contents. -/
theorem panelReset_lasts (s : State) : (panelReset s).pending = s.pending ∧ (panelReset s).mem = s.mem ∧
    slicesOk (panelReset s) ∧ (provOk s → provOk (panelReset s)) ∧ (panelReset s).provNext = s.provNext ∧
    (panelReset s).counter = s.counter ∧ cmdsOk (panelReset s) :=
  ⟨rfl, rfl, fun _ => ⟨List.nodup_nil, fun _ h => nomatch h⟩, id, rfl, rfl, .nil, fun _ h => nomatch h⟩

/-- The record that a start takes is the one it has or one of the two dies' (R395). -/
theorem loadRecord_counter (s : State) :
    (loadRecord s).counter = s.counter ∨ (loadRecord s).counter = s.bf0.record ∨ (loadRecord s).counter = s.bf1.record := by
  unfold loadRecord
  dsimp only
  split
  · split
    · exact .inr (.inr rfl)
    · exact .inr (.inl rfl)
  · exact .inr (.inl rfl)
  · exact .inr (.inr rfl)
  · exact .inl rfl

/-- Taking the record changes nothing else but the dies. -/
theorem loadRecord_rest (s : State) :
    { loadRecord s with counter := s.counter, bf0 := s.bf0, bf1 := s.bf1 } = s := rfl

/-- After the record is taken, the mask ROM's run keeps what Keeps names. -/
theorem runRom_keeps (s : State) (b : Bool) : Keeps (loadRecord s) (runRom s b) := by
  have h := Keeps.refl (loadRecord s)
  unfold runRom
  dsimp only
  split
  · exact noFirstStage_keeps h
  · simp only [Keeps.put_iff]
    refine extendChain_keeps ?_ ..
    simp only [Keeps.put_iff]
    exact h

end Sys2Proof.Machine
end

