-- ==== Sys2Proof/Laws/PerInstr.lean ====
section
/-! SUPPORT. The family Operands: what each command's well-formedness says of the queue or the core it names (R198, R263). -/

namespace Sys2Proof.Laws

/-- The queue whose next command a host command starts. -/
def Operands.queueOf : Instr → Option Nat
  | .windowOpen q | .windowClose q | .windowCloseExpert q | .catalogueRead q | .catalogueReadExpert q
  | .barrierGroupCreate q | .barrierGroupDestroy q | .barrierGroupDestroyExpert q | .commandFetch q
  | .completionRecordWrite q | .echo q | .echoExpert q | .queueCreate q | .queueDestroy q | .queueDestroyExpert q
  | .queueEnable q | .queueDisable q | .queueDisableExpert q | .programLoad q _ | .run q | .abort q | .stepMark q
  | .stepMarkExpert q | .memCopy q _ _ | .memCopyExpert q _ _ | .memFill q _ _ | .memFillExpert q _ _
  | .fingerprintConfigure q | .fingerprintEnable q | .fingerprintDisable q | .fingerprintDisableExpert q
  | .fingerprintRead q | .crcContextSet q | .crcContextGet q | .faultLogReadRecords q | .faultLogReadCounters q
  | .partitionReset q | .accessionRetest q _ _ | .accessionPlace q _ | .escalationPolicyRead q
  | .escalationPolicySet q | .provenanceRead q | .attest q | .fwStage q | .fwCommit q | .charterRead q
  | .stepSetPolicy q | .stepSetRead q | .stepSetFix q | .stepSetThresholds q | .slewLimit q | .slewLimitExpert q
  | .powerPolicyPanelCap q | .powerPolicyRead q | .powerPolicyTileCap q | .powerPolicyStaging q | .keepWarmRead q
  | .keepWarmWrite q | .monitorConfigPreset q | .monitorConfigClear q | .monitorConfigSet q | .monitorRead q
  | .congestionMapRead q | .portConfigEnable q | .portConfigDisable q | .portConfigDisableExpert q
  | .portConfigRead q | .portConfigSet q | .portConfigEndpoint q | .routeUpdatePortset q | .routeUpdatePanelRoute q
  | .routeUpdateShares q => some q
  | _ => none

/-- The core that an event or a task command acts on. -/
def Operands.coreOf : Instr → Option Nat
  | .mma p | .mmaAt p | .mmaBt p | .mmaAcc p | .mmaAccAt p | .mmaAccBt p | .mmaKsplit p | .mmaKsplitBt p | .vecMap p
  | .vecReduce p | .vecScan p | .vecSoftmax p | .vecNorm p | .vecConvert p | .gather p | .gatherSum p | .scatter p
  | .scatterAdd p | .dmaCopy p | .streamIn p | .streamOut p | .fabricIn p | .fabricOut p | .send p | .recv p | .put p
  | .windowWait p | .reduce p | .allreduce p | .broadcast p | .barrier p | .waitFlag p | .setFlag p | .clearFlag p
  | .loop p | .branchCount p | .endRun p | .fingerprintMark p | .fingerprintClear p | .fingerprintStore p
  | .handleBind p | .handleFree p | .baseBoundSet p | .descriptorFetch p | .refusedDescriptorCommit p
  | .taskCommit p _ | .tileDispatch p | .engineTileDone p _ | .engineTileError p _ | .engineKatTileDone p _ _
  | .engineOffline p _ | .taskFaultDetect p _ | .waitLimitExpiry p _ | .waitFurtherLimitExpiry p _ | .coreRunStart p
  | .coreAbort p | .stepBoundary p | .streamedListRefetch p | .spdCorrectedWriteback p _ _ _
  | .spdUncorrectableRead p _ _ _ _ | .patrolScrubRead p _ _ | .coalescingBufferClose p _
  | .arbitrationStarvationPriority p _ _ _ | .putResendTimer p _ | .barrierRelease p _ | .fingerprintFeed p _ _
  | .spdWordRewriteCheck p _ _ _ | .stragglerStaging p _ | .marginSample p _ | .marginStretchEnd p | .marginWindow p
  | .regulatorSettled p | .headerStage p _ | .stagePauseRecheck p _ | .stagePauseLimit p => some p
  | _ => none

/-- A host command is well formed exactly when its queue is one of the 65,536; a well-formed command of a core names one of
the 3,744. -/
def Operands.Statement (i : Instr) : Prop :=
  (∀ q, queueOf i = some q → (i.wellFormed = true ↔ q < 65536)) ∧ (∀ p, coreOf i = some p → i.wellFormed = true → p < 3744)

theorem Operands.left {a b : Bool} (h : (a && b) = true) : a = true := by
  cases a
  · cases h
  · rfl

theorem Operands.mma {x0} : Operands.Statement (.mma x0) :=
  ⟨fun _ h => (Option.some_ne_none _ h.symm).elim,
   fun _ h w => Option.some.inj h ▸ of_decide_eq_true w⟩

theorem Operands.mmaAt {x0} : Operands.Statement (.mmaAt x0) :=
  ⟨fun _ h => (Option.some_ne_none _ h.symm).elim,
   fun _ h w => Option.some.inj h ▸ of_decide_eq_true w⟩

theorem Operands.mmaBt {x0} : Operands.Statement (.mmaBt x0) :=
  ⟨fun _ h => (Option.some_ne_none _ h.symm).elim,
   fun _ h w => Option.some.inj h ▸ of_decide_eq_true w⟩

theorem Operands.mmaAcc {x0} : Operands.Statement (.mmaAcc x0) :=
  ⟨fun _ h => (Option.some_ne_none _ h.symm).elim,
   fun _ h w => Option.some.inj h ▸ of_decide_eq_true w⟩

theorem Operands.mmaAccAt {x0} : Operands.Statement (.mmaAccAt x0) :=
  ⟨fun _ h => (Option.some_ne_none _ h.symm).elim,
   fun _ h w => Option.some.inj h ▸ of_decide_eq_true w⟩

theorem Operands.mmaAccBt {x0} : Operands.Statement (.mmaAccBt x0) :=
  ⟨fun _ h => (Option.some_ne_none _ h.symm).elim,
   fun _ h w => Option.some.inj h ▸ of_decide_eq_true w⟩

theorem Operands.mmaKsplit {x0} : Operands.Statement (.mmaKsplit x0) :=
  ⟨fun _ h => (Option.some_ne_none _ h.symm).elim,
   fun _ h w => Option.some.inj h ▸ of_decide_eq_true w⟩

theorem Operands.mmaKsplitBt {x0} : Operands.Statement (.mmaKsplitBt x0) :=
  ⟨fun _ h => (Option.some_ne_none _ h.symm).elim,
   fun _ h w => Option.some.inj h ▸ of_decide_eq_true w⟩

theorem Operands.vecMap {x0} : Operands.Statement (.vecMap x0) :=
  ⟨fun _ h => (Option.some_ne_none _ h.symm).elim,
   fun _ h w => Option.some.inj h ▸ of_decide_eq_true w⟩

theorem Operands.vecReduce {x0} : Operands.Statement (.vecReduce x0) :=
  ⟨fun _ h => (Option.some_ne_none _ h.symm).elim,
   fun _ h w => Option.some.inj h ▸ of_decide_eq_true w⟩

theorem Operands.vecScan {x0} : Operands.Statement (.vecScan x0) :=
  ⟨fun _ h => (Option.some_ne_none _ h.symm).elim,
   fun _ h w => Option.some.inj h ▸ of_decide_eq_true w⟩

theorem Operands.vecSoftmax {x0} : Operands.Statement (.vecSoftmax x0) :=
  ⟨fun _ h => (Option.some_ne_none _ h.symm).elim,
   fun _ h w => Option.some.inj h ▸ of_decide_eq_true w⟩

theorem Operands.vecNorm {x0} : Operands.Statement (.vecNorm x0) :=
  ⟨fun _ h => (Option.some_ne_none _ h.symm).elim,
   fun _ h w => Option.some.inj h ▸ of_decide_eq_true w⟩

theorem Operands.vecConvert {x0} : Operands.Statement (.vecConvert x0) :=
  ⟨fun _ h => (Option.some_ne_none _ h.symm).elim,
   fun _ h w => Option.some.inj h ▸ of_decide_eq_true w⟩

theorem Operands.gather {x0} : Operands.Statement (.gather x0) :=
  ⟨fun _ h => (Option.some_ne_none _ h.symm).elim,
   fun _ h w => Option.some.inj h ▸ of_decide_eq_true w⟩

theorem Operands.gatherSum {x0} : Operands.Statement (.gatherSum x0) :=
  ⟨fun _ h => (Option.some_ne_none _ h.symm).elim,
   fun _ h w => Option.some.inj h ▸ of_decide_eq_true w⟩

theorem Operands.scatter {x0} : Operands.Statement (.scatter x0) :=
  ⟨fun _ h => (Option.some_ne_none _ h.symm).elim,
   fun _ h w => Option.some.inj h ▸ of_decide_eq_true w⟩

theorem Operands.scatterAdd {x0} : Operands.Statement (.scatterAdd x0) :=
  ⟨fun _ h => (Option.some_ne_none _ h.symm).elim,
   fun _ h w => Option.some.inj h ▸ of_decide_eq_true w⟩

theorem Operands.dmaCopy {x0} : Operands.Statement (.dmaCopy x0) :=
  ⟨fun _ h => (Option.some_ne_none _ h.symm).elim,
   fun _ h w => Option.some.inj h ▸ of_decide_eq_true w⟩

theorem Operands.streamIn {x0} : Operands.Statement (.streamIn x0) :=
  ⟨fun _ h => (Option.some_ne_none _ h.symm).elim,
   fun _ h w => Option.some.inj h ▸ of_decide_eq_true w⟩

theorem Operands.sharedStreamFetchStart {x0 x1} : Operands.Statement (.sharedStreamFetchStart x0 x1) :=
  ⟨fun _ h => (Option.some_ne_none _ h.symm).elim,
   fun _ h => (Option.some_ne_none _ h.symm).elim⟩

theorem Operands.streamOut {x0} : Operands.Statement (.streamOut x0) :=
  ⟨fun _ h => (Option.some_ne_none _ h.symm).elim,
   fun _ h w => Option.some.inj h ▸ of_decide_eq_true w⟩

theorem Operands.fabricIn {x0} : Operands.Statement (.fabricIn x0) :=
  ⟨fun _ h => (Option.some_ne_none _ h.symm).elim,
   fun _ h w => Option.some.inj h ▸ of_decide_eq_true w⟩

theorem Operands.fabricOut {x0} : Operands.Statement (.fabricOut x0) :=
  ⟨fun _ h => (Option.some_ne_none _ h.symm).elim,
   fun _ h w => Option.some.inj h ▸ of_decide_eq_true w⟩

theorem Operands.send {x0} : Operands.Statement (.send x0) :=
  ⟨fun _ h => (Option.some_ne_none _ h.symm).elim,
   fun _ h w => Option.some.inj h ▸ of_decide_eq_true w⟩

theorem Operands.recv {x0} : Operands.Statement (.recv x0) :=
  ⟨fun _ h => (Option.some_ne_none _ h.symm).elim,
   fun _ h w => Option.some.inj h ▸ of_decide_eq_true w⟩

theorem Operands.put {x0} : Operands.Statement (.put x0) :=
  ⟨fun _ h => (Option.some_ne_none _ h.symm).elim,
   fun _ h w => Option.some.inj h ▸ of_decide_eq_true w⟩

theorem Operands.windowWait {x0} : Operands.Statement (.windowWait x0) :=
  ⟨fun _ h => (Option.some_ne_none _ h.symm).elim,
   fun _ h w => Option.some.inj h ▸ of_decide_eq_true w⟩

theorem Operands.reduce {x0} : Operands.Statement (.reduce x0) :=
  ⟨fun _ h => (Option.some_ne_none _ h.symm).elim,
   fun _ h w => Option.some.inj h ▸ of_decide_eq_true w⟩

theorem Operands.allreduce {x0} : Operands.Statement (.allreduce x0) :=
  ⟨fun _ h => (Option.some_ne_none _ h.symm).elim,
   fun _ h w => Option.some.inj h ▸ of_decide_eq_true w⟩

theorem Operands.broadcast {x0} : Operands.Statement (.broadcast x0) :=
  ⟨fun _ h => (Option.some_ne_none _ h.symm).elim,
   fun _ h w => Option.some.inj h ▸ of_decide_eq_true w⟩

theorem Operands.barrier {x0} : Operands.Statement (.barrier x0) :=
  ⟨fun _ h => (Option.some_ne_none _ h.symm).elim,
   fun _ h w => Option.some.inj h ▸ of_decide_eq_true w⟩

theorem Operands.waitFlag {x0} : Operands.Statement (.waitFlag x0) :=
  ⟨fun _ h => (Option.some_ne_none _ h.symm).elim,
   fun _ h w => Option.some.inj h ▸ of_decide_eq_true w⟩

theorem Operands.setFlag {x0} : Operands.Statement (.setFlag x0) :=
  ⟨fun _ h => (Option.some_ne_none _ h.symm).elim,
   fun _ h w => Option.some.inj h ▸ of_decide_eq_true w⟩

theorem Operands.clearFlag {x0} : Operands.Statement (.clearFlag x0) :=
  ⟨fun _ h => (Option.some_ne_none _ h.symm).elim,
   fun _ h w => Option.some.inj h ▸ of_decide_eq_true w⟩

theorem Operands.loop {x0} : Operands.Statement (.loop x0) :=
  ⟨fun _ h => (Option.some_ne_none _ h.symm).elim,
   fun _ h w => Option.some.inj h ▸ of_decide_eq_true w⟩

theorem Operands.branchCount {x0} : Operands.Statement (.branchCount x0) :=
  ⟨fun _ h => (Option.some_ne_none _ h.symm).elim,
   fun _ h w => Option.some.inj h ▸ of_decide_eq_true w⟩

theorem Operands.endRun {x0} : Operands.Statement (.endRun x0) :=
  ⟨fun _ h => (Option.some_ne_none _ h.symm).elim,
   fun _ h w => Option.some.inj h ▸ of_decide_eq_true w⟩

theorem Operands.fingerprintMark {x0} : Operands.Statement (.fingerprintMark x0) :=
  ⟨fun _ h => (Option.some_ne_none _ h.symm).elim,
   fun _ h w => Option.some.inj h ▸ of_decide_eq_true w⟩

theorem Operands.fingerprintClear {x0} : Operands.Statement (.fingerprintClear x0) :=
  ⟨fun _ h => (Option.some_ne_none _ h.symm).elim,
   fun _ h w => Option.some.inj h ▸ of_decide_eq_true w⟩

theorem Operands.fingerprintStore {x0} : Operands.Statement (.fingerprintStore x0) :=
  ⟨fun _ h => (Option.some_ne_none _ h.symm).elim,
   fun _ h w => Option.some.inj h ▸ of_decide_eq_true w⟩

theorem Operands.handleBind {x0} : Operands.Statement (.handleBind x0) :=
  ⟨fun _ h => (Option.some_ne_none _ h.symm).elim,
   fun _ h w => Option.some.inj h ▸ of_decide_eq_true w⟩

theorem Operands.handleFree {x0} : Operands.Statement (.handleFree x0) :=
  ⟨fun _ h => (Option.some_ne_none _ h.symm).elim,
   fun _ h w => Option.some.inj h ▸ of_decide_eq_true w⟩

theorem Operands.baseBoundSet {x0} : Operands.Statement (.baseBoundSet x0) :=
  ⟨fun _ h => (Option.some_ne_none _ h.symm).elim,
   fun _ h w => Option.some.inj h ▸ of_decide_eq_true w⟩

theorem Operands.descriptorFetch {x0} : Operands.Statement (.descriptorFetch x0) :=
  ⟨fun _ h => (Option.some_ne_none _ h.symm).elim,
   fun _ h w => Option.some.inj h ▸ of_decide_eq_true w⟩

theorem Operands.refusedDescriptorCommit {x0} : Operands.Statement (.refusedDescriptorCommit x0) :=
  ⟨fun _ h => (Option.some_ne_none _ h.symm).elim,
   fun _ h w => Option.some.inj h ▸ of_decide_eq_true w⟩

theorem Operands.taskCommit {x0 x1} : Operands.Statement (.taskCommit x0 x1) :=
  ⟨fun _ h => (Option.some_ne_none _ h.symm).elim,
   fun _ h w => Option.some.inj h ▸ of_decide_eq_true w⟩

theorem Operands.tileDispatch {x0} : Operands.Statement (.tileDispatch x0) :=
  ⟨fun _ h => (Option.some_ne_none _ h.symm).elim,
   fun _ h w => Option.some.inj h ▸ of_decide_eq_true w⟩

theorem Operands.engineTileDone {x0 x1} : Operands.Statement (.engineTileDone x0 x1) :=
  ⟨fun _ h => (Option.some_ne_none _ h.symm).elim,
   fun _ h w => Option.some.inj h ▸ of_decide_eq_true (left w)⟩

theorem Operands.engineTileError {x0 x1} : Operands.Statement (.engineTileError x0 x1) :=
  ⟨fun _ h => (Option.some_ne_none _ h.symm).elim,
   fun _ h w => Option.some.inj h ▸ of_decide_eq_true (left w)⟩

theorem Operands.engineKatTileDone {x0 x1 x2} : Operands.Statement (.engineKatTileDone x0 x1 x2) :=
  ⟨fun _ h => (Option.some_ne_none _ h.symm).elim,
   fun _ h w => Option.some.inj h ▸ of_decide_eq_true (left w)⟩

theorem Operands.engineOffline {x0 x1} : Operands.Statement (.engineOffline x0 x1) :=
  ⟨fun _ h => (Option.some_ne_none _ h.symm).elim,
   fun _ h w => Option.some.inj h ▸ of_decide_eq_true (left w)⟩

theorem Operands.taskFaultDetect {x0 x1} : Operands.Statement (.taskFaultDetect x0 x1) :=
  ⟨fun _ h => (Option.some_ne_none _ h.symm).elim,
   fun _ h w => Option.some.inj h ▸ of_decide_eq_true w⟩

theorem Operands.waitLimitExpiry {x0 x1} : Operands.Statement (.waitLimitExpiry x0 x1) :=
  ⟨fun _ h => (Option.some_ne_none _ h.symm).elim,
   fun _ h w => Option.some.inj h ▸ of_decide_eq_true w⟩

theorem Operands.waitFurtherLimitExpiry {x0 x1} : Operands.Statement (.waitFurtherLimitExpiry x0 x1) :=
  ⟨fun _ h => (Option.some_ne_none _ h.symm).elim,
   fun _ h w => Option.some.inj h ▸ of_decide_eq_true w⟩

theorem Operands.coreRunStart {x0} : Operands.Statement (.coreRunStart x0) :=
  ⟨fun _ h => (Option.some_ne_none _ h.symm).elim,
   fun _ h w => Option.some.inj h ▸ of_decide_eq_true w⟩

theorem Operands.coreAbort {x0} : Operands.Statement (.coreAbort x0) :=
  ⟨fun _ h => (Option.some_ne_none _ h.symm).elim,
   fun _ h w => Option.some.inj h ▸ of_decide_eq_true w⟩

theorem Operands.stepBoundary {x0} : Operands.Statement (.stepBoundary x0) :=
  ⟨fun _ h => (Option.some_ne_none _ h.symm).elim,
   fun _ h w => Option.some.inj h ▸ of_decide_eq_true w⟩

theorem Operands.streamedListRefetch {x0} : Operands.Statement (.streamedListRefetch x0) :=
  ⟨fun _ h => (Option.some_ne_none _ h.symm).elim,
   fun _ h w => Option.some.inj h ▸ of_decide_eq_true w⟩

theorem Operands.spdCorrectedWriteback {x0 x1 x2 x3} : Operands.Statement (.spdCorrectedWriteback x0 x1 x2 x3) :=
  ⟨fun _ h => (Option.some_ne_none _ h.symm).elim,
   fun _ h w => Option.some.inj h ▸ of_decide_eq_true (left w)⟩

theorem Operands.spdUncorrectableRead {x0 x1 x2 x3 x4} : Operands.Statement (.spdUncorrectableRead x0 x1 x2 x3 x4) :=
  ⟨fun _ h => (Option.some_ne_none _ h.symm).elim,
   fun _ h w => Option.some.inj h ▸ of_decide_eq_true (left w)⟩

theorem Operands.patrolScrubRead {x0 x1 x2} : Operands.Statement (.patrolScrubRead x0 x1 x2) :=
  ⟨fun _ h => (Option.some_ne_none _ h.symm).elim,
   fun _ h w => Option.some.inj h ▸ of_decide_eq_true w⟩

theorem Operands.coalescingBufferClose {x0 x1} : Operands.Statement (.coalescingBufferClose x0 x1) :=
  ⟨fun _ h => (Option.some_ne_none _ h.symm).elim,
   fun _ h w => Option.some.inj h ▸ of_decide_eq_true w⟩

theorem Operands.arbitrationStarvationPriority {x0 x1 x2 x3} : Operands.Statement (.arbitrationStarvationPriority x0 x1 x2 x3) :=
  ⟨fun _ h => (Option.some_ne_none _ h.symm).elim,
   fun _ h w => Option.some.inj h ▸ of_decide_eq_true (left (left w))⟩

theorem Operands.apertureRead {x0 x1 x2 x3} : Operands.Statement (.apertureRead x0 x1 x2 x3) :=
  ⟨fun _ h => (Option.some_ne_none _ h.symm).elim,
   fun _ h => (Option.some_ne_none _ h.symm).elim⟩

theorem Operands.apertureWrite {x0 x1 x2 x3 x4} : Operands.Statement (.apertureWrite x0 x1 x2 x3 x4) :=
  ⟨fun _ h => (Option.some_ne_none _ h.symm).elim,
   fun _ h => (Option.some_ne_none _ h.symm).elim⟩

theorem Operands.packetRoute {x0} : Operands.Statement (.packetRoute x0) :=
  ⟨fun _ h => (Option.some_ne_none _ h.symm).elim,
   fun _ h => (Option.some_ne_none _ h.symm).elim⟩

theorem Operands.packetDeliver {x0} : Operands.Statement (.packetDeliver x0) :=
  ⟨fun _ h => (Option.some_ne_none _ h.symm).elim,
   fun _ h => (Option.some_ne_none _ h.symm).elim⟩

theorem Operands.flitCrcFail {x0} : Operands.Statement (.flitCrcFail x0) :=
  ⟨fun _ h => (Option.some_ne_none _ h.symm).elim,
   fun _ h => (Option.some_ne_none _ h.symm).elim⟩

theorem Operands.flitReplayResult {x0 x1 x2} : Operands.Statement (.flitReplayResult x0 x1 x2) :=
  ⟨fun _ h => (Option.some_ne_none _ h.symm).elim,
   fun _ h => (Option.some_ne_none _ h.symm).elim⟩

theorem Operands.laneGroupRetrainDone {x0 x1 x2} : Operands.Statement (.laneGroupRetrainDone x0 x1 x2) :=
  ⟨fun _ h => (Option.some_ne_none _ h.symm).elim,
   fun _ h => (Option.some_ne_none _ h.symm).elim⟩

theorem Operands.requestReplyTimeout {x0} : Operands.Statement (.requestReplyTimeout x0) :=
  ⟨fun _ h => (Option.some_ne_none _ h.symm).elim,
   fun _ h => (Option.some_ne_none _ h.symm).elim⟩

theorem Operands.packetLifetimeExpiry {x0} : Operands.Statement (.packetLifetimeExpiry x0) :=
  ⟨fun _ h => (Option.some_ne_none _ h.symm).elim,
   fun _ h => (Option.some_ne_none _ h.symm).elim⟩

theorem Operands.drainHold {x0} : Operands.Statement (.drainHold x0) :=
  ⟨fun _ h => (Option.some_ne_none _ h.symm).elim,
   fun _ h => (Option.some_ne_none _ h.symm).elim⟩

theorem Operands.drainTableWrite {x0} : Operands.Statement (.drainTableWrite x0) :=
  ⟨fun _ h => (Option.some_ne_none _ h.symm).elim,
   fun _ h => (Option.some_ne_none _ h.symm).elim⟩

theorem Operands.drainRelease {x0} : Operands.Statement (.drainRelease x0) :=
  ⟨fun _ h => (Option.some_ne_none _ h.symm).elim,
   fun _ h => (Option.some_ne_none _ h.symm).elim⟩

theorem Operands.controlMessage {x0} : Operands.Statement (.controlMessage x0) :=
  ⟨fun _ h => (Option.some_ne_none _ h.symm).elim,
   fun _ h => (Option.some_ne_none _ h.symm).elim⟩

theorem Operands.broadcastTreeMessage {x0 x1} : Operands.Statement (.broadcastTreeMessage x0 x1) :=
  ⟨fun _ h => (Option.some_ne_none _ h.symm).elim,
   fun _ h => (Option.some_ne_none _ h.symm).elim⟩

theorem Operands.syncSampleError {x0} : Operands.Statement (.syncSampleError x0) :=
  ⟨fun _ h => (Option.some_ne_none _ h.symm).elim,
   fun _ h => (Option.some_ne_none _ h.symm).elim⟩

theorem Operands.broadcastBeat {x0 x1 x2 x3} : Operands.Statement (.broadcastBeat x0 x1 x2 x3) :=
  ⟨fun _ h => (Option.some_ne_none _ h.symm).elim,
   fun _ h => (Option.some_ne_none _ h.symm).elim⟩

theorem Operands.replicatorRow {x0 x1} : Operands.Statement (.replicatorRow x0 x1) :=
  ⟨fun _ h => (Option.some_ne_none _ h.symm).elim,
   fun _ h => (Option.some_ne_none _ h.symm).elim⟩

theorem Operands.msgAnnounce {x0} : Operands.Statement (.msgAnnounce x0) :=
  ⟨fun _ h => (Option.some_ne_none _ h.symm).elim,
   fun _ h => (Option.some_ne_none _ h.symm).elim⟩

theorem Operands.msgPull {x0} : Operands.Statement (.msgPull x0) :=
  ⟨fun _ h => (Option.some_ne_none _ h.symm).elim,
   fun _ h => (Option.some_ne_none _ h.symm).elim⟩

theorem Operands.msgData {x0} : Operands.Statement (.msgData x0) :=
  ⟨fun _ h => (Option.some_ne_none _ h.symm).elim,
   fun _ h => (Option.some_ne_none _ h.symm).elim⟩

theorem Operands.msgDone {x0} : Operands.Statement (.msgDone x0) :=
  ⟨fun _ h => (Option.some_ne_none _ h.symm).elim,
   fun _ h => (Option.some_ne_none _ h.symm).elim⟩

theorem Operands.nack {x0} : Operands.Statement (.nack x0) :=
  ⟨fun _ h => (Option.some_ne_none _ h.symm).elim,
   fun _ h => (Option.some_ne_none _ h.symm).elim⟩

theorem Operands.windowOpen {x0} : Operands.Statement (.windowOpen x0) :=
  ⟨fun _ h => Option.some.inj h ▸ decide_eq_true_iff,
   fun _ h => (Option.some_ne_none _ h.symm).elim⟩

theorem Operands.windowClose {x0} : Operands.Statement (.windowClose x0) :=
  ⟨fun _ h => Option.some.inj h ▸ decide_eq_true_iff,
   fun _ h => (Option.some_ne_none _ h.symm).elim⟩

theorem Operands.windowCloseExpert {x0} : Operands.Statement (.windowCloseExpert x0) :=
  ⟨fun _ h => Option.some.inj h ▸ decide_eq_true_iff,
   fun _ h => (Option.some_ne_none _ h.symm).elim⟩

theorem Operands.windowCloseWaitExpiry {x0 x1} : Operands.Statement (.windowCloseWaitExpiry x0 x1) :=
  ⟨fun _ h => (Option.some_ne_none _ h.symm).elim,
   fun _ h => (Option.some_ne_none _ h.symm).elim⟩

theorem Operands.windowGenAdvance {x0 x1} : Operands.Statement (.windowGenAdvance x0 x1) :=
  ⟨fun _ h => (Option.some_ne_none _ h.symm).elim,
   fun _ h => (Option.some_ne_none _ h.symm).elim⟩

theorem Operands.putData {x0} : Operands.Statement (.putData x0) :=
  ⟨fun _ h => (Option.some_ne_none _ h.symm).elim,
   fun _ h => (Option.some_ne_none _ h.symm).elim⟩

theorem Operands.putAck {x0} : Operands.Statement (.putAck x0) :=
  ⟨fun _ h => (Option.some_ne_none _ h.symm).elim,
   fun _ h => (Option.some_ne_none _ h.symm).elim⟩

theorem Operands.putResendTimer {x0 x1} : Operands.Statement (.putResendTimer x0 x1) :=
  ⟨fun _ h => (Option.some_ne_none _ h.symm).elim,
   fun _ h w => Option.some.inj h ▸ of_decide_eq_true w⟩

theorem Operands.windowTransferSilence {x0 x1 x2} : Operands.Statement (.windowTransferSilence x0 x1 x2) :=
  ⟨fun _ h => (Option.some_ne_none _ h.symm).elim,
   fun _ h => (Option.some_ne_none _ h.symm).elim⟩

theorem Operands.catalogueRead {x0} : Operands.Statement (.catalogueRead x0) :=
  ⟨fun _ h => Option.some.inj h ▸ decide_eq_true_iff,
   fun _ h => (Option.some_ne_none _ h.symm).elim⟩

theorem Operands.catalogueReadExpert {x0} : Operands.Statement (.catalogueReadExpert x0) :=
  ⟨fun _ h => Option.some.inj h ▸ decide_eq_true_iff,
   fun _ h => (Option.some_ne_none _ h.symm).elim⟩

theorem Operands.barrierGroupCreate {x0} : Operands.Statement (.barrierGroupCreate x0) :=
  ⟨fun _ h => Option.some.inj h ▸ decide_eq_true_iff,
   fun _ h => (Option.some_ne_none _ h.symm).elim⟩

theorem Operands.barrierGroupDestroy {x0} : Operands.Statement (.barrierGroupDestroy x0) :=
  ⟨fun _ h => Option.some.inj h ▸ decide_eq_true_iff,
   fun _ h => (Option.some_ne_none _ h.symm).elim⟩

theorem Operands.barrierGroupDestroyExpert {x0} : Operands.Statement (.barrierGroupDestroyExpert x0) :=
  ⟨fun _ h => Option.some.inj h ▸ decide_eq_true_iff,
   fun _ h => (Option.some_ne_none _ h.symm).elim⟩

theorem Operands.barrierRelease {x0 x1} : Operands.Statement (.barrierRelease x0 x1) :=
  ⟨fun _ h => (Option.some_ne_none _ h.symm).elim,
   fun _ h w => Option.some.inj h ▸ of_decide_eq_true (left w)⟩

theorem Operands.redPart {x0} : Operands.Statement (.redPart x0) :=
  ⟨fun _ h => (Option.some_ne_none _ h.symm).elim,
   fun _ h => (Option.some_ne_none _ h.symm).elim⟩

theorem Operands.redResult {x0} : Operands.Statement (.redResult x0) :=
  ⟨fun _ h => (Option.some_ne_none _ h.symm).elim,
   fun _ h => (Option.some_ne_none _ h.symm).elim⟩

theorem Operands.fastReductionCombine {x0} : Operands.Statement (.fastReductionCombine x0) :=
  ⟨fun _ h => (Option.some_ne_none _ h.symm).elim,
   fun _ h => (Option.some_ne_none _ h.symm).elim⟩

theorem Operands.sliceRead {x0 x1 x2 x3} : Operands.Statement (.sliceRead x0 x1 x2 x3) :=
  ⟨fun _ h => (Option.some_ne_none _ h.symm).elim,
   fun _ h => (Option.some_ne_none _ h.symm).elim⟩

theorem Operands.sliceWrite {x0 x1 x2 x3 x4} : Operands.Statement (.sliceWrite x0 x1 x2 x3 x4) :=
  ⟨fun _ h => (Option.some_ne_none _ h.symm).elim,
   fun _ h => (Option.some_ne_none _ h.symm).elim⟩

theorem Operands.lpddrUncorrectableRead {x0 x1 x2} : Operands.Statement (.lpddrUncorrectableRead x0 x1 x2) :=
  ⟨fun _ h => (Option.some_ne_none _ h.symm).elim,
   fun _ h => (Option.some_ne_none _ h.symm).elim⟩

theorem Operands.devicePredictiveTrigger {x0} : Operands.Statement (.devicePredictiveTrigger x0) :=
  ⟨fun _ h => (Option.some_ne_none _ h.symm).elim,
   fun _ h => (Option.some_ne_none _ h.symm).elim⟩

theorem Operands.deviceCopyDone {x0 x1} : Operands.Statement (.deviceCopyDone x0 x1) :=
  ⟨fun _ h => (Option.some_ne_none _ h.symm).elim,
   fun _ h => (Option.some_ne_none _ h.symm).elim⟩

theorem Operands.deviceLastingFault {x0} : Operands.Statement (.deviceLastingFault x0) :=
  ⟨fun _ h => (Option.some_ne_none _ h.symm).elim,
   fun _ h => (Option.some_ne_none _ h.symm).elim⟩

theorem Operands.wckTracking {x0 x1 x2} : Operands.Statement (.wckTracking x0 x1 x2) :=
  ⟨fun _ h => (Option.some_ne_none _ h.symm).elim,
   fun _ h => (Option.some_ne_none _ h.symm).elim⟩

theorem Operands.deviceTemperatureReport {x0 x1} : Operands.Statement (.deviceTemperatureReport x0 x1) :=
  ⟨fun _ h => (Option.some_ne_none _ h.symm).elim,
   fun _ h => (Option.some_ne_none _ h.symm).elim⟩

theorem Operands.ecsResultRead {x0 x1} : Operands.Statement (.ecsResultRead x0 x1) :=
  ⟨fun _ h => (Option.some_ne_none _ h.symm).elim,
   fun _ h => (Option.some_ne_none _ h.symm).elim⟩

theorem Operands.dblSqTail {x0 x1 x2 x3} : Operands.Statement (.dblSqTail x0 x1 x2 x3) :=
  ⟨fun _ h => (Option.some_ne_none _ h.symm).elim,
   fun _ h => (Option.some_ne_none _ h.symm).elim⟩

theorem Operands.dblCqHead {x0 x1 x2 x3} : Operands.Statement (.dblCqHead x0 x1 x2 x3) :=
  ⟨fun _ h => (Option.some_ne_none _ h.symm).elim,
   fun _ h => (Option.some_ne_none _ h.symm).elim⟩

theorem Operands.commandFetch {x0} : Operands.Statement (.commandFetch x0) :=
  ⟨fun _ h => Option.some.inj h ▸ decide_eq_true_iff,
   fun _ h => (Option.some_ne_none _ h.symm).elim⟩

theorem Operands.completionRecordWrite {x0} : Operands.Statement (.completionRecordWrite x0) :=
  ⟨fun _ h => Option.some.inj h ▸ decide_eq_true_iff,
   fun _ h => (Option.some_ne_none _ h.symm).elim⟩

theorem Operands.contextLoadDone {x0 x1} : Operands.Statement (.contextLoadDone x0 x1) :=
  ⟨fun _ h => (Option.some_ne_none _ h.symm).elim,
   fun _ h => (Option.some_ne_none _ h.symm).elim⟩

theorem Operands.spillWriteAck {x0 x1} : Operands.Statement (.spillWriteAck x0 x1) :=
  ⟨fun _ h => (Option.some_ne_none _ h.symm).elim,
   fun _ h => (Option.some_ne_none _ h.symm).elim⟩

theorem Operands.ucieModuleFail {x0} : Operands.Statement (.ucieModuleFail x0) :=
  ⟨fun _ h => (Option.some_ne_none _ h.symm).elim,
   fun _ h => (Option.some_ne_none _ h.symm).elim⟩

theorem Operands.ucieLinkDownTimeout {x0} : Operands.Statement (.ucieLinkDownTimeout x0) :=
  ⟨fun _ h => (Option.some_ne_none _ h.symm).elim,
   fun _ h => (Option.some_ne_none _ h.symm).elim⟩

theorem Operands.unpopulatedAccess {x0 x1 x2 x3} : Operands.Statement (.unpopulatedAccess x0 x1 x2 x3) :=
  ⟨fun _ h => (Option.some_ne_none _ h.symm).elim,
   fun _ h => (Option.some_ne_none _ h.symm).elim⟩

theorem Operands.registerWrite {x0 x1 x2} : Operands.Statement (.registerWrite x0 x1 x2) :=
  ⟨fun _ h => (Option.some_ne_none _ h.symm).elim,
   fun _ h => (Option.some_ne_none _ h.symm).elim⟩

theorem Operands.echo {x0} : Operands.Statement (.echo x0) :=
  ⟨fun _ h => Option.some.inj h ▸ decide_eq_true_iff,
   fun _ h => (Option.some_ne_none _ h.symm).elim⟩

theorem Operands.echoExpert {x0} : Operands.Statement (.echoExpert x0) :=
  ⟨fun _ h => Option.some.inj h ▸ decide_eq_true_iff,
   fun _ h => (Option.some_ne_none _ h.symm).elim⟩

theorem Operands.queueCreate {x0} : Operands.Statement (.queueCreate x0) :=
  ⟨fun _ h => Option.some.inj h ▸ decide_eq_true_iff,
   fun _ h => (Option.some_ne_none _ h.symm).elim⟩

theorem Operands.queueDestroy {x0} : Operands.Statement (.queueDestroy x0) :=
  ⟨fun _ h => Option.some.inj h ▸ decide_eq_true_iff,
   fun _ h => (Option.some_ne_none _ h.symm).elim⟩

theorem Operands.queueDestroyExpert {x0} : Operands.Statement (.queueDestroyExpert x0) :=
  ⟨fun _ h => Option.some.inj h ▸ decide_eq_true_iff,
   fun _ h => (Option.some_ne_none _ h.symm).elim⟩

theorem Operands.queueEnable {x0} : Operands.Statement (.queueEnable x0) :=
  ⟨fun _ h => Option.some.inj h ▸ decide_eq_true_iff,
   fun _ h => (Option.some_ne_none _ h.symm).elim⟩

theorem Operands.queueDisable {x0} : Operands.Statement (.queueDisable x0) :=
  ⟨fun _ h => Option.some.inj h ▸ decide_eq_true_iff,
   fun _ h => (Option.some_ne_none _ h.symm).elim⟩

theorem Operands.queueDisableExpert {x0} : Operands.Statement (.queueDisableExpert x0) :=
  ⟨fun _ h => Option.some.inj h ▸ decide_eq_true_iff,
   fun _ h => (Option.some_ne_none _ h.symm).elim⟩

theorem Operands.programLoad {x0 x1} : Operands.Statement (.programLoad x0 x1) :=
  ⟨fun _ h => Option.some.inj h ▸ decide_eq_true_iff,
   fun _ h => (Option.some_ne_none _ h.symm).elim⟩

theorem Operands.run {x0} : Operands.Statement (.run x0) :=
  ⟨fun _ h => Option.some.inj h ▸ decide_eq_true_iff,
   fun _ h => (Option.some_ne_none _ h.symm).elim⟩

theorem Operands.abort {x0} : Operands.Statement (.abort x0) :=
  ⟨fun _ h => Option.some.inj h ▸ decide_eq_true_iff,
   fun _ h => (Option.some_ne_none _ h.symm).elim⟩

theorem Operands.stepMark {x0} : Operands.Statement (.stepMark x0) :=
  ⟨fun _ h => Option.some.inj h ▸ decide_eq_true_iff,
   fun _ h => (Option.some_ne_none _ h.symm).elim⟩

theorem Operands.stepMarkExpert {x0} : Operands.Statement (.stepMarkExpert x0) :=
  ⟨fun _ h => Option.some.inj h ▸ decide_eq_true_iff,
   fun _ h => (Option.some_ne_none _ h.symm).elim⟩

theorem Operands.memCopy {x0 x1 x2} : Operands.Statement (.memCopy x0 x1 x2) :=
  ⟨fun _ h => Option.some.inj h ▸ decide_eq_true_iff,
   fun _ h => (Option.some_ne_none _ h.symm).elim⟩

theorem Operands.memCopyExpert {x0 x1 x2} : Operands.Statement (.memCopyExpert x0 x1 x2) :=
  ⟨fun _ h => Option.some.inj h ▸ decide_eq_true_iff,
   fun _ h => (Option.some_ne_none _ h.symm).elim⟩

theorem Operands.memFill {x0 x1 x2} : Operands.Statement (.memFill x0 x1 x2) :=
  ⟨fun _ h => Option.some.inj h ▸ decide_eq_true_iff,
   fun _ h => (Option.some_ne_none _ h.symm).elim⟩

theorem Operands.memFillExpert {x0 x1 x2} : Operands.Statement (.memFillExpert x0 x1 x2) :=
  ⟨fun _ h => Option.some.inj h ▸ decide_eq_true_iff,
   fun _ h => (Option.some_ne_none _ h.symm).elim⟩

theorem Operands.mbxThPush {x0 x1 x2 x3} : Operands.Statement (.mbxThPush x0 x1 x2 x3) :=
  ⟨fun _ h => (Option.some_ne_none _ h.symm).elim,
   fun _ h => (Option.some_ne_none _ h.symm).elim⟩

theorem Operands.mbxThPop {x0 x1 x2} : Operands.Statement (.mbxThPop x0 x1 x2) :=
  ⟨fun _ h => (Option.some_ne_none _ h.symm).elim,
   fun _ h => (Option.some_ne_none _ h.symm).elim⟩

theorem Operands.mbxTpPush {x0 x1 x2 x3} : Operands.Statement (.mbxTpPush x0 x1 x2 x3) :=
  ⟨fun _ h => (Option.some_ne_none _ h.symm).elim,
   fun _ h => (Option.some_ne_none _ h.symm).elim⟩

theorem Operands.mbxRing {x0 x1 x2 x3} : Operands.Statement (.mbxRing x0 x1 x2 x3) :=
  ⟨fun _ h => (Option.some_ne_none _ h.symm).elim,
   fun _ h => (Option.some_ne_none _ h.symm).elim⟩

theorem Operands.mbxMask {x0 x1 x2 x3} : Operands.Statement (.mbxMask x0 x1 x2 x3) :=
  ⟨fun _ h => (Option.some_ne_none _ h.symm).elim,
   fun _ h => (Option.some_ne_none _ h.symm).elim⟩

theorem Operands.mbxMsi {x0 x1 x2 x3} : Operands.Statement (.mbxMsi x0 x1 x2 x3) :=
  ⟨fun _ h => (Option.some_ne_none _ h.symm).elim,
   fun _ h => (Option.some_ne_none _ h.symm).elim⟩

theorem Operands.heartbeatPost : Operands.Statement (.heartbeatPost) :=
  ⟨fun _ h => (Option.some_ne_none _ h.symm).elim,
   fun _ h => (Option.some_ne_none _ h.symm).elim⟩

theorem Operands.consoleOutput {x0 x1} : Operands.Statement (.consoleOutput x0 x1) :=
  ⟨fun _ h => (Option.some_ne_none _ h.symm).elim,
   fun _ h => (Option.some_ne_none _ h.symm).elim⟩

theorem Operands.consolePop : Operands.Statement (.consolePop) :=
  ⟨fun _ h => (Option.some_ne_none _ h.symm).elim,
   fun _ h => (Option.some_ne_none _ h.symm).elim⟩

theorem Operands.fingerprintFeed {x0 x1 x2} : Operands.Statement (.fingerprintFeed x0 x1 x2) :=
  ⟨fun _ h => (Option.some_ne_none _ h.symm).elim,
   fun _ h w => Option.some.inj h ▸ of_decide_eq_true w⟩

theorem Operands.fingerprintConfigure {x0} : Operands.Statement (.fingerprintConfigure x0) :=
  ⟨fun _ h => Option.some.inj h ▸ decide_eq_true_iff,
   fun _ h => (Option.some_ne_none _ h.symm).elim⟩

theorem Operands.fingerprintEnable {x0} : Operands.Statement (.fingerprintEnable x0) :=
  ⟨fun _ h => Option.some.inj h ▸ decide_eq_true_iff,
   fun _ h => (Option.some_ne_none _ h.symm).elim⟩

theorem Operands.fingerprintDisable {x0} : Operands.Statement (.fingerprintDisable x0) :=
  ⟨fun _ h => Option.some.inj h ▸ decide_eq_true_iff,
   fun _ h => (Option.some_ne_none _ h.symm).elim⟩

theorem Operands.fingerprintDisableExpert {x0} : Operands.Statement (.fingerprintDisableExpert x0) :=
  ⟨fun _ h => Option.some.inj h ▸ decide_eq_true_iff,
   fun _ h => (Option.some_ne_none _ h.symm).elim⟩

theorem Operands.fingerprintRead {x0} : Operands.Statement (.fingerprintRead x0) :=
  ⟨fun _ h => Option.some.inj h ▸ decide_eq_true_iff,
   fun _ h => (Option.some_ne_none _ h.symm).elim⟩

theorem Operands.crcContextSet {x0} : Operands.Statement (.crcContextSet x0) :=
  ⟨fun _ h => Option.some.inj h ▸ decide_eq_true_iff,
   fun _ h => (Option.some_ne_none _ h.symm).elim⟩

theorem Operands.crcContextGet {x0} : Operands.Statement (.crcContextGet x0) :=
  ⟨fun _ h => Option.some.inj h ▸ decide_eq_true_iff,
   fun _ h => (Option.some_ne_none _ h.symm).elim⟩

theorem Operands.faultLogReadRecords {x0} : Operands.Statement (.faultLogReadRecords x0) :=
  ⟨fun _ h => Option.some.inj h ▸ decide_eq_true_iff,
   fun _ h => (Option.some_ne_none _ h.symm).elim⟩

theorem Operands.faultLogReadCounters {x0} : Operands.Statement (.faultLogReadCounters x0) :=
  ⟨fun _ h => Option.some.inj h ▸ decide_eq_true_iff,
   fun _ h => (Option.some_ne_none _ h.symm).elim⟩

theorem Operands.partitionReset {x0} : Operands.Statement (.partitionReset x0) :=
  ⟨fun _ h => Option.some.inj h ▸ decide_eq_true_iff,
   fun _ h => (Option.some_ne_none _ h.symm).elim⟩

theorem Operands.partitionResetStart {x0} : Operands.Statement (.partitionResetStart x0) :=
  ⟨fun _ h => (Option.some_ne_none _ h.symm).elim,
   fun _ h => (Option.some_ne_none _ h.symm).elim⟩

theorem Operands.partitionResetRelease {x0 x1 x2} : Operands.Statement (.partitionResetRelease x0 x1 x2) :=
  ⟨fun _ h => (Option.some_ne_none _ h.symm).elim,
   fun _ h => (Option.some_ne_none _ h.symm).elim⟩

theorem Operands.accessionComplete {x0 x1 x2} : Operands.Statement (.accessionComplete x0 x1 x2) :=
  ⟨fun _ h => (Option.some_ne_none _ h.symm).elim,
   fun _ h => (Option.some_ne_none _ h.symm).elim⟩

theorem Operands.accessionKatFail {x0 x1 x2} : Operands.Statement (.accessionKatFail x0 x1 x2) :=
  ⟨fun _ h => (Option.some_ne_none _ h.symm).elim,
   fun _ h => (Option.some_ne_none _ h.symm).elim⟩

theorem Operands.accessionRetest {x0 x1 x2} : Operands.Statement (.accessionRetest x0 x1 x2) :=
  ⟨fun _ h => Option.some.inj h ▸ decide_eq_true_iff,
   fun _ h => (Option.some_ne_none _ h.symm).elim⟩

theorem Operands.accessionPlace {x0 x1} : Operands.Statement (.accessionPlace x0 x1) :=
  ⟨fun _ h => Option.some.inj h ▸ decide_eq_true_iff,
   fun _ h => (Option.some_ne_none _ h.symm).elim⟩

theorem Operands.escalationPolicyRead {x0} : Operands.Statement (.escalationPolicyRead x0) :=
  ⟨fun _ h => Option.some.inj h ▸ decide_eq_true_iff,
   fun _ h => (Option.some_ne_none _ h.symm).elim⟩

theorem Operands.escalationPolicySet {x0} : Operands.Statement (.escalationPolicySet x0) :=
  ⟨fun _ h => Option.some.inj h ▸ decide_eq_true_iff,
   fun _ h => (Option.some_ne_none _ h.symm).elim⟩

theorem Operands.provenanceRead {x0} : Operands.Statement (.provenanceRead x0) :=
  ⟨fun _ h => Option.some.inj h ▸ decide_eq_true_iff,
   fun _ h => (Option.some_ne_none _ h.symm).elim⟩

theorem Operands.transientSummary : Operands.Statement (.transientSummary) :=
  ⟨fun _ h => (Option.some_ne_none _ h.symm).elim,
   fun _ h => (Option.some_ne_none _ h.symm).elim⟩

theorem Operands.curatorSilence {x0} : Operands.Statement (.curatorSilence x0) :=
  ⟨fun _ h => (Option.some_ne_none _ h.symm).elim,
   fun _ h => (Option.some_ne_none _ h.symm).elim⟩

theorem Operands.curatorRestartTimeout {x0} : Operands.Statement (.curatorRestartTimeout x0) :=
  ⟨fun _ h => (Option.some_ne_none _ h.symm).elim,
   fun _ h => (Option.some_ne_none _ h.symm).elim⟩

theorem Operands.leadTakeover : Operands.Statement (.leadTakeover) :=
  ⟨fun _ h => (Option.some_ne_none _ h.symm).elim,
   fun _ h => (Option.some_ne_none _ h.symm).elim⟩

theorem Operands.dieFence {x0 x1 x2} : Operands.Statement (.dieFence x0 x1 x2) :=
  ⟨fun _ h => (Option.some_ne_none _ h.symm).elim,
   fun _ h => (Option.some_ne_none _ h.symm).elim⟩

theorem Operands.holdLimitExpiry {x0} : Operands.Statement (.holdLimitExpiry x0) :=
  ⟨fun _ h => (Option.some_ne_none _ h.symm).elim,
   fun _ h => (Option.some_ne_none _ h.symm).elim⟩

theorem Operands.spdWordRewriteCheck {x0 x1 x2 x3} : Operands.Statement (.spdWordRewriteCheck x0 x1 x2 x3) :=
  ⟨fun _ h => (Option.some_ne_none _ h.symm).elim,
   fun _ h w => Option.some.inj h ▸ of_decide_eq_true (left w)⟩

theorem Operands.stragglerStaging {x0 x1} : Operands.Statement (.stragglerStaging x0 x1) :=
  ⟨fun _ h => (Option.some_ne_none _ h.symm).elim,
   fun _ h w => Option.some.inj h ▸ of_decide_eq_true w⟩

theorem Operands.panelRstNAssert : Operands.Statement (.panelRstNAssert) :=
  ⟨fun _ h => (Option.some_ne_none _ h.symm).elim,
   fun _ h => (Option.some_ne_none _ h.symm).elim⟩

theorem Operands.panelRstNRelease : Operands.Statement (.panelRstNRelease) :=
  ⟨fun _ h => (Option.some_ne_none _ h.symm).elim,
   fun _ h => (Option.some_ne_none _ h.symm).elim⟩

theorem Operands.strapLatch {x0} : Operands.Statement (.strapLatch x0) :=
  ⟨fun _ h => (Option.some_ne_none _ h.symm).elim,
   fun _ h => (Option.some_ne_none _ h.symm).elim⟩

theorem Operands.firstStageVerify : Operands.Statement (.firstStageVerify) :=
  ⟨fun _ h => (Option.some_ne_none _ h.symm).elim,
   fun _ h => (Option.some_ne_none _ h.symm).elim⟩

theorem Operands.deputyStartTakeover : Operands.Statement (.deputyStartTakeover) :=
  ⟨fun _ h => (Option.some_ne_none _ h.symm).elim,
   fun _ h => (Option.some_ne_none _ h.symm).elim⟩

theorem Operands.charterSeal : Operands.Statement (.charterSeal) :=
  ⟨fun _ h => (Option.some_ne_none _ h.symm).elim,
   fun _ h => (Option.some_ne_none _ h.symm).elim⟩

theorem Operands.linkTrainingDone {x0} : Operands.Statement (.linkTrainingDone x0) :=
  ⟨fun _ h => (Option.some_ne_none _ h.symm).elim,
   fun _ h => (Option.some_ne_none _ h.symm).elim⟩

theorem Operands.stackWave : Operands.Statement (.stackWave) :=
  ⟨fun _ h => (Option.some_ne_none _ h.symm).elim,
   fun _ h => (Option.some_ne_none _ h.symm).elim⟩

theorem Operands.microcodeBroadcast {x0} : Operands.Statement (.microcodeBroadcast x0) :=
  ⟨fun _ h => (Option.some_ne_none _ h.symm).elim,
   fun _ h => (Option.some_ne_none _ h.symm).elim⟩

theorem Operands.lpddrInitialise : Operands.Statement (.lpddrInitialise) :=
  ⟨fun _ h => (Option.some_ne_none _ h.symm).elim,
   fun _ h => (Option.some_ne_none _ h.symm).elim⟩

theorem Operands.linkBerCheckDone {x0} : Operands.Statement (.linkBerCheckDone x0) :=
  ⟨fun _ h => (Option.some_ne_none _ h.symm).elim,
   fun _ h => (Option.some_ne_none _ h.symm).elim⟩

theorem Operands.startKatDone {x0 x1} : Operands.Statement (.startKatDone x0 x1) :=
  ⟨fun _ h => (Option.some_ne_none _ h.symm).elim,
   fun _ h => (Option.some_ne_none _ h.symm).elim⟩

theorem Operands.catalogueBuild {x0} : Operands.Statement (.catalogueBuild x0) :=
  ⟨fun _ h => (Option.some_ne_none _ h.symm).elim,
   fun _ h => (Option.some_ne_none _ h.symm).elim⟩

theorem Operands.hostRelease {x0} : Operands.Statement (.hostRelease x0) :=
  ⟨fun _ h => (Option.some_ne_none _ h.symm).elim,
   fun _ h => (Option.some_ne_none _ h.symm).elim⟩

theorem Operands.attest {x0} : Operands.Statement (.attest x0) :=
  ⟨fun _ h => Option.some.inj h ▸ decide_eq_true_iff,
   fun _ h => (Option.some_ne_none _ h.symm).elim⟩

theorem Operands.fwStage {x0} : Operands.Statement (.fwStage x0) :=
  ⟨fun _ h => Option.some.inj h ▸ decide_eq_true_iff,
   fun _ h => (Option.some_ne_none _ h.symm).elim⟩

theorem Operands.fwCommit {x0} : Operands.Statement (.fwCommit x0) :=
  ⟨fun _ h => Option.some.inj h ▸ decide_eq_true_iff,
   fun _ h => (Option.some_ne_none _ h.symm).elim⟩

theorem Operands.charterRead {x0} : Operands.Statement (.charterRead x0) :=
  ⟨fun _ h => Option.some.inj h ▸ decide_eq_true_iff,
   fun _ h => (Option.some_ne_none _ h.symm).elim⟩

theorem Operands.refclkLoss {x0} : Operands.Statement (.refclkLoss x0) :=
  ⟨fun _ h => (Option.some_ne_none _ h.symm).elim,
   fun _ h => (Option.some_ne_none _ h.symm).elim⟩

theorem Operands.refclkPrimaryReturn : Operands.Statement (.refclkPrimaryReturn) :=
  ⟨fun _ h => (Option.some_ne_none _ h.symm).elim,
   fun _ h => (Option.some_ne_none _ h.symm).elim⟩

theorem Operands.pllLossOfLock {x0 x1} : Operands.Statement (.pllLossOfLock x0 x1) :=
  ⟨fun _ h => (Option.some_ne_none _ h.symm).elim,
   fun _ h => (Option.some_ne_none _ h.symm).elim⟩

theorem Operands.marginSample {x0 x1} : Operands.Statement (.marginSample x0 x1) :=
  ⟨fun _ h => (Option.some_ne_none _ h.symm).elim,
   fun _ h w => Option.some.inj h ▸ of_decide_eq_true (left w)⟩

theorem Operands.marginStretchEnd {x0} : Operands.Statement (.marginStretchEnd x0) :=
  ⟨fun _ h => (Option.some_ne_none _ h.symm).elim,
   fun _ h w => Option.some.inj h ▸ of_decide_eq_true w⟩

theorem Operands.marginWindow {x0} : Operands.Statement (.marginWindow x0) :=
  ⟨fun _ h => (Option.some_ne_none _ h.symm).elim,
   fun _ h w => Option.some.inj h ▸ of_decide_eq_true w⟩

theorem Operands.regulatorSettled {x0} : Operands.Statement (.regulatorSettled x0) :=
  ⟨fun _ h => (Option.some_ne_none _ h.symm).elim,
   fun _ h w => Option.some.inj h ▸ of_decide_eq_true w⟩

theorem Operands.stepSetPolicy {x0} : Operands.Statement (.stepSetPolicy x0) :=
  ⟨fun _ h => Option.some.inj h ▸ decide_eq_true_iff,
   fun _ h => (Option.some_ne_none _ h.symm).elim⟩

theorem Operands.stepSetRead {x0} : Operands.Statement (.stepSetRead x0) :=
  ⟨fun _ h => Option.some.inj h ▸ decide_eq_true_iff,
   fun _ h => (Option.some_ne_none _ h.symm).elim⟩

theorem Operands.stepSetFix {x0} : Operands.Statement (.stepSetFix x0) :=
  ⟨fun _ h => Option.some.inj h ▸ decide_eq_true_iff,
   fun _ h => (Option.some_ne_none _ h.symm).elim⟩

theorem Operands.stepSetThresholds {x0} : Operands.Statement (.stepSetThresholds x0) :=
  ⟨fun _ h => Option.some.inj h ▸ decide_eq_true_iff,
   fun _ h => (Option.some_ne_none _ h.symm).elim⟩

theorem Operands.sagDetect {x0} : Operands.Statement (.sagDetect x0) :=
  ⟨fun _ h => (Option.some_ne_none _ h.symm).elim,
   fun _ h => (Option.some_ne_none _ h.symm).elim⟩

theorem Operands.sagEnd : Operands.Statement (.sagEnd) :=
  ⟨fun _ h => (Option.some_ne_none _ h.symm).elim,
   fun _ h => (Option.some_ne_none _ h.symm).elim⟩

theorem Operands.sagLimitExpiry : Operands.Statement (.sagLimitExpiry) :=
  ⟨fun _ h => (Option.some_ne_none _ h.symm).elim,
   fun _ h => (Option.some_ne_none _ h.symm).elim⟩

theorem Operands.highInput : Operands.Statement (.highInput) :=
  ⟨fun _ h => (Option.some_ne_none _ h.symm).elim,
   fun _ h => (Option.some_ne_none _ h.symm).elim⟩

theorem Operands.inputLockout : Operands.Statement (.inputLockout) :=
  ⟨fun _ h => (Option.some_ne_none _ h.symm).elim,
   fun _ h => (Option.some_ne_none _ h.symm).elim⟩

theorem Operands.pfwNAssert : Operands.Statement (.pfwNAssert) :=
  ⟨fun _ h => (Option.some_ne_none _ h.symm).elim,
   fun _ h => (Option.some_ne_none _ h.symm).elim⟩

theorem Operands.pfwRecovery : Operands.Statement (.pfwRecovery) :=
  ⟨fun _ h => (Option.some_ne_none _ h.symm).elim,
   fun _ h => (Option.some_ne_none _ h.symm).elim⟩

theorem Operands.slewGrant {x0} : Operands.Statement (.slewGrant x0) :=
  ⟨fun _ h => (Option.some_ne_none _ h.symm).elim,
   fun _ h => (Option.some_ne_none _ h.symm).elim⟩

theorem Operands.slewLimit {x0} : Operands.Statement (.slewLimit x0) :=
  ⟨fun _ h => Option.some.inj h ▸ decide_eq_true_iff,
   fun _ h => (Option.some_ne_none _ h.symm).elim⟩

theorem Operands.slewLimitExpert {x0} : Operands.Statement (.slewLimitExpert x0) :=
  ⟨fun _ h => Option.some.inj h ▸ decide_eq_true_iff,
   fun _ h => (Option.some_ne_none _ h.symm).elim⟩

theorem Operands.powerCapDivision {x0} : Operands.Statement (.powerCapDivision x0) :=
  ⟨fun _ h => (Option.some_ne_none _ h.symm).elim,
   fun _ h => (Option.some_ne_none _ h.symm).elim⟩

theorem Operands.powerCapStepChange {x0 x1} : Operands.Statement (.powerCapStepChange x0 x1) :=
  ⟨fun _ h => (Option.some_ne_none _ h.symm).elim,
   fun _ h => (Option.some_ne_none _ h.symm).elim⟩

theorem Operands.powerPolicyPanelCap {x0} : Operands.Statement (.powerPolicyPanelCap x0) :=
  ⟨fun _ h => Option.some.inj h ▸ decide_eq_true_iff,
   fun _ h => (Option.some_ne_none _ h.symm).elim⟩

theorem Operands.powerPolicyRead {x0} : Operands.Statement (.powerPolicyRead x0) :=
  ⟨fun _ h => Option.some.inj h ▸ decide_eq_true_iff,
   fun _ h => (Option.some_ne_none _ h.symm).elim⟩

theorem Operands.powerPolicyTileCap {x0} : Operands.Statement (.powerPolicyTileCap x0) :=
  ⟨fun _ h => Option.some.inj h ▸ decide_eq_true_iff,
   fun _ h => (Option.some_ne_none _ h.symm).elim⟩

theorem Operands.powerPolicyStaging {x0} : Operands.Statement (.powerPolicyStaging x0) :=
  ⟨fun _ h => Option.some.inj h ▸ decide_eq_true_iff,
   fun _ h => (Option.some_ne_none _ h.symm).elim⟩

theorem Operands.converterPhaseFault {x0 x1} : Operands.Statement (.converterPhaseFault x0 x1) :=
  ⟨fun _ h => (Option.some_ne_none _ h.symm).elim,
   fun _ h => (Option.some_ne_none _ h.symm).elim⟩

theorem Operands.breakerTrip {x0 x1} : Operands.Statement (.breakerTrip x0 x1) :=
  ⟨fun _ h => (Option.some_ne_none _ h.symm).elim,
   fun _ h => (Option.some_ne_none _ h.symm).elim⟩

theorem Operands.regulatorPhaseFault {x0 x1} : Operands.Statement (.regulatorPhaseFault x0 x1) :=
  ⟨fun _ h => (Option.some_ne_none _ h.symm).elim,
   fun _ h => (Option.some_ne_none _ h.symm).elim⟩

theorem Operands.headerStage {x0 x1} : Operands.Statement (.headerStage x0 x1) :=
  ⟨fun _ h => (Option.some_ne_none _ h.symm).elim,
   fun _ h w => Option.some.inj h ▸ of_decide_eq_true w⟩

theorem Operands.stagePauseRecheck {x0 x1} : Operands.Statement (.stagePauseRecheck x0 x1) :=
  ⟨fun _ h => (Option.some_ne_none _ h.symm).elim,
   fun _ h w => Option.some.inj h ▸ of_decide_eq_true w⟩

theorem Operands.stagePauseLimit {x0} : Operands.Statement (.stagePauseLimit x0) :=
  ⟨fun _ h => (Option.some_ne_none _ h.symm).elim,
   fun _ h w => Option.some.inj h ▸ of_decide_eq_true w⟩

theorem Operands.sensorSample {x0 x1 x2} : Operands.Statement (.sensorSample x0 x1 x2) :=
  ⟨fun _ h => (Option.some_ne_none _ h.symm).elim,
   fun _ h => (Option.some_ne_none _ h.symm).elim⟩

theorem Operands.thermalCapWindow {x0} : Operands.Statement (.thermalCapWindow x0) :=
  ⟨fun _ h => (Option.some_ne_none _ h.symm).elim,
   fun _ h => (Option.some_ne_none _ h.symm).elim⟩

theorem Operands.thermalCapRecovery {x0} : Operands.Statement (.thermalCapRecovery x0) :=
  ⟨fun _ h => (Option.some_ne_none _ h.symm).elim,
   fun _ h => (Option.some_ne_none _ h.symm).elim⟩

theorem Operands.thermalWarnClear : Operands.Statement (.thermalWarnClear) :=
  ⟨fun _ h => (Option.some_ne_none _ h.symm).elim,
   fun _ h => (Option.some_ne_none _ h.symm).elim⟩

theorem Operands.flowRequestUpdate {x0} : Operands.Statement (.flowRequestUpdate x0) :=
  ⟨fun _ h => (Option.some_ne_none _ h.symm).elim,
   fun _ h => (Option.some_ne_none _ h.symm).elim⟩

theorem Operands.keepWarmEvaluate {x0 x1} : Operands.Statement (.keepWarmEvaluate x0 x1) :=
  ⟨fun _ h => (Option.some_ne_none _ h.symm).elim,
   fun _ h => (Option.some_ne_none _ h.symm).elim⟩

theorem Operands.keepWarmRead {x0} : Operands.Statement (.keepWarmRead x0) :=
  ⟨fun _ h => Option.some.inj h ▸ decide_eq_true_iff,
   fun _ h => (Option.some_ne_none _ h.symm).elim⟩

theorem Operands.keepWarmWrite {x0} : Operands.Statement (.keepWarmWrite x0) :=
  ⟨fun _ h => Option.some.inj h ▸ decide_eq_true_iff,
   fun _ h => (Option.some_ne_none _ h.symm).elim⟩

theorem Operands.monitorSample {x0 x1 x2} : Operands.Statement (.monitorSample x0 x1 x2) :=
  ⟨fun _ h => (Option.some_ne_none _ h.symm).elim,
   fun _ h => (Option.some_ne_none _ h.symm).elim⟩

theorem Operands.monitorConfigPreset {x0} : Operands.Statement (.monitorConfigPreset x0) :=
  ⟨fun _ h => Option.some.inj h ▸ decide_eq_true_iff,
   fun _ h => (Option.some_ne_none _ h.symm).elim⟩

theorem Operands.monitorConfigClear {x0} : Operands.Statement (.monitorConfigClear x0) :=
  ⟨fun _ h => Option.some.inj h ▸ decide_eq_true_iff,
   fun _ h => (Option.some_ne_none _ h.symm).elim⟩

theorem Operands.monitorConfigSet {x0} : Operands.Statement (.monitorConfigSet x0) :=
  ⟨fun _ h => Option.some.inj h ▸ decide_eq_true_iff,
   fun _ h => (Option.some_ne_none _ h.symm).elim⟩

theorem Operands.monitorRead {x0} : Operands.Statement (.monitorRead x0) :=
  ⟨fun _ h => Option.some.inj h ▸ decide_eq_true_iff,
   fun _ h => (Option.some_ne_none _ h.symm).elim⟩

theorem Operands.congestionIntervalEnd {x0} : Operands.Statement (.congestionIntervalEnd x0) :=
  ⟨fun _ h => (Option.some_ne_none _ h.symm).elim,
   fun _ h => (Option.some_ne_none _ h.symm).elim⟩

theorem Operands.congestionMapRead {x0} : Operands.Statement (.congestionMapRead x0) :=
  ⟨fun _ h => Option.some.inj h ▸ decide_eq_true_iff,
   fun _ h => (Option.some_ne_none _ h.symm).elim⟩

theorem Operands.testPhaseEmergency : Operands.Statement (.testPhaseEmergency) :=
  ⟨fun _ h => (Option.some_ne_none _ h.symm).elim,
   fun _ h => (Option.some_ne_none _ h.symm).elim⟩

theorem Operands.extest {x0} : Operands.Statement (.extest x0) :=
  ⟨fun _ h => (Option.some_ne_none _ h.symm).elim,
   fun _ h => (Option.some_ne_none _ h.symm).elim⟩

theorem Operands.samplePreload {x0} : Operands.Statement (.samplePreload x0) :=
  ⟨fun _ h => (Option.some_ne_none _ h.symm).elim,
   fun _ h => (Option.some_ne_none _ h.symm).elim⟩

theorem Operands.idcode : Operands.Statement (.idcode) :=
  ⟨fun _ h => (Option.some_ne_none _ h.symm).elim,
   fun _ h => (Option.some_ne_none _ h.symm).elim⟩

theorem Operands.dieSelect {x0} : Operands.Statement (.dieSelect x0) :=
  ⟨fun _ h => (Option.some_ne_none _ h.symm).elim,
   fun _ h => (Option.some_ne_none _ h.symm).elim⟩

theorem Operands.dieStandalone : Operands.Statement (.dieStandalone) :=
  ⟨fun _ h => (Option.some_ne_none _ h.symm).elim,
   fun _ h => (Option.some_ne_none _ h.symm).elim⟩

theorem Operands.loopback {x0} : Operands.Statement (.loopback x0) :=
  ⟨fun _ h => (Option.some_ne_none _ h.symm).elim,
   fun _ h => (Option.some_ne_none _ h.symm).elim⟩

theorem Operands.stackPower {x0 x1 x2} : Operands.Statement (.stackPower x0 x1 x2) :=
  ⟨fun _ h => (Option.some_ne_none _ h.symm).elim,
   fun _ h => (Option.some_ne_none _ h.symm).elim⟩

theorem Operands.flashAccess {x0 x1} : Operands.Statement (.flashAccess x0 x1) :=
  ⟨fun _ h => (Option.some_ne_none _ h.symm).elim,
   fun _ h => (Option.some_ne_none _ h.symm).elim⟩

theorem Operands.bypass {x0} : Operands.Statement (.bypass x0) :=
  ⟨fun _ h => (Option.some_ne_none _ h.symm).elim,
   fun _ h => (Option.some_ne_none _ h.symm).elim⟩

theorem Operands.entdaa {x0} : Operands.Statement (.entdaa x0) :=
  ⟨fun _ h => (Option.some_ne_none _ h.symm).elim,
   fun _ h => (Option.some_ne_none _ h.symm).elim⟩

theorem Operands.setdasa {x0 x1} : Operands.Statement (.setdasa x0 x1) :=
  ⟨fun _ h => (Option.some_ne_none _ h.symm).elim,
   fun _ h => (Option.some_ne_none _ h.symm).elim⟩

theorem Operands.rstdaa : Operands.Statement (.rstdaa) :=
  ⟨fun _ h => (Option.some_ne_none _ h.symm).elim,
   fun _ h => (Option.some_ne_none _ h.symm).elim⟩

theorem Operands.getpid : Operands.Statement (.getpid) :=
  ⟨fun _ h => (Option.some_ne_none _ h.symm).elim,
   fun _ h => (Option.some_ne_none _ h.symm).elim⟩

theorem Operands.getbcr : Operands.Statement (.getbcr) :=
  ⟨fun _ h => (Option.some_ne_none _ h.symm).elim,
   fun _ h => (Option.some_ne_none _ h.symm).elim⟩

theorem Operands.getdcr : Operands.Statement (.getdcr) :=
  ⟨fun _ h => (Option.some_ne_none _ h.symm).elim,
   fun _ h => (Option.some_ne_none _ h.symm).elim⟩

theorem Operands.getstatus : Operands.Statement (.getstatus) :=
  ⟨fun _ h => (Option.some_ne_none _ h.symm).elim,
   fun _ h => (Option.some_ne_none _ h.symm).elim⟩

theorem Operands.enec {x0} : Operands.Statement (.enec x0) :=
  ⟨fun _ h => (Option.some_ne_none _ h.symm).elim,
   fun _ h => (Option.some_ne_none _ h.symm).elim⟩

theorem Operands.disec {x0} : Operands.Statement (.disec x0) :=
  ⟨fun _ h => (Option.some_ne_none _ h.symm).elim,
   fun _ h => (Option.some_ne_none _ h.symm).elim⟩

theorem Operands.i3cPrivateWrite {x0} : Operands.Statement (.i3cPrivateWrite x0) :=
  ⟨fun _ h => (Option.some_ne_none _ h.symm).elim,
   fun _ h => (Option.some_ne_none _ h.symm).elim⟩

theorem Operands.i3cPrivateRead : Operands.Statement (.i3cPrivateRead) :=
  ⟨fun _ h => (Option.some_ne_none _ h.symm).elim,
   fun _ h => (Option.some_ne_none _ h.symm).elim⟩

theorem Operands.i3cHotJoin : Operands.Statement (.i3cHotJoin) :=
  ⟨fun _ h => (Option.some_ne_none _ h.symm).elim,
   fun _ h => (Option.some_ne_none _ h.symm).elim⟩

theorem Operands.i3cIbi : Operands.Statement (.i3cIbi) :=
  ⟨fun _ h => (Option.some_ne_none _ h.symm).elim,
   fun _ h => (Option.some_ne_none _ h.symm).elim⟩

theorem Operands.fabricDataFrame {x0 x1} : Operands.Statement (.fabricDataFrame x0 x1) :=
  ⟨fun _ h => (Option.some_ne_none _ h.symm).elim,
   fun _ h => (Option.some_ne_none _ h.symm).elim⟩

theorem Operands.fabricAckFrame {x0 x1} : Operands.Statement (.fabricAckFrame x0 x1) :=
  ⟨fun _ h => (Option.some_ne_none _ h.symm).elim,
   fun _ h => (Option.some_ne_none _ h.symm).elim⟩

theorem Operands.fabricAckTimer {x0} : Operands.Statement (.fabricAckTimer x0) :=
  ⟨fun _ h => (Option.some_ne_none _ h.symm).elim,
   fun _ h => (Option.some_ne_none _ h.symm).elim⟩

theorem Operands.fabricRetransmitTimer {x0} : Operands.Statement (.fabricRetransmitTimer x0) :=
  ⟨fun _ h => (Option.some_ne_none _ h.symm).elim,
   fun _ h => (Option.some_ne_none _ h.symm).elim⟩

theorem Operands.fabricRequestTimeout {x0} : Operands.Statement (.fabricRequestTimeout x0) :=
  ⟨fun _ h => (Option.some_ne_none _ h.symm).elim,
   fun _ h => (Option.some_ne_none _ h.symm).elim⟩

theorem Operands.portConfigEnable {x0} : Operands.Statement (.portConfigEnable x0) :=
  ⟨fun _ h => Option.some.inj h ▸ decide_eq_true_iff,
   fun _ h => (Option.some_ne_none _ h.symm).elim⟩

theorem Operands.portConfigDisable {x0} : Operands.Statement (.portConfigDisable x0) :=
  ⟨fun _ h => Option.some.inj h ▸ decide_eq_true_iff,
   fun _ h => (Option.some_ne_none _ h.symm).elim⟩

theorem Operands.portConfigDisableExpert {x0} : Operands.Statement (.portConfigDisableExpert x0) :=
  ⟨fun _ h => Option.some.inj h ▸ decide_eq_true_iff,
   fun _ h => (Option.some_ne_none _ h.symm).elim⟩

theorem Operands.portConfigRead {x0} : Operands.Statement (.portConfigRead x0) :=
  ⟨fun _ h => Option.some.inj h ▸ decide_eq_true_iff,
   fun _ h => (Option.some_ne_none _ h.symm).elim⟩

theorem Operands.portConfigSet {x0} : Operands.Statement (.portConfigSet x0) :=
  ⟨fun _ h => Option.some.inj h ▸ decide_eq_true_iff,
   fun _ h => (Option.some_ne_none _ h.symm).elim⟩

theorem Operands.portConfigEndpoint {x0} : Operands.Statement (.portConfigEndpoint x0) :=
  ⟨fun _ h => Option.some.inj h ▸ decide_eq_true_iff,
   fun _ h => (Option.some_ne_none _ h.symm).elim⟩

theorem Operands.portDisableDrainExpiry {x0} : Operands.Statement (.portDisableDrainExpiry x0) :=
  ⟨fun _ h => (Option.some_ne_none _ h.symm).elim,
   fun _ h => (Option.some_ne_none _ h.symm).elim⟩

theorem Operands.edgePortDieFault {x0} : Operands.Statement (.edgePortDieFault x0) :=
  ⟨fun _ h => (Option.some_ne_none _ h.symm).elim,
   fun _ h => (Option.some_ne_none _ h.symm).elim⟩

theorem Operands.routeUpdatePortset {x0} : Operands.Statement (.routeUpdatePortset x0) :=
  ⟨fun _ h => Option.some.inj h ▸ decide_eq_true_iff,
   fun _ h => (Option.some_ne_none _ h.symm).elim⟩

theorem Operands.routeUpdatePanelRoute {x0} : Operands.Statement (.routeUpdatePanelRoute x0) :=
  ⟨fun _ h => Option.some.inj h ▸ decide_eq_true_iff,
   fun _ h => (Option.some_ne_none _ h.symm).elim⟩

theorem Operands.routeUpdateShares {x0} : Operands.Statement (.routeUpdateShares x0) :=
  ⟨fun _ h => Option.some.inj h ▸ decide_eq_true_iff,
   fun _ h => (Option.some_ne_none _ h.symm).elim⟩

theorem Operands.pwrGoodRise : Operands.Statement (.pwrGoodRise) :=
  ⟨fun _ h => (Option.some_ne_none _ h.symm).elim,
   fun _ h => (Option.some_ne_none _ h.symm).elim⟩

theorem Operands.pfwNDeassert : Operands.Statement (.pfwNDeassert) :=
  ⟨fun _ h => (Option.some_ne_none _ h.symm).elim,
   fun _ h => (Option.some_ne_none _ h.symm).elim⟩

theorem Operands.portTrainingDone {x0 x1} : Operands.Statement (.portTrainingDone x0 x1) :=
  ⟨fun _ h => (Option.some_ne_none _ h.symm).elim,
   fun _ h => (Option.some_ne_none _ h.symm).elim⟩

theorem Operands.portLinkDown {x0} : Operands.Statement (.portLinkDown x0) :=
  ⟨fun _ h => (Option.some_ne_none _ h.symm).elim,
   fun _ h => (Option.some_ne_none _ h.symm).elim⟩

theorem Operands.flowEpochAdvance {x0} : Operands.Statement (.flowEpochAdvance x0) :=
  ⟨fun _ h => (Option.some_ne_none _ h.symm).elim,
   fun _ h => (Option.some_ne_none _ h.symm).elim⟩

theorem Operands.tapTestLogicReset : Operands.Statement (.tapTestLogicReset) :=
  ⟨fun _ h => (Option.some_ne_none _ h.symm).elim,
   fun _ h => (Option.some_ne_none _ h.symm).elim⟩

end Sys2Proof.Laws
end

