-- ==== Sys2Proof/Tests/Slice0.lean ====
section
/-! SUPPORT. Tests: the spec's worked examples and tables, an ill-formed command for each check, and for each statement a
state and operands that meet its premises. -/

namespace Sys2Proof.Tests

open Sys2Proof.Machine

-- one theorem at a time: a thread for each closed evaluation would pass the memory limit
set_option Elab.async false

/-! ## Small states -/

/-- A compact panel in RUN with its partition in service and its host die up. -/
def panel : State :=
  { State.reset with
    rstN := true, sealed := true, hostsReleased := true, catReady := true, catVersion := 1, charter := compactCharter,
    straps := { State.reset.straps with compact := true },
    start := { State.reset.start with stage := .released },
    service := { State.reset.service with ph := 2 },
    hosts := [(0, { HostDie.init with released := true, linkUp := true })],
    parts := [(0, { Part.init with state := .inService })],
    pstates := [(0, .inService), (1, .inService)],
    cat := [(0, ⟨true, false, 0⟩), (1, ⟨true, false, 1⟩)],
    curators := [(0, ⟨.posting, 0⟩)],
    tiles := [(0, { TileNet.init with rte := [(0, ⟨true, false, 0, 0⟩)] })],
    devices := [(0, { Device.init with state := .inUse })] }

/-- The same with another core 0. -/
def withCore (c : Core) : State := { panel with cores := [(0, c)] }

/-- A RUN of rank 0. -/
def run0 : RunStart :=
  { cmd := 0, queue := 0, part := 0, slot := 0, rank := 0, seed := 0, step := none, logRow := 0, logN := 0, logAll := false,
    waitUs := 1, control := false, fastOk := true }

/-- Core 0 in a RUN, its memories inside their bounds. -/
def core0 : Core :=
  { Core.init with
    seq := .running, run := some run0, flags := 1, bbW := ⟨0, 2097152⟩, bbA := ⟨0, 3145728⟩, bbP := ⟨0, 1048576⟩ }

/-- A descriptor of opcode `op` with the fields (low bit, value). -/
def desc (op : Nat) (fields : List (Nat × Nat)) : Desc :=
  BitVec.ofNat 512 (fields.foldl (fun n f => n + f.2 * 2 ^ f.1) op)

/-- Base/bound references to word 0 of W, A and P. -/
def refW : Nat := 2 ^ 31
def refA : Nat := 2 ^ 31 + 2 ^ 29
def refP : Nat := 2 ^ 31 + 2 ^ 30

/-- Core 0 with descriptor d, index 1 of its list, next to issue. -/
def issuing (d : Desc) : State :=
  { withCore { core0 with nextIndex := 1, fetchBuf := [⟨1, d, none⟩] } with
    parts := [(0, { Part.init with state := .inService, rmaps := [(0, [⟨0, 0, 0, 2, 0, 0, 2⟩])] })],
    groups := [(0, { slot := 0, first := 0, members := [0, 1], rootTile := 0, expertRoot := false, arrive := [false, false],
                     release := [false, false], phase := false, seqs := [0, 0], closing := none, inFlight := [] })],
    wins := [(0, { Windows.init with slots := [(0, { Win.init with isOpen := true })] })],
    fabric := { State.reset.fabric with endpoints := [(1, BitVec.ofNat 512 (2 ^ 200 + 4096 * 2 ^ 224))] } }

/-- One descriptor of each opcode, with the fields that its opcode uses. -/
def sample (op : Nat) : Desc :=
  let matrix (k : Nat) : List (Nat × Nat) :=
    [(64, refW), (96, refW + 16), (128, refA), (224, 1), (240, 1), (256, k), (320, 1), (384, 11), (392, 11), (400, 11)]
  let rows : List (Nat × Nat) := [(64, refW), (96, refA), (192, 1), (224, 1), (320, 11), (328, 11)]
  let gather (t f : Nat) : List (Nat × Nat) :=
    [(64, t), (96, refW), (160, refA), (192, 1), (224, 1), (256, 1), (352, f), (360, f)]
  let stream : List (Nat × Nat) := [(14, 2), (128, refA), (192, 1), (224, 64)]
  let coll : List (Nat × Nat) := [(14, 2), (96, refW), (128, refA), (160, 1), (224, 11), (232, 11)]
  desc op (
    if op ≤ 0x12 then matrix 1 else if op ≤ 0x15 then (416, refP) :: matrix 1
    else if op ≤ 0x17 then (416, refP) :: (480, 2) :: matrix 2
    else if op = 0x20 then [(64, refW), (192, refA), (224, refW + 256), (256, 1), (320, 11), (352, 11), (372, 1)]
    else if op ≤ 0x25 then rows
    else if op = 0x31 then (384, 1) :: (128, refW + 64) :: gather (refW + 128) 11
    else if op = 0x33 then gather refP 14
    else if op = 0x30 then gather (refW + 128) 11
    else if op = 0x32 then [(64, refA), (96, refW), (160, refW + 64), (192, 1), (224, 1), (256, 1), (352, 11), (360, 11)]
    else if op = 0x40 then [(128, refA), (160, refW), (192, 1), (224, 4)]
    else if op ≤ 0x42 then stream else if op ≤ 0x44 then (320, 1) :: stream
    else if op ≤ 0x51 then [(14, 2), (96, refW), (128, 4)] else if op = 0x52 then [(14, 2), (96, refW), (128, 4), (232, 1)]
    else if op = 0x53 then [(192, 1)]
    else if op ≤ 0x61 then coll else if op = 0x62 then [(14, 2), (96, refW), (160, 4)] else if op = 0x63 then []
    else if op = 0x70 then [(8, 1), (16, 1)] else if op = 0x71 then [(9, 1), (32, 1)] else if op = 0x72 then [(160, 1)]
    else if op ≤ 0x73 then [(96, 1)] else if op = 0x74 then [(96, 1)] else if op = 0x75 then []
    else if op ≤ 0x81 then [(64, 1)] else if op = 0x82 then [(64, 1), (128, refA)]
    else if op = 0x90 then [(80, 1), (88, 11), (128, 16)] else if op = 0x92 then [(128, 16)] else [])

/-! ## Premises as one value -/

/-- The premises of Begins. -/
def begins (s : State) (q : Nat) (c : Cmd) (mine : Cmd → Bool) : Bool :=
  decide (nextStart s q = some c) && mine c && c.comp && !c.retried && decide (c.wait = .none) && quiet s &&
    decide ((s.cmds.map (·.uid)).Pairwise (· < ·)) && s.cmds.all fun c => decide (c.uid < s.nextCmd)

theorem begins_of {s : State} {q : Nat} {c : Cmd} {mine : Cmd → Bool} (h : begins s q c mine = true) :
    Begins s q c mine := by
  simp only [begins, Bool.and_eq_true, Bool.not_eq_true', decide_eq_true_eq, List.all_eq_true] at h
  obtain ⟨⟨⟨⟨⟨⟨⟨a, b⟩, c⟩, d⟩, w⟩, e⟩, f⟩, g⟩ := h
  exact ⟨a, b, c, d, w, e, f, g⟩

/-- The premises of Ready. -/
def ready (s : State) (p op : Nat) (isRoot : Core → Desc → Bool) (more : Core → Desc → Option Status) (f : Fetched) : Bool :=
  let r := resolveAll (coreAt s p) f.desc (isRoot (coreAt s p) f.desc)
  decide (headOf (coreAt s p) = some f) && decide (dOpcode f.desc = op) && canIssue (coreAt s p) f && r.isSome &&
    (issueChecks (coreAt s p) f.desc r).isNone && (more (coreAt s p) f.desc).isNone

theorem ready_of {s : State} {p op : Nat} {isRoot : Core → Desc → Bool} {more : Core → Desc → Option Status} {f : Fetched}
    (h : ready s p op isRoot more f = true) : ∃ x, Ready s p op isRoot more f x := by
  simp only [ready, Bool.and_eq_true, decide_eq_true_eq, Option.isNone_iff_eq_none] at h
  obtain ⟨⟨⟨⟨⟨a, b⟩, c⟩, d⟩, e⟩, f⟩ := h
  obtain ⟨x, hx⟩ := Option.isSome_iff_exists.mp d
  rw [hx] at e
  exact ⟨x, a, b, c, hx, e, f⟩

/-- Empty slices are in order. -/
theorem slicesOk_of {s : State} (h : s.slices = []) : slicesOk s := by
  intro k
  rw [h]
  exact ⟨List.nodup_nil, fun _ h => nomatch h⟩

/-- A property of a table's entries and of its default holds of what is read from it. -/
theorem tblGet_of {α : Type} (P : α → Prop) {d : α} (h0 : P d) : ∀ {l : Tbl α}, (∀ e ∈ l, P e.2) → ∀ k, P (tblGet d l k)
  | [], _, _ => h0
  | e :: l, h, k => by
    unfold tblGet
    split
    · exact h e (List.mem_cons_self ..)
    · exact tblGet_of P h0 (fun x hx => h x (List.mem_cons_of_mem _ hx)) k

/-- No device is lost or poisoned. -/
def soundDevices (s : State) : Bool :=
  s.devices.all fun e => e.2.poison.isNone && decide (e.2.state ≠ .failed) && !e.2.down

theorem noBad_of {s : State} (h : s.bad = []) (hd : soundDevices s = true) : NoBad s := by
  have all (k : Nat) : (deviceAt s k).poison = none ∧ (deviceAt s k).state ≠ .failed ∧ (deviceAt s k).down = false := by
    refine tblGet_of (fun x : Device => x.poison = none ∧ x.state ≠ .failed ∧ x.down = false) ⟨rfl, by decide, rfl⟩
      (fun e he => ?_) k
    have := List.all_eq_true.1 hd e he
    simp only [Bool.and_eq_true, Option.isNone_iff_eq_none, decide_eq_true_eq, Bool.not_eq_true'] at this
    exact ⟨this.1.1, this.1.2, this.2⟩
  refine ⟨h, fun d => ⟨(all d).1, ?_⟩⟩
  have := all (servingDevice s d)
  simp [deviceDead, this.2.1, this.2.2]

/-! ## Witnesses: what statements take as given can be met -/

/-- Every opcode's sample passes the checks of a list load. -/
theorem test_samples_load : ([0x10, 0x11, 0x12, 0x13, 0x14, 0x15, 0x16, 0x17, 0x20, 0x21, 0x22, 0x23, 0x24, 0x25, 0x30, 0x31,
    0x32, 0x33, 0x40, 0x41, 0x42, 0x43, 0x44, 0x50, 0x51, 0x52, 0x53, 0x60, 0x61, 0x62, 0x63, 0x70, 0x71, 0x72, 0x73, 0x74,
    0x75, 0x80, 0x81, 0x82, 0x90, 0x91, 0x92] : List Nat).all (fun op => loadCheck false 1 3 (sample op) == none) = true := by
  decide +kernel

/-- The premises of Ready for the sample of an opcode. -/
def readyRow (op : Nat) (isRoot : Core → Desc → Bool) (more : State → Core → Desc → Option Status) : Bool :=
  ready (issuing (sample op)) 0 op isRoot (more (issuing (sample op))) ⟨1, sample op, none⟩

theorem witness_IssueRecordsTheStart :
    (∀ op ∈ [0x10, 0x11, 0x12, 0x13, 0x14, 0x15, 0x16, 0x17, 0x20, 0x21, 0x22, 0x23, 0x24, 0x25, 0x30, 0x31, 0x32, 0x33,
      0x40, 0x71, 0x72, 0x73, 0x74, 0x75, 0x80, 0x81, 0x82, 0x90, 0x91, 0x92], readyRow op noRoot (fun _ => noMore) = true) ∧
    (∀ op ∈ [0x41, 0x42], readyRow op noRoot (fun s => grantCheck s 0) = true) ∧
    (∀ op ∈ [0x43, 0x44], readyRow op noRoot (fun s => endpointCheck s 0) = true) ∧
    (∀ op ∈ [0x50, 0x51, 0x52], readyRow op noRoot (fun s => rankCheck s 0) = true) ∧
    readyRow 0x53 noRoot (fun s => slotCheck s 0) = true ∧
    (∀ op ∈ [0x60, 0x61, 0x62], readyRow op isRootRank (fun s => collCheck s 0) = true) ∧
    readyRow 0x63 noRoot (fun s => collCheck s 0) = true := by
  decide +kernel

/-- Readiness of a sample whose opcode has no checks of its own. -/
theorem sample_ready {op : Nat} (h : readyRow op noRoot (fun _ => noMore) = true) :
    ∃ x, Ready (issuing (sample op)) 0 op noRoot noMore ⟨1, sample op, none⟩ x := ready_of h

theorem witness_MatrixIssueMakesItsWorkItems :
    ∃ x, Ready (issuing (sample 0x16)) 0 0x16 noRoot noMore ⟨1, sample 0x16, none⟩ x := sample_ready (by decide +kernel)

/-- A core whose handle 0 is bound. -/
def boundCore (d : Desc) (scale : Option Nat) : Core :=
  { core0 with nextIndex := 1, fetchBuf := [⟨1, d, none⟩], handles := [(0, ⟨0, .A, 11, none, 0, 16⟩), (1, ⟨1, .A, 1, scale, 16, 16⟩)] }

theorem witness_ControlAndHandleFamiliesEndAtIssue :
    (∀ op ∈ [0x71, 0x72, 0x73, 0x74, 0x75, 0x92, 0x90, 0x91], readyRow op noRoot (fun _ => noMore) = true) ∧
    bindBad (coreAt (issuing (sample 0x90)) 0) (bindHandle (sample 0x90)) = false ∧
    (let s := withCore (boundCore (sample 0x91) none)
     ready s 0 0x91 noRoot noMore ⟨1, sample 0x91, none⟩ = true ∧
     (handleOf (coreAt s 0) (fld (sample 0x91) 73 64)).isSome = true ∧
     (∀ e ∈ (coreAt s 0).handles, e.2.scale ≠ some (fld (sample 0x91) 73 64)) ∧
     inWindow s 0 (fld (sample 0x91) 73 64) = false) := by decide +kernel

/-- A task in the window, of opcode `op`. -/
def task0 (op : Nat) : Task := { newTask core0 ⟨1, sample op, none⟩ 0 with id := 7, index := 1 }

/-- The task with its work done. -/
def done0 (op : Nat) : Task := { task0 op with finished := true }

/-- Core 0 with one task. -/
def withTask (u : Task) : State := withCore { core0 with window := [u], nextId := 8, nextIndex := 2 }

theorem witness_FlagsAreConsumedAndSet :
    readyRow 0x70 noRoot (fun _ => noMore) = true ∧
    (∀ op ∈ [0x71, 0x72], taskOf (coreAt (withTask (done0 op)) 0) 7 = some (done0 op) ∧
      committing (coreAt (withTask (done0 op)) 0) = true ∧ canCommit (coreAt (withTask (done0 op)) 0) (done0 op) = true ∧
      isCheck (done0 op) = false) := by decide +kernel

/-- A list of three ENDs in LPDDR5X at 0, in slot 0. -/
def listed (c : Core) (streamed : Bool) : State :=
  { withCore { c with slots := [(0, ⟨streamed, 0, 0, 3, false⟩)], a := memWrite [] 0 ((List.range 3).flatMap fun _ => leBytes 64 0x75) } with
    mem := memWrite [] 0 ((List.range 3).flatMap fun _ => leBytes 64 0x75) }

/-- The answer to a fetch of descriptor 0 has come to core 0's NI. -/
def answered (s : State) : State :=
  { s with
    reqs := [{ id := 6, who := .fetch 0, packets := [], frames := [], attempts := 1 }],
    packets := [{ id := 4, pgen := 0, part := 0, vc := 1, kind := 2, flits := 2, lastw := 0, tag := 0, route := 0, urg := false,
                  bset := false, dunit := 0, dst := 0, src := 1, sunit := 2, stamp := 0, place := .core 0 0 0, prev := none,
                  sent := 0, held := false, ejected := true, delivered := true, lastHop := 0, again := false,
                  body := .rdData (.fetch 0) 0 (leBytes 64 0x75) }] }

theorem witness_TheSequencerFetchesStartsAndStops :
    (let s := listed { core0 with bufSlot := some 0 } false
     let c := coreAt s 0
     let b := fitBuffer c
     c.seq = .running ∧ runSlot c = some ⟨false, 0, 0, 3, false⟩ ∧ b.fetchBuf.length < 64 ∧ fetchNext b < 3 ∧
     readDesc s c ⟨false, 0, 0, 3, false⟩ (fetchNext b) = some 0x75) ∧
    (let s := listed { core0 with bufSlot := some 0 } true
     let c := coreAt s 0
     let b := fitBuffer c
     c.seq = .running ∧ runSlot c = some ⟨true, 0, 0, 3, false⟩ ∧ b.fetchBuf.length < 64 ∧ fetchNext b < 3 ∧
     bufferFits c = true ∧ headOf c = none ∧ fetchArrived s 0 = none ∧ s.reqs.any (·.isOf (.fetch 0)) = false ∧
     (homeOf s (0 + 64 * fetchNext b)).any (fun h => !(tpwrAt s h.tile).dark && routeValid s (tileOf 0) h.tile) = true ∧
     fetchArrived (answered s) 0 = some (4, 0 + 64 * fetchNext b, leBytes 64 0x75) ∧
     (answered s).reqs.any (·.isOf (.fetch 0)) = true) ∧
    (let c : Core := { core0 with fetchBuf := [⟨0, 0, some .badOpcode⟩] }
     c.seq = .running ∧ headOf c = some ⟨0, 0, some .badOpcode⟩ ∧ Status.good .badOpcode = false) ∧
    (let c : Core := { Core.init with seq := .idle, pendingStart := some run0 }
     c.seq = .idle ∧ c.pendingStart = some run0 ∧ c.marks = []) ∧
    (let c : Core := { core0 with abortReq := some 0 }
     c.run = some run0 ∧ c.abortReq = some run0.cmd ∧ c.seq ≠ .faulted) ∧
    (let c : Core := { Core.init with seq := .idle, marks := [⟨0, none⟩, ⟨1, some 7⟩] }
     c.seq = .idle ∧ c.marks = ⟨0, none⟩ :: [⟨1, some 7⟩]) := by decide +kernel

/-- A core whose engine 0 works on the only item of task 7. -/
def engineCore (held : Bool) : Core :=
  { core0 with window := [task0 0x10], nextId := 8,
               engines := { Engine.init with work := some ⟨7, .tile 0, 1⟩, held := held } :: List.replicate 7 Engine.init }

theorem witness_EnginesTakeAndGiveBackWork :
    (let c : Core := { core0 with window := [{ task0 0x10 with undispatched := [.tile 0] }] }
     committing c = true ∧ freeEngine c = some 0 ∧ nextWork c = some (7, .tile 0, false)) ∧
    (let c := engineCore true
     c.engines[0]? = some { Engine.init with work := some ⟨7, .tile 0, 1⟩, held := true } ∧ c.failing = [] ∧
     (taskOf c 7).isSome = true ∧ (∃ i < 8, i ≠ 0 ∧ c.engines[i]?.any (·.online) = true)) := by decide +kernel

theorem witness_TasksRetryAndTimeOut :
    (let u := task0 0x20
     taskOf (coreAt (withTask u) 0) 7 = some u ∧ opMatrix u.opcode = false ∧ u.status.good = true ∧ unfed u = true ∧
     u.refault = false) ∧
    (let u := { task0 0x51 with further := true }
     taskOf (coreAt (withTask u) 0) 7 = some u ∧ waitsNow (withTask u) 0 u = true ∧ u.further = true) ∧
    (let f : Fetched := ⟨0, desc 0x75 [(16, 2)], none⟩
     let c : Core := { core0 with fetchBuf := [f], headFurther := true }
     headOf c = some f ∧ c.seq = .running ∧ f.refused = none ∧ canIssue c f = false ∧ c.headFurther = true ∧
     dWaitset f.desc &&& c.flags ≠ dWaitset f.desc) := by decide +kernel

/-- A delivered packet for core 0 of tile 0. -/
def packet0 (body : Body) : Packet :=
  { id := 4, pgen := 0, part := 0, vc := 1, kind := 1, flits := 1, lastw := 0, tag := 0, route := 0, urg := false, bset := false,
    dunit := 0, dst := 0, src := 1, sunit := 0, stamp := 0, place := .core 0 0 0, prev := none, sent := 0, held := false,
    ejected := true, delivered := true, lastHop := 0, again := false, body := body }

/-- The packet beside core 0. -/
def arriving (c : Core) (body : Body) : State := { withCore c with packets := [packet0 body] }

theorem witness_MessagesReachTheirTasks :
    (let s := arriving core0 (.announce (1, 0) 1 0 4 0)
     arrived s 4 = some (packet0 (.announce (1, 0) 1 0 4 0)) ∧
     ((coreAt s 0).window.find? fun u => matches_ u ⟨(1, 0), 1, 0, 4, false, 0⟩) = none ∧ (coreAt s 0).announces.length < 64) ∧
    (let u := { task0 0x51 with desc := desc 0x51 [(64, 1), (128, 4)] }
     let s := arriving { core0 with window := [u] } (.announce (1, 0) 1 0 4 0)
     (arrived s 4).isSome = true ∧
     ((coreAt s 0).window.find? fun u => matches_ u ⟨(1, 0), 1, 0, 4, false, 0⟩) = some u) ∧
    (let u := { task0 0x51 with peer := some (1, 9) }
     let s := arriving { core0 with window := [u] } (.data (0, 7) (1, 9) 0 [1, 2, 3, 4] true)
     (arrived s 4).isSome = true ∧ taskOf (coreAt s 0) 7 = some u ∧ u.opcode = 0x51 ∧ u.finished = false ∧
     u.peer = some (1, 9) ∧ 0 ≤ u.progress) ∧
    (let u := task0 0x50
     ∀ b ∈ [Body.pull (1, 3) (0, 7) 4, .done (0, 7) .truncated, Body.nack (.task 0 7) .partitionReset],
       let s := arriving { core0 with window := [u] } b
       (arrived s 4).isSome = true ∧ taskOf (coreAt s 0) 7 = some u ∧ u ∈ (coreAt s 0).window ∧ u.opcode = 0x50 ∧
       u.finished = false) ∧
    (let s := answered (arriving core0 (.nack (.fetch 0) .dieLost))
     s.reqs.any (·.isOf (.fetch 0)) = true ∧ (coreAt s 0).seq = .running ∧
     (arrived (arriving core0 (.nack (.fetch 0) .dieLost)) 4).isSome = true) ∧
    (let s := { arriving core0 (.nack (.aperture 0 2 1 false) .dieLost) with
       reqs := [{ id := 6, who := .aperture 0 2 1 false, packets := [], frames := [], attempts := 1 }] }
     (arrived s 4).isSome = true ∧ s.reqs.any (·.isOf (.aperture 0 2 1 false)) = true) := by decide +kernel

/-- Window slot 0 of logical core 0 on its handle 0, with the given transfers. -/
def window0 (w : Win) (body : Body) (l : List Transfer) : State :=
  { arriving { core0 with window := [{ task0 0x52 with pendingStatus := some .noResource }],
                          handles := [(0, ⟨0, .A, 11, none, 0, 16⟩)] } body with
    parts := [(0, { Part.init with state := .inService, rmaps := [(0, [⟨0, 0, 0, 2, 0, 0, 2⟩])] })],
    wins := [(0, { Windows.init with slots := [(0, w)], transfers := l })] }

/-- The first packet of a transfer of four bytes into it. -/
def put0 : Body := .putData (1, 9) 0 0 1 0 4 1 true false [1, 2]

def transfer0 : Transfer := 
  { tag := 6, urg := false, slot := 0, sender := (1, 9), srank := 1, base := 0, total := 4, written := 2, lastSeen := 0 }

theorem witness_WindowTransfersAreAdmittedAndEnd :
    (let s := window0 { Win.init with isOpen := true } put0 []
     (arrived s 4).isSome = true ∧ (winAt s 0 0).gen = 1 ∧ (winAt s 0 0).isOpen = true ∧ (winAt s 0 0).closing = false ∧
     winRegion s 0 0 = some (0, .A, 0, 64) ∧ (winsAt s 0).transfers.length < 64 ∧ (winsAt s 0).transfers = [] ∧
     (winsAt s 0).served = []) ∧
    (let s := window0 Win.init (.putAck (0, 7) .ok 0) []
     let u := { task0 0x52 with pendingStatus := some .noResource }
     (arrived s 4).isSome = true ∧ taskOf (coreAt s 0) 7 = some u ∧ u.opcode = 0x52 ∧ u.finished = false ∧
     (coreAt s 0).failing = [] ∧ 0 < pBytes u.desc ∧
     ((rankPlace s 0 (coreAt s 0) (pRank u.desc)).bind (placeCoreOf s)).any (reachable s 0) = true) ∧
    ((winsAt (window0 Win.init put0 [transfer0]) 0).transfers.find?
      (fun y => y.sender.1 == 1 && y.tag == 6)) = some transfer0 ∧
    (winAt (window0 { Win.init with held := true } put0 []) 0 0).held = true ∧
    (let s := window0 { Win.init with closing := true, closer := some 5 } put0 [transfer0]
     (winAt s 0 0).closing = true ∧ (winAt s 0 0).closer.isSome = true ∧ slotTransfers s 0 0 ≠ []) := by decide +kernel

/-- A value that a collective carries. -/
def red0 : RedVal := { vals := [1], aflags := 0, sig := 0 }

/-- A reduction packet of group 0 for core 0, whose task is `op`. -/
def reducing (op : Nat) (b : Body) : State :=
  { issuing (sample op) with
    cores := [(0, { core0 with window := [task0 op] })], packets := [packet0 b] }

theorem witness_CollectivesMoveOn :
    (let s := reducing 0x61 (.redPart 0 0 1 0 0 true red0 false)
     (arrived s 4).isSome = true ∧ 1 < fastTile 0 ∧ (groupAt s 0).isSome = true ∧ redOf s 0 0 1 0 = none ∧
     otherMode s 0 0 red0 = false ∧ nodeFull s 0 0 1 0 = false) ∧
    (let s := reducing 0x61 (.redPart 0 0 (fastTile 0) 0 0 true red0 false)
     (arrived s 4).isSome = true ∧ redOf s 0 0 (fastTile 0) 0 = none ∧ otherMode s 0 0 red0 = false ∧
     (groupAt s 0).any (fun g => fastWanted s g (fastTile 0) == 2)) ∧
    (let s := reducing 0x61 (.redResult 0 0 0 0 0 red0 false false)
     (arrived s 4).isSome = true ∧ task0 0x61 ∈ (coreAt s 0).window ∧ kGroup (task0 0x61).desc = 0 ∧ (task0 0x61).collSeq = 0 ∧
     (task0 0x61).finished = false ∧
     ((coreAt s 0).window.filter fun x => decide (0x60 ≤ x.opcode ∧ x.opcode ≤ 0x62)) = [task0 0x61]) ∧
    (∀ n ∈ [1, fastRoot],
     let s := { reducing 0x61 (.redResult 0 0 n 0 0 red0 false false) with nextId := 5 }
     (arrived s 4).any (fun k => decide (k.id < s.nextId)) = true ∧
     (groupAt s 0).any (fun g => if n = 1 then (nodeKids s g n).contains (.member 1) && physOf s (g.members.getD 1 0) == some 1 &&
         routeValid s 0 (tileOf 1)
       else (nodeKids s g n).contains (.node (fastTile 0)) && routeValid s 0 (nodePlace s g (fastTile 0) 0).1) = true) ∧
    (let s := reducing 0x63 (.redPart 0 0 1 0 0 true red0 false)
     s.syncErr = [] ∧ (groupAt s (groupKey (corePart s 0) 0)).any (fun g => memberIndex s g 0 == some 0 && !groupFenced s g &&
       combined ((List.range g.members.length).map fun i => g.arrive.getD i false) g.phase == g.arrive.getD 0 false)) ∧
    (let s := issuing (sample 0x63)
     readyRow 0x63 noRoot (fun s => collCheck s 0) = true ∧ s.syncErr = [] ∧
     (memberOf s 0 (coreAt s 0) (sample 0x63)).any (fun x => !groupFenced s x.2.1) = true) := by
  decide +kernel

theorem witness_ScratchpadEventsCountAndRepair :
    (powered panel 0 = true ∧ 2097151 < MemKind.words .W ∧ (MemKind.W, 2097151) ∉ (coreAt panel 0).failing ∧
     panel.service.ph = 2 ∧ 95 < banksOf .A) ∧
    (let u := { task0 0x40 with desc := desc 0x40 [(128, refA), (160, refW), (192, 1), (224, 16)], locs := [⟨.A, 0⟩, ⟨.W, 0⟩] }
     let s := withTask u
     powered s 0 = true ∧ taskOf (coreAt s 0) 7 = some u ∧ needsWord s 0 u .W 3 = true) ∧
    ([(⟨.aperture, none, true, .A, 0, [], 1⟩ : CoBuf)].find? (fun x => x.write == true)).isSome = true := by decide +kernel

/-- The premises of Deliverable. -/
def deliverable (s : State) (id : Nat) (k : Packet) : Bool :=
  decide (inNetwork s id = some k) && k.ejected && !behind s k && !tooOld s k && !badHeader k &&
    decide (k.pgen = (partAt s k.part).pgen) && !refusedByReset s k &&
    decide (k.dunit = 0 → dieFenced s k.tile (k.dst / 32 % 16) = false ∧ coreOn s (dstCore k) = true)

theorem deliverable_of {s : State} {id : Nat} {k : Packet} (h : deliverable s id k = true) : Deliverable s id k := by
  simp only [deliverable, Bool.and_eq_true, Bool.not_eq_true', decide_eq_true_eq] at h
  obtain ⟨⟨⟨⟨⟨⟨⟨a, b⟩, c⟩, d⟩, e⟩, f⟩, g⟩, i⟩ := h
  exact ⟨a, b, c, d, e, f, g, i⟩

/-- A packet at core 0's unit that no command has taken. -/
def atUnit (b : Body) : Packet := { packet0 b with delivered := false }

theorem witness_ApertureReadsAndWrites :
    (hostOn panel 0 = true ∧ apTarget panel 0 (apBase + 0x800000) 32 false = some (0, .mem .A 0) ∧
     apTarget panel 0 (apBase + 0x800000) 32 true = some (0, .mem .A 0) ∧ apWritable (.mem .A 0) = true ∧
     routeValid panel (hostTile 0) (tileOf 0) = true ∧ apTarget panel 0 1 4 false = none ∧ apTarget panel 0 1 4 true = none) ∧
    (∀ b ∈ [Body.aptReq (.aperture 0 2 1 false) 0x800000 32 none, .aptReq (.aperture 0 2 1 false) 0x1801024 4 none,
        .aptReq (.aperture 0 2 1 true) 0x800000 32 (some 5), .aptReq (.aperture 0 2 1 true) 0x1801024 4 (some 3),
        .aptData (.aperture 0 2 1 false) (some 5)],
      let s := { panel with packets := [atUnit b], nextId := 5,
                            reqs := [{ id := 6, who := .aperture 0 2 1 false, packets := [], frames := [], attempts := 1 }] }
      deliverable s 4 (atUnit b) = true ∧ (atUnit b).id < s.nextId ∧ (coreAt s (dstCore (atUnit b))).failing = [] ∧
      bufOf (coreAt s 0) true .A 0 = none ∧ (coreAt s 0).bufs = [] ∧
      routeValid s ((atUnit b).dst / 512) ((atUnit b).src / 512) = true ∧
      s.reqs.any (·.isOf (.aperture 0 2 1 false)) = true) ∧
    apPlace 0x800000 32 = some (.mem .A 0) ∧ apPlace 0x1801024 4 = some (.regs 36) := by decide +kernel

/-- A command that asks for a record, next of queue 3 of host die 0, with the fields (low bit, value) of its packet. -/
def command0 (fn : Nat) (expert : Bool) (fields : List (Nat × Nat)) : Cmd :=
  { uid := 5, queue := 3, host := 0, fn := fn, expert := expert, tag := 9, comp := true, doorbell := false,
    fenceBefore := false, fenceAfter := false, pkt := BitVec.ofNat 1024 (fields.foldl (fun n f => n + f.2 * 2 ^ f.1) 0),
    started := false, admitted := true, retried := false, wait := .none, rungAt := 0 }

/-- The command in its queue, an admin queue. -/
def commanded (s : State) (c : Cmd) : State :=
  { s with cmds := [c], nextCmd := 6,
           queues := [(3, { Queue.init with state := .enabled, admin := true, control := true, sqLog := 8, cqLog := 8 })] }

/-- The job's map and a bound handle on core 0. -/
def mapped : State :=
  { withCore { core0 with handles := [(0, ⟨0, .A, 11, none, 0, 16⟩)] } with
    parts := [(0, { Part.init with state := .inService, rmaps := [(0, [⟨0, 0, 0, 2, 0, 0, 2⟩])] })] }

/-- The same with window slot 0 of logical core 0. -/
def windowed (w : Win) (l : List Transfer) : State :=
  { mapped with wins := [(0, { Windows.init with slots := [(0, w)], transfers := l })] }

/-- A group of both ranks. -/
def group0 : Group :=
  { slot := 0, first := 0, members := [0, 1], rootTile := 0, expertRoot := false, arrive := [false, false],
    release := [false, false], phase := false, seqs := [0, 0], closing := none, inFlight := [] }

theorem witness_WindowsAndGroupsAreMadeAndEnded :
    (let c := command0 0x0202 false []
     let s := commanded (windowed Win.init []) c
     begins s 3 c (isFnAny 0x0202) = true ∧ wLcore c < 3072 ∧ (winAt s 0 0).isOpen = false ∧ (winAt s 0 0).closing = false ∧
     boundOn s (wLcore c) (wHandle c) = true) ∧
    (∀ e ∈ [false, true], ∀ l ∈ [[], [transfer0]],
      let c := command0 0x0203 e [(108, 1)]
      let s := commanded (windowed { Win.init with isOpen := true } l) c
      begins s 3 c (isFn 0x0203 e) = true ∧ (winAt s 0 0).isOpen = true ∧ (winAt s 0 0).closing = false ∧
      (winAt s 0 0).expertCloser = none ∧ (winAt s 0 0).lastAdvance = none ∧ wGen c = (winAt s 0 0).gen ∧
      (slotTransfers s 0 0 = [] ↔ l = []) ∧ wLcore c < 3072) ∧
    (∀ root ∈ [0xFF, 0], let c := command0 0x0300 (root == 0) [(104, root), (160, 2)]
     let s := commanded mapped c
     begins s 3 c (isFnAny 0x0300) = true ∧ groupAt s (groupKey (fld c.pkt 83 80) (fld c.pkt 69 64)) = none ∧
     fld c.pkt 111 104 = root ∧ (root = 0xFF ∨ (c.expert = true ∧ root < 16 ∧ partOfTile s root = some (fld c.pkt 83 80))) ∧
     fld c.pkt 191 160 = 2 ∧
     memberList s (fld c.pkt 83 80) (fld c.pkt 99 96) (fld c.pkt 159 128) (fld c.pkt 191 160) = some [0, 1]) ∧
    (∀ e ∈ [false, true],
      let c := command0 0x0301 e []
      let s := commanded { mapped with groups := [(0, group0)] } c
      begins s 3 c (isFn 0x0301 e) = true ∧ groupAt s (destroyKey c) = some group0 ∧ (∀ e ∈ s.groups, e.2.closing = none) ∧
      groupTasks s (destroyKey c) = [] ∧ ∀ e ∈ s.cmds, e.wait = .none) := by decide +kernel

theorem witness_MailboxesServeHostsAndLead :
    hostOn panel 0 = true ∧ boxKind 255 = 2 ∧ boxKind 1 = 1 ∧ ownsBox panel 0 1 = true ∧ (curatorAt panel panel.lead).state = .posting ∧
    panel.hostsReleased = true ∧ (mailboxAt panel 1).console = [] ∧ (mailboxAt panel 1).th.length + 8 ≤ 8 := by decide +kernel

/-- A flash die with a staged image of each kind. -/
def staged0 : Flash :=
  { alive := true, images := [(1, { ImagePair.none with staged := true })], charters := [], stagedCharters := [1],
    record := Counter.init, writes := 0 }

theorem witness_IdentityCommandsComplete :
    (let c := command0 0x0800 false []
     let s := commanded { panel with ident := { panel.ident with cert := some (3, []) } } c
     begins s 3 c (isFnAny 0x0800) = true ∧ firstOf (attestChecks s c) = none ∧ s.ident.cert.isSome = true ∧
     s.ident.attLeaf < 1024 ∧ s.drains = [] ∧ onDark s (atDest c) 2620 = false) ∧
    (let c := command0 0x0801 false [(64, 1), (128, 16)]
     let s := commanded panel c
     begins s 3 c (fun c => isFnAny 0x0801 c && fwTurn s c) = true ∧ fwWriting s 3 0x0801 = none ∧ firstOf (fwStageChecks s c) = none ∧
     onDark s (fwSrc c) (fwLength c) = false ∧ firstBad s (fwSrc c) (fwLength c) = none) ∧
    (∀ t ∈ [1, 5],
      let c := command0 0x0802 false [(64, t), (192, if t = 5 then 1 else 0)]
      let s := commanded { panel with bf0 := staged0, bf1 := staged0 } c
      begins s 3 c (fun c => isFnAny 0x0802 c && fwTurn s c) = true ∧ fwWriting s 3 0x0802 = none ∧
      firstOf (commitChecks s c) = none ∧ fwType c = t) ∧
    (∀ f ∈ [0x0801, 0x0802],
      let c := { command0 f false [(64, 1)] with started := true, wait := .flash [1] }
      let s := commanded panel c
      fwWriting s 3 f = some (c, [1]) ∧ c ∈ s.cmds ∧ c.queue = 3 ∧ c.comp = true ∧ c.retried = false ∧ quiet s = true ∧
      ((s.cmds.map (·.uid)).Pairwise (· < ·)) ∧ ∀ e ∈ s.cmds, e.uid < s.nextCmd) := by decide +kernel

/-- A packet of core 1 of tile 0 for a core of tile 1, in a router. -/
def routed (place : Node) (route : BitVec 24) (flits : Nat) : Packet :=
  { packet0 (.done (0, 7) .ok) with
    place := place, route := route, flits := flits, dst := 512, prev := some (.router 0 0), ejected := false, delivered := false }

/-- The panel with the packet; of tile 0's crossings to tile 1, 4 and 5 carry traffic, 6 has failed and 7 is retraining. -/
def carrying (k : Packet) : State :=
  { panel with
    packets := [k],
    tiles := [(0, { TileNet.init with
      rte := [(0, ⟨true, false, 0, 0⟩), (1, ⟨true, false, 1, 2⟩)],
      links := [(4, { NiLink.init with state := .up }), (5, { NiLink.init with state := .up }),
                (6, { NiLink.init with state := .failed }), (7, { NiLink.init with state := .retraining, groups := [3] })] })] }

/-- A packet at core 0's unit that no command has taken, of a partition generation. -/
def arrived0 (g : Nat) : Packet := { packet0 (.done (0, 7) .ok) with delivered := false, pgen := g }

theorem witness_PacketsCrossAndArrive :
    (let k := { routed (.core 0 0 1) 0 1 with held := true, prev := none, dst := 0 }
     packetOf (carrying k) 4 = some k ∧ canInject (carrying k) k = true ∧
     routeValid (carrying k) (k.src / 512) (k.dst / 512) = true) ∧
    (∀ k ∈ [routed (.router 0 7) 2 1, routed (.router 0 6) 2 3, { routed (.core 0 0 0) 0 1 with dst := 0 }],
     let s := carrying k
     inNetwork s 4 = some k ∧ k.ejected = false ∧ inFence s k.place = false ∧ tooOld s k = false ∧ badHeader k = false ∧
     k.route.toNat % 8 ≤ 4 ∧ (k.route.toNat % 8 = 0 ∨ (neighbour k.tile (k.route.toNat % 8)).isSome = true) ∧
     entersFence s k = false ∧ ((crossingOf k).all fun x => decide ((linkAt s x.1 x.2).state ≠ .failed)) = true ∧
     (slotPacket s k).map (·.id) = some 4 ∧
     ((crossingOf k).isSome = decide (k.place = .router 0 7)) ∧ (nextNode k).isSome = decide (k.dst = 512) ∧
     (k.sent + 1 < flitSlots k ↔ k.flits = 3)) ∧
    (let k := { routed (.router 0 11) 2 1 with src := 2, again := true }
     let s := carrying k
     inNetwork s 4 = some k ∧ crossingOf k = some (0, 6) ∧ (linkAt s 0 6).state = .failed ∧ k.again = true ∧
     inFence s k.place = false ∧ tooOld s k = false ∧ badHeader k = false ∧ entersFence s k = false ∧
     (neighbour k.tile (k.route.toNat % 8)).isSome = true) ∧
    deliverable (carrying (arrived0 0)) 4 (arrived0 0) = true ∧
    (let k := arrived0 5
     let s := carrying k
     inNetwork s 4 = some k ∧ k.ejected = true ∧ behind s k = false ∧ tooOld s k = false ∧ badHeader k = false ∧
     dieFenced s k.tile (k.dst / 32 % 16) = false ∧ k.pgen ≠ (partAt s k.part).pgen) ∧
    (∀ st ∈ [200, 0],
     let k := { routed (.router 0 7) 2 1 with stamp := st, again := true }
     inNetwork (carrying k) 4 = some k ∧ tooOld (carrying k) k = decide (st = 200)) := by decide +kernel

/-- A request of core 0's task 7, sent once or twice. -/
def request0 (n : Nat) : Req :=
  { id := 6, who := .task 0 7, packets := [routed (.core 0 0 1) 0 1], frames := [], attempts := n }

theorem witness_LinksReplayAndRetrain :
    (∀ n ∈ [1, 2],
     let s := { carrying (routed (.router 0 7) 2 1) with
       replays := [.crossing 0 4, .baseMesh 0 0 1], reqs := [request0 n], cores := (withTask (task0 0x50)).cores }
     linkInUse s (.crossing 0 5) = true ∧ LinkRef.crossing 0 5 ∉ s.replays ∧ LinkRef.crossing 0 4 ∈ s.replays ∧
     31 ∉ (linkAt s 0 4).sparesUsed ∧ 31 ∉ (linkAt s 0 4).groups ∧ (linkAt s 0 7).state = .retraining ∧
     (linkAt s 0 7).groups = 3 :: [] ∧ s.reqs.find? (fun x => x.id == 6) = some (request0 n) ∧ reqHeld s (request0 n) = false ∧
     (∀ k ∈ (request0 n).packets, routeValid s (k.src / 512) (k.dst / 512) = true) ∧
     taskOf (coreAt s 0) 7 = some (task0 0x50)) := by decide +kernel

/-- A drain of partition 0 that writes one route and the entries `cats`. -/
def drain0 (phase : DrainPhase) (cats : List (Nat × CatEntry)) : Drain :=
  { id := 2, own := true, scope := [0], phase := phase, routes := [(1, ⟨true, false, 1, 2⟩)], cats := cats, copies := [],
    cmds := [], since := 0 }

/-- A frame from panel 1 to this one. -/
def frame0 (type seq : Nat) : Frame :=
  { macPanel := 0, bad := false, pause := false, ver := 1, reservedSet := false, type := type, kind := 0x05,
    flow := { srcId := 1, srcSrv := false, dstId := 0, dstSrv := false, fpart := 0, vc := 2 }, pgen := 0, part := 0,
    tag := 3, srcRank := 1, dstRank := 0, seq := seq, ack := 1, epoch := 0, srcLcore := 5, dstLcore := 0,
    data := List.replicate 12 0 }

/-- This panel's flow to panel 1, with a frame unacknowledged. -/
def tx0 (tries : Nat) (held : Bool) : TxFlow :=
  { key := ackedFlow (frame0 1 0), port := some 0, epoch := 0, nextSeq := 1, unacked := [{ frame0 0 0 with flow := ackedFlow (frame0 1 0) }],
    waiting := [], tries := tries, lastAdvance := none, heldAdvance := held, move := none }

theorem witness_DrainsWriteRoutes :
    (let d := drain0 .decided []
     drainAt { panel with drains := [d] } 2 = some d ∧ drainBehind { panel with drains := [d] } d = false) ∧
    (∀ l ∈ [[], [(5, (⟨true, false, 9⟩ : CatEntry))]],
      let d := drain0 .held l
      drainAt { panel with drains := [d] } 2 = some d ∧ scopeBusy { panel with drains := [d] } d = false ∧
      d.routes = [(1, ⟨true, false, 1, 2⟩)] ∧ d.cats = l ∧ d.copies = []) ∧
    drainAt { panel with drains := [drain0 .written []] } 2 = some (drain0 .written []) ∧
    (∀ l ∈ [[], [tx0 0 false]],
     let c := command0 0x0901 false [(128, 1)]
     let s := commanded { panel with fabric := { panel.fabric with tx := l } } c
     begins s 3 c (fun c => c.fn == 0x0901 && !ruExpert 1 c && !ruExpert 2 c) = true ∧ firstOf (ruPortChecks s c) = none ∧
     s.fabric.changes = [] ∧ (∀ x ∈ s.fabric.tx, x.move = none) ∧ groupMoves s (ruGroup c) 1 = l.map (·.key)) ∧
    (tx0 0 false).unacked ≠ [] ∧
    (let c := command0 0x0901 true [(64, 1), (80, 0), (88, 0), (96, 1)]
     let s := commanded panel c
     begins s 3 c (ruExpert 1) = true ∧ firstOf (ruRouteChecks s c) = none ∧ ∀ d ∈ s.drains, c.uid ∉ d.cmds) ∧
    (let c := command0 0x0901 true [(64, 2), (104, 8), (112, 8)]
     begins (commanded panel c) 3 c (ruExpert 2) = true ∧ firstOf (ruShareChecks (commanded panel c) c) = none) := by
  decide +kernel
/-- A control message to core 0. -/
def told (x : CtrlMsg) : State := { panel with ctrl := [x] }

theorem witness_ControlAndSyncMessagesArrive :
    (∀ x ∈ [CtrlMsg.runStart 0 run0, .abort 0 0, .stepMark 0 ⟨5, none⟩, .program 0 5],
      (told x).ctrl[0]? = some x ∧ ctrlWaits (told x) 0 x = false ∧ ctrlOpen (told x) x = true) ∧
    (curatorAt panel 0).state = .posting ∧ coreOn panel 5 = false ∧ treeTiles panel ≠ [] ∧
    badSample panel (.inter 3 1) = none := by decide +kernel

/-- A stream of six rows for core 0, of which the replicator of its tile has taken some. -/
def stream0 (taken : Nat) (d : Option (BitVec 512)) : BStream :=
  { id := 3, part := 0, vc := 2, members := [(0, 7)], desc := d, count := 6, rows := [(0, List.replicate 64 1)],
    taken := [(0, taken)], delivered := [], written := [], resent := [], root := if d.isSome then none else some (0, 8),
    failed := false }

/-- A row of it that has come to the replicator of tile 0. -/
def row0 : Packet :=
  { packet0 (.bcData 3 0 (List.replicate 64 1)) with dunit := 6, place := .router 0 0 }

/-- Two members of a shared fetch of one row. -/
def gather0 : Gather :=
  { part := 0, share := 2, desc := desc 0x41 [(192, 1), (224, 64), (336, 2), (352, 2)], members := [(0, 7), (1, 7)] }

theorem witness_SharedStreamsAreFetchedAndDelivered :
    (∀ l ∈ [[], [row0]], ∀ fetched ∈ [false, true],
     let d := if fetched then some (desc 0x41 [(192, 6), (224, 64), (256, 64), (288, 16), (336, 2)]) else none
     let x := stream0 0 d
     let s := { panel with streams := [x], packets := l, nextId := 5 }
     streamOf s 3 = some x ∧ (memberTiles x).contains 0 = true ∧ replicatorFull s 0 x = false ∧
     (rowArrived s 0 x = if l = [] then none else some (row0, 0, List.replicate 64 1)) ∧ row0.id < s.nextId ∧
     tblGet 0 x.taken 0 < x.count ∧ rowTile s x 0 = some 0 ∧ tblLook x.rows 0 = some (List.replicate 64 1) ∧
     (d.all fun d => decide (pathStop s (x.members.headD (0, 0)).1 (streamAddr d 0) 64 = none) &&
       (firstBad s (streamAddr d 0) 64).isNone) = true ∧
     partsApart s = true ∧ s.slices = []) ∧
    (let x := stream0 5 none
     let s := { panel with streams := [x] }
     streamOf s 3 = some x ∧ dieFenced s 0 0 = false ∧ beatReady x (stackUnit 0 0) = true ∧
     beatTurn s x (stackUnit 0 0) = true ∧ tblGet 0 x.delivered (stackUnit 0 0) + beatRows x (stackUnit 0 0) < x.count ∧
     stackUnit 0 0 ∉ x.resent ∧ tblGet 0 x.delivered (stackUnit 0 0) < x.count) ∧
    (let s := { panel with gathers := [gather0] }
     s.gathers.find? (fun g => g.part == 0 && g.share == 2 && decide (xMembers g.desc ≤ g.members.length)) = some gather0 ∧
     (∀ r < xRows gather0.desc, pathStop s (gather0.members.headD (0, 0)).1 (remoteRow gather0.desc r) (xBpr gather0.desc) = none)) := by
  decide +kernel

theorem witness_LoadsReadAndStoresWriteTheirBytes :
    partsApart panel = true ∧ panel.slices = [] ∧ hostOn panel 0 = true ∧ (regionOf panel 128).isSome = true ∧
    ldTarget panel 128 64 = true ∧ firstBad panel 128 64 = none ∧ firstUnmerged panel 128 64 = none := by decide +kernel

/-- The full panel, its partition of all tiles in service, with device 4 and its edge's spare. -/
def wide (spare : Device) (ce : Nat) : State :=
  { panel with
    charter := factoryCharter, straps := State.reset.straps,
    devices := [(4, { Device.init with state := .inUse, ce := ce }), (8, spare)] }

theorem witness_DevicesCountCopyAndFail :
    (let s := { panel with cores := (withTask (task0 0x41)).cores }
     (deviceAt s 0).state = .inUse ∧ (homeOf s (100 / 64 * 64)).isSome = true ∧ cached s (100 / 64 * 64) = none ∧
     taskOf (coreAt s 0) 7 = some (task0 0x41) ∧ (task0 0x41).status.good = true ∧ (task0 0x41).opcode = 0x41 ∧
     ((homeOf s (100 / 64 * 64)).all fun h => decide ((deviceAt s (servingDevice s h.device)).ue ≠ 7)) = true) ∧
    (let s := wide { Device.init with state := .spare } 4097
     devicePart s 4 = some 0 ∧ devInUse s 4 = true ∧ predictive s 4 = true ∧ (partAt s 0).state = .inService ∧
     spareFor 4 = some 8 ∧ (deviceAt s 8).state = .spare ∧ sparePart s 8 = some 0 ∧ isSpareDev 4 = false ∧
     (deviceAt s 4).down = false ∧ spareReady s 0 4 = some 8 ∧ (countReset s 0).2 = false) ∧
    (let s := wide { Device.init with state := .copying, serves := some 4 } 0
     let d : Drain := { drain0 .held [] with routes := [], copies := [(8, 4, [])] }
     (deviceAt s 8).state = .copying ∧ (deviceAt s 8).serves = some 4 ∧ (deviceAt s 4).state = .inUse ∧ s.drains = [] ∧
     drainAt { s with drains := [d] } 2 = some d ∧ scopeBusy { s with drains := [d] } d = false ∧
     ∀ o < 68, spareFor o = some 8 → (deviceAt s o).down = false) := by decide +kernel

/-- Queue 3 resident and enabled, with `n` slots rung. -/
def ringed (n : Nat) (records : List Rec) (head : Nat) : State :=
  { panel with
    mem := memWrite [] 0 (leBytes 8 (1 + 4 * 2 ^ 24)),
    queues := [(3, { Queue.init with state := .enabled, sqLog := 8, cqBase := 65536, cqLog := 8, tail := n, cqHead := head,
                                     unit := some 0, records := records })] }

/-- A record to be written. -/
def record0 (follows : Option Nat) : Rec :=
  { queue := 3, tag := 9, status := .ok, attempts := 1, r0 := 1, r1 := 2, r2 := 3, r3 := 4, time := 5, doorbell := false, rungAt := 0,
    uid := 2, admitted := true, fenceAfter := false, silent := false, follows := follows }

theorem witness_DoorbellsFetchAndRecords :
    (let s := ringed 1 [record0 none] 0
     hostOn s 0 = true ∧ ownsPage s 0 3 = true ∧ ownsPage s 0 9 = false ∧ 255 < ringSize (queueAt s 3).sqLog ∧
     ringSize (queueAt s 3).cqLog ≤ 256 ∧
     (queueAt s 3).records = record0 none :: [] ∧ (queueAt s 3).state ≠ .free ∧ cqFullNow (queueAt s 3) = false ∧
     mustFollow s (record0 none) = false) ∧
    cqFullNow (queueAt (ringed 1 [record0 none] 1) 3) = true ∧
    mustFollow (ringed 1 [record0 (some 2)] 0) (record0 (some 2)) = true ∧
    (∀ n ∈ [1 + 4 * 2 ^ 24, 0x7FF],
     let s := { ringed 1 [] 0 with mem := memWrite [] 0 (leBytes 8 n) }
     let x := queueAt s 3
     let k := slotsOf (fld (BitVec.ofNat 512 (leNat (slotBytes s (slotAddrs x 1)))) 31 24)
     let pkt := BitVec.ofNat 1024 (leNat (slotBytes s (slotAddrs x k)))
     let c := cmdFrom s 3 pkt
     let read := each (slotAddrs x k) (fun a s => ldTouch s a 64 true) s
     let u := { modQueue read 3 (fun y => { y with sqHead := (y.sqHead + k) % ringSize y.sqLog }) with
                cmds := s.cmds ++ [c], nextCmd := s.nextCmd + 1 }
     mayFetch s 3 = true ∧ s.bad = [] ∧ soundDevices s = true ∧ 0 < slotsWaiting x ∧ k ≤ slotsWaiting x ∧
     heldAtAdmission s pkt = false ∧ quiet s = true ∧ s.cmds = [] ∧
     (admission u x.owner pkt).or (firstOf (remaining u c)) = if n = 0x7FF then some .badOpcode else none) ∧
    (let s := { ringed 1 [] 0 with units := [(0, ⟨[], [3], [4]⟩)] }
     3 ∈ (unitAt s 0).loading ∧ 4 ∈ (unitAt s 0).spilling ∧ (unitAt s 0).pending = []) := by decide +kernel

theorem witness_HostLinksAndRegistersAnswer :
    (hostAt panel 0).linkUp = true ∧ 5 ≤ (hostAt panel 0).modules ∧
    (hostAt { panel with hosts := [(0, { HostDie.init with linkUp := true, modules := 4 })] } 0).modules ≤ 4 ∧
    (hostAt panel 0).released = true ∧ hostOn panel 0 = true ∧ reachableAddr panel 0x300000000000 .store = false ∧
    reachableAddr panel 0x300000000000 .load = false ∧ reachableAddr panel 0x300000000000 .fetch = false ∧ sharesOk (fld (0x080008 : BitVec 64) 7 0) 0 8 = true ∧
    (let s := { State.reset with start := { State.reset.start with stage := .firstStage } }
     s.sealed = false ∧ s.start.stage = .firstStage) ∧
    (regionOf panel 0x400010010030).isNone = true ∧ (regionOf panel 0x400010010000).isNone = true := by decide +kernel

theorem witness_EchoAndCopiesAreAnswered :
    (∀ e ∈ [false, true], begins (commanded panel (command0 1 e [])) 3 (command0 1 e []) (isFn 0x0001 e) = true) ∧
    (∀ e ∈ [false, true],
      let c := command0 0x0A00 e [(112, 1)]
      let s := commanded panel c
      begins s 3 c (isFn 0x0A00 e) = true ∧ s.drains = [] ∧ firstOf (catChecks s c) = none ∧
      onDark s (crDest c) (catBytes s c).length = false ∧ firstUnmerged s (crDest c) (catBytes s c).length = none) ∧
    (let c := command0 0x0A01 false []
     let s := commanded panel c
     begins s 3 c (isFnAny 0x0A01) = true ∧ firstOf (chChecks s c) = none ∧
     onDark s (chDest c) (charterCopy s c).length = false ∧ firstUnmerged s (chDest c) (charterCopy s c).length = none) ∧
    (let c := command0 0x0A00 false [(112, 1)]
     let s := { commanded panel c with drains := [drain0 .held []] }
     begins s 3 c (isFn 0x0A00 false) = true ∧ firstOf (catChecks s c) = none ∧ s.drains = drain0 .held [] :: []) := by
  decide +kernel

/-- A second queue, number 4, in the given state. -/
def twoQueues (st : QState) (c : Cmd) (others : List Cmd) : State :=
  { commanded panel c with
    cmds := c :: others, nextCmd := 8,
    queues := [(3, { Queue.init with state := .enabled, admin := true, sqLog := 8, cqLog := 8 }),
               (4, { Queue.init with state := st, sqLog := 8, cqLog := 8, tail := 2 })] }

/-- A command that waits in queue 4. -/
def waiting4 : Cmd := { command0 1 false [] with uid := 6, queue := 4 }

/-- Host die 1 lost, whose backup is host die 0, with its admin queue 4 HELD. -/
def orphaned (c : Cmd) : State :=
  { twoQueues .held c [] with
    charter := charterFrom ([(0, 0x100), (8, 2 ^ 63 + 2 ^ 52)] ++ hostRecord 0 0 1 65536 0 15 ++ hostRecord 1 64 0 65540 16 31),
    hosts := [(0, { HostDie.init with released := true, linkUp := true }), (1, { HostDie.init with lost := true })],
    queues := [(3, { Queue.init with state := .enabled, admin := true, sqLog := 8, cqLog := 8 }),
               (4, { Queue.init with state := .held, admin := true, owner := 1, sqLog := 8, cqLog := 8 })] }

/-- The panel with sixteen queue numbers. -/
def sixteen : State :=
  { panel with charter := charterFrom ([(0, 0x100), (8, 2 ^ 63 + 2 ^ 52)] ++ hostRecord 0 0 0 65536 0 15) }

theorem witness_QueuesAreCreatedEnabledAndEnded :
    (∀ e ∈ [false, true],
      let c := command0 0x0010 e [(64, 2 ^ 20), (128, 2 ^ 21), (496, 8), (501, 8), (480, if e then 9 else 0)]
      let s := commanded sixteen c
      begins s 3 c (isFnAny 0x0010) = true ∧ firstOf (createChecks s c) = none ∧
      ((if c.expert then some (qcQueue c) else lowestFree s c.host) = some (if e then 9 else 0))) ∧
    (let c := command0 0x0012 false [(64, 4)]
     let s := twoQueues .disabled c []
     begins s 3 c (isFn 0x0012 false) = true ∧ firstOf (targetChecks s c true) = none ∧ (queueAt s (qTarget c)).state = .disabled ∧
     fld c.pkt 243 237 = 0 ∧ fld c.pkt 225 215 = 0) ∧
    (let c := command0 0x0012 false [(64, 4)]
     let s := orphaned c
     begins s 3 c (isFn 0x0012 false) = true ∧ firstOf (targetChecks s c true) = none ∧
     (queueAt s (qTarget c)).state = .held ∧ adoptsAdmin s c = true ∧ msiOk (qcMsi c) = true) ∧
    (∀ l ∈ [[], [waiting4]],
      let c := command0 0x0013 false [(64, 4)]
      let s := twoQueues .enabled c l
      begins s 3 c (isFn 0x0013 false) = true ∧ firstOf (targetChecks s c false) = none ∧ queueCmds s (qTarget c) = l) ∧
    (∀ f ∈ [0x0013, 0x0011],
      let c := command0 f true [(64, 4)]
      let s := twoQueues .enabled c [waiting4]
      begins s 3 c (isFn f true) = true ∧ firstOf (targetChecks s c false) = none ∧
      ∀ e ∈ queueCmds s (qTarget c), e.started = false) ∧
    (let c := command0 0x0011 false [(64, 4)]
     let s := twoQueues .enabled c []
     begins s 3 c (isFn 0x0011 false) = true ∧ firstOf (targetChecks s c false) = none ∧ queueCmds s (qTarget c) = []) := by
  decide +kernel

/-- A map of one segment: ranks 0 and 1 on logical cores 0 and 1. -/
def map0 : Nat := 2 * 2 ^ 55 + 2 * 2 ^ 31

/-- The panel with the map at 4096 and a list of one END at 8192; core 0 and core 1 IDLE with the list in slot 0. -/
def jobs (auto : Bool) : State :=
  { panel with
    cores := [(0, { Core.init with seq := .idle, slots := [(0, ⟨true, 0, 8192, 1, false⟩)] }),
              (1, { Core.init with seq := .idle, slots := [(0, ⟨true, 0, 8192, 1, false⟩)] })],
    mem := memWrite (memWrite [] 4096 (leBytes 16 map0)) 8192 (leBytes 64 0x75),
    parts := [(0, { Part.init with state := .inService, auto := auto, rmaps := [(0, [segOf map0])] })] }

/-- PROGRAM_LOAD of that list of n descriptors. -/
def load0 (n : Nat) : Cmd := command0 0x0100 false [(68, 1), (96, n), (192, 8192), (256, 4096), (320, 1)]

/-- A command of queue n with tag 9 that waits for `w`, or has not started. -/
def target4 (n : Nat) (w : CmdWait) : Cmd :=
  { command0 0x0101 false [] with uid := 4, queue := n, started := decide (w ≠ .none), wait := w }

theorem witness_ProgramsAreLoadedAndRun :
    (∀ n ∈ [0, 1], ∀ w ∈ [CmdWait.none, .load],
      let c := { load0 n with wait := w, started := decide (w = .load) }
      let s := commanded (jobs true) c
      let ws := entries16 (ldRead s (plMap c) (16 * plSegs c)) (plSegs c)
      (if w = .none then begins s 3 c (isFn 0x0100 false) && (underWay s 3 (isFn 0x0100 false) CmdWait.isLoad).isNone
       else decide (underWay s 3 (isFn 0x0100 false) CmdWait.isLoad = some c) && !programOut s c.uid && quiet s) = true ∧
      partsApart s = true ∧ s.slices = [] ∧ s.bad = [] ∧ soundDevices s = true ∧ firstOf (plChecks s c) = none ∧
      onDark s (plMap c) (16 * plSegs c) = false ∧ rmapOk s ws = true ∧
      firstOf (loadChecks s c ws) = none ∧ onDark s (plList c) (64 * plCount c) = false ∧
      firstRefused s (plCount c) (descsOf (ldRead s (plList c) (64 * plCount c)) (plCount c)) = none) ∧
    (let c := command0 0x0101 false []
     let s := commanded (jobs true) c
     begins s 3 c (fun x => x.fn == 0x0101 && !swapping s (ruPart x)) = true ∧ firstOf (runChecks s c) = none) ∧
    (∀ e ∈ [false, true],
      let c := command0 0x0103 e []
      begins (commanded (jobs true) c) 3 c (isFn 0x0103 e) = true ∧ rankCores (commanded (jobs true) c) (ruPart c) (ruSlot c) ≠ []) ∧
    (∀ e ∈ [(4, CmdWait.none), (3, .move 64), (3, .run), (4, .run)],
      let n := e.1
      let c := command0 0x0102 false [(64, n), (96, 9)]
      let x := target4 n e.2
      let s := { twoQueues .enabled c [] with
        cmds := [x, c], runs := [{ cmd := 4, part := 0, slot := 0, cores := [(0, 0)], reports := [], nonrepro := false, outcome := none }] }
      begins s 3 c (isFn 0x0102 false) = true ∧ firstOf (abChecks s c) = none ∧
      abortTarget s c = some x ∧ x.uid ≠ c.uid ∧ uncommitted x = decide (e.2 ≠ .run) ∧ (x.queue = 3 ↔ n = 3) ∧
      (s.runs.find? (fun r => r.cmd == x.uid)).isSome = true) := by decide +kernel

theorem witness_CopiesAndFillsStayInTheirDestination :
    (∀ fn ∈ [0x0200, 0x0201], ∀ e ∈ [false, true], ∀ w ∈ [CmdWait.none, .move 64],
      let c := { command0 fn e [(64, 4096), (128, 8192), (192, 256)] with wait := w, started := decide (w ≠ .none) }
      let s := commanded (jobs true) c
      let done := if w = .none then 0 else 64
      partsApart s = true ∧ s.slices = [] ∧ firstOf (memChecks s c (fn == 0x0200)) = none ∧
      (if w = .none then begins s 3 c (isFn fn e) else decide (moving s 3 0 (isFn fn e) = some (c, 64)) && quiet s) = true ∧
      done < meBytes c ∧ moveEnd c done (some 1) ≠ meBytes c ∧ moveEnd c done none = meBytes c ∧
      memError s (fn == 0x0200) c done = none ∧
      (∀ a ∈ [meDst c, meSrc c], classOf s (a + done) = .ld ∧ classOf s (a + meBytes c - 1) = .ld ∧
        lostRange s (a + done) (meBytes c - done) = false) ∧
      apart (meDst c) (meBytes c) (meSrc c) (meBytes c) = true) ∧
    (∀ e ∈ [false, true],
      let c := command0 0x0201 e [(128, apBase), (192, 4)]
      let s := commanded (jobs true) c
      begins s 3 c (isFn 0x0201 e) = true ∧ firstOf (memChecks s c false) = none ∧ classOf s (meDst c) = .aperture ∧
      physOf s (apWindow (meDst c)) = some 0 ∧ (coreAt s 0).bufs = []) := by decide +kernel

/-- Core 0 with a finished task that feeds channel 0 eight bytes, `taken` of them taken. -/
def feeding (c : Cmd) (taken : Nat) : State :=
  commanded { panel with
    cores := [(0, { core0 with window := [{ done0 0x20 with feed := .due taken 0, stream := [1, 2, 3, 4, 5, 6, 7, 8] }] })],
    parts := [(0, { Part.init with state := .inService })] } c

/-- Core 0 with every channel disabled. -/
def silent (c : Cmd) : State :=
  commanded { withCore { core0 with fps := List.replicate 8 { FpChan.init with enabled := false } } with
    cat := [(0, ⟨true, false, 0⟩)] } c

theorem witness_FingerprintChannelsAreFedAndSwitched :
    (let s := feeding (command0 1 false []) 0
     let t := { done0 0x20 with feed := .due 0 0, stream := [1, 2, 3, 4, 5, 6, 7, 8] }
     taskOf (coreAt s 0) 7 = some t ∧ (coreAt s 0).fps[dFpch t.desc]? = some FpChan.init ∧ t.finished = true ∧
     feedBlocked (coreAt s 0) t (dFpch t.desc) = false ∧ FpChan.init.enabled = true) ∧
    (∀ t ∈ [0, 4],
      let c := command0 0x0400 false [(96, 2), (104, 1)]
      begins (feeding c t) 3 c (isFc 2 (some false)) = true ∧ firstOf (fcSwitchChecks (feeding c t) c) = none ∧
      (feedsNow (feeding c t) c = [] ↔ t = 0)) ∧
    (let c := command0 0x0400 false [(104, 1)]
     begins (silent c) 3 c (isFc 0 none) = true ∧ firstOf (fcSetChecks (silent c) c) = none) ∧
    (let c := command0 0x0400 false [(96, 1), (104, 1)]
     begins (feeding c 0) 3 c (isFc 1 none) = true ∧ firstOf (fcSwitchChecks (feeding c 0) c) = none) ∧
    (let c := command0 0x0400 true [(96, 2), (104, 1)]
     begins (feeding c 4) 3 c (isFc 2 (some true)) = true ∧ firstOf (fcSwitchChecks (feeding c 4) c) = none ∧
     ∀ e ∈ (feeding c 4).cmds, e.wait = .none) := by decide +kernel


/-- The panel with ranks 0 and 1 on logical cores 0 and 1, and queue 4 with a context. -/
def contexts (c : Cmd) : State :=
  let s := commanded (jobs true) c
  { s with queues := s.queues ++ [(4, { Queue.init with state := .enabled, sqLog := 8, cqLog := 8, crc := some ⟨CrcCfg.ecma, 0, 0⟩ })] }

theorem witness_FingerprintsAndContextsAreRead :
    (∀ e ∈ [false, true],
      let c := command0 0x0401 e [(112, 2), (128, 4096), (96, if e then 1 else 0)]
      let s := contexts c
      begins s 3 c (isFnAny 0x0401) = true ∧ firstOf (frChecks s c) = none ∧
      onDark s (frDest c) 160 = false ∧ firstUnmerged s (frDest c) 160 = none ∧ (frRecords s c).flatten.length = 160 ∧
      partsApart s = true ∧ s.slices = []) ∧
    (∀ e ∈ [false, true],
      let c := command0 0x0402 e [(64, 4), (128, 5), (192, if e then 2 ^ 63 else 0)]
      let s := contexts c
      begins s 3 c (isFnAny 0x0402) = true ∧ ccContext s c = some ⟨CrcCfg.ecma, 0, 0⟩ ∧
      firstOf (csChecks s c ⟨CrcCfg.ecma, 0, 0⟩) = none) ∧
    (∀ e ∈ [false, true],
      let c := command0 0x0403 e [(64, 4), (192, if e then 4096 else 0)]
      let s := contexts c
      begins s 3 c (isFnAny 0x0403) = true ∧ ccContext s c = some ⟨CrcCfg.ecma, 0, 0⟩ ∧
      firstOf (cgChecks s c) = none ∧ onDark s (ccBytes c) 32 = false ∧ firstUnmerged s (ccBytes c) 32 = none) := by
  decide +kernel

/-- The panel with one fault record, number 7, and one provenance entry in each copy. -/
def logged (c : Cmd) : State :=
  { commanded panel c with
    faults := [{ FaultRec.blank 3 .core with seq := 7 }], transients := [(0, { Transient.init with link := 2 })],
    provBF0 := [{ Prov.blank 1 with number := 4 }], provBF1 := [{ Prov.blank 1 with number := 4 }], provNext := 5 }

theorem witness_LogsAndPoliciesAreRead :
    (∀ f ∈ [0, 8], ∀ w ∈ [0, 1],
      let c := command0 0x0700 false [(96, f), (80, 4096), (72, w), (128, 4096)]
      let s := logged c
      let rs := (s.faults.filter fun r => decide (flFirst c ≤ r.seq)).take (flCount c)
      begins s 3 c (fun c => c.fn == 0x0700 && flSection c != 1) = true ∧ firstOf (flChecks s c 64) = none ∧
      (flWait c = true ↔ w = 1) ∧ (rs = [] ↔ f = 8) ∧ (rs = [] ∨ rangePopulated s (flDest c) (64 * rs.length) = true) ∧
      writeOk s (flDest c) (64 * rs.length) = true ∧ partsApart s = true ∧ s.slices = []) ∧
    (let c := command0 0x0700 true [(96, 0), (80, 224), (64, 1), (128, 4096)]
     let s := logged c
     begins s 3 c (fun c => c.fn == 0x0700 && flSection c == 1) = true ∧ firstOf (flChecks s c 32) = none ∧
     onDark s (flDest c) (flBytes s c).length = false ∧ firstUnmerged s (flDest c) (flBytes s c).length = none) ∧
    (let c := command0 0x0703 false []
     begins (logged c) 3 c (isFn 0x0703 false) = true ∧ firstOf (epReadChecks c) = none) ∧
    (∀ g ∈ [[], [(72, 1), (288, 256), (256, 10), (240, 1), (232, 8), (224, 16), (216, 1)],
            [(73, 1), (272, 3600), (192, 1), (193, 1)]],
      let c := command0 0x0703 true g
      begins (logged c) 3 c (isFn 0x0703 true) = true ∧ firstOf (epSetChecks (logged c) c) = none ∧
      (epPanel c = true ↔ g.head? = some (72, 1)) ∧ (epPartSet c = true ↔ g.head? = some (73, 1))) ∧
    (∀ e ∈ [false, true],
      let c := command0 0x0704 e [(64, 0), (192, 1), (128, 4096)]
      let s := logged c
      begins s 3 c (isFnAny 0x0704) = true ∧ firstOf (pvChecks s c) = none ∧
      ((provPick (pvLog s c) c).flatMap provBytes).length = 64 ∧ onDark s (pvDest c) 64 = false ∧
      firstUnmerged s (pvDest c) 64 = none) := by decide +kernel

/-- The panel with partition 0 in a state of its own. -/
def parted (c : Cmd) (p : Part) : State := { commanded panel c with parts := [(0, p)] }

theorem witness_PartitionsAreReset :
    (∀ e ∈ [(false, 0, 3), (true, 0, 3), (true, 1, 3), (true, 1, 1)],
      let c := command0 0x0701 e.1 [(68, e.2.1)]
      let s0 := parted c { Part.init with state := .inService }
      let s := { s0 with limits := { s0.limits with resetLimit := e.2.2 } }
      begins s 3 c (isFnAny 0x0701) = true ∧ firstOf (prChecks s c) = none ∧ fld c.pkt 68 68 = e.2.1 ∧ 0 = fld c.pkt 67 64 ∧
      (countReset s 0).2 = decide (e.2.2 = 1) ∧ (partAt s 0).state = .inService ∧ (partAt s 0).decided = none) ∧
    (let s := parted (command0 1 false []) { Part.init with state := .held }
     (partAt s 0).state = .held ∧ (partAt s 0).decided = none) ∧
    (let s := parted (command0 1 false []) { Part.init with state := .inService, decided := some (true, false) }
     (partAt s 0).decided.isSome = true ∧ (partAt s 0).state ≠ .withdrawn ∧ (partAt s 0).state ≠ .undefined ∧
     s.power.pfw = false) ∧
    (let s := parted (command0 1 false []) { Part.init with state := .resetting }
     let p := partAt s 0
     p.state = .resetting ∧ s.power.pfw = false ∧ p.failedCores = [] ∧ p.failedStacks = [] ∧ p.pending = [] ∧
     cappedCores s 0 = []) := by decide +kernel

/-- The panel with core 4 a spare and core 5 deaccessioned, and core 0 capped below its policy. -/
def spared (c : Cmd) : State :=
  { commanded panel c with
    parts := [(0, { Part.init with state := .inService, auto := true, policy := 0 })],
    pstates := [(0, .inService), (1, .inService), (4, .spare), (5, .deaccessioned)], retired := [5],
    clk := [(0, { ClkDom.init with marginCap := 3 })],
    cores := [(0, { Core.init with seq := .idle, failing := [(.W, 2)] })] }

/-- The panel with logical core 0 waiting for spare 4 to pass. -/
def accessing (c : Cmd) : State :=
  { spared c with
    pstates := [(0, .deaccessioned), (1, .inService), (4, .testing)],
    cat := [(0, ⟨false, false, 0⟩), (1, ⟨true, false, 1⟩)],
    parts := [(0, { Part.init with state := .accessioning, pending := [⟨0, 0, some 4, false, false⟩] })] }

/-- A drain that puts spare 4 under logical core 0. -/
def placing (phase : DrainPhase) : Drain := { drain0 phase [(0, catEntry 0 4)] with routes := [] }

theorem witness_SparesAreTestedAndPlaced :
    (let s := accessing (command0 1 false [])
     underTest s 0 0 = some (⟨0, 0, some 4, false, false⟩, 4) ∧ partDefined s 0 = true) ∧
    (let d := placing .held
     let s := { accessing (command0 1 false []) with drains := [d] }
     drainAt s d.id = some d ∧ scopeBusy s d = false ∧ d.routes = [] ∧ d.copies = [] ∧ d.cats = [(0, catEntry 0 4)] ∧
     ∀ x ∈ (partAt s ((partOfL s 0).getD 0)).staged, x.2 ≠ 4) ∧
    (let d := placing .written
     let s0 := accessing (command0 1 false [])
     let s := { s0 with drains := [d], parts := [(0, { partAt s0 0 with pending := [⟨0, 0, some 4, false, true⟩] })] }
     drainAt s d.id = some d ∧ d.cmds = [] ∧ partOfL s 0 = some 0 ∧ s.fabric.held = [] ∧ (partAt s 0).state = .accessioning ∧
     (partAt s 0).pending.map (fun x => (x.lcore, x.passed)) = [(0, true)]) ∧
    (∀ e ∈ [false, true],
      let c := command0 0x0702 e [(64, 5)]
      let s := spared c
      begins s 3 c (fun c => c.fn == 0x0702 && acAction c != 1) = true ∧ firstOf (rtChecks s c) = none ∧
      retestCores c = [5] ∧ acCore c = 5 ∧ acStack c = false ∧ (s.cmds.all fun e => e.wait == .none) = true) ∧
    (let c := command0 0x0702 true [(104, 1), (64, 4), (80, 1)]
     let s := spared c
     begins s 3 c (fun c => c.fn == 0x0702 && acAction c == 1) = true ∧ firstOf (plcChecks s c) = none ∧ s.drains = [] ∧
     (s.cmds.all fun e => e.wait == .none) = true) ∧
    (let s := spared (command0 1 false [])
     logOf s 0 = some 0 ∧ partOfL s 0 = some 0 ∧ (partAt s 0).state = .inService ∧ (partAt s 0).auto = true ∧
     capped s 0 = true ∧ (partAt s 0).staged = [] ∧ chooseSpare s 0 0 false (capped s) = some 4 ∧
     (coreAt s 0).seq = .idle ∧ (MemKind.W, 2) ∈ (coreAt s 0).failing) := by decide +kernel

theorem witness_CuratorsFallSilentAndDiesAreFenced :
    (let s := { panel with curators := [(0, ⟨.posting, 0⟩), (3, ⟨.posting, 0⟩), (4, ⟨.restarting, 0⟩)], hasDeputy := true }
     (curatorAt s 3).state = .posting ∧ 3 ≠ s.lead ∧ (curatorAt s 4).state = .restarting ∧ s.hasDeputy = true) ∧
    (let s := { panel with hasDeputy := false }
     (curatorAt s 0).state = .posting ∧ 0 = s.lead ∧ s.hasDeputy = false) ∧
    (diePowered panel 0 0 = true ∧ dieFenced panel 0 0 = false ∧ partOfTile panel 0 = some 0) := by decide +kernel

/-! ## Bring-up -/

/-- The panel at a stage of its start. -/
def staged (x : Stage) : State :=
  { State.reset with
    rstN := true, service := { State.reset.service with ph := 2 }, start := { State.reset.start with stage := x },
    charter := compactCharter, straps := { State.reset.straps with compact := true } }

theorem witness_PanelResetsAndRises :
    State.reset.power.pwrGood = true ∧
    { State.reset with power := { State.reset.power with pwrGood := false } }.power.pwrGood = false ∧
    State.reset.start.stage = .inReset ∧ (staged .strap).start.stage = .strap := by decide +kernel

/-- An image of a type: its header, its payload and room for its signature (R393). -/
def image0 (type : Nat) (payload : List Byte) : List Byte :=
  leBytes 32 (0x31505848 + type * 2 ^ 32 + 2 ^ 128 + payload.length * 2 ^ 160) ++ sha256 payload ++ payload ++
    List.replicate hssSize 0

/-- An owner certificate for any panel. -/
def cert0 : List Byte := image0 6 (List.replicate 60 7 ++ List.replicate 32 0)

/-- A charter image. -/
def charter0 : List Byte := charterBytes compactCharter ++ List.replicate hssSize 0

/-- A boot-flash die with a certificate, a first stage, a boot image and a charter. -/
def flash0 : Flash :=
  { alive := true, images := [(1, ⟨image0 1 [], [], false⟩), (4, ⟨image0 4 [], [], false⟩), (6, ⟨cert0, [], false⟩)],
    charters := [(0, charter0)], stagedCharters := [], record := Counter.init, writes := 0 }

/-- The panel with that die, its owner's key known. -/
def flashed (x : Stage) : State :=
  { staged x with
    bf0 := flash0, straps := { State.reset.straps with compact := false },
    ident := { State.reset.ident with ownerKey := List.replicate 60 7, stages := 4 } }

theorem image0_form (x : Stage) :
    (∀ e ∈ [(6, cert0), (1, image0 1 []), (4, image0 4 [])], imageForm (flashed x) e.1 e.2 = true) ∧
    (imageLength cert0 == 92) = true ∧ ((imagePayload cert0).drop 60 == List.replicate 32 0) = true ∧
    (imagePayload cert0).take 60 = List.replicate 60 7 := by
  have hf (n : Nat) : floorOf (flashed x) n = 0 := rfl
  simp only [imageForm, hf]
  decide +kernel

/-- Where every signature verifies, the certificate does. -/
theorem cert0_ok (hv : ∀ k m g, Config.hssVerifies k m g = true) (x : Stage) : certOk (flashed x) cert0 = true := by
  have h := image0_form x
  simp only [certOk, h.1 (6, cert0) (List.mem_cons_self ..), h.2.1, h.2.2.1, hv, Bool.true_or, Bool.and_self]

/-- The image of the first die that passes its checks is taken. -/
theorem picked (ok : List Byte → Bool) (type : Nat) (s : State) (rest : List Flash) {a b : List Byte}
    (hc : candidates s s.bf0 type = [a, b]) (h : ok a = true) : pickImage s (s.bf0 :: rest) type ok = some (a, false) := by
  simp only [pickImage, List.findSome?_cons, hc, h, if_true]

theorem ownerKey0 (hv : ∀ k m g, Config.hssVerifies k m g = true) (x : Stage) :
    ownerKey (flashed x) false = List.replicate 60 7 := by
  have h : ownerCert (flashed x) false = some (cert0, false) :=
    picked (certOk (flashed x)) 6 (flashed x) [(flashed x).bf1] (b := []) rfl (cert0_ok hv x)
  simp only [ownerKey, h, (image0_form x).2.2.2]

/-- The form of `imageOk` for a type that the owner signs. -/
theorem image0_ok (hv : ∀ k m g, Config.hssVerifies k m g = true) (x : Stage) {e : Nat × List Byte}
    (he : e ∈ [(1, image0 1 []), (4, image0 4 [])]) :
    imageOk (flashed x) (List.replicate 60 7) e.1 e.2 = true := by
  have h6 : e.1 ≠ 6 := by
    simp only [List.mem_cons, List.not_mem_nil, or_false] at he
    rcases he with rfl | rfl <;> decide
  simp only [imageOk, if_neg h6, (image0_form x).1 e (List.mem_cons_of_mem _ he), hv]
  rfl

/-- Where every signature verifies and the device secret unwraps, the first stage of BF0 is taken. -/
theorem witness_TheRomTakesAFirstStage (hv : ∀ k m g, Config.hssVerifies k m g = true) (hp : Config.pufUnwraps 0 = true) :
    (flashed .rom).start.stage = .rom ∧ loadRecord (flashed .rom) = flashed .rom ∧
    romVerify (flashed .rom) (flashed .rom).straps.flashSel = some (false, image0 1 [], List.replicate 60 7) := by
  refine ⟨rfl, rfl, ?_⟩
  have hk : ownerKey (flashed .rom) false = List.replicate 60 7 := ownerKey0 hv .rom
  have hl : Config.pufUnwraps (flashed .rom).lead = true := hp
  have ho := picked _ 1 (flashed .rom) [] (b := []) rfl (image0_ok hv .rom (e := (1, image0 1 [])) (List.mem_cons_self ..))
  have hs : (flashed .rom).straps.flashSel = false := rfl
  simp only [romVerify, hl, hs, hk, Bool.false_eq_true, if_true, if_false, ho, Option.map_some,
    Option.some_or]
  rfl

theorem witness_TheSealTakesACharter (hv : ∀ k m g, Config.hssVerifies k m g = true) :
    (flashed .firstStage).start.stage = .firstStage ∧ (flashed .firstStage).sealed = false ∧
    (flashed .firstStage).straps.compact = false ∧ (flashed .firstStage).counter.idNext < 2 ^ 20 ∧
    charterChoice (flashed .firstStage) (charterTries (flashed .firstStage)) = (0, some (charter0, 0, false)) := by
  refine ⟨rfl, rfl, rfl, by decide, ?_⟩
  have hc : ∃ l, charterTries (flashed .firstStage) = (charter0, 0, false) :: l := ⟨_, rfl⟩
  have h1 : (charter0.length == 512 + hssSize) = true := by decide +kernel
  have h2 : charterOk (flashed .firstStage) (charterOf charter0) = true := by decide +kernel
  have ho : charterImageOk (flashed .firstStage) (flashed .firstStage).ident.ownerKey charter0 = true := by
    simp only [charterImageOk, h1, h2, hv]
    rfl
  obtain ⟨l, hl⟩ := hc
  simp only [hl, charterChoice, ho, if_true]

/-- Where signatures verify, the boot image of BF0 does. -/
theorem witness_TheBootImageVerifies (hv : ∀ k m g, Config.hssVerifies k m g = true) :
    (bootImage (flashed .catalogue) (flashed .catalogue).start.bf1Boot 4).isSome = true := by
  have ho := picked (imageOk (flashed .catalogue) (flashed .catalogue).ident.ownerKey 4) 4 (flashed .catalogue)
    [(flashed .catalogue).bf1] (b := []) rfl (image0_ok hv .catalogue (e := (4, image0 4 [])) (by simp))
  have hb : (flashed .catalogue).start.bf1Boot = false := rfl
  simp only [bootImage, flashOrder, hb, Bool.false_eq_true, if_false, ho, Option.isSome_some]

theorem witness_TheStartVerifiesSealsAndTrains :
    (staged .rom).start.stage = .rom ∧ romVerify (loadRecord (staged .rom)) (staged .rom).straps.flashSel = none ∧
    (staged .rom).bf0.alive = true ∧ (staged .rom).bf1.alive = true ∧
    (staged .rom).lead = 0 ∧ (staged .rom).sealed = false ∧ (staged .firstStage).start.stage = .firstStage ∧
    (staged .firstStage).straps.compact = true ∧ { staged .firstStage with sealed := true }.sealed = true ∧
    (staged .firstStage).counter.idNext < 2 ^ 20 ∧ (staged .charter).start.stage = .charter ∧
    (staged .charter).replaced = [] := by
  refine ⟨rfl, ?_, rfl, rfl, rfl, rfl, rfl, rfl, rfl, by decide, rfl, rfl⟩
  rw [show loadRecord (staged .rom) = staged .rom from rfl]
  unfold romVerify
  split
  · decide +kernel
  · rfl

/-- A compact panel whose core 0 is under test, core 1 still off. -/
def tested (x : Stage) : State :=
  { staged x with
    ident := { State.reset.ident with stages := 4 }, pstates := [(0, .testing), (1, .spare), (2, .deaccessioned)],
    start := { (staged x).start with fromPower := x != .catalogue } }

theorem witness_TheStartTestsItsCores :
    (tested .trained).service.ph = 2 ∧
    (0 ∈ poweredCores (tested .waved) ∧ 4 ≤ (tested .waved).ident.stages) ∧
    (∀ x ∈ [Stage.trained, .waved, .microcode, .berChecked, .katDone],
      devicesTrained (tested x) = true ∧ (tested x).start.fromPower = true ∧ (tested x).start.stage = x) ∧
    { tested .berChecked with straps := State.reset.straps }.straps.compact = false := by decide +kernel

/-- Every home core of tile 0 under test. -/
def passed : State :=
  { tested .berChecked with
    pstates := ((upTo 234 isHome).map fun p => (p, .testing)),
    start := { (tested .berChecked).start with fromPower := false } }

theorem witness_TheStartBuildsAndReleases :
    (catalogueDue passed = true ∧ startParts passed = [0] ∧ noRoute passed 0 = false ∧
     (∀ d ∈ partDevices passed 0, (deviceAt passed d).state ≠ .failed) ∧
     ∀ l ∈ lcoresOf passed 0, pstateAt passed (homePhys l) = .testing ∧ capped passed (homePhys l) = false ∧
       tileStarts passed (tileOf (homePhys l)) = true) ∧
    (let s := { flashed .catalogue with hosts := [(0, { HostDie.init with linkUp := true })] }
     releaseDue s = true ∧ s.service.ph = 2 ∧ 0 ∈ validHosts s ∧ (hostAt s 0).linkUp = true ∧ s.cmds = [] ∧
     ∀ h' ∈ validHosts s, adminQueue s h' = adminQueue s 0 → h' = 0) := by decide +kernel

/-! ## Clocks, power and heat -/

theorem witness_ReferencesAndMarginsActOnDomains :
    (let s := { panel with refclk := { panel.refclk with priOk := true } }
     s.rstN = true ∧ s.refclk.priOk = true ∧ panel.refclk.priOk = false) ∧
    (let s := { panel with refclk := { panel.refclk with altOk := true } }
     s.rstN = true ∧ s.refclk.altOk = true) ∧
    (coreOn panel 0 = true ∧ (clkAt panel 0).thrStretch < (clkAt panel 0).margin ∧
     (clkAt panel 0).thrStep < (clkAt panel 0).windowMin) ∧
    (let s := { panel with clk := [(0, { ClkDom.init with windowMin := 8, settling := some 1 })] }
     coreOn s 0 = true ∧ (clkAt s 0).windowMin ≤ (clkAt s 0).thrStep ∧ (clkAt s 0).marginCap ≠ 5 ∧
     (clkAt s 0).settling = some 1) ∧
    (let s := { panel with coreMonitors := [(3, { (coreMonAt panel 3) with source := 0x0A })] }
     (clkAt s 0).thrStep < (clkAt s 0).windowMin ∧ logOf s 0 = some 0 ∧ coreMonLost s 0 = false ∧
     (coreMonAt s 3).source = 0x0A) := by decide +kernel

/-- STEP_SET of an ACTION. -/
def stepCmd (a : Nat) (fields : List (Nat × Nat)) : Cmd := command0 0x0601 true ((72, a) :: fields)

theorem witness_StepSetSetsSteps :
    (let c := stepCmd 0 [(80, 1)]
     begins (commanded panel c) 3 c (fun x => isStepSet 0 x && stepTurn (commanded panel c) x) = true ∧ firstOf (ssPolicyChecks c) = none ∧
     0 ∈ (lcoresOf panel 0).filterMap (physOf panel) ∧ partOfP panel 0 = some 0 ∧ (clkAt panel 0).fixed = false) ∧
    (let c := stepCmd 1 [(192, 4096), (272, 1), (256, 3743)]
     let s := commanded panel c
     begins s 3 c (fun x => isStepSet 1 x && stepTurn s x) = true ∧ firstOf (ssReadChecks s c) = none ∧
     onDark s (ssDest c) (8 * ssCount c) = false ∧ firstUnmerged s (ssDest c) (8 * ssCount c) = none) ∧
    (∀ st ∈ [2, 7],
      let c := stepCmd 2 [(88, st)]
      let s := commanded panel c
      begins s 3 c (fun x => isStepSet 2 x && stepTurn s x) = true ∧ firstOf (ssFixChecks s c) = none ∧ 0 ∈ ssDomains s c ∧ ssStep c = st) ∧
    (let c := stepCmd 3 [(128, 3), (136, 2), (144, 1)]
     begins (commanded panel c) 3 c (fun x => isStepSet 3 x && stepTurn (commanded panel c) x) = true ∧ firstOf (ssThrChecks (commanded panel c) c) = none) := by
  decide +kernel

/-- The panel in a sag, or in a power-fail response. -/
def powered (sag pfw : Bool) : State := { panel with power := { panel.power with sag := sag, pfw := pfw } }

theorem witness_TheInputSagsFailsAndRecovers :
    panel.service.ph = 2 ∧ panel.power.sag = false ∧ (powered true false).power.sag = true ∧
    responding (powered true false) = false ∧ responding panel = false ∧
    (let s := { panel with power := { panel.power with pfw := true, recovering := true, sag := true } }
     s.power.pfw = true ∧ responding s = false) ∧
    (let s := powered false true
     s.power.pfw = true ∧ s.power.pfwN = true ∧ s.power.sag = false ∧ s.power.recovering = false ∧ s.service.ph = 2 ∧
     s.start.stage = .released ∧ ∀ n, n < 16 → (partAt s n).state ≠ .resetting) ∧
    (let s := { powered false true with parts := [(0, { Part.init with state := .resetting })] }
     (partAt s 0).state = .resetting ∧ s.power.pfw = true) := by decide +kernel

/-- Core 0 switching on, with a pause or without. -/
def switching (pause : Option Nat) : State :=
  { withCore { Core.init with stages := 7, pausedSince := pause } with pstates := [(0, .testing)] }

/-- POWER_POLICY of an ACTION. -/
def powerCmd (a : Nat) (fields : List (Nat × Nat)) : Cmd := command0 0x0600 true ((72, a) :: fields)

theorem witness_PowerIsGrantedCappedAndSet :
    (inRun panel = true ∧ panel.power.sag = false ∧ panel.power.pfw = false ∧ (tpwrAt panel 15).dark = false ∧
     (partAt panel 0).state ≠ .undefined ∧ (partAt panel 0).state ≠ .withdrawn) ∧
    (staging (switching none) 0 = true ∧ (coreAt (switching none) 0).pausedSince = none ∧
     staging (switching (some 1)) 0 = true ∧ (coreAt (switching (some 1)) 0).pausedSince.isSome = true ∧
     stageRoom (switching (some 1)) 0 2880 = true ∧ stageRoom (switching none) 0 2881 = false) ∧
    (let c := command0 0x0603 false []
     begins (commanded panel c) 3 c (isFn 0x0603 false) = true ∧ firstOf (slReadChecks c) = none) ∧
    (∀ l ∈ [500, 20000],
      let c := command0 0x0603 true [(64, l)]
      begins (commanded panel c) 3 c (isFn 0x0603 true) = true ∧ firstOf (slSetChecks (commanded panel c) c) = none) ∧
    (∀ w ∈ [12000, 46000],
      let c := powerCmd 0 [(112, w)]
      begins (commanded panel c) 3 c (isPowerPolicy 0) = true ∧ firstOf (ppCapChecks (commanded panel c) c) = none) ∧
    (let c := powerCmd 1 [(160, 3743), (176, 1), (192, 4096)]
     let s := commanded panel c
     begins s 3 c (isPowerPolicy 1) = true ∧ firstOf (ppReadChecks s c) = none ∧
     onDark s (ppDest c) (8 * ppCount c) = false ∧ firstUnmerged s (ppDest c) (8 * ppCount c) = none) ∧
    (∀ w ∈ [0, 400, 3400],
      let c := powerCmd 2 [(112, w)]
      begins (commanded panel c) 3 c (isPowerPolicy 2) = true ∧ firstOf (ppTileChecks (commanded panel c) c) = none) ∧
    (∀ w ∈ [(70, 100), (95, 2000)],
      let c := powerCmd 3 [(136, w.1), (144, w.2)]
      begins (commanded panel c) 3 c (isPowerPolicy 3) = true ∧ firstOf (ppStagingChecks (commanded panel c) c) = none) := by
  decide +kernel

theorem witness_SuppliesFail :
    (tpwrAt panel 15).dark = false ∧ (tpwrAt panel 15).phases.getLsbD 7 = true ∧ panel.power.pwrGood = true ∧
    domainOn panel 0 = true ∧ (pwrAt panel 0).phasesOk = 0xF ∧ tblGet 0 panel.tileReg 15 < 16 ∧
    (let s := { panel with tpwr := [(15, { TilePwr.init with phases := 0x3F })] }
     (tpwrAt s 15).dark = false ∧ (tpwrAt s 15).phases.getLsbD 5 = true ∧ phasesOf s 15 ≤ 6) ∧
    (let s := { panel with tileReg := [(0, 2)] }
     tblGet 0 s.tileReg 0 = 2) := by decide +kernel

/-- The panel with a hot partition, capped one step, and a warning. -/
def hot : State :=
  { panel with
    parts := [(0, { Part.init with state := .inService, thermalCap := 1 })],
    thermal := { panel.thermal with hot := [0], warn := true, sensors := [(2, ⟨some 110, false, 1⟩)] } }

theorem witness_TemperaturesAreWatched :
    (∀ k ∈ [0, 27, 28], sensorThere 0 k = true) ∧ panel.rstN = true ∧ sensorOk panel 0 0 125 = true ∧
    sensorOk panel 0 0 126 = false ∧ (sensorOk hot 0 2 110 = true ∧ sensorThere 0 2 = true ∧ (sensorAt hot 0 2).shut = 1) ∧
    (inRun hot = true ∧ 0 ∈ hot.thermal.hot ∧ (partAt hot 0).thermalCap = 1) ∧
    (let s := { hot with thermal := { hot.thermal with sensors := [(2, ⟨some 90, false, 0⟩)] } }
     (partAt s 0).thermalCap ≠ 0 ∧ (∀ tile ∈ partTiles s 0, tileHot s tile ≤ 95) ∧ s.thermal.warn = true ∧
     anyTileAt s 91 = false ∧ mayWarm s 0 = false) ∧
    (∀ e ∈ [false, true],
      let c := command0 0x0602 e []
      begins (commanded panel c) 3 c (fun c => c.fn == 0x0602 && !kwWrite c) = true ∧
      firstOf (kwChecks (commanded panel c) c) = none) ∧
    (∀ f ∈ [(false, [(65, 1)]), (true, [(64, 1), (65, 1), (72, 35)]), (true, [(65, 1), (72, 60)])],
      let c := command0 0x0602 f.1 f.2
      begins (commanded panel c) 3 c (fun c => c.fn == 0x0602 && kwWrite c) = true ∧
      firstOf (kwChecks (commanded panel c) c) = none) := by decide +kernel

/-! ## Monitors, service contacts and the edge fabric -/

/-- MONITOR_CONFIG of an ACTION. -/
def monCmd (a : Nat) (fields : List (Nat × Nat)) : Cmd := command0 0x0500 true ((72, a) :: fields)

theorem witness_MonitorsAndMapsAreTakenAndRead :
    (coreMonLost panel 0 = false ∧ (coreMonAt panel 3).source ≠ 0 ∧ (tpwrAt panel 0).dark = false ∧
     (tileMonAt panel 49).source ≠ 0) ∧
    (∀ a ∈ [(0, [(80, 2)]), (0, [(80, 1), (64, 1)]), (1, []), (1, [(64, 1)]), (2, [(112, 3), (128, 5), (136, 2), (192, 1)]),
            (2, [(64, 1), (112, 63), (128, 2), (136, 15), (157, 1), (192, 31)])],
      let c := monCmd a.1 a.2
      begins (commanded panel c) 3 c (fun x => isMc a.1 x && monTurn (commanded panel c) x) = true ∧ firstOf (mcChecks (commanded panel c) c) = none) ∧
    (∀ f ∈ [[(64, 0)], [(64, 0), (72, 1)], [(64, 1), (72, 1)], [(64, 2)], [(64, 3)]],
      let c := command0 0x0501 true ([(176, 1), (192, 4096)] ++ f)
      let s := commanded panel c
      let n := ((mrRange c).flatMap (mrRecord s (mrSection c))).length
      begins s 3 c (fun x => isFnAny 0x0501 x && (decide (2 ≤ mrSection x) || monTurn s x)) = true ∧ firstOf (mrChecks s c) = none ∧ onDark s (mrDest c) n = false ∧
      firstUnmerged s (mrDest c) n = none) ∧
    (∀ f ∈ [[], [(148, 1), (128, 1)], [(148, 1), (128, 10000), (144, 4), (147, 1)]], ∀ k ∈ [0, 1],
      let c := command0 0x0502 true ((64, 4096) :: f)
      let s := { commanded panel c with cmap := { panel.cmap with seq := k } }
      begins s 3 c (isFnAny 0x0502) = true ∧ firstOf (cmChecks s c) = none ∧
      onDark s (cmDest c) (mapBytes s c.host).length = false ∧
      firstUnmerged s (cmDest c) (mapBytes s c.host).length = none) ∧
    (curatorAt panel panel.lead).state = .posting := by decide +kernel

/-- The panel in TEST, a die selected or none. -/
def inTestWith (die : Option Nat) : State :=
  { staged .test with service := { State.reset.service with ph := 1, tapDie := die } }

theorem witness_TheTapActsInTest :
    inTest (inTestWith none) = true ∧ (inTestWith none).service.lastStack = none ∧ inTest (inTestWith (some 453)) = true ∧
    (inTestWith (some 453)).service.tapDie = some 453 := by decide +kernel

theorem witness_TheI3cTargetAnswers :
    i3cOn panel = true ∧ panel.service.i3cAddr = none ∧ panel.service.ph = 2 ∧ panel.service.i3cEvents.getLsbD 3 = true ∧
    panel.service.hotJoined = false ∧
    (let s := { panel with service := { panel.service with i3cAddr := some 9, ibiState := 0 } }
     i3cOn s = true ∧ s.service.i3cAddr.isSome = true ∧ s.service.i3cEvents.getLsbD 0 = true ∧
     s.service.ibiState ≠ ibiLevels s) := by decide +kernel

/-- The panel with port 0 UP, that flow, and n frames of the other received since an ACK. -/
def linked (t : TxFlow) (n : Nat) : State :=
  { panel with
    cores := (withTask (task0 0x50)).cores,
    fabric := { panel.fabric with
      ports := [(0, { Port.init with state := .up })], tx := [t],
      rx := [{ key := (frame0 0 0).flow, epoch := 0, expect := n, sinceAck := n }] },
    reqs := [{ id := 8, who := .task 0 7, packets := [], frames := [frame0 0 0], attempts := 1 },
             { id := 9, who := .task 0 7, packets := [], frames := [frame0 0 0], attempts := 2 }] }

theorem witness_FlowsMoveFrames :
    (∀ n ∈ [3, 15],
      let s := linked (tx0 0 false) n
      let f := frame0 0 n
      (portAt s 0).state = .up ∧ (portAt s 0).serThr = 0 ∧ f.bad = false ∧ f.pause = false ∧ f.macPanel = panelId s ∧
      f.ver = 1 ∧ f.reservedSet = false ∧ f.type = 0 ∧ f.data.length ≤ 4096 ∧ f.flow.dstSrv = false ∧
      f.flow.dstId = panelId s ∧ f.epoch = (rxFlow s f.flow).epoch ∧ f.seq = (rxFlow s f.flow).expect ∧
      (rxFlow s f.flow).expect < 2 ^ 24 ∧ (frame0 0 (n - 1)).seq + 1 = (rxFlow s f.flow).expect ∧
      0 < (rxFlow s f.flow).sinceAck) ∧
    (let s := linked (tx0 0 false) 3
     (frame0 1 0).type = 1 ∧ s.fabric.changes = [] ∧ (∀ x ∈ s.fabric.tx, x.move = none) ∧
     txFlow s (ackedFlow (frame0 1 0)) = some (tx0 0 false) ∧
     (tx0 0 false).epoch = (frame0 1 0).epoch ∧ (tx0 0 false).heldAdvance = false ∧ (tx0 0 false).waiting = [] ∧
     (tx0 0 false).unacked ≠ [] ∧ (tx0 0 false).port = some 0 ∧ (tx0 0 false).tries < 8 ∧ (tx0 0 false).move = none) ∧
    (∀ id ∈ [8, 9],
      let s := linked (tx0 0 false) 3
      let u := task0 0x50
      (s.reqs.find? (fun y => y.id == id && !y.frames.isEmpty)).any (fun x =>
        decide (x.who = .task 0 7) && !frameQueued s x && decide (x.attempts = id - 7) && x.frames.all fun g =>
          (flowPort s g.flow).any fun n => routeValid s (pcoreCode 0 / 512) (edgeDieTile (n / 2))) = true ∧
      taskOf (coreAt s 0) 7 = some u ∧ u.finished = false) ∧
    (let s := linked (tx0 8 true) 3
     txFlow s (ackedFlow (frame0 1 0)) = some (tx0 8 true) ∧ 8 ≤ (tx0 8 true).tries ∧ s.fabric.changes = [] ∧
     (∀ x ∈ s.fabric.tx, x.move = none) ∧ (tx0 8 true).heldAdvance = true ∧ (tx0 8 true).lastAdvance = none) := by
  decide +kernel

/-- PORT_CONFIG of an ACTION. -/
def portCmd (a : Nat) (e : Bool) (fields : List (Nat × Nat)) : Cmd := command0 0x0900 e ((72, a) :: fields)

/-- Ports 0 to 3: UP, TRAINING, DRAINING, DISABLED. -/
def ported (c : Cmd) : State :=
  { commanded panel c with
    fabric := { panel.fabric with
      ports := [(0, { Port.init with state := .up }), (1, { Port.init with state := .training }),
                (2, { Port.init with state := .draining }), (3, { Port.init with state := .disabled })] } }

theorem witness_PortsChangeState :
    (let s := ported (portCmd 0 false [])
     (portAt s 0).state = .up ∧ (portAt s 1).state = .training ∧ (portAt s 2).state = .draining ∧ edgeDieOk s 15 = true ∧
     ∀ e ∈ s.cmds, e.wait = .none) ∧
    (∀ m ∈ [1, 15],
      let c := portCmd 0 false [(160, m)]
      begins (ported c) 3 c (isPc fun a => a == 0 || decide (5 ≤ a)) = true ∧ firstOf (pcChecks (ported c) c) = none) ∧
    (∀ m ∈ [8, 15],
      let c := portCmd 1 false [(160, m)]
      begins (ported c) 3 c (fun c => isPc (· == 1) c && !c.expert) = true ∧ firstOf (pcChecks (ported c) c) = none) ∧
    (let c := portCmd 1 true [(160, 15)]
     begins (ported c) 3 c (fun c => isPc (· == 1) c && c.expert) = true ∧ firstOf (pcChecks (ported c) c) = none ∧
     (ported c).fabric.changes = [] ∧ (ported c).reqs = [] ∧ (ported c).fabric.tx = []) ∧
    (let c := portCmd 2 false [(160, 2 ^ 32 - 1)]
     begins (ported c) 3 c (isPc (· == 2)) = true ∧ firstOf (pcChecks (ported c) c) = none) ∧
    (∀ f ∈ [[], [(224, 0x600), (208, 16), (206, 3), (194, 255), (193, 1)]],
      let c := portCmd 3 true ((160, 15) :: f)
      begins (ported c) 3 c (isPc (· == 3)) = true ∧ firstOf (pcChecks (ported c) c) = none) ∧
    (let c := portCmd 4 true [(240, 4095), (256, 4096)]
     begins (ported c) 3 c (isPc (· == 4)) = true ∧ firstOf (pcChecks (ported c) c) = none ∧
     onDark (ported c) (pcBlock c) 64 = false ∧ firstBad (ported c) (pcBlock c) 64 = none ∧
     entryFlows (ported c) (pcEndpoint c) = [] ∧
     (let s := { ported c with fabric := { (ported c).fabric with
        tx := [tx0 0 false], endpoints := [(pcEndpoint c, BitVec.ofNat 512 (2 ^ 200))] } }
      ∀ i ∈ [0], ackedFlow (frame0 1 0) ∈ entryFlows s i ∧ (txFlow s (ackedFlow (frame0 1 0))).any (fun x =>
        decide (x.unacked ≠ [] ∧ x.move ≠ some true)) = true)) := by decide +kernel

/-- A packet at a slice of tile 0, or at core 0, that no command has taken. -/
def forSlice (kind : Nat) (b : Body) : Packet := { atUnit b with kind := kind, dunit := 1, vc := 2, place := .router 0 0 }

theorem witness_StreamsMoveBetweenMemories :
    (∀ op ∈ [0x41, 0x42],
      let s := issuing (sample op)
      let a := (memPiece (sample op) 0).2.2.1
      readyRow op noRoot (fun s => grantCheck s 0) = true ∧ 0 < xRows (sample op) * xBpr (sample op) ∧
      xShare (sample op) = 0 ∧ (coreAt s 0).failing = [] ∧
      (homeOf s a).any (fun h => !(tpwrAt s h.tile).dark && routeValid s (pcoreCode 0 / 512) h.tile) = true) ∧
    (let d := desc 0x41 [(14, 2), (128, refA), (192, 1), (224, 64), (336, 2), (352, 2)]
     ready (issuing d) 0 0x41 noRoot (grantCheck (issuing d) 0) ⟨1, d, none⟩ = true ∧ xShare d ≠ 0 ∧ (issuing d).gathers = []) ∧
    (∀ b ∈ [Body.rdReq (.task 0 7) 128 64 true, .wrReq (.task 0 7) 128 true (List.replicate 64 1)],
      let k := forSlice 1 b
      let s := { panel with packets := [k] }
      deliverable s 4 k = true ∧ partsApart s = true ∧ s.slices = [] ∧ firstBad s 128 64 = none ∧
      firstUnmerged s 128 64 = none ∧ (∀ x ∈ blocksOf 128 64, (homeOf s x).isSome = true) ∧
      routeValid s (k.dst / 512) (k.src / 512) = true) ∧
    (∀ op ∈ [0x41, 0x42], ∀ rows ∈ [1, 2],
      let u := { task0 op with desc := desc op [(128, refA), (192, rows), (224, 64), (256, 64), (288, 16)], locs := [⟨.A, 0⟩] }
      let a := (memPiece u.desc 0).2.2.1
      let n := (memPiece u.desc 0).2.2.2
      let k := atUnit (if op = 0x41 then .rdData (.task 0 7) a (List.replicate n 1) else .wrAck (.task 0 7) a)
      let s := { withTask u with packets := [k] }
      deliverable s 4 k = true ∧ taskOf (coreAt s 0) 7 = some u ∧ waitsAt u op a = true ∧ (coreAt s 0).failing = [] ∧
      (xRows u.desc * xBpr u.desc ≤ u.progress + n ↔ rows = 1) ∧
      (rows = 1 ∨ (homeOf s (memPiece u.desc n).2.2.1).any (fun h => !(tpwrAt s h.tile).dark &&
        routeValid s (pcoreCode 0 / 512) h.tile) = true)) := by decide +kernel

/-! ## The block as a whole -/

theorem witness_StepRunsTheFrontCommand : step { panel with pending := [.idcode] } = .next { panel with pending := [] } := rfl

theorem witness_StepKeepsTheInvariant :
    memWf panel.mem = true ∧ provOk panel ∧ cmdsOk panel ∧ partsApart panel = true ∧ slicesOk panel ∧
    exec .idcode panel = .next panel ∧ step { panel with pending := [.idcode] } = .next panel ∧ panel.sealed = true ∧
    storesNothing .idcode = true :=
  ⟨by decide +kernel, ⟨⟨by simp [panel, State.reset], by simp [panel, State.reset]⟩,
    ⟨by simp [panel, State.reset], by simp [panel, State.reset]⟩⟩,
    ⟨by simp [panel, State.reset], by simp [panel, State.reset]⟩, by decide +kernel, slicesOk_of rfl, rfl, rfl, rfl, rfl⟩

/-- A command that each of these rows refuses: the row's own commands, its checks, the command. -/
def refusals : List ((Cmd → Bool) × (State → Cmd → List (Bool × Status)) × Cmd) :=
  [(isFnAny 0x0010, createChecks, command0 0x0010 false []),
   (isFn 0x0012 false, fun s c => targetChecks s c true, command0 0x0012 false [(64, 3)]),
   (isFn 0x0013 false, fun s c => targetChecks s c false, command0 0x0013 false [(64, 3)]),
   (isFn 0x0013 true, fun s c => targetChecks s c false, command0 0x0013 true [(64, 3)]),
   (isFn 0x0011 false, fun s c => targetChecks s c false, command0 0x0011 false [(64, 3)]),
   (isFn 0x0011 true, fun s c => targetChecks s c false, command0 0x0011 true [(64, 3)]),
   (isFn 0x0200 false, fun s c => memChecks s c true, command0 0x0200 false []),
   (isFn 0x0200 true, fun s c => memChecks s c true, command0 0x0200 true []),
   (isFn 0x0201 false, fun s c => memChecks s c false, command0 0x0201 false []),
   (isFn 0x0201 true, fun s c => memChecks s c false, command0 0x0201 true []),
   (isFc 0 none, fcSetChecks, command0 0x0400 false []), (isFc 1 none, fcSwitchChecks, command0 0x0400 false [(96, 1)]),
   (isFc 2 (some false), fcSwitchChecks, command0 0x0400 false [(96, 2)]),
   (isFc 2 (some true), fcSwitchChecks, command0 0x0400 true [(96, 2)]),
   (isFnAny 0x0401, frChecks, command0 0x0401 false []), (isMc 0, mcChecks, monCmd 0 [(80, 3)]),
   (isMc 1, mcChecks, monCmd 1 [(80, 1)]), (isMc 2, mcChecks, monCmd 2 []), (isFnAny 0x0501, mrChecks, command0 0x0501 false []),
   (isFnAny 0x0502, cmChecks, command0 0x0502 false [(64, 1)]), (isPowerPolicy 0, ppCapChecks, powerCmd 0 []),
   (isPowerPolicy 1, ppReadChecks, powerCmd 1 []), (isPowerPolicy 2, ppTileChecks, powerCmd 2 [(112, 399)]),
   (isPowerPolicy 3, ppStagingChecks, powerCmd 3 []), (isStepSet 0, fun _ => ssPolicyChecks, stepCmd 0 [(80, 3)]),
   (isStepSet 1, ssReadChecks, stepCmd 1 []), (isStepSet 2, ssFixChecks, stepCmd 2 [(88, 6)]), (isStepSet 3, ssThrChecks, stepCmd 3 []),
   (isFn 0x0603 false, fun _ => slReadChecks, command0 0x0603 false [(64, 1)]), (isFn 0x0603 true, slSetChecks, command0 0x0603 true []),
   (isFnAny 0x0701, prChecks, command0 0x0701 false [(68, 1)]), (isFn 0x0703 false, fun _ => epReadChecks, command0 0x0703 false [(72, 1)]),
   (isFn 0x0703 true, epSetChecks, command0 0x0703 true [(72, 1)]), (isFnAny 0x0704, pvChecks, command0 0x0704 false []),
   (isFnAny 0x0800, attestChecks, command0 0x0800 false [(384, 1)]), (isFnAny 0x0801, fwStageChecks, command0 0x0801 false [(200, 1)]),
   (isFnAny 0x0802, commitChecks, command0 0x0802 false [(200, 3)]), (isPc (· == 2), pcChecks, portCmd 2 false []),
   (isPc (· == 3), pcChecks, portCmd 3 false []), (isPc (· == 4), pcChecks, portCmd 4 false []),
   (ruExpert 1, ruRouteChecks, command0 0x0901 true [(64, 1), (80, 16)]),
   (ruExpert 2, ruShareChecks, command0 0x0901 true [(64, 2), (80, 16)]),
   (isFn 0x0A00 false, catChecks, command0 0x0A00 false []), (isFn 0x0A00 true, catChecks, command0 0x0A00 true [])]

theorem witness_RefusedCommandsAnswerTheirStatus :
    refusals.length = 44 ∧ ∀ r ∈ refusals,
      let s := commanded panel r.2.2
      begins s 3 r.2.2 r.1 = true ∧ monTurn s r.2.2 = true ∧ stepTurn s r.2.2 = true ∧ fwTurn s r.2.2 = true ∧
      fwWriting s 3 r.2.2.fn = none ∧ firstOf (r.2.1 s r.2.2) = some .badParam := by
  decide +kernel

theorem witness_HandleFreeOfAScaleIsRefused :
    (let s := withCore (boundCore (sample 0x91) (some 0))
     ready s 0 0x91 noRoot noMore ⟨1, sample 0x91, none⟩ = true ∧
     (handleOf (coreAt s 0) (fld (sample 0x91) 73 64)).isSome = true ∧
     (∃ e ∈ (coreAt s 0).handles, e.2.scale = some (fld (sample 0x91) 73 64))) ∧
    (let s := withCore (boundCore (sample 0x91) none)
     (∀ e ∈ (coreAt s 0).handles, e.2.scale ≠ some (fld (sample 0x91) 73 64)) ∧
     inWindow s 0 (fld (sample 0x91) 73 64) = false) := by decide +kernel

theorem witness_ExtendedRecordsTakeSixtyFourBytes :
    (∀ e ∈ [0, 1],
      let c := command0 0x0010 true [(64, 2 ^ 20), (128, 2 ^ 21), (480, 9), (496, 8), (501, 8), (508, e)]
      let s := commanded sixteen c
      begins s 3 c (isFnAny 0x0010) = true ∧ firstOf (createChecks s c) = none ∧ c.expert = true ∧ qcQueue c = 9 ∧
      fld c.pkt 508 508 = e) ∧
    ({ Queue.init with ext := true }.ext = true ∧ (record0 none).time < 2 ^ 64) ∧
    (let c := command0 0x0001 false []
     begins (commanded panel c) 3 c (isFn 0x0001 false) = true) ∧
    (let s := { panel with queues := [(3, { Queue.init with state := .enabled, ext := true, sqLog := 8, cqBase := 65536, cqLog := 8,
                                                            unit := some 0, records := [record0 none] })] }
     let x := queueAt s 3
     x.ext = true ∧ x.records = record0 none :: [] ∧ (record0 none).follows = none ∧ x.state ≠ .free ∧ cqFullNow x = false ∧ (x.cqBase + 64 * x.cqTail) % 64 = 0 ∧
     (regionOf s (x.cqBase + 64 * x.cqTail)).isSome = true ∧ s.bad = [] ∧
     soundDevices s = true ∧ partsApart s = true ∧ s.slices = []) := by decide +kernel

theorem witness_RunWithoutASpareIsRefused :
    (∀ f ∈ [[], [(288, 1)]],
      let c := command0 0x0101 false f
      let s := { commanded (jobs false) c with cat := [(0, ⟨true, false, 0⟩), (1, ⟨false, false, 1⟩)] }
      begins s 3 c (fun x => x.fn == 0x0101 && !swapping s (ruPart x)) = true ∧ (partAt s (ruPart c)).auto = false ∧
      (∃ e ∈ slotRanks s (ruPart c) (ruSlot c), (catAt s e.2).valid = false) ∧
      firstOf ((runChecks s c).take 3) = if f = [] then none else some .badParam) ∧
    (let c := command0 0x0702 true [(104, 1), (64, 4), (80, 1)]
     let s := spared c
     begins s 3 c (fun c => c.fn == 0x0702 && acAction c == 1) = true ∧ firstOf (plcChecks s c) = none ∧ s.drains = []) := by
  decide +kernel

/-! ## Ill-formed commands -/

/-- A core, queue, device, tile, partition or port number one past its range is refused, whatever else a command names. -/
theorem test_wellFormed_refuses_numbers :
    (∀ f ∈ ([.ucieModuleFail, .ucieLinkDownTimeout] : List (Nat → Instr)), (f 4).wellFormed = false) ∧
    (∀ f ∈ ([.partitionResetStart, .curatorSilence, .curatorRestartTimeout, .holdLimitExpiry, .thermalCapWindow,
      .thermalCapRecovery, .edgePortDieFault] : List (Nat → Instr)), (f 16).wellFormed = false) ∧
    (∀ f ∈ ([.portDisableDrainExpiry, .portLinkDown] : List (Nat → Instr)), (f 32).wellFormed = false) ∧
    (∀ f ∈ ([.devicePredictiveTrigger, .deviceLastingFault] : List (Nat → Instr)), (f 68).wellFormed = false) ∧
    (∀ f ∈ ([.bypass] : List (Nat → Instr)), (f 256).wellFormed = false) ∧
    (∀ f ∈ ([.mma, .mmaAt, .mmaBt, .mmaAcc, .mmaAccAt, .mmaAccBt, .mmaKsplit, .mmaKsplitBt, .vecMap, .vecReduce, .vecScan,
      .vecSoftmax, .vecNorm, .vecConvert, .gather, .gatherSum, .scatter, .scatterAdd, .dmaCopy, .streamIn, .streamOut,
      .fabricIn, .fabricOut, .send, .recv, .put, .windowWait, .reduce, .allreduce, .broadcast, .barrier, .waitFlag,
      .setFlag, .clearFlag, .loop, .branchCount, .endRun, .fingerprintMark, .fingerprintClear, .fingerprintStore,
      .handleBind, .handleFree, .baseBoundSet, .descriptorFetch, .refusedDescriptorCommit, .tileDispatch, .coreRunStart,
      .coreAbort, .stepBoundary, .streamedListRefetch, .marginStretchEnd, .marginWindow, .regulatorSettled,
      .stagePauseLimit] : List (Nat → Instr)), (f 3744).wellFormed = false) ∧
    (∀ f ∈ ([.windowOpen, .windowClose, .windowCloseExpert, .catalogueRead, .catalogueReadExpert, .barrierGroupCreate,
      .barrierGroupDestroy, .barrierGroupDestroyExpert, .commandFetch, .completionRecordWrite, .echo, .echoExpert,
      .queueCreate, .queueDestroy, .queueDestroyExpert, .queueEnable, .queueDisable, .queueDisableExpert, .run, .abort,
      .stepMark, .stepMarkExpert, .fingerprintConfigure, .fingerprintEnable, .fingerprintDisable, .fingerprintDisableExpert,
      .fingerprintRead, .crcContextSet, .crcContextGet, .faultLogReadRecords, .faultLogReadCounters, .partitionReset,
      .escalationPolicyRead, .escalationPolicySet, .provenanceRead, .attest, .fwStage, .fwCommit, .charterRead,
      .stepSetPolicy, .stepSetRead, .stepSetFix, .stepSetThresholds, .slewLimit, .slewLimitExpert, .powerPolicyPanelCap,
      .powerPolicyRead, .powerPolicyTileCap, .powerPolicyStaging, .keepWarmRead, .keepWarmWrite, .monitorConfigPreset,
      .monitorConfigClear, .monitorConfigSet, .monitorRead, .congestionMapRead, .portConfigEnable, .portConfigDisable,
      .portConfigDisableExpert, .portConfigRead, .portConfigSet, .portConfigEndpoint, .routeUpdatePortset,
      .routeUpdatePanelRoute, .routeUpdateShares] : List (Nat → Instr)), (f 65536).wellFormed = false) := by decide +kernel

/-- Each of two or more operands is checked by itself, part 1. -/
theorem test_wellFormed_refuses_operands1 :
    ∀ c ∈ ([.sharedStreamFetchStart 16 0, .sharedStreamFetchStart 0 65536, .taskCommit 3744 0, .engineTileDone 3744 0,
      .engineTileDone 0 8, .engineTileError 3744 0, .engineTileError 0 8, .engineKatTileDone 3744 0 true, .engineKatTileDone
      0 8 true, .engineOffline 3744 0, .engineOffline 0 8, .taskFaultDetect 3744 0, .waitLimitExpiry 3744 .head,
      .waitFurtherLimitExpiry 3744 .head, .spdCorrectedWriteback 3744 .W 0 true, .spdCorrectedWriteback 0 .W 2097152 true,
      .spdUncorrectableRead 3744 none .W 0 true, .spdUncorrectableRead 0 none .W 2097152 true, .patrolScrubRead 3744 true
      none, .coalescingBufferClose 3744 true, .arbitrationStarvationPriority 3744 .W 0 0, .arbitrationStarvationPriority 0
      .W 96 0, .arbitrationStarvationPriority 0 .W 0 41, .apertureRead 4 0 0 0, .apertureRead 0 32 0 0, .apertureRead 0 0 0
      3, .apertureWrite 4 0 0 0 0, .apertureWrite 0 32 0 0 0, .apertureWrite 0 0 0 3 0, .flitCrcFail (.crossing 16 0),
      .flitCrcFail (.crossing 0 16), .flitCrcFail (.inDie 16 0 0 1), .flitCrcFail (.inDie 0 13 0 1), .flitCrcFail (.inDie 0
      0 18 1), .flitCrcFail (.inDie 0 0 0 18), .flitCrcFail (.vertical 16 0 0), .flitCrcFail (.vertical 0 13 0),
      .flitCrcFail (.vertical 0 0 4), .flitCrcFail (.baseMesh 16 0 1), .flitCrcFail (.baseMesh 0 16 1), .flitCrcFail
      (.baseMesh 0 0 16), .flitCrcFail (.ctrlDie 16 0), .flitCrcFail (.ctrlDie 0 13), .flitCrcFail (.ctrlTile 16 1),
      .flitCrcFail (.ctrlTile 0 0), .flitCrcFail (.ctrlTile 0 5), .flitCrcFail (.ucie 4), .flitReplayResult (.baseMesh 16 0
      1) true none, .laneGroupRetrainDone 16 0 true, .laneGroupRetrainDone 0 16 true, .syncSampleError (.diePort 16 0),
      .syncSampleError (.diePort 0 13), .syncSampleError (.site 16 0), .syncSampleError (.site 0 13), .syncSampleError
      (.inter 16 1), .syncSampleError (.inter 0 0), .syncSampleError (.inter 0 5), .broadcastBeat 16 0 0 true,
      .broadcastBeat 0 0 13 true, .replicatorRow 16 0, .windowCloseWaitExpiry 3072 0, .windowCloseWaitExpiry 0 64,
      .windowGenAdvance 3072 0, .windowGenAdvance 0 64, .putResendTimer 3744 0, .windowTransferSilence 3072 0 0,
      .windowTransferSilence 0 4194304 0, .windowTransferSilence 0 0 4096, .barrierRelease 3744 0, .barrierRelease 0 64,
      .sliceRead 4 0 0 0, .sliceRead 0 32 0 0, .sliceRead 0 0 0 3, .sliceWrite 4 0 0 0 0, .sliceWrite 0 32 0 0 0,
      .sliceWrite 0 0 0 3 0, .deviceCopyDone 68 []] : List Instr), c.wellFormed = false := by decide +kernel

/-- Each of two or more operands is checked by itself, part 2. -/
theorem test_wellFormed_refuses_operands2 :
    ∀ c ∈ ([.wckTracking 68 0 true, .wckTracking 0 4 true, .deviceTemperatureReport 68 0, .ecsResultRead 68 0, .dblSqTail 4
      0 0 0, .dblSqTail 0 32 0 0, .dblSqTail 0 0 65536 0, .dblCqHead 4 0 0 0, .dblCqHead 0 32 0 0, .dblCqHead 0 0 65536 0,
      .contextLoadDone 4 0, .contextLoadDone 0 65536, .spillWriteAck 4 0, .spillWriteAck 0 65536, .unpopulatedAccess 4 0 0
      .load, .unpopulatedAccess 0 32 0 .load, .programLoad 65536 true, .memCopy 65536 none none, .memCopyExpert 65536 none
      none, .memFill 65536 none none, .memFillExpert 65536 none none, .mbxThPush 4 0 0 0, .mbxThPush 0 32 0 0, .mbxThPush 0
      0 256 0, .mbxThPop 4 0 0, .mbxThPop 0 32 0, .mbxThPop 0 0 256, .mbxTpPush 4 0 0 0, .mbxTpPush 0 32 0 0, .mbxTpPush 0 0
      256 0, .mbxRing 4 0 0 0, .mbxRing 0 32 0 0, .mbxRing 0 0 256 0, .mbxMask 4 0 0 0, .mbxMask 0 32 0 0, .mbxMask 0 0 256
      0, .mbxMsi 4 0 0 0, .mbxMsi 0 32 0 0, .mbxMsi 0 0 256 0, .consoleOutput 256 [], .fingerprintFeed 3744 0 0,
      .partitionResetRelease 16 [] [], .accessionComplete 16 0 true, .accessionComplete 0 3072 true, .accessionKatFail 16 0
      0, .accessionKatFail 0 3072 0, .accessionRetest 65536 [] [], .accessionPlace 65536 .pass, .dieFence 16 0 .dieFault,
      .dieFence 0 13 .dieFault, .spdWordRewriteCheck 3744 .W 0 true, .spdWordRewriteCheck 0 .W 2097152 true,
      .stragglerStaging 3744 .pass, .pllLossOfLock 16 0, .pllLossOfLock 0 13, .marginSample 3744 0, .marginSample 0 64,
      .powerCapStepChange 16 true, .converterPhaseFault 16 0, .converterPhaseFault 0 8, .breakerTrip 16 true,
      .regulatorPhaseFault 3760 0, .regulatorPhaseFault 0 4, .headerStage 3744 0, .stagePauseRecheck 3744 0, .sensorSample
      16 0 0, .keepWarmEvaluate 16 0, .stackPower true 16 0, .stackPower true 0 13, .flashAccess 2 (.charter 0 []),
      .fabricDataFrame 32 (frame0 0 0), .fabricAckFrame 32 (frame0 0 0), .portTrainingDone 32 true, .broadcastTreeMessage []
      [], .broadcastTreeMessage (List.replicate 33 0) [], .consoleOutput 0 [0, 2 ^ 59]] : List Instr), c.wellFormed = false
      := by decide +kernel

/-- The same commands in range are well formed. -/
theorem test_wellFormed_accepts :
    ∀ c ∈ ([.mma 3743, .run 65535, .regulatorPhaseFault 3759 3, .spdCorrectedWriteback 3743 .A 3145727 true,
      .apertureRead 3 31 0 64, .flitCrcFail (.vertical 15 12 3), .portTrainingDone 31 true, .stackPower true 15 12,
      .deviceCopyDone 67 [], .windowGenAdvance 3071 63] : List Instr), c.wellFormed = true := by decide +kernel

/-! ## The spec's worked examples -/

/-- The example site's partitions A, B and C (Table 01-9), the catalogue's home entries of L0 and L1006, panel 1. -/
def site : State :=
  { panel with
    straps := { State.reset.straps with panelId := 1, traySlot := 2, charterSel := 1 },
    charter := charterFrom ([(0, 0x100), (8, 0x8810000000000500), (9, 0x8820000000000508), (10, 0x88C0000000000D02)] ++
      hostRecord 0 0 1 65536 0 16383),
    parts := [(0, { Part.init with state := .inService }), (1, { Part.init with state := .inService })],
    cat := [(0, catEntry 0 (homePhys 0)), (1006, catEntry 1006 (homePhys 1006))] }

/-- Chapter 01 and chapter 07: L1006 is T6.D3.C14, with NI_CAT entry 0x8C6E; its spare C16 gives 0x8C70. -/
theorem test_home_of_L1006 :
    homePhys 1006 = physNum 6 3 14 ∧ physNum 6 3 14 = 1472 ∧ catWord (catEntry 1006 1472) = 0x8C6E ∧
    catWord (catEntry 1006 (physNum 6 3 16)) = 0x8C70 := by decide +kernel

/-- Chapter 07: rank 1,262 of a map of one segment is L1006 on panel 1. -/
theorem test_rank_1262 : rankTarget [segOf 0x9040018000000000] 1262 = some (1, 1006) := by decide +kernel

/-- Chapter 02: an E4M3 × E4M3 element over two MX blocks. -/
def mxDesc : Desc :=
  desc 0x12 [(64, refW), (96, refW + 32), (128, refA), (160, refW + 64), (192, refW + 96), (224, 1), (240, 1), (256, 64), (384, 3),
    (392, 3), (400, 0x0D)]

/-- A, B and their scales, as the example gives them. -/
def mxCore : Core :=
  { core0 with
    w := memWrite (memWrite (memWrite (memWrite [] 0 (List.replicate 16 0x3C ++ List.replicate 16 0x01 ++ List.replicate 32 0x38)) 128
      (List.replicate 16 0x41 ++ List.replicate 15 0xFE ++ [0x01] ++ List.replicate 32 0x38)) 256 [0x80, 0xA7]) 384 [0x7C, 0xA4] }

theorem test_ps96_of_two_blocks :
    (resolveAll mxCore mxDesc false).map (fun x =>
      let t := { newTask mxCore ⟨1, mxDesc, none⟩ 0 with locs := x.locs }
      let one := addBlock mxCore t 0 0 0 32 (.zero, 0)
      (encodePs96 one.1, encodePs96 (addBlock mxCore t 0 0 32 32 one).1)) =
      some (0x4002A3800100000000000000, 0x405180000000000000000001) := by decide +kernel

/-- Chapter 08: ALLREDUCE SUM over six members, tree and value. -/
theorem test_allreduce_of_six :
    let v (w : Word) : Val := fp32Val w
    let n1 := addPs96 (v 0x68000000) (v 0x3F800000)
    let n3 := addPs96 (v 0xE8000000) (v 0x3F800000)
    let n5 := addPs96 (v 0x3F800000) (v 0x3F800000)
    let n4 := addPs96 (addPs96 n1.1 n3.1).1 n5.1
    (convert 0x0D false .nearest n4.1).1 = 0x40000000 ∧ encodePs96 n1.1 = encodePs96 (v 0x68000000) ∧
    encodePs96 n3.1 = encodePs96 (v 0xE8000000) := by decide +kernel

/-- Chapter 05: the aperture address of word 0x3_0123 of P on L1006. -/
theorem test_aperture_of_P : apTarget site 1 0x5007DD4C048C 4 false = some (1472, .mem .P (4 * 0x30123)) := by decide +kernel

/-- Chapter 09: the home of an address of partition A, and the first byte of B and of C. -/
theorem test_home_of_an_address :
    (homeOf site 0x12345600).map (fun h => (h.part, h.tile, h.router, h.device, h.channel, h.line)) =
      some (0, 4, 5, 6, 1, 1193046) ∧
    (homeOf site 0x7800000000).map (·.part) = some 1 ∧ (homeOf site 0xF000000000).map (·.part) = some 2 ∧
    (homeOf site 0x1DFFFFFFFFF).map (·.part) = some 2 ∧ (homeOf site 0x1E000000000).isNone = true := by decide +kernel

/-- Chapter 06: the default route from T0 to T15, and the detour round T9. -/
theorem test_routes :
    (curatorRoute site 0 15).route = 0x01B692 ∧
    (curatorRoute { site with tpwr := [(9, { TilePwr.init with dark := true })] } 8 10).route = 0x293 := by decide +kernel

/-- Table 12-2: the check values of "123456789". -/
theorem test_check_values :
    [0, 1, 2, 3].map (fun n => (crcPreset n).map fun c => crcValue c (crcRun c c.init ((List.range 9).map fun i => BitVec.ofNat 8 (0x31 + i)))) =
      [some 0xE3069283, some 0x6C40DF5F0B497347, some 0x995DC9BBDF1939FA, some 0xCBF43926] := by decide +kernel

/-- Chapter 15: the tiles of the example's partitions. -/
theorem test_partitions :
    partTiles site 0 = [0, 1, 4, 5] ∧ partTiles site 1 = [2, 3, 6, 7] ∧ partTiles site 2 = [8, 9, 10, 11, 12, 13, 14, 15] ∧
    serves site 0 0 = true ∧ serves site 1 0 = false := by decide +kernel

/-- Chapter 17: CLK_DOM of a domain capped by margin. -/
theorem test_clk_dom :
    clkWord { site with
      clk := [(1472, { ClkDom.init with margin := 20, stretches := 1, marginCap := 1 })],
      cores := [(1472, { Core.init with engines := List.replicate 8 { Engine.init with step := 1 } })] } 1472 = 0xC8414000104A0 := by
  decide +kernel

/-- Chapter 19: the flow request at 30 kW. -/
theorem test_flow_request : flowFor site 30000 = 45 := by decide +kernel

/-- Chapter 20: bins of the linear VC0 form. -/
theorem test_bins :
    [118, 100, 149, 150, 731, 1550].map (binOf (monVc0 0x03 allInst)) = [2, 2, 2, 3, 14, 31] := by decide +kernel

/-- Chapter 21: PST_SVC of panel 1 in tray slot 2. -/
theorem test_pst_svc : svcWord site = 0x2000000170004 := by decide +kernel

/-- Table 11-5: the third push finds TH full and replaces the newest word. -/
theorem test_mailbox_collision :
    let s := { site with mailboxes := [(0x49, { Mailbox.init with th := (List.range 8).map (BitVec.ofNat 64), dbell := 1, mask := 0xFFFFFFFC })] }
    let x := mailboxAt (pushTh s 0x49 99) 0x49
    x.th = (List.range 7).map (BitVec.ofNat 64) ++ [99] ∧ x.collTh = true ∧ x.lostTh = 1 ∧ x.dbell = 3 := by decide +kernel
end Sys2Proof.Tests
end

section
/-! What the memory, completion, monitor and fault operations leave of a host die, and its loss (R259, R272). -/

namespace Sys2Proof.Machine

/-! ## Reads after a table update -/

theorem hostAt_setHost (s : State) (k n : Nat) (v : HostDie) :
    hostAt (setHost s k v) n = if k = n then v else hostAt s n := tblGet_tblSet ..

@[simp] theorem hostAt_setHost_same (s : State) (k : Nat) (v : HostDie) : hostAt (setHost s k v) k = v := by
  rw [hostAt_setHost, if_pos rfl]

theorem hostAt_modHost_same (s : State) (k : Nat) (f : HostDie → HostDie) :
    hostAt (modHost s k f) k = f (hostAt s k) := hostAt_setHost_same ..

@[simp] theorem tileAt_setTile_same (s : State) (k : Nat) (v : TileNet) : tileAt (setTile s k v) k = v := by
  unfold tileAt setTile
  rw [tblGet_tblSet, if_pos rfl]

/-- What holds before `each` and is kept by each of its updates holds after it. -/
theorem each_invariant {α : Type} {P : State → Prop} {f : α → State → State} (hf : ∀ x s, P s → P (f x s))
    (l : List α) {s : State} (h : P s) : P (each l f s) :=
  List.foldlRecOn l _ h fun t ht x _ => hf x t ht

/-! ## Operations that leave the host dies -/

theorem clearBad_hosts (s : State) (hm : Home) (b : Nat) : (clearBad s hm b).hosts = s.hosts := by
  unfold clearBad
  dsimp only
  split <;> rfl

theorem clearDirty_hosts (s : State) (base : Nat) (c : CLine) : (clearDirty s base c).hosts = s.hosts := by
  unfold clearDirty
  refine each_invariant (P := fun t => t.hosts = s.hosts) (fun e t ht => ?_) _ rfl
  dsimp only
  split
  · exact (clearBad_hosts ..).trans ht
  · exact ht

theorem putSector_hosts (s : State) (hm : Home) (sec : Nat) (x : Sector) : (putSector s hm sec x).hosts = s.hosts := by
  unfold putSector
  dsimp only
  split
  · rfl
  · exact clearDirty_hosts ..

theorem writeBlock_hosts (s : State) (b off : Nat) (bs : List Byte) (alloc : Bool) :
    (writeBlock s b off bs alloc).hosts = s.hosts := by
  unfold writeBlock
  split
  · rfl
  · dsimp only
    split
    · rfl
    · split
      · exact (putSector_hosts ..).trans (clearBad_hosts ..)
      · exact clearBad_hosts ..

theorem ldWrite_hosts (s : State) (a : Nat) (bs : List Byte) (alloc : Bool) :
    (ldWrite s a bs alloc).hosts = s.hosts :=
  each_invariant (P := fun t => t.hosts = s.hosts) (fun _ t ht => (writeBlock_hosts t ..).trans ht) _ rfl

theorem feedTileMons_hosts (s : State) (t source : Nat) (inst : Option Nat) (v : Nat) :
    (feedTileMons s t source inst v).hosts = s.hosts := by
  unfold feedTileMons
  split
  · rfl
  · refine each_invariant (P := fun u => u.hosts = s.hosts) (fun _ _ hu => ?_) _ rfl
    exact hu

theorem sampleQueue_hosts (s : State) (q : Queue) (r : Rec) : (sampleQueue s q r).hosts = s.hosts := by
  unfold sampleQueue
  split
  · exact feedTileMons_hosts ..
  · rfl

/-! ## Operations that change no more of a host die than its pending interrupts and its reading of the fault log -/

/-- A host die but for its pending interrupt identities and its reading of the fault log. -/
def HostDie.body (d : HostDie) : HostDie := { d with imsic := [], faultRead := 0, faultLost := 0 }

/-- Of every host die, `t` has what `s` has, but for pending interrupts and the reading of the fault log. -/
structure SameDies (s t : State) : Prop where
  body : ∀ k, (hostAt t k).body = (hostAt s k).body

theorem SameDies.refl (s : State) : SameDies s s := ⟨fun _ => rfl⟩

theorem SameDies.trans {a b c : State} (h : SameDies a b) (k : SameDies b c) : SameDies a c :=
  ⟨fun n => (k.body n).trans (h.body n)⟩

theorem SameDies.of_hosts {s t : State} (h : t.hosts = s.hosts) : SameDies s t :=
  ⟨fun k => by rw [hostAt, hostAt, h]⟩

theorem SameDies.lost {s t : State} (h : SameDies s t) (k : Nat) : (hostAt t k).lost = (hostAt s k).lost :=
  (congrArg HostDie.lost (h.body k) : (hostAt t k).body.lost = (hostAt s k).body.lost)

theorem SameDies.modules {s t : State} (h : SameDies s t) (k : Nat) : (hostAt t k).modules = (hostAt s k).modules :=
  (congrArg HostDie.modules (h.body k) : (hostAt t k).body.modules = (hostAt s k).body.modules)

theorem modHost_sameDies (s : State) (k : Nat) (f : HostDie → HostDie) (hf : ∀ d, (f d).body = d.body) :
    SameDies s (modHost s k f) := by
  refine ⟨fun n => ?_⟩
  rw [modHost_eq, hostAt_setHost]
  split
  · subst n; exact hf _
  · rfl

theorem each_sameDies {α : Type} {f : α → State → State} (hf : ∀ x s, SameDies s (f x s)) (l : List α) (s : State) :
    SameDies s (each l f s) :=
  each_invariant (P := SameDies s) (fun x t ht => ht.trans (hf x t)) l (.refl s)

theorem sendMsi_sameDies (s : State) (h : Nat) (m : Msi) : SameDies s (sendMsi s h m) := by
  unfold sendMsi
  dsimp only
  split
  · exact modHost_sameDies _ _ _ fun d => by split <;> rfl
  · exact .refl s

theorem writeRecord_sameDies (s : State) (n : Nat) : SameDies s (writeRecord s n) := by
  unfold writeRecord
  extract_lets q
  split
  · exact .refl s
  · split
    · exact .refl s
    · split
      · exact .of_hosts rfl
      · extract_lets bs s1 q' s2 s3
        have hs : SameDies s s3 := .of_hosts ((sampleQueue_hosts ..).trans (ldWrite_hosts ..))
        split
        · exact hs.trans (sendMsi_sameDies ..)
        · exact hs

theorem writeRecords_sameDies (n : Nat) : ∀ (k : Nat) (s : State), SameDies s (writeRecords s n k)
  | 0, s => .refl s
  | k + 1, s => (writeRecord_sameDies s n).trans (writeRecords_sameDies n k _)

theorem freeQueue_sameDies (s : State) (n : Nat) : SameDies s (freeQueue s n) := by
  unfold freeQueue
  extract_lets s1 s2
  have h2 : SameDies s s2 := (writeRecords_sameDies n _ s).trans (.of_hosts rfl)
  refine h2.trans (each_sameDies (fun _ _ => ?_) _ _)
  exact .of_hosts rfl

theorem completeOne_sameDies (s : State) (c : Cmd) (st : Status) (n r0 r1 r2 r3 : Nat) :
    SameDies s (completeOne s c st n r0 r1 r2 r3) := .of_hosts rfl

theorem endDisable_sameDies (s : State) (c : Cmd) : SameDies s (endDisable s c) := by
  unfold endDisable
  split
  · dsimp only
    split
    · split
      · exact completeOne_sameDies ..
      · exact (completeOne_sameDies ..).trans (freeQueue_sameDies ..)
    · refine SameDies.trans ?_ (completeOne_sameDies ..)
      exact .of_hosts rfl
  · exact .refl s

theorem settle_sameDies : ∀ (k : Nat) (s : State), SameDies s (settle s k)
  | 0, s => .refl s
  | k + 1, s => by
    unfold settle
    split
    · exact (endDisable_sameDies s _).trans (settle_sameDies k _)
    · exact .refl s

theorem complete_sameDies (s : State) (uid : Nat) (st : Status) (n r0 r1 r2 r3 : Nat) :
    SameDies s (complete s uid st n r0 r1 r2 r3) := by
  unfold complete
  split
  · exact (completeOne_sameDies ..).trans (settle_sameDies ..)
  · exact .refl s

theorem faultLogCopy_sameDies (s : State) (c : Cmd) : SameDies s (faultLogCopy s c) := by
  unfold faultLogCopy
  extract_lets first dest rs s1 next s2
  have h1 : SameDies s s1 := .of_hosts (ldWrite_hosts ..)
  have h2 : SameDies s1 s2 := by
    unfold s2
    split
    · exact modHost_sameDies _ _ _ fun _ => rfl
    · exact .refl s1
  split
  · exact complete_sameDies ..
  · split
    · exact complete_sameDies ..
    · exact (h1.trans h2).trans (complete_sameDies ..)

theorem wakeFaultReads_sameDies (s : State) : SameDies s (wakeFaultReads s) :=
  each_sameDies (fun c t => by
    split
    · split
      · exact faultLogCopy_sameDies t c
      · exact .refl t
    · exact .refl t) _ s

theorem putFaults_sameDies (s : State) (l : List FaultRec) (n : Nat) :
    SameDies s { s with faults := l, faultSeq := n } := .of_hosts rfl

theorem addFault_sameDies (s : State) (r : FaultRec) : SameDies s (addFault s r) := by
  unfold addFault
  extract_lets r' all s1
  have h1 : SameDies s s1 :=
    each_sameDies (fun _ t => each_sameDies (fun _ _ => modHost_sameDies _ _ _ fun d => by split <;> rfl) _ t) _ s
  exact (h1.trans (putFaults_sameDies ..)).trans (wakeFaultReads_sameDies _)

theorem modTransient_sameDies (s : State) (k : Nat) (f : Transient → Transient) : SameDies s (modTransient s k f) :=
  .of_hosts rfl

theorem addProv_sameDies (s : State) (e : Prov) : SameDies s (addProv s e) := .of_hosts rfl

theorem addLasting_sameDies (s : State) (r : FaultRec) (unit : Option Nat) : SameDies s (addLasting s r unit) := by
  unfold addLasting
  extract_lets seqd s1 s2
  have h1 : SameDies s s1 := addFault_sameDies s r
  have h2 : SameDies s1 s2 := by
    unfold s2
    split
    · exact modTransient_sameDies ..
    · exact .refl s1
  exact (h1.trans h2).trans (addProv_sameDies ..)

/-! ## The loss of a host die -/

theorem loseHost_of_lost {s : State} {h : Nat} (hl : (hostAt s h).lost = true) : loseHost s h = s := by
  unfold loseHost
  rw [hl, Bool.true_or, if_pos rfl]

theorem loseHost_of_le {s : State} {h : Nat} (hh : 4 ≤ h) : loseHost s h = s := by
  unfold loseHost
  rw [decide_eq_true hh, Bool.or_true, if_pos rfl]

theorem putQueues_sameDies (s : State) (l : Tbl Queue) : SameDies s { s with queues := l } := .of_hosts rfl

theorem modMailbox_sameDies (s : State) (k : Nat) (f : Mailbox → Mailbox) : SameDies s (modMailbox s k f) := .of_hosts rfl

theorem raiseCause_sameDies (s : State) (b : Nat) : SameDies s (raiseCause s b) := .of_hosts rfl

/-- Beside the loss itself, the loss of a die changes of host dies only what a fault record changes. -/
theorem loseHost_sameDies {s : State} {h : Nat} (hl : (hostAt s h).lost = false) (hh : h < 4) :
    SameDies (modHost s h fun d => { d with lost := true, linkUp := false }) (loseHost s h) := by
  unfold loseHost
  rw [if_neg (by simp [hl, hh])]
  extract_lets s1 held s2 s3
  have h2 : SameDies s1 s2 := putQueues_sameDies ..
  have h3 : SameDies s2 s3 := each_sameDies (fun _ t => modMailbox_sameDies t ..) _ _
  exact ((h2.trans h3).trans (raiseCause_sameDies ..)).trans (addLasting_sameDies ..)

theorem loseHost_lost (s : State) {h : Nat} (hh : h < 4) : (hostAt (loseHost s h) h).lost = true := by
  cases hl : (hostAt s h).lost with
  | true => rw [loseHost_of_lost hl, hl]
  | false => rw [(loseHost_sameDies hl hh).lost, hostAt_modHost_same]

theorem loseHost_modules (s : State) (h : Nat) : (hostAt (loseHost s h) h).modules = (hostAt s h).modules := by
  by_cases hh : 4 ≤ h
  · rw [loseHost_of_le hh]
  · cases hl : (hostAt s h).lost with
    | true => rw [loseHost_of_lost hl]
    | false => rw [(loseHost_sameDies hl (by omega)).modules, hostAt_modHost_same]

end Sys2Proof.Machine
end

section
/-! The answers of the host links, and of the registers without a row of their own (R7, R178, R180, R259, R261, R263, R372). -/

namespace Sys2Proof.Machine

/-! ## Host links -/

/-- A module failure with a module in service: one fewer, and the die's loss below four. -/
theorem moduleFail_eq {s : State} {h : Nat} (hu : (hostAt s h).linkUp = true) (hm : 0 < (hostAt s h).modules) :
    moduleFail s h =
      let s' := modHost s h fun d => { d with modules := d.modules - 1 }
      if (hostAt s h).modules ≤ 4 then loseHost s' h else s' := by
  unfold moduleFail
  dsimp only
  rw [if_neg (by simp [hu]; omega)]
  congr 1
  exact propext (by omega)

theorem moduleFail_modules {s : State} {h : Nat} (hu : (hostAt s h).linkUp = true) (hm : 0 < (hostAt s h).modules) :
    (hostAt (moduleFail s h) h).modules = (hostAt s h).modules - 1 := by
  rw [moduleFail_eq hu hm]
  dsimp only
  split
  · rw [loseHost_modules, hostAt_modHost_same]
  · rw [hostAt_modHost_same]

theorem moduleFail_lost {s : State} {h : Nat} (hu : (hostAt s h).linkUp = true) (hm : 0 < (hostAt s h).modules)
    (h4 : (hostAt s h).modules ≤ 4) (hh : h < 4) : (hostAt (moduleFail s h) h).lost = true := by
  rw [moduleFail_eq hu hm, if_pos h4]
  exact loseHost_lost _ hh

theorem moduleFail_lost_same {s : State} {h : Nat} (hu : (hostAt s h).linkUp = true) (h5 : 5 ≤ (hostAt s h).modules) :
    (hostAt (moduleFail s h) h).lost = (hostAt s h).lost := by
  rw [moduleFail_eq hu (by omega), if_neg (by omega), hostAt_modHost_same]

theorem execUcieLinkDownTimeout_of_released {s : State} {h : Nat} (hr : (hostAt s h).released = true) :
    execUcieLinkDownTimeout h s = .next (loseHost s h) := by
  unfold execUcieLinkDownTimeout
  rw [if_pos hr]

/-- An access of a die in service to an address that it cannot reach. -/
theorem execUnpopulatedAccess_of_unreachable {s : State} {h hart addr : Nat} {kind : AccessKind}
    (ho : hostOn s h = true) (hr : reachableAddr s addr kind = false) :
    execUnpopulatedAccess h hart addr kind s = .next (match kind with
      | .store => unpopStore s h hart addr
      | .load => hostLoad s h hart none
      | .fetch => fetchFault s h hart) := by
  unfold execUnpopulatedAccess
  rw [if_neg (by simp [ho, hr])]
  cases kind <;> rfl

theorem unpopStore_unpop (s : State) (h hart addr : Nat) :
    (hostAt (unpopStore s h hart addr) h).unpop = (hostAt s h).unpop.or (some (hart, addr)) := by
  rw [unpopStore, hostAt_modHost_same]

theorem hostLoad_last (s : State) (h hart : Nat) (data : Option (BitVec 512)) :
    (hostLoad s h hart data).loads.getLast? = some { host := h, hart := hart, fetch := false, data := data } :=
  List.getLast?_concat ..

theorem fetchFault_last (s : State) (h hart : Nat) :
    (fetchFault s h hart).loads.getLast? = some { host := h, hart := hart, fetch := true, data := none } :=
  List.getLast?_concat ..

/-! ## Curators' registers -/

theorem bit_toNat {w : Nat} (v : BitVec w) (i : Nat) : bit v.toNat i = v.getLsbD i :=
  (Nat.testBit_eq_decide_div_mod_eq ..).symm

theorem setShares_tile (s : State) (t a b c : Nat) :
    tileAt (setShares s t a b c) t = { tileAt s t with vc1Min := a, vc2Min := b, vc3Min := c } := by
  rw [setShares, modTile_eq, tileAt_setTile_same]

theorem storeVcw_of_sharesOk {s : State} {t v : Nat} (h : sharesOk (bits v 7 0) (bits v 15 8) (bits v 23 16) = true) :
    storeVcw s t v = setShares s t (bits v 7 0) (bits v 15 8) (bits v 23 16) := by
  unfold storeVcw
  exact if_pos h

theorem rteOf_toNat (v : BitVec 64) :
    rteOf v.toNat = { valid := v.getLsbD 31, override := v.getLsbD 30, hops := fld v 27 24,
                      route := BitVec.ofNat 24 v.toNat } := by
  rw [rteOf, bit_toNat, bit_toNat, fld]

/-- A drain's decision changes nothing but the drains and the next number. -/
theorem addDrain_rest (s : State) (own : Bool) (routes : List (Nat × Rte)) (cats : List (Nat × CatEntry))
    (copies : List (Nat × Nat × List Nat)) (cmds : List Nat) :
    { addDrain s own routes cats copies cmds with drains := s.drains, nextId := s.nextId } = s := by
  unfold addDrain
  dsimp only
  split <;> rfl

/-- The routes of a drain that is decided stand in a drain: its own, or the one that it joins. -/
theorem addDrain_routes (s : State) (own : Bool) (routes : List (Nat × Rte)) (cats : List (Nat × CatEntry))
    (copies : List (Nat × Nat × List Nat)) (cmds : List Nat) :
    ∃ x ∈ (addDrain s own routes cats copies cmds).drains, ∀ e ∈ routes, e ∈ x.routes := by
  unfold addDrain
  extract_lets scope fits
  split
  next d hd =>
    extract_lets join
    refine ⟨join d, List.mem_map_of_mem (List.mem_of_find?_eq_some hd), fun e he => ?_⟩
    unfold join
    rw [if_pos rfl]
    exact List.mem_append_right _ he
  next =>
    exact ⟨_, List.mem_append_right _ (List.mem_singleton_self _), fun _ he => he⟩

/-! ## The charter -/

/-- Clearing the reserved fields of a value never makes it larger. -/
theorem foldl_clear_le (l : List (Nat × Nat)) (v : Nat) :
    l.foldl (fun v b => v - bits v b.1 b.2 * 2 ^ b.2) v ≤ v := by
  induction l generalizing v with
  | nil => exact Nat.le_refl v
  | cons b l ih => exact Nat.le_trans (ih _) (Nat.sub_le ..)

theorem chtOf_tblSet_same (c : Charter) (n : Nat) {x : Nat} (hx : x < 2 ^ 64) :
    chtOf (tblSet (0 : Dword) c n (BitVec.ofNat 64 x)) n = x := by
  unfold chtOf
  rw [tblGet_tblSet, if_pos rfl, BitVec.toNat_ofNat, Nat.mod_eq_of_lt hx]

/-- Boot code's write of register n of a charter that is not sealed. -/
theorem storeCharter_eq {s : State} (hs : s.sealed = false) (hb : s.start.stage = .rom ∨ s.start.stage = .firstStage)
    {n : Nat} (hn : n < 64) (v : Nat) :
    storeCharter s (8 * n) v = { s with
      charter := tblSet (0 : Dword) s.charter n
        (BitVec.ofNat 64 ((chtReserved n).foldl (fun v b => v - bits v b.1 b.2 * 2 ^ b.2) v)),
      sealed := n == 1 && bit v 0 } := by
  have hd : 8 * n / 8 = n := by omega
  have hm : 8 * n % 8 = 0 := by omega
  unfold storeCharter
  dsimp only
  rw [hd, hm, if_neg (by rcases hb with hb | hb <;> simp [hs, hb, hn])]
  split
  next h => simp [h]
  next h => simpa [hs] using h

/-! ## The status page -/

/-- A doubleword store of a host hart to the status page, outside what memory and the aperture hold. -/
theorem storeMapped_status {s : State} {off : Nat} (h hart v : Nat) (ho : off < 0x1000) (h8 : off % 8 = 0)
    (hr : (regionOf s (0x400010010000 + off)).isNone = true) :
    storeMapped s h hart (0x400010010000 + off) 8 v = storeStatus s h hart (0x400010010000 + off) 8 v := by
  have hi : inAperture (0x400010010000 + off) = false := decide_eq_false (by omega)
  have hal : aligned (0x400010010000 + off) 8 = true := by
    unfold aligned
    rw [Bool.and_eq_true, beq_iff_eq]
    exact ⟨rfl, by omega⟩
  unfold storeMapped
  rw [if_neg (by simp [Option.isNone_iff_eq_none.mp hr, hi]), if_neg (by simp [hal]), if_neg (by omega), if_neg (by omega),
    if_pos (by omega)]

theorem storeStatus_unpop (s : State) (h hart v : Nat) :
    storeStatus s h hart 0x400010010030 8 v =
      if bit v 63 then modHost s h fun d => { d with unpop := none } else s := by
  simp [storeStatus]

theorem storeStatus_readOnly (s : State) (h hart v : Nat) :
    storeStatus s h hart 0x400010010000 8 v = unpopStore s h hart 0x400010010000 := by
  simp [storeStatus]

/-- A doubleword store of a die in service takes all 64 bits. -/
theorem execRegisterWrite_mapped {s : State} {h hart addr : Nat} (ho : hostOn s h = true) (v : BitVec 64) :
    execRegisterWrite (.host h hart) (.mapped addr 8) v s = .next (storeMapped s h hart addr 8 v.toNat) := by
  have hv : v.toNat % 256 ^ 8 = v.toNat := Nat.mod_eq_of_lt v.isLt
  simp only [execRegisterWrite, ho, hv, if_true]

/-! ## The commands -/

theorem exec_registerWrite (agent : Agent) (reg : RegRef) (v : BitVec 64) (s : State) :
    exec (.registerWrite agent reg v) s = execRegisterWrite agent reg v s := rfl

theorem exec_niVcw (s : State) (a : Nat) (v : BitVec 64) {tile : Nat} (ht : tile < 16)
    (hv : sharesOk (fld v 7 0) (fld v 15 8) (fld v 23 16) = true) :
    exec (.registerWrite (.curator a) (.niVcw tile) v) s =
      .next (setShares s tile (fld v 7 0) (fld v 15 8) (fld v 23 16)) := by
  rw [exec_registerWrite]
  simp only [execRegisterWrite, if_pos ht]
  rw [storeVcw_of_sharesOk hv, fld, fld, fld]

theorem exec_niRte (s : State) (a : Nat) (v : BitVec 64) {tile d : Nat} (ht : tile < 16) (hd : d < 16) :
    exec (.registerWrite (.curator a) (.niRte tile d) v) s =
      .next (addDrain s false [(16 * tile + d, rteOf v.toNat)] [] [] []) := by
  rw [exec_registerWrite]
  simp only [execRegisterWrite, if_pos (And.intro ht hd)]

theorem exec_charter (s : State) (off : Nat) (v : BitVec 64) :
    exec (.registerWrite .firstStage (.charter off) v) s = .next (storeCharter s off v.toNat) := rfl

theorem exec_charter_reads_back {s : State} (hs : s.sealed = false)
    (hb : s.start.stage = .rom ∨ s.start.stage = .firstStage) {n : Nat} (hn : n < 64) (v : BitVec 64) :
    ∃ t, exec (.registerWrite .firstStage (.charter (8 * n)) v) s = .next t ∧
      chtOf t.charter n = (chtReserved n).foldl (fun v b => v - bits v b.1 b.2 * 2 ^ b.2) v.toNat ∧
      t.sealed = (n == 1 && v.getLsbD 0) := by
  have hv := Nat.lt_of_le_of_lt (foldl_clear_le (chtReserved n) v.toNat) v.isLt
  rw [exec_charter, storeCharter_eq hs hb hn, ← bit_toNat]
  exact ⟨_, rfl, chtOf_tblSet_same _ _ hv, rfl⟩

/-- A store of VALID to PST_UNPOP (Table 10-4) clears it; one of 0 leaves it. -/
theorem storeMapped_pstUnpop {s : State} (h hart : Nat) (v : BitVec 64)
    (hr : (regionOf s 0x400010010030).isNone = true) :
    (hostAt (storeMapped s h hart 0x400010010030 8 v.toNat) h).unpop =
      if v.getLsbD 63 then none else (hostAt s h).unpop := by
  rw [storeMapped_status (off := 0x30) h hart _ (by decide) (by decide) hr, storeStatus_unpop, bit_toNat]
  split
  · rw [hostAt_modHost_same]
  · rfl

theorem storeMapped_readOnly {s : State} (h hart v : Nat) (hr : (regionOf s 0x400010010000).isNone = true) :
    (hostAt (storeMapped s h hart 0x400010010000 8 v) h).unpop =
      (hostAt s h).unpop.or (some (hart, 0x400010010000)) := by
  rw [storeMapped_status (off := 0) h hart _ (by decide) (by decide) hr, storeStatus_readOnly]
  exact unpopStore_unpop ..

/-- Settles O24: each clause is what its one operation leaves in the die, the loads, the tile, the drains or the charter. -/
theorem hostLinksAndRegistersAnswer : Obligations.HostLinksAndRegistersAnswer := by
  unfold Obligations.HostLinksAndRegistersAnswer
  constructor
  · intro s h hart addr
    refine ⟨fun hu hm => ?_, fun hr hh => ?_, fun ho hr => ?_, fun ho hr => ?_, fun ho hr => ?_⟩
    · exact ⟨_, rfl, moduleFail_modules hu hm, moduleFail_lost hu hm, moduleFail_lost_same hu⟩
    · exact ⟨_, execUcieLinkDownTimeout_of_released hr, loseHost_lost s hh⟩
    · exact ⟨_, execUnpopulatedAccess_of_unreachable ho hr, unpopStore_unpop ..⟩
    · exact ⟨_, execUnpopulatedAccess_of_unreachable ho hr, hostLoad_last ..⟩
    · exact ⟨_, execUnpopulatedAccess_of_unreachable ho hr, fetchFault_last ..⟩
  · intro s v tile ht
    refine ⟨fun a hv => ?_, fun a d hd => ?_, fun hs hb n hn => ?_, fun h hart ho hr => ?_, fun h hart ho hr => ?_⟩
    · exact ⟨_, exec_niVcw s a v ht hv, setShares_tile ..⟩
    · obtain ⟨x, hx, hroutes⟩ := addDrain_routes s false [(16 * tile + d, rteOf v.toNat)] [] [] []
      rw [← rteOf_toNat]
      exact ⟨_, exec_niRte s a v ht hd, addDrain_rest .., x, hx, hroutes _ (List.mem_singleton_self _)⟩
    · exact exec_charter_reads_back hs hb hn v
    · exact ⟨_, execRegisterWrite_mapped ho v, storeMapped_pstUnpop h hart v hr⟩
    · exact ⟨_, execRegisterWrite_mapped ho v, storeMapped_readOnly h hart _ hr⟩

end Sys2Proof.Machine
end

section
/-! Packets in the network: how a router, a unit and a loss change the list of packets (R163–R168, R170, R175, R177, R333). -/

namespace Sys2Proof.Machine

/-! ## The packet of a number -/

theorem packetOf_id {s : State} {id : Nat} {k : Packet} (h : packetOf s id = some k) : k.id = id := by
  simpa using List.find?_some h

theorem packetOf_congr {s t : State} (h : t.packets = s.packets) (id : Nat) : packetOf t id = packetOf s id := by
  rw [packetOf, packetOf, h]

/-- A number taken out and given to one packet at the end is that packet's. -/
theorem packetOf_of_replaced {t : State} {l : List Packet} {id : Nat} {x : Packet} (hx : x.id = id)
    (h : t.packets = l.filter (fun y => y.id != id) ++ [x]) : packetOf t id = some x := by
  have hl : (l.filter fun y => y.id != id).find? (fun y => y.id == id) = none := by
    rw [List.find?_eq_none]
    intro y hy
    simpa using (List.mem_filter.mp hy).2
  rw [packetOf, h, List.find?_append, hl]
  simp [hx]

theorem packetOf_dropPacket (s : State) (id : Nat) : packetOf (dropPacket s id) id = none := by
  unfold packetOf dropPacket
  rw [List.find?_eq_none]
  intro y hy
  simpa using (List.mem_filter.mp hy).2

/-- An update of packets that leaves their numbers. -/
theorem packetOf_map {s t : State} {f : Packet → Packet} (hf : ∀ x, (f x).id = x.id) (h : t.packets = s.packets.map f)
    (id : Nat) : packetOf t id = (packetOf s id).map f := by
  unfold packetOf
  rw [h, List.find?_map]
  congr 2
  funext x
  exact congrArg (· == id) (hf x)

theorem inNetwork_iff {s : State} {id : Nat} {k : Packet} :
    inNetwork s id = some k ↔ packetOf s id = some k ∧ k.held = false ∧ k.delivered = false := by
  unfold inNetwork
  rw [Option.bind_eq_some_iff]
  constructor
  · rintro ⟨x, hx, h⟩
    split at h
    · cases h
    · cases h
      simp_all
  · rintro ⟨hk, hh, hd⟩
    exact ⟨k, hk, by simp [hh, hd]⟩

theorem inNetwork_of_held {s : State} {id : Nat} {k : Packet} (hk : packetOf s id = some k) (hh : k.held = true) :
    inNetwork s id = none := by
  simp [inNetwork, hk, hh]

/-! ## Registers of a tile -/

theorem tileAt_countDrop (s : State) (t : Nat) (f : NiDrop → NiDrop) :
    tileAt (countDrop s t f) t = { tileAt s t with drop := f (tileAt s t).drop } := tileAt_setTile_same ..

theorem tblGet_tblMod_same {α : Type} [DecidableEq α] (d : α) (t : Tbl α) (k : Nat) (f : α → α) :
    tblGet d (tblMod d t k f) k = f (tblGet d t k) := by
  rw [tblMod, tblGet_tblSet, if_pos rfl]

theorem linkAt_modLink_same (s : State) (t n : Nat) (f : NiLink → NiLink) :
    linkAt (modLink s t n f) t n = f (linkAt s t n) := by
  rw [linkAt, modLink, modTile_eq, tileAt_setTile_same, tblGet_tblMod_same, linkAt]

theorem linkAt_congr {s t : State} (h : t.tiles = s.tiles) (a n : Nat) : linkAt t a n = linkAt s a n := by
  rw [linkAt, linkAt, tileAt, tileAt, h]

@[simp] theorem noteVc0_packets (s : State) (k : Packet) : (noteVc0 s k).packets = s.packets := by
  unfold noteVc0
  split <;> rfl

/-! ## Injection -/

theorem launch_of_valid {s : State} {k : Packet} (hv : routeValid s (k.src / 512) (k.dst / 512) = true) :
    launch s k = noteVc0 { s with packets := s.packets ++ [launched s k] } (launched s k) := by
  rw [launch, if_pos hv]

theorem injectHeld_of_canInject {s : State} {id : Nat} {k : Packet} (hk : packetOf s id = some k) (hh : k.held = true)
    (hi : canInject s k = true) : injectHeld s id = launch (dropPacket s id) k := by
  simp [injectHeld, hk, hh, hi]

theorem packetOf_injected {s : State} {id : Nat} {k : Packet} (hk : packetOf s id = some k) (hh : k.held = true)
    (hi : canInject s k = true) (hv : routeValid s (k.src / 512) (k.dst / 512) = true) :
    packetOf (injectHeld s id) id = some (launched s k) := by
  rw [injectHeld_of_canInject hk hh hi, launch_of_valid (s := dropPacket s id) hv]
  have hid : k.id = id := packetOf_id hk
  exact packetOf_of_replaced hid (noteVc0_packets ..)

/-! ## A flit slot -/

/-- The packet leaves its last router for its unit. -/
theorem packetOf_advance_last {s : State} {k : Packet} (hn : nextNode k = none) :
    packetOf (advance s k) k.id = some { k with sent := 0, ejected := true } := by
  refine packetOf_of_replaced rfl (l := s.packets) ?_
  rw [advance, hn]

/-- The packet goes on to its next router; a crossing takes a code off its route. -/
theorem packetOf_advance_next {s : State} {k : Packet} {n : Node} (hn : nextNode k = some n) :
    ∃ x, packetOf (advance s k) k.id = some x ∧ x.place = n ∧ x.prev = some k.place ∧ x.dst = k.dst ∧ x.body = k.body ∧
      x.route = if (crossingOf k).isSome then k.route >>> 3 else k.route := by
  rw [advance, hn]
  exact ⟨_, packetOf_of_replaced (by exact rfl) (noteVc0_packets ..), rfl, rfl, rfl, rfl, rfl⟩

/-- With its last flit the packet advances, once its output has taken its turn. -/
theorem sendFlit_last {s : State} {k : Packet} (h : flitSlots k ≤ k.sent + 1) : ∃ u : State, sendFlit s k = advance u k := by
  unfold sendFlit
  dsimp only
  rw [if_neg (by omega)]
  exact ⟨_, rfl⟩

theorem packetOf_sendFlit_more {s : State} {id : Nat} {k : Packet} (hk : packetOf s id = some k)
    (h : k.sent + 1 < flitSlots k) : packetOf (sendFlit s k) id = some { k with sent := k.sent + 1 } := by
  unfold sendFlit
  dsimp only
  rw [if_pos h, packetOf_map (s := s) (fun x => by split <;> rfl) rfl, hk, Option.map_some, if_pos (by simp)]

/-- What a router does with a packet that is young, well formed and not kept out by a missing tile or a fence. -/
theorem routePacket_of_open {s : State} {k : Packet} (hf : inFence s k.place = false) (ho : tooOld s k = false)
    (hb : badHeader k = false) (hc : k.route.toNat % 8 ≤ 4)
    (hn : k.route.toNat % 8 ≠ 0 → (neighbour k.tile (k.route.toNat % 8)).isSome = true) (he : entersFence s k = false) :
    routePacket s k =
      if (crossingOf k).any fun x => (linkAt s x.1 x.2).state == .failed then
        (crossingOf k).elim s fun x => losePacket (addLost s x.1 x.2 (flitSlots k - k.sent)) k
      else (slotPacket s k).elim s fun x => if x.id = k.id then sendFlit s k else s := by
  have hn' : ¬(k.route.toNat % 8 ≠ 0 ∧ (neighbour k.tile (k.route.toNat % 8)).isNone = true) := by
    rintro ⟨h0, h1⟩
    rw [← Option.not_isSome, hn h0] at h1
    cases h1
  unfold routePacket
  rw [if_neg (by simp [hf]), if_neg (by simp [ho]), if_neg (by simp [hb]; omega), if_neg hn', if_neg (by simp [he])]
  cases crossingOf k <;> cases slotPacket s k <;> rfl

/-- A lost packet that is not issued again leaves the other packets and the tiles. -/
theorem rememberLost_rest {s : State} {k : Packet} (h : ownLoss k.body = false ∨ k.again = false) :
    (rememberLost s k).packets = s.packets ∧ (rememberLost s k).tiles = s.tiles := by
  unfold rememberLost
  split
  · rw [if_neg (by rcases h with h | h <;> simp_all)]
    exact ⟨rfl, rfl⟩
  · exact ⟨rfl, rfl⟩

theorem losePacket_tiles {s : State} {k : Packet} (h : ownLoss k.body = false ∨ k.again = false) :
    (losePacket s k).tiles = s.tiles := (rememberLost_rest h).2

theorem packetOf_losePacket {s : State} {k : Packet} (h : ownLoss k.body = false ∨ k.again = false) :
    packetOf (losePacket s k) k.id = none :=
  (packetOf_congr (rememberLost_rest h).1 _).trans (packetOf_dropPacket ..)

/-! ## At the unit -/

theorem deliverPacket_of_deliverable {s : State} {id : Nat} {k : Packet} (h : Deliverable s id k) :
    deliverPacket s k = takePacketAt s k := by
  unfold deliverPacket
  rw [if_neg (by simp [h.ejected, h.first]), if_neg (by simp [h.young]), if_neg (by simp [h.good]),
    if_neg (fun c => by simp [(h.core c.1).1] at c), if_neg (not_not_intro h.current), if_neg (by simp [h.free]),
    if_neg (fun c => by simp [(h.core c.1).2] at c)]

/-- A packet of a generation that is over is discarded and counted. -/
theorem deliverPacket_of_stale {s : State} {k : Packet} (hj : k.ejected = true) (hb : behind s k = false)
    (ho : tooOld s k = false) (hh : badHeader k = false)
    (hd : k.dunit = 0 → dieFenced s k.tile (k.dst / 32 % 16) = false) (hg : k.pgen ≠ (partAt s k.part).pgen) :
    deliverPacket s k = countDrop (dropPacket s k.id) k.tile fun d => { d with staleGen := satInc 16 d.staleGen } := by
  unfold deliverPacket
  rw [if_neg (by simp [hj, hb]), if_neg (by simp [ho]), if_neg (by simp [hh]), if_neg (fun c => by simp [hd c.1] at c),
    if_pos hg]

/-- The bodies that a unit keeps for the command that acts on them (Tables 06-5 and 06-6). -/
theorem takePacketAt_kept {s : State} {k : Packet}
    (h : (∃ r x tag n nth, k.body = .announce r x tag n nth) ∨ (∃ r x n, k.body = .pull r x n) ∨
      (∃ r x o bs l, k.body = .data r x o bs l) ∨ (∃ x st, k.body = .done x st) ∨
      (∃ x l sl g o n r a b bs, k.body = .putData x l sl g o n r a b bs) ∨ (∃ x st r, k.body = .putAck x st r) ∨
      (∃ key q nd el m lf v mm, k.body = .redPart key q nd el m lf v mm) ∨
      (∃ key q nd m el v mm f, k.body = .redResult key q nd m el v mm f) ∨ (∃ x n bs, k.body = .bcData x n bs)) :
    takePacketAt s k = keepPacket s k := by
  rcases h with ⟨_, _, _, _, _, h⟩ | ⟨_, _, _, h⟩ | ⟨_, _, _, _, _, h⟩ | ⟨_, _, h⟩ | ⟨_, _, _, _, _, _, _, _, _, _, h⟩ |
    ⟨_, _, _, h⟩ | ⟨_, _, _, _, _, _, _, _, h⟩ | ⟨_, _, _, _, _, _, _, _, h⟩ | ⟨_, _, _, h⟩ <;>
  simp [takePacketAt, idleNack, h]

theorem packetOf_keepPacket {s : State} {id : Nat} {k : Packet} (hk : packetOf s id = some k) :
    packetOf (keepPacket s k) id = some { k with delivered := true } := by
  rw [packetOf_map (s := s) (fun x => by split <;> rfl) rfl, hk, Option.map_some, if_pos rfl]

/-! ## The commands -/

theorem exec_packetRoute_held {s : State} {id : Nat} {k : Packet} (hk : packetOf s id = some k) (hh : k.held = true) :
    exec (.packetRoute id) s = .next (injectHeld s id) := by
  rw [exec, execPacketRoute, inNetwork_of_held hk hh]

theorem exec_packetRoute_moving {s : State} {id : Nat} {k : Packet} (hk : inNetwork s id = some k) (hj : k.ejected = false) :
    exec (.packetRoute id) s = .next (routePacket s k) := by
  rw [exec, execPacketRoute, hk]
  simp [hj]

theorem exec_packetDeliver {s : State} {id : Nat} {k : Packet} (hk : inNetwork s id = some k) :
    exec (.packetDeliver id) s = .next (deliverPacket s k) := by
  rw [exec, execPacketDeliver, hk]

theorem exec_packetLifetimeExpiry {s : State} {id : Nat} {k : Packet} (hk : inNetwork s id = some k) :
    exec (.packetLifetimeExpiry id) s = .next (if tooOld s k then expire s k else s) := by
  obtain ⟨hp, hh, hd⟩ := inNetwork_iff.mp hk
  rw [exec, execPacketLifetimeExpiry, hp]
  simp [hh, hd, takenIn]

/-- Settles O16: of each clause the one operation that the command comes to, and the packet of the number after it. -/
theorem packetsCrossAndArrive : Obligations.PacketsCrossAndArrive := by
  unfold Obligations.PacketsCrossAndArrive
  refine ⟨fun s id k hk hh hi hv => ⟨_, exec_packetRoute_held hk hh, packetOf_injected hk hh hi hv⟩, fun s id k hk => ?_⟩
  intro code lost
  obtain ⟨hp, -, -⟩ := inNetwork_iff.mp hk
  obtain rfl := packetOf_id hp
  refine ⟨fun hj hf ho hb hc hn he => ?_, fun hj hb ho hh hd => ⟨fun h kept => ?_, fun hg => ?_⟩, fun ho hl => ?_, fun ho => ?_⟩
  · have hroute := routePacket_of_open hf ho hb hc hn he
    refine ⟨fun hup hslot => ?_, fun x hx hdown hl => ?_⟩
    · obtain ⟨x, hx, hid⟩ := Option.map_eq_some_iff.mp hslot
      have hsend : routePacket s k = sendFlit s k := by
        rw [hroute, if_neg (by simpa [Option.any_eq_true] using hup), hx]
        exact if_pos hid
      refine ⟨_, exec_packetRoute_moving hk hj, ?_, ?_, ?_⟩ <;> rw [hsend]
      · exact packetOf_sendFlit_more hp
      · intro h hnext
        obtain ⟨u, hu⟩ := sendFlit_last (s := s) h
        rw [hu, packetOf_advance_last hnext]
      · intro h n hnext
        obtain ⟨u, hu⟩ := sendFlit_last (s := s) h
        rw [hu]
        exact packetOf_advance_next hnext
    · have hlose : routePacket s k = losePacket (addLost s x.1 x.2 (flitSlots k - k.sent)) k := by
        rw [hroute, hx, if_pos (by simpa using hdown), Option.elim_some]
      refine ⟨_, exec_packetRoute_moving hk hj, ?_, ?_⟩ <;> rw [hlose]
      · exact packetOf_losePacket hl
      · rw [linkAt_congr (losePacket_tiles hl), addLost, linkAt_modLink_same]
  · refine ⟨_, exec_packetDeliver hk, ?_⟩
    rw [deliverPacket_of_deliverable h, takePacketAt_kept kept, packetOf_keepPacket hp]
  · refine ⟨_, exec_packetDeliver hk, ?_⟩
    rw [deliverPacket_of_stale hj hb ho hh hd hg]
    exact ⟨packetOf_dropPacket .., congrArg (·.drop.staleGen) (tileAt_countDrop ..)⟩
  · refine ⟨_, exec_packetLifetimeExpiry hk, ?_⟩
    rw [if_pos ho, expire]
    refine ⟨packetOf_losePacket hl, ?_⟩
    rw [tileAt, losePacket_tiles hl]
    exact congrArg (·.drop.lifetime) (tileAt_countDrop ..)
  · exact ⟨_, exec_packetLifetimeExpiry hk, by simp [ho]⟩

end Sys2Proof.Machine
end

section
/-! Links that replay and retrain, and requests without a reply (R173, R174, R176). -/

namespace Sys2Proof.Machine

/-! ## Links -/

theorem exec_flitCrcFail {s : State} {link : LinkRef} (hu : linkInUse s link = true) (hn : link ∉ s.replays) :
    exec (.flitCrcFail link) s = .next { s with replays := s.replays ++ [link] } := by
  rw [exec, execFlitCrcFail, if_pos (by simp [hu, hn])]

/-- The replay that was asked for is over. -/
def replayOver (s : State) (link : LinkRef) : State := { s with replays := s.replays.filter (· != link) }

theorem notMem_replayOver (s : State) (link : LinkRef) : link ∉ (replayOver s link).replays := by
  simp [replayOver]

/-- A good replay's error is transient, a bad one's is lasting. -/
theorem exec_flitReplayResult {s : State} {link : LinkRef} (h : link ∈ s.replays) (ok : Bool) (group : Option Nat) :
    exec (.flitReplayResult link ok group) s = .next
      (if ok then linkTransient (replayOver s link) link else linkLasting (replayOver s link) link group) := by
  rw [exec, execFlitReplayResult, if_pos (by simp [h])]
  rfl

/-- A lane group that is not in retraining and has its spare wire retrains. -/
theorem linkLasting_group {s : State} {tile n g : Nat} (hg : g < 32) (hs : g ∉ (linkAt s tile n).sparesUsed)
    (hn : g ∉ (linkAt s tile n).groups) : linkLasting s (.crossing tile n) (some g) =
      modLink s tile n fun l => { l with state := .retraining, groups := l.groups ++ [g] } := by
  rw [linkLasting, if_pos (by simp [hg, hs, hn])]

/-- The first lane group in retraining is back, and the link is up when it was the last. -/
theorem exec_laneGroupRetrainDone {s : State} {tile n g : Nat} {rest : List Nat}
    (hst : (linkAt s tile n).state = .retraining) (hg : (linkAt s tile n).groups = g :: rest) :
    exec (.laneGroupRetrainDone tile n true) s = .next (
      modLink (modLink s tile n fun l => { l with retrains := satInc 8 l.retrains }) tile n fun l =>
        { l with groups := rest, sparesUsed := l.sparesUsed ++ [g], state := if rest.isEmpty then .up else .retraining }) := by
  rw [exec, execLaneGroupRetrainDone]
  simp only [hst, hg, if_true]

/-! ## Requests that are issued again -/

theorem tileAt_setTile (s : State) (k n : Nat) (v : TileNet) :
    tileAt (setTile s k v) n = if k = n then v else tileAt s n := tblGet_tblSet ..

theorem routeValid_noteVc0 (s : State) (k : Packet) (a b : Nat) : routeValid (noteVc0 s k) a b = routeValid s a b := by
  unfold noteVc0
  split
  · unfold routeValid rteAt countDrop
    rw [modTile_eq, tileAt_setTile]
    split
    · subst a; rfl
    · rfl
  · rfl

theorem noteVc0_reqs (s : State) (k : Packet) : (noteVc0 s k).reqs = s.reqs := by
  unfold noteVc0
  split <;> rfl

/-- From s to t there are n packets more, and the routes in force and the requests are as they were. -/
structure Queued (s t : State) (n : Nat) : Prop where
  packets : t.packets.length = s.packets.length + n
  routes : ∀ a b, routeValid t a b = routeValid s a b
  reqs : t.reqs = s.reqs

theorem launch_queued {s : State} {k : Packet} (hv : routeValid s (k.src / 512) (k.dst / 512) = true) :
    Queued s (launch s k) 1 := by
  rw [launch_of_valid hv]
  exact ⟨by simp, fun a b => routeValid_noteVc0 .., noteVc0_reqs ..⟩

theorem enqueue_queued {s : State} {k : Packet} (hv : routeValid s (k.src / 512) (k.dst / 512) = true) :
    Queued s (enqueue s k) 1 := by
  unfold enqueue
  dsimp only
  split
  · obtain ⟨hp, hr, hq⟩ := launch_queued (s := { s with nextId := s.nextId + 1 }) hv
    exact ⟨hp, hr, hq⟩
  · exact ⟨by simp, fun _ _ => rfl, rfl⟩

/-- Each packet of a request is queued once more while its route is in force. -/
theorem each_injectAgain_queued : ∀ (l : List Packet) {s : State},
    (∀ k ∈ l, routeValid s (k.src / 512) (k.dst / 512) = true) →
      Queued s (each l (fun k s => injectAgain s k) s) l.length
  | [], s, _ => ⟨rfl, fun _ _ => rfl, rfl⟩
  | k :: l, s, hv => by
    obtain ⟨hp, hr, hq⟩ : Queued s (injectAgain s k) 1 := enqueue_queued (hv k (List.mem_cons_self ..))
    have hl : ∀ x ∈ l, routeValid (injectAgain s k) (x.src / 512) (x.dst / 512) = true := fun x hx =>
      (hr ..).trans (hv x (List.mem_cons_of_mem _ hx))
    obtain ⟨lp, lr, lq⟩ := each_injectAgain_queued l hl
    refine ⟨?_, fun a b => (lr a b).trans (hr a b), lq.trans hq⟩
    have hlen : (each (k :: l) (fun k s => injectAgain s k) s).packets.length = (injectAgain s k).packets.length + l.length := lp
    rw [hlen, hp, List.length_cons]
    omega

/-- A request issued once is issued again. -/
theorem replyTimeout_once {s : State} {r : Req} (hr : r ∈ s.reqs) (hf : r.frames = []) (hh : reqHeld s r = false)
    (h1 : r.attempts = 1) (hv : ∀ k ∈ r.packets, routeValid s (k.src / 512) (k.dst / 512) = true) :
    (replyTimeout s r).packets.length = s.packets.length + r.packets.length ∧
      ∃ x ∈ (replyTimeout s r).reqs, x.id = r.id ∧ x.who = r.who ∧ x.attempts = 2 := by
  have hq := each_injectAgain_queued r.packets hv
  unfold replyTimeout
  extract_lets gone first s' upd
  rw [if_neg (by simp [hf, hh]), if_neg (by omega), if_pos h1]
  have hupd : upd r = { r with attempts := 2, packets := packetsFrom s' first } := if_pos rfl
  refine ⟨hq.packets, upd r, List.mem_map_of_mem (hq.reqs ▸ hr), ?_⟩
  rw [hupd]
  exact ⟨rfl, rfl, rfl⟩

/-! ## Tasks whose request is given up -/

/-- A task of the window fails with a status that replaces what it had. -/
theorem failTask_window {s : State} {p : Nat} {u : Task} (hu : u ∈ (coreAt s p).window) (st : Status) :
    ∃ v ∈ (coreAt (failTask s p u.id st) p).window, v.id = u.id ∧ v.desc = u.desc ∧ v.finished = true ∧ v.status = st := by
  unfold failTask
  extract_lets s1 s2
  have h1 : SeqKept p s s1 := modCore_seq (SeqCore.refl _) p _ fun c => by
    split
    · exact withdrawFeed_seq (.refl c) _
    · exact .refl c
  obtain ⟨v, hv, hid, -, hdesc, -⟩ := (feedEnded_seq h1 (fun e => e == (p, u.id)) false).window u hu
  rw [modTask, modCore_eq, coreAt_setCore, if_pos rfl]
  refine ⟨_, List.mem_map_of_mem hv, ?_⟩
  rw [if_pos (by simp [hid])]
  exact ⟨hid, hdesc, rfl, rfl⟩

/-- The NI's and the gathers' part of a withdrawal leaves the cores. -/
theorem withdrawn_seq {p : Nat} {a s : State} (h : SeqKept p a s) (who : Asker) (sender : Nat × Nat)
    (g : List Gather → List Gather) :
    let s := stopSending (dropReqs s who) sender
    SeqKept p a { s with gathers := g s.gathers } := h

/-- What stands before the failure of a task whose wait ends with TIMEOUT leaves the window's tasks in it. -/
theorem taskTimeout_eq (s : State) (p : Nat) (u : Task) :
    ∃ s', SeqKept p s s' ∧ taskTimeout s p u = failTask s' p u.id .timeout := by
  have hr : SeqKept p s (timeoutRecord s p u) := addLasting_seq (SeqCore.refl _) ..
  have hw := withdrawn_seq hr (.task p u.id) (p, u.id) fun gs =>
    (gs.map fun g => { g with members := g.members.filter fun m => m != (p, u.id) }).filter fun g => !g.members.isEmpty
  exact ⟨_, modTask_seq hw p u.id (fun t => { t with attempts := 2 }) fun _ => ⟨rfl, rfl, rfl, rfl⟩, rfl⟩

/-- A task whose wait ends with TIMEOUT. -/
theorem taskTimeout_window {s : State} {p : Nat} {u : Task} (hu : u ∈ (coreAt s p).window) :
    ∃ v ∈ (coreAt (taskTimeout s p u) p).window,
      v.id = u.id ∧ v.desc = u.desc ∧ v.finished = true ∧ v.status = .timeout := by
  obtain ⟨s', hs, heq⟩ := taskTimeout_eq s p u
  obtain ⟨w, hw, hid, -, hdesc, -⟩ := hs.window u hu
  obtain ⟨v, hv, vid, vdesc, hfin, hst⟩ := failTask_window hw .timeout
  rw [hid] at hv vid
  rw [heq]
  exact ⟨v, hv, vid, vdesc.trans hdesc, hfin, hst⟩

/-- The requests of a number are withdrawn. -/
def withdrawReq (s : State) (id : Nat) : State := { s with reqs := s.reqs.filter fun x => x.id != id }

theorem withdrawReq_reqs {s : State} {id : Nat} {x : Req} (h : x ∈ (withdrawReq s id).reqs) : x.id ≠ id := by
  simpa using (List.mem_filter.mp h).2

theorem coreAt_withdrawReq (s : State) (id p : Nat) : coreAt (withdrawReq s id) p = coreAt s p := rfl

/-- A task's request issued twice is withdrawn, and the task ends. -/
theorem replyTimeout_twice {s : State} {r : Req} {p i : Nat} {u : Task} (hf : r.frames = []) (hh : reqHeld s r = false)
    (h2 : r.attempts = 2) (hw : r.who = .task p i) (hu : taskOf (coreAt s p) i = some u) :
    replyTimeout s r = withdrawReq (taskTimeout s p u) r.id := by
  unfold replyTimeout
  extract_lets gone
  rw [if_neg (by simp [hf, hh]), if_neg (by omega), if_neg (by omega), hw]
  dsimp only
  rw [hu]
  rfl

theorem exec_requestReplyTimeout {s : State} {id : Nat} {r : Req} (hr : s.reqs.find? (fun x => x.id == id) = some r) :
    exec (.requestReplyTimeout id) s = .next (replyTimeout s r) := by
  rw [exec, execRequestReplyTimeout, hr]

/-- Settles O17: a link's clauses are updates of its crossing, a request's are its second issue and its task's end. -/
theorem linksReplayAndRetrain : Obligations.LinksReplayAndRetrain := by
  unfold Obligations.LinksReplayAndRetrain
  intro s
  refine ⟨fun link hu hn => ⟨_, exec_flitCrcFail hu hn, rfl⟩, fun tile n group h => ?_, fun tile n g h hg hs hn => ?_,
    fun tile n g rest hst hg => ?_, fun id r hr hf hh => ?_⟩
  · exact ⟨_, exec_flitReplayResult h true group, notMem_replayOver s _, linkAt_modLink_same ..⟩
  · refine ⟨_, exec_flitReplayResult h false (some g), ?_⟩
    rw [if_neg (by decide), linkLasting_group (s := replayOver s _) hg hs hn]
    exact ⟨notMem_replayOver s _, linkAt_modLink_same ..⟩
  · refine ⟨_, exec_laneGroupRetrainDone hst hg, ?_⟩
    rw [linkAt_modLink_same, linkAt_modLink_same]
    simp only [List.isEmpty_iff]
  · obtain rfl : r.id = id := by simpa using List.find?_some hr
    refine ⟨fun h1 hv => ⟨_, exec_requestReplyTimeout hr, replyTimeout_once (List.mem_of_find?_eq_some hr) hf hh h1 hv⟩,
      fun p i u h2 hw hu => ⟨_, exec_requestReplyTimeout hr, ?_⟩⟩
    obtain rfl : u.id = i := by simpa using List.find?_some hu
    rw [replyTimeout_twice hf hh h2 hw hu, coreAt_withdrawReq]
    exact ⟨fun _ => withdrawReq_reqs, taskTimeout_window (List.mem_of_find?_eq_some hu)⟩

end Sys2Proof.Machine
end

section
/-! A drain whose number is in use and is also the next to be given (R178): its release may decide a new drain of that number. -/

namespace Sys2Proof.Machine

/-- A basic CATALOGUE_READ of one entry to address 0 of LPDDR5X, which waits for the release of drain 2 (R204). -/
def readAtRelease : Cmd :=
  { uid := 0, queue := 0, host := 0, fn := 0x0A00, expert := false, tag := 0, comp := true, doorbell := false,
    fenceBefore := false, fenceAfter := false, pkt := BitVec.ofNat 1024 (2 ^ 112), started := true, admitted := true,
    retried := false, wait := .drain 2, rungAt := 0 }

/-- The drain it waits for, which has written its entries. -/
def writtenDrain : Drain :=
  { id := 2, own := false, scope := [0], phase := .written, routes := [], cats := [], copies := [], cmds := [0], since := 0 }

/-- A panel whose next number, 2, is the drain's. The block at address 0 fails, and the spare that serves its device has one
uncorrectable read left before it is lost (R247); its partition, 1, is then withdrawn and the routes change (R167, R344). -/
def nextNumberInUse : State :=
  { State.reset with
    charter := [(2, 0x81), (8, 0x8000000000000000)], limits := { State.reset.limits with exhaustWithdraws := true },
    devices := [(8, { Device.init with state := .inUse, serves := some 0, ue := 7 })], bad := [(0, false)],
    drains := [writtenDrain], cmds := [readAtRelease], nextCmd := 1, nextId := 2 }

/-- At the release the read is made and fails, the spare device is lost with it, and a drain of new routes takes number 2. -/
theorem drainRelease_of_nextNumberInUse {t : State} (h : exec (.drainRelease 2) nextNumberInUse = .next t) :
    (drainAt t 2).isSome = true := by
  obtain rfl := Host.Outcome.next.inj h
  decide +kernel

/-- Refutes O18: the third of its clauses about a drain fails in a state whose next number is the drain's own, for a command that
waits for the release can lead to a new drain, of that number. -/
theorem not_drainsWriteRoutes : ¬ Obligations.DrainsWriteRoutes := by
  unfold Obligations.DrainsWriteRoutes
  rintro ⟨h, -⟩
  obtain ⟨-, -, hrelease⟩ := h nextNumberInUse 2 writtenDrain rfl
  obtain ⟨t, ht, hgone⟩ := hrelease rfl rfl
  have hleft := drainRelease_of_nextNumberInUse ht
  rw [hgone] at hleft
  cases hleft

end Sys2Proof.Machine
end

section
/-! Which operations leave the broadcast tree's message and its acknowledgements as they were (R184): all that a core's fault
and its disposition lead to (R319, R337–R345). -/

namespace Sys2Proof.Machine

variable (s : State)

/-- Where an update's own lemma holds by definition, simp takes this one's premise only as a proof that says so
(`-implicitDefEqProofs`). -/
@[simp] theorem each_tree {α : Type} {f : α → State → State} (hf : ∀ x t, (f x t).tree = t.tree) (l : List α) :
    (each l f s).tree = s.tree :=
  each_invariant (P := fun t => t.tree = s.tree) (fun x t ht => (hf x t).trans ht) l rfl

@[simp] theorem ite_tree (p : Prop) [Decidable p] (a b : State) : (if p then a else b).tree = if p then a.tree else b.tree :=
  apply_ite ..

/-! ## Memory, records and completions -/

@[simp] theorem clearBad_tree (h : Home) (b : Nat) : (clearBad s h b).tree = s.tree := by
  simp [clearBad]

@[simp] theorem clearDirty_tree (base : Nat) (c : CLine) : (clearDirty s base c).tree = s.tree :=
  each_tree _ (fun _ _ => by dsimp only; split <;> simp) _

@[simp] theorem setSlice_tree (t r : Nat) (ls : List CLine) : (setSlice s t r ls).tree = s.tree := rfl

@[simp] theorem putSector_tree (h : Home) (sec : Nat) (x : Sector) : (putSector s h sec x).tree = s.tree := by
  unfold putSector
  dsimp only
  split <;> simp

@[simp] theorem writeBlock_tree (b off : Nat) (bs : List Byte) (alloc : Bool) :
    (writeBlock s b off bs alloc).tree = s.tree := by
  unfold writeBlock
  split <;> simp

@[simp] theorem ldWrite_tree (a : Nat) (bs : List Byte) (alloc : Bool) : (ldWrite s a bs alloc).tree = s.tree :=
  each_tree _ (fun _ _ => writeBlock_tree ..) _

@[simp] theorem setTileMon_tree (k : Nat) (m : Monitor) : (setTileMon s k m).tree = s.tree := rfl

@[simp] theorem feedTileMons_tree (t source : Nat) (inst : Option Nat) (v : Nat) :
    (feedTileMons s t source inst v).tree = s.tree := by
  unfold feedTileMons
  split
  · rfl
  · exact each_tree _ (by intros; rfl) _

@[simp] theorem sampleQueue_tree (q : Queue) (r : Rec) : (sampleQueue s q r).tree = s.tree := by
  unfold sampleQueue
  split <;> simp

@[simp] theorem sendMsi_tree (h : Nat) (m : Msi) : (sendMsi s h m).tree = s.tree := by
  simp [sendMsi]

@[simp] theorem writeRecord_tree (n : Nat) : (writeRecord s n).tree = s.tree := by
  unfold writeRecord
  dsimp only
  split <;> simp

@[simp] theorem writeRecords_tree (n : Nat) : ∀ k, (writeRecords s n k).tree = s.tree := by
  intro k
  induction k generalizing s with
  | zero => rfl
  | succ k ih => rw [writeRecords, ih, writeRecord_tree]

@[simp] theorem completeOne_tree (c : Cmd) (st : Status) (n r0 r1 r2 r3 : Nat) :
    (completeOne s c st n r0 r1 r2 r3).tree = s.tree := rfl

@[simp] theorem freeQueue_tree (n : Nat) : (freeQueue s n).tree = s.tree :=
  (each_tree _ (by intros; rfl) _).trans (writeRecords_tree ..)

@[simp] theorem endDisable_tree (c : Cmd) : (endDisable s c).tree = s.tree := by
  unfold endDisable
  split <;> simp

@[simp] theorem settle_tree : ∀ k, (settle s k).tree = s.tree := by
  intro k
  induction k generalizing s with
  | zero => rfl
  | succ k ih =>
    unfold settle
    split
    · rw [ih, endDisable_tree]
    · rfl

@[simp] theorem complete_tree (uid : Nat) (st : Status) (n r0 r1 r2 r3 : Nat) :
    (complete s uid st n r0 r1 r2 r3).tree = s.tree := by
  unfold complete
  split <;> simp

@[simp] theorem refuse_tree (uid : Nat) (st : Status) : (refuse s uid st).tree = s.tree := complete_tree ..

@[simp] theorem finish_tree (uid : Nat) (st : Status) (r0 r1 r2 r3 : Nat) :
    (finish s uid st r0 r1 r2 r3).tree = s.tree := complete_tree ..

/-! ## Faults -/

@[simp] theorem addProv_tree (e : Prov) : (addProv s e).tree = s.tree := rfl

@[simp] theorem raiseCause_tree (b : Nat) : (raiseCause s b).tree = s.tree := rfl

@[simp] theorem faultLogCopy_tree (c : Cmd) : (faultLogCopy s c).tree = s.tree := by
  unfold faultLogCopy
  dsimp only
  split
  · simp
  · split
    · simp
    · rw [finish_tree]
      split <;> simp

@[simp] theorem wakeFaultReads_tree : (wakeFaultReads s).tree = s.tree :=
  each_tree _ (fun _ _ => by split <;> simp) _

theorem putFaults_tree (l : List FaultRec) (n : Nat) : { s with faults := l, faultSeq := n }.tree = s.tree := rfl

@[simp] theorem addFault_tree (r : FaultRec) : (addFault s r).tree = s.tree := by
  rw [addFault, wakeFaultReads_tree, putFaults_tree]
  exact each_tree _ (fun _ _ => each_tree _ (by intros; rfl) _) _

@[simp] theorem addLasting_tree (r : FaultRec) (unit : Option Nat) : (addLasting s r unit).tree = s.tree := by
  cases unit with
  | none => rw [addLasting, addProv_tree, addFault_tree]
  | some u => rw [addLasting, addProv_tree, modTransient_eq, setTransient_tree, addFault_tree]

/-! ## Packets, tasks and windows -/

@[simp] theorem modTask_tree (p id : Nat) (f : Task → Task) : (modTask s p id f).tree = s.tree := rfl

@[simp] theorem finishTask_tree (p id : Nat) (st : Status) (af : AFlags) : (finishTask s p id st af).tree = s.tree := rfl

@[simp] theorem endAsker_tree (who : Asker) (st : Status) : (endAsker s who st).tree = s.tree := by
  cases who with
  | task p id => simp [endAsker]
  | fetch p => rfl
  | aperture h hart tag store => exact (ite_tree ..).trans (ite_self _)
  | nobody => rfl

@[simp] theorem noteVc0_tree (k : Packet) : (noteVc0 s k).tree = s.tree := by
  simp [noteVc0, countDrop]

@[simp] theorem launch_tree (k : Packet) : (launch s k).tree = s.tree := by
  unfold launch
  split
  · simp
  · split <;> simp

@[simp] theorem enqueue_tree (k : Packet) : (enqueue s k).tree = s.tree := by
  simp [enqueue]

@[simp] theorem toPort_tree (p : Nat) (f : Frame) (who : Asker) (urg : Bool) : (toPort s p f who urg).tree = s.tree := by
  unfold toPort
  split <;> simp [inject]

@[simp] theorem sendReply_tree (p : Nat) (peer : Nat × Nat) (kind bytes : Nat) (urg : Bool) (body : Body) :
    (sendReply s p peer kind bytes urg body).tree = s.tree := by
  simp [sendReply, inject]

@[simp] theorem nackPacket_tree (k : Packet) (st : Status) : (nackPacket s k st).tree = s.tree := by
  unfold nackPacket
  dsimp only
  split
  · rfl
  · split <;> simp [reply]

@[simp] theorem putAck_tree (l : Nat) (sender : Nat × Nat) (srank : Nat) (urg : Bool) (st : Status) :
    (putAck s l sender srank urg st).tree = s.tree := by
  unfold putAck
  split <;> simp

@[simp] theorem cutSlot_tree (l slot : Nat) (st : Status) : (cutSlot s l slot st).tree = s.tree :=
  each_tree _ (fun _ _ => putAck_tree ..) _

@[simp] theorem modWin_tree (l slot : Nat) (f : Win → Win) : (modWin s l slot f).tree = s.tree := rfl

@[simp] theorem advanceGen_tree (l slot : Nat) : (advanceGen s l slot).tree = s.tree := by
  unfold advanceGen
  extract_lets w s1 s2 s3
  have h2 : s2.tree = s.tree := by
    unfold s2
    split
    · exact each_tree _ (by intros; rfl) _
    · rfl
  have h3 : s3.tree = s2.tree := by
    unfold s3
    split <;> simp
  split
  · rw [finish_tree, h3, h2]
  · rw [h3, h2]

@[simp] theorem tryAdvance_tree (l slot : Nat) : (tryAdvance s l slot).tree = s.tree := by
  unfold tryAdvance
  dsimp only
  split
  · split <;> simp
  · rfl

@[simp] theorem closeAll_tree (l : Nat) (st : Status) : (closeAll s l st).tree = s.tree :=
  each_tree _ (fun _ _ => by simp) _

/-! ## RUNs and commands of a partition -/

@[simp] theorem endFeeds_tree : (endFeeds s).tree = s.tree :=
  each_tree _ (fun _ _ => by split <;> simp) _

@[simp] theorem feedEnded_tree (gone : Nat × Nat → Bool) (done : Bool) : (feedEnded s gone done).tree = s.tree :=
  endFeeds_tree _

@[simp] theorem endAborts_tree (uid : Nat) (st : Status) : (endAborts s uid st).tree = s.tree :=
  each_tree _ (fun _ _ => refuse_tree ..) _

@[simp] theorem settleRuns_tree : (settleRuns s).tree = s.tree :=
  each_tree _ (fun _ _ => by simp) _

@[simp] theorem coreDone_tree (p : Nat) (aborted : Bool) : (coreDone s p aborted).tree = s.tree := by
  unfold coreDone
  dsimp only
  split <;> simp

@[simp] theorem leaveColl_tree (t : Task) : (leaveColl s t).tree = s.tree := by
  unfold leaveColl modGroup
  (repeat' split) <;> rfl

@[simp] theorem scrambleOut_tree (t : Task) : (scrambleOut s t).tree = s.tree := by
  simp [scrambleOut, bumpFresh]

@[simp] theorem scramble_tree (p : Nat) (r : Region) : (scramble s p r).tree = s.tree := rfl

@[simp] theorem dropCollectives_tree (key : Nat) : (dropCollectives s key).tree = s.tree := rfl

@[simp] theorem cancelNet_tree (p : Nat) : (cancelNet s p).tree = s.tree := rfl

@[simp] theorem abortCore_tree (p : Nat) : (abortCore s p).tree = s.tree := by
  unfold abortCore
  dsimp only
  split
  · split <;> simp
  · rw [coreDone_tree, each_tree, cancelNet_tree, each_tree, setCore_tree, each_tree]
    · exact fun _ _ => leaveColl_tree ..
    · exact fun _ _ => (scrambleOut_tree ..).trans (each_tree _ (by intros; rfl) _)
    · exact fun _ _ => rfl

@[simp] theorem failRuns_tree (n : Nat) (st : Status) : (failRuns s n st).tree = s.tree := by
  unfold failRuns
  dsimp only
  rw [each_tree, each_tree, each_tree]
  · exact fun m _ => by cases m <;> simp
  · exact fun _ _ => each_tree _ (fun _ _ => by simp) _
  · exact fun _ _ => refuse_tree ..

@[simp] theorem stopCmd_tree (c : Cmd) (st : Status) : (stopCmd s c st).tree = s.tree := by
  unfold stopCmd
  split <;> simp

@[simp] theorem failCmds_tree (n : Nat) (st : Status) : (failCmds s n st).tree = s.tree :=
  each_tree _ (fun _ _ => stopCmd_tree ..) _

/-! ## The reset and the withdrawal of a partition -/

@[simp] theorem emptyCore_tree (p : Nat) : (emptyCore s p).tree = s.tree := rfl

@[simp] theorem noteSpares_tree (t : Nat) : (noteSpares s t).tree = s.tree := by
  simp [noteSpares]

@[simp] theorem darkCore_tree (p : Nat) : (darkCore s p).tree = s.tree := noteSpares_tree ..

@[simp] theorem tellSender_tree (p : Nat) (x : Nat × Nat) (st : Status) : (tellSender s p x st).tree = s.tree := by
  simp [tellSender]

@[simp] theorem tellOutside_tree (n : Nat) (st : Status) : (tellOutside s n st).tree = s.tree :=
  each_tree _ (fun _ _ => each_tree _ (fun _ _ => tellSender_tree ..) _) _

@[simp] theorem flushPart_tree (n : Nat) (lost : List Nat) : (flushPart s n lost).tree = s.tree := by
  unfold flushPart
  refine each_tree _ (fun _ _ => each_tree _ (fun _ _ => ?_) _) _
  dsimp only
  rw [each_tree _ fun _ _ => clearDirty_tree ..]
  rfl

@[simp] theorem dropDelivered_tree (n : Nat) (st : Status) : (dropDelivered s n st).tree = s.tree :=
  each_tree _ (fun _ _ => nackPacket_tree ..) _

@[simp] theorem dropGroups_tree (p : Nat → Bool) : (dropGroups s p).tree = s.tree := rfl

@[simp] theorem freshCoreMons_tree (l : Nat) : (freshCoreMons s l).tree = s.tree :=
  each_tree _ (by intros; rfl) _

@[simp] theorem clearPart_tree (n : Nat) (st : Status) (lost : List Nat) : (clearPart s n st lost).tree = s.tree := by
  simp -implicitDefEqProofs [clearPart]

@[simp] theorem finishReplacements_tree (n : Nat) : (finishReplacements s n).tree = s.tree :=
  each_tree _ (fun _ _ => by split <;> simp) _

@[simp] theorem abandonSwaps_tree (n : Nat) : (abandonSwaps s n).tree = s.tree := by
  simp -implicitDefEqProofs [abandonSwaps]

@[simp] theorem addDrain_tree (own : Bool) (routes : List (Nat × Rte)) (cats : List (Nat × CatEntry))
    (copies : List (Nat × Nat × List Nat)) (cmds : List Nat) :
    (addDrain s own routes cats copies cmds).tree = s.tree := by
  unfold addDrain
  dsimp only
  split <;> rfl

@[simp] theorem detour_tree (own : Bool) : (detour s own).tree = s.tree := by
  simp -implicitDefEqProofs [detour]

@[simp] theorem leaveService_tree (cls : Nat) (runSt cmdSt : Status) : (leaveService s cls runSt cmdSt).tree = s.tree := by
  simp -implicitDefEqProofs [leaveService]

@[simp] theorem withdrawPart_tree (n cls : Nat) : (withdrawPart s n cls).tree = s.tree := by
  simp -implicitDefEqProofs [withdrawPart, outOfService]

@[simp] theorem holdPart_tree (n : Nat) : (holdPart s n).tree = s.tree := by
  simp [holdPart]

@[simp] theorem countReset_tree (n : Nat) : (countReset s n).1.tree = s.tree := rfl

@[simp] theorem decidePart_tree (n cls : Nat) (withdraw : Bool) : (decidePart s n cls withdraw).tree = s.tree := by
  simp [decidePart]

/-! ## The disposition of a core -/

@[simp] theorem takeBack_tree (n : Nat) (cores : List Nat) : (takeBack s n cores).tree = s.tree := rfl

@[simp] theorem retireAs_tree (p l : Nat) : (retireAs s p l).tree = s.tree := by
  simp [retireAs, dropCore]

@[simp] theorem retireStack_tree (k : Nat) : (retireStack s k).tree = s.tree := by
  simp -implicitDefEqProofs [retireStack, dropCore]

@[simp] theorem stageSpares_tree (n : Nat) : (stageSpares s n).1.tree = s.tree := by
  unfold stageSpares
  refine List.foldlRecOn (motive := fun x : State × Nat => x.1.tree = s.tree) _ _ rfl fun x hx e _ => ?_
  dsimp only
  split
  · exact hx
  · split <;> simp [hx]

@[simp] theorem exhausted_tree (n p : Nat) : (exhausted s n p).tree = s.tree := by
  simp [exhausted, outOfService]

@[simp] theorem joinAccession_tree (n : Nat) (cores dies : List Nat) : (joinAccession s n cores dies).tree = s.tree := by
  simp -implicitDefEqProofs [joinAccession]

@[simp] theorem disposeCore_tree (p cls : Nat) : (disposeCore s p cls).tree = s.tree := by
  unfold disposeCore
  split <;> simp

end Sys2Proof.Machine
end

section
/-! Control messages, heartbeats, the broadcast tree and samples of the synchronisation network (R183, R184, R186, R328). -/

namespace Sys2Proof.Machine

/-! ## Control messages and heartbeats -/

theorem exec_controlMessage_open {s : State} {k : Nat} {x : CtrlMsg} (hk : s.ctrl[k]? = some x)
    (hw : ctrlWaits s k x = false) (ho : ctrlOpen s x = true) :
    exec (.controlMessage (.inFlight k)) s = .next (takeCtrl { s with ctrl := s.ctrl.eraseIdx k } x) := by
  rw [exec, execControlMessage]
  simp [hk, hw, ho]

theorem coreAt_modCore_same (s : State) (p : Nat) (f : Core → Core) : coreAt (modCore s p f) p = f (coreAt s p) := by
  rw [modCore_eq, coreAt_setCore, if_pos rfl]

theorem takeCtrl_ctrl (s : State) (x : CtrlMsg) : (takeCtrl s x).ctrl = s.ctrl := by
  cases x with
  | abort p u =>
    rw [takeCtrl]
    split <;> rfl
  | _ => rfl

/-- An abort is taken by the RUN it names, under way or about to start, and by no other (R75). -/
theorem takeCtrl_abort (s : State) (p u : Nat) : (coreAt (takeCtrl s (.abort p u)) p).abortReq =
    if (coreAt s p).run.any (·.cmd == u) || (coreAt s p).pendingStart.any (·.cmd == u) then some u
    else (coreAt s p).abortReq := by
  rw [takeCtrl]
  split
  · rw [coreAt_modCore_same]
  · rfl

theorem curatorAt_setCurator_same (s : State) (k : Nat) (v : Curator) : curatorAt (setCurator s k v) k = v := by
  rw [curatorAt, setCurator, tblGet_tblSet, if_pos rfl]

theorem hearCurator_same {s : State} {t : Nat} (h : (curatorAt s t).state = .posting ∨ (curatorAt s t).state = .restarting) :
    curatorAt (hearCurator s t) t = { state := .posting, lastHeard := s.time } := by
  unfold hearCurator
  dsimp only
  rw [if_pos h, curatorAt_setCurator_same]

/-! ## The broadcast tree -/

/-- The cores on the tiles reached that fail to receive a broadcast. -/
def treeBad (s : State) (failing : List Nat) : List Nat :=
  failing.filter fun p => coreOn s p && (treeTiles s).contains (tileOf p)

/-- The tiles whose hubs acknowledge. -/
def treeAcks (s : State) (failing : List Nat) : List Nat :=
  (treeTiles s).filter fun t => !(treeBad s failing).any fun p => tileOf p == t

/-- A core fails to receive a broadcast for the second time: a fault of the core, which is disposed of (R184, R338). -/
def missBroadcast (p : Nat) (s : State) : State :=
  disposeCore (addLasting s (coreFault s p 0x01 .core) (some (coreUnit p))) p 0x01

theorem exec_broadcastTreeMessage (s : State) (words : List Dword) (failing : List Nat) :
    exec (.broadcastTreeMessage words failing) s = .next
      (each (treeBad s failing) missBroadcast { s with tree := { words := words, acks := treeAcks s failing } }) := rfl

theorem missBroadcast_tree (p : Nat) (s : State) : (missBroadcast p s).tree = s.tree := by
  rw [missBroadcast, disposeCore_tree, addLasting_tree]

theorem mem_treeAcks {s : State} {failing : List Nat} {n : Nat} :
    n ∈ treeAcks s failing ↔ n ∈ treeTiles s ∧ ∀ p ∈ failing, coreOn s p = true → tileOf p ≠ n := by
  simp only [treeAcks, treeBad, List.mem_filter, Bool.not_eq_true', List.any_eq_false, Bool.and_eq_true, beq_iff_eq,
    List.contains_iff_mem]
  constructor
  · rintro ⟨hn, h⟩
    exact ⟨hn, fun p hp hon ht => h p ⟨hp, hon, ht ▸ hn⟩ ht⟩
  · rintro ⟨hn, h⟩
    exact ⟨hn, fun p hp ht => h p hp.1 hp.2.1 ht⟩

theorem treeBad_of_off {s : State} {failing : List Nat} (h : ∀ p ∈ failing, coreOn s p = false) : treeBad s failing = [] := by
  rw [treeBad, List.filter_eq_nil_iff]
  intro p hp
  simp [h p hp]

/-! ## The synchronisation network -/

/-- The first error of a sample. -/
theorem exec_syncSampleError_first {s : State} {link : SyncRef} (h : badSample s link = none) :
    exec (.syncSampleError link) s = .next
      { s with syncErr := s.syncErr.filter (fun e => e.1 != link) ++ [(link, s.time, liveLanes s link)] } := by
  rw [exec, execSyncSampleError]
  simp [h]

/-- Settles O19: by the constructors of the message, and of a broadcast by the frame of the dispositions that it leads to. -/
theorem controlAndSyncMessagesArrive : Obligations.ControlAndSyncMessagesArrive := by
  unfold Obligations.ControlAndSyncMessagesArrive
  intro s
  refine ⟨fun k x hk hw ho => ⟨_, exec_controlMessage_open hk hw ho, takeCtrl_ctrl .., ?_⟩,
    fun tile h => ⟨_, rfl, hearCurator_same h⟩,
    fun words failing => ⟨_, exec_broadcastTreeMessage s words failing, ?_⟩,
    fun link h => ⟨_, exec_syncSampleError_first h, rfl, List.mem_append_right _ (List.mem_singleton_self _)⟩⟩
  · cases x with
    | runStart p r => exact congrArg (·.pendingStart) (coreAt_modCore_same ..)
    | abort p u => exact takeCtrl_abort ..
    | stepMark p m => exact congrArg (·.marks) (coreAt_modCore_same ..)
    | program p u => rfl
  · rw [each_tree _ missBroadcast_tree]
    refine ⟨rfl, fun n => mem_treeAcks, fun h => ?_⟩
    rw [treeBad_of_off h]
    rfl

end Sys2Proof.Machine
end

section
/-! Every command completes, and a step runs the front of the queue (R187; log 1, DESIGN CHOICE). -/

namespace Sys2Proof.Machine

/-- Each command's meaning answers a next state whatever it finds, so the case of each constructor holds by its definition. -/
theorem exec_completes (c : Instr) (s : State) : Completes c s := by
  cases c <;> exact ⟨_, rfl⟩

theorem step_cons (c : Instr) (rest : List Instr) (s : State) :
    step { s with pending := c :: rest } = exec c { s with pending := rest } := rfl

theorem step_nil (s : State) : step { s with pending := [] } =
    .next { s with pending := [], time := if s.rstN then (s.time + 1) % 2 ^ 64 else s.time } := by
  show Host.Outcome.next (idle _) = _
  unfold idle
  cases s.rstN <;> simp

/-- Settles O51: by the constructors of Instr for completion, and by the queue's two cases for the step. -/
theorem stepRunsTheFrontCommand : Obligations.StepRunsTheFrontCommand := by
  unfold Obligations.StepRunsTheFrontCommand
  exact fun c rest s => ⟨exec_completes c s, step_cons c rest s, step_nil s⟩

end Sys2Proof.Machine
end

section
/-! What a write of memory, a completion, a packet and a change of step leave: the windows, the groups, the catalogue, the cores'
states, the partitions, the charter and the start phase (R205–R217, R219, R383, R413). -/

namespace Sys2Proof.Machine

/-! ## Updates of a list, one after the other -/

theorem each_nil {α σ : Type} (f : α → σ → σ) (s : σ) : each [] f s = s := rfl

theorem each_cons {α σ : Type} (x : α) (l : List α) (f : α → σ → σ) (s : σ) : each (x :: l) f s = each l f (f x s) := rfl

/-- An element that stands once in a list takes A to B; the others keep what holds before it and after it. -/
theorem each_once {α : Type} {f : α → State → State} {x : α} {A B : State → Prop} (hA : ∀ y s, y ≠ x → A s → A (f y s))
    (hx : ∀ s, A s → B (f x s)) :
    ∀ {l : List α}, (∀ y ∈ l, ∀ s, y ≠ x → B s → B (f y s)) → l.Nodup → x ∈ l → ∀ {s}, A s → B (each l f s)
  | y :: l, hB, hl, hm, s, hs => by
    obtain ⟨hy, hl⟩ := List.nodup_cons.mp hl
    have hB' : ∀ z ∈ l, ∀ s, z ≠ x → B s → B (f z s) := fun z hz => hB z (List.mem_cons_of_mem _ hz)
    rcases List.mem_cons.mp hm with rfl | hm
    · exact List.foldlRecOn l _ (hx s hs) fun t ht z hz => hB' z hz t (ne_of_mem_of_not_mem hz hy) ht
    · exact each_once hA hx hB' hl hm (hA y s (ne_of_mem_of_not_mem hm hy).symm hs)

theorem upTo_nodup (n : Nat) (p : Nat → Bool) : (upTo n p).Nodup := List.nodup_range.filter p

theorem mem_upTo {n i : Nat} {p : Nat → Bool} : i ∈ upTo n p ↔ i < n ∧ p i = true := by
  simp [upTo]

/-! ## A write of memory -/

/-- From s to t at most LPDDR5X, its poisoned blocks, the slices and the devices have changed. -/
structure OnlyMem (s t : State) : Prop where
  rest : { t with mem := s.mem, bad := s.bad, slices := s.slices, devices := s.devices } = s

theorem OnlyMem.refl (s : State) : OnlyMem s s := ⟨rfl⟩

theorem OnlyMem.trans {a b c : State} (h : OnlyMem a b) (k : OnlyMem b c) : OnlyMem a c :=
  ⟨(congrArg (fun x : State => { x with mem := a.mem, bad := a.bad, slices := a.slices, devices := a.devices }) k.rest).trans
    h.rest⟩

theorem each_onlyMem {α : Type} {f : α → State → State} (hf : ∀ x s, OnlyMem s (f x s)) (l : List α) (s : State) :
    OnlyMem s (each l f s) :=
  each_invariant (P := OnlyMem s) (fun x t ht => ht.trans (hf x t)) l (.refl s)

theorem clearBad_onlyMem (s : State) (h : Home) (b : Nat) : OnlyMem s (clearBad s h b) := by
  unfold clearBad
  dsimp only
  split <;> exact ⟨rfl⟩

theorem clearDirty_onlyMem (s : State) (base : Nat) (c : CLine) : OnlyMem s (clearDirty s base c) :=
  each_onlyMem (fun e t => by
    dsimp only
    split
    · exact clearBad_onlyMem ..
    · exact .refl t) _ s

theorem putSector_onlyMem (s : State) (h : Home) (sec : Nat) (x : Sector) : OnlyMem s (putSector s h sec x) := by
  unfold putSector
  dsimp only
  split
  · exact ⟨rfl⟩
  · refine OnlyMem.trans ?_ (clearDirty_onlyMem ..)
    exact ⟨rfl⟩

theorem writeBlock_onlyMem (s : State) (b off : Nat) (bs : List Byte) (alloc : Bool) :
    OnlyMem s (writeBlock s b off bs alloc) := by
  unfold writeBlock
  split
  · exact .refl s
  next h _ =>
    dsimp only
    split
    · exact .refl s
    · split
      · exact (clearBad_onlyMem s h b).trans (putSector_onlyMem ..)
      · exact (clearBad_onlyMem s h b).trans ⟨rfl⟩

theorem ldWrite_onlyMem (s : State) (a : Nat) (bs : List Byte) (alloc : Bool) : OnlyMem s (ldWrite s a bs alloc) :=
  each_onlyMem (fun _ t => writeBlock_onlyMem t ..) _ s

/-! ## The roster -/

/-- The windows, the groups, the catalogue and its version, the cores' states, the partitions, the charter and the phase. -/
structure Roster where
  wins : Tbl Windows
  groups : Tbl Group
  cat : Tbl CatEntry
  catVersion : Nat
  catReady : Bool
  pstates : Tbl PState
  parts : Tbl Part
  charter : Charter
  ph : Nat

def State.roster (s : State) : Roster :=
  { wins := s.wins, groups := s.groups, cat := s.cat, catVersion := s.catVersion, catReady := s.catReady, pstates := s.pstates,
    parts := s.parts, charter := s.charter, ph := s.service.ph }

theorem OnlyMem.roster {s t : State} (h : OnlyMem s t) : t.roster = s.roster :=
  (congrArg State.roster h.rest :)

variable (s : State)

theorem each_roster {α : Type} {f : α → State → State} (hf : ∀ x t, (f x t).roster = t.roster) (l : List α) :
    (each l f s).roster = s.roster :=
  each_invariant (P := fun t => t.roster = s.roster) (fun x t ht => (hf x t).trans ht) l rfl

@[simp] theorem ite_roster (p : Prop) [Decidable p] (a b : State) :
    (if p then a else b).roster = if p then a.roster else b.roster := apply_ite ..

/-! ## Completions -/

@[simp] theorem feedTileMons_roster (t source : Nat) (inst : Option Nat) (v : Nat) :
    (feedTileMons s t source inst v).roster = s.roster := by
  unfold feedTileMons
  split
  · rfl
  · exact each_roster _ (by intros; rfl) _

@[simp] theorem sampleQueue_roster (q : Queue) (r : Rec) : (sampleQueue s q r).roster = s.roster := by
  unfold sampleQueue
  split
  · exact feedTileMons_roster ..
  · rfl

@[simp] theorem sendMsi_roster (h : Nat) (m : Msi) : (sendMsi s h m).roster = s.roster := by
  unfold sendMsi
  dsimp only
  split <;> rfl

@[simp] theorem setQueue_roster (n : Nat) (q : Queue) : (setQueue s n q).roster = s.roster := rfl

@[simp] theorem ldWrite_roster (a : Nat) (bs : List Byte) (alloc : Bool) : (ldWrite s a bs alloc).roster = s.roster :=
  (ldWrite_onlyMem ..).roster

@[simp] theorem writeRecord_roster (n : Nat) : (writeRecord s n).roster = s.roster := by
  unfold writeRecord
  dsimp only
  split <;> simp

@[simp] theorem writeRecords_roster (n k : Nat) : (writeRecords s n k).roster = s.roster := by
  induction k generalizing s with
  | zero => rfl
  | succ k ih => rw [writeRecords, ih, writeRecord_roster]

@[simp] theorem completeOne_roster (c : Cmd) (st : Status) (n r0 r1 r2 r3 : Nat) :
    (completeOne s c st n r0 r1 r2 r3).roster = s.roster := rfl

@[simp] theorem freeQueue_roster (n : Nat) : (freeQueue s n).roster = s.roster :=
  (each_roster _ (by intros; rfl) _).trans (writeRecords_roster ..)

@[simp] theorem endDisable_roster (c : Cmd) : (endDisable s c).roster = s.roster := by
  unfold endDisable
  split <;> simp

@[simp] theorem settle_roster (k : Nat) : (settle s k).roster = s.roster := by
  induction k generalizing s with
  | zero => rfl
  | succ k ih =>
    unfold settle
    split
    · rw [ih, endDisable_roster]
    · rfl

@[simp] theorem finish_roster (uid : Nat) (st : Status) (r0 r1 r2 r3 : Nat) :
    (finish s uid st r0 r1 r2 r3).roster = s.roster := by
  unfold finish complete
  split
  · exact (settle_roster ..).trans (completeOne_roster ..)
  · rfl

/-! ## Packets and tasks -/

@[simp] theorem finishTask_roster (p id : Nat) (st : Status) (af : AFlags) : (finishTask s p id st af).roster = s.roster := rfl

@[simp] theorem finishOk_roster (p id : Nat) (af : AFlags) (stream : List Byte) :
    (finishOk s p id af stream).roster = s.roster := rfl

@[simp] theorem met_roster (p id : Nat) : (met s p id).roster = s.roster := by
  unfold met
  split
  · split <;> rfl
  · rfl

@[simp] theorem endAsker_roster (who : Asker) (st : Status) : (endAsker s who st).roster = s.roster := by
  unfold endAsker
  split
  · split <;> rfl
  · rfl
  · split <;> rfl
  · rfl

@[simp] theorem noteVc0_roster (k : Packet) : (noteVc0 s k).roster = s.roster := by
  unfold noteVc0
  split <;> rfl

@[simp] theorem launch_roster (k : Packet) : (launch s k).roster = s.roster := by
  unfold launch
  split
  · exact noteVc0_roster ..
  · split
    · exact endAsker_roster ..
    · rfl

@[simp] theorem inject_roster (part vc kind sunit src dunit dst bytes : Nat) (urg : Bool) (tag : Nat) (body : Body) :
    (inject s part vc kind sunit src dunit dst bytes urg tag body).roster = s.roster := by
  unfold inject enqueue
  dsimp only
  split
  · exact launch_roster ..
  · rfl

@[simp] theorem toPort_roster (p : Nat) (f : Frame) (who : Asker) (urg : Bool) : (toPort s p f who urg).roster = s.roster := by
  unfold toPort
  split
  · exact endAsker_roster ..
  · exact inject_roster ..

@[simp] theorem putAck_roster (l : Nat) (sender : Nat × Nat) (srank : Nat) (urg : Bool) (st : Status) :
    (putAck s l sender srank urg st).roster = s.roster := by
  unfold putAck sendReply
  split
  · split
    · exact toPort_roster ..
    · exact inject_roster ..
  · rfl

/-! ## Steps -/

@[simp] theorem retarget_roster (p : Nat) : (retarget s p).roster = s.roster := by
  unfold retarget
  dsimp only
  split
  · rfl
  · split <;> rfl

@[simp] theorem retargetPart_roster (n : Nat) : (retargetPart s n).roster = s.roster := by
  unfold retargetPart settleSteps
  dsimp only
  split
  · exact (each_roster _ (fun _ _ => finish_roster ..) _).trans (each_roster _ (fun _ _ => retarget_roster ..) _)
  · exact each_roster _ (fun _ _ => retarget_roster ..) _

end Sys2Proof.Machine
end

section
/-! Remote windows: the transfers, the generation and the closing of a slot (R206, R210, R211, R213–R217). -/

namespace Sys2Proof.Machine

/-! ## A slot after an update -/

theorem winsAt_setWins (s : State) (l n : Nat) (v : Windows) :
    winsAt (setWins s l v) n = if l = n then v else winsAt s n := tblGet_tblSet ..

theorem winsAt_modWins_same (s : State) (l : Nat) (f : Windows → Windows) : winsAt (modWins s l f) l = f (winsAt s l) := by
  rw [modWins, winsAt_setWins, if_pos rfl]

theorem winAt_modWin_same (s : State) (l slot : Nat) (f : Win → Win) :
    winAt (modWin s l slot f) l slot = f (winAt s l slot) := by
  rw [winAt, modWin, winsAt_modWins_same, tblGet_tblMod_same, winAt]

theorem winsAt_congr {s t : State} (h : t.roster = s.roster) (l : Nat) : winsAt t l = winsAt s l :=
  (congrArg (fun r : Roster => tblGet Windows.init r.wins l) h :)

theorem winAt_congr {s t : State} (h : t.roster = s.roster) (l slot : Nat) : winAt t l slot = winAt s l slot := by
  rw [winAt, winsAt_congr h, winAt]

/-- Logical core l has the admitted transfers and the remembered outcomes that it had. -/
structure SameTransfers (l : Nat) (s t : State) : Prop where
  transfers : (winsAt t l).transfers = (winsAt s l).transfers
  served : (winsAt t l).served = (winsAt s l).served

theorem SameTransfers.trans {l : Nat} {a b c : State} (h : SameTransfers l a b) (k : SameTransfers l b c) :
    SameTransfers l a c := ⟨k.transfers.trans h.transfers, k.served.trans h.served⟩

theorem SameTransfers.of_roster {l : Nat} {s t : State} (h : t.roster = s.roster) : SameTransfers l s t :=
  ⟨congrArg Windows.transfers (winsAt_congr h l), congrArg Windows.served (winsAt_congr h l)⟩

theorem SameTransfers.slot {l : Nat} {s t : State} (h : SameTransfers l s t) (slot : Nat) :
    slotTransfers t l slot = slotTransfers s l slot := by
  rw [slotTransfers, h.transfers, slotTransfers]

theorem modWin_sameTransfers (s : State) (l slot : Nat) (f : Win → Win) : SameTransfers l s (modWin s l slot f) := by
  constructor <;> rw [modWin, winsAt_modWins_same]

/-! ## The generation (R206) -/

/-- A slot whose generation advances. -/
def Win.advanced (now : Nat) (w : Win) : Win :=
  { w with isOpen := false, closing := false, gen := nextGen w.gen, lastAdvance := some now, held := false,
           closer := none, expertCloser := none, doneInWait := 0, cutByFirst := 0, cutByExpert := 0 }

/-- The waits that end and the commands that complete leave the slot as its advance made it. -/
theorem advanceGen_roster (s : State) (l slot : Nat) :
    (advanceGen s l slot).roster = (modWin s l slot (Win.advanced s.time)).roster := by
  unfold advanceGen
  extract_lets w s1 s2 s3
  have h2 : s2.roster = s1.roster := by
    unfold s2
    split
    · exact each_roster _ (fun _ _ => finishTask_roster ..) _
    · rfl
  have h3 : s3.roster = s2.roster := by
    unfold s3
    split
    · exact finish_roster ..
    · rfl
  split
  · exact (finish_roster ..).trans (h3.trans h2)
  · exact h3.trans h2

theorem winAt_advanceGen (s : State) (l slot : Nat) :
    winAt (advanceGen s l slot) l slot = (winAt s l slot).advanced s.time := by
  rw [winAt_congr (advanceGen_roster ..), winAt_modWin_same]

theorem tryAdvance_of_transfers {s : State} {l slot : Nat} (h : slotTransfers s l slot ≠ []) : tryAdvance s l slot = s := by
  unfold tryAdvance
  exact if_neg (by simp [h])

/-- A closing slot without transfers that has not advanced yet advances at once. -/
theorem tryAdvance_of_empty {s : State} {l slot : Nat} (hc : (winAt s l slot).closing = true)
    (he : slotTransfers s l slot = []) (hl : (winAt s l slot).lastAdvance = none) :
    tryAdvance s l slot = advanceGen s l slot := by
  unfold tryAdvance
  simp [hc, he, hl]

theorem tryAdvance_sameTransfers (s : State) (l slot : Nat) : SameTransfers l s (tryAdvance s l slot) := by
  have ha : SameTransfers l s (advanceGen s l slot) :=
    (modWin_sameTransfers s l slot _).trans (.of_roster (advanceGen_roster ..))
  unfold tryAdvance
  dsimp only
  split
  · split
    · split
      · exact modWin_sameTransfers ..
      · exact ha
    · exact ha
  · exact ⟨rfl, rfl⟩

/-! ## Transfers that are cut (R211, R215) -/

theorem cutSlot_roster (s : State) (l slot : Nat) (st : Status) :
    (cutSlot s l slot st).roster = (modWins s l fun w =>
      { w with transfers := w.transfers.filter fun t => t.slot != slot,
               served := ((slotTransfers s l slot).map (fun t => (t.sender, st)) ++ w.served).take 64 }).roster :=
  each_roster _ (fun _ _ => putAck_roster ..) _

theorem slotTransfers_cutSlot (s : State) (l slot : Nat) (st : Status) : slotTransfers (cutSlot s l slot st) l slot = [] := by
  rw [slotTransfers, winsAt_congr (cutSlot_roster ..), winsAt_modWins_same]
  simp

theorem winAt_cutSlot (s : State) (l slot : Nat) (st : Status) : winAt (cutSlot s l slot st) l slot = winAt s l slot := by
  rw [winAt, winsAt_congr (cutSlot_roster ..), winsAt_modWins_same, winAt]

theorem slotTransfers_cutForClose (s : State) (l slot : Nat) (st : Status) (expert : Bool) :
    slotTransfers (cutForClose s l slot st expert) l slot = [] := by
  unfold cutForClose
  dsimp only
  rw [(tryAdvance_sameTransfers ..).slot, (modWin_sameTransfers ..).slot, slotTransfers_cutSlot]

/-- A transfer that falls silent holds no token of its slot any more (R216). -/
theorem execWindowTransferSilence_cut {s : State} {l src tag : Nat} {x : Transfer}
    (h : (winsAt s l).transfers.find? (fun y => y.sender.1 == src && y.tag == tag) = some x) :
    ∃ t, exec (.windowTransferSilence l src tag) s = .next t ∧
      ∀ y ∈ (winsAt t l).transfers, y.sender = x.sender → y.slot ≠ x.slot := by
  rw [exec, execWindowTransferSilence, h]
  refine ⟨_, rfl, ?_⟩
  dsimp only
  rw [(tryAdvance_sameTransfers ..).transfers, (modWin_sameTransfers ..).transfers, winsAt_congr (putAck_roster ..),
    winsAt_modWins_same]
  intro y hy hsender hslot
  simpa [hsender, hslot] using (List.mem_filter.mp hy).2

/-! ## The first packet of a transfer (R213) -/

/-- A transfer at its admission. -/
def admittedTransfer (s : State) (k : Packet) (sender : Nat × Nat) (slot off total srank : Nat) : Transfer :=
  { tag := k.tag, urg := urgent k, slot := slot, sender := sender, srank := srank, base := off, total := total, written := 0,
    lastSeen := s.time }

/-- The state in which the first packet's data is written: the packet is gone, and the transfer holds its token. -/
def admitState (s : State) (k : Packet) (l : Nat) (t : Transfer) : State :=
  modWins (dropPacket s k.id) l fun w => { w with transfers := w.transfers ++ [t] }

theorem winsAt_admitState (s : State) (k : Packet) (l : Nat) (t : Transfer) :
    winsAt (admitState s k l t) l = { winsAt s l with transfers := (winsAt s l).transfers ++ [t] } :=
  winsAt_modWins_same ..

theorem winRegion_admitState (s : State) (k : Packet) (l slot : Nat) (t : Transfer) :
    winRegion (admitState s k l t) l slot = winRegion s l slot := by
  have hw : winAt (admitState s k l t) l slot = winAt s l slot := by
    rw [winAt, winsAt_admitState, winAt]
  unfold winRegion
  rw [hw]
  rfl

/-- What admits a transfer: an open slot of its generation, whose region holds it, a token and no trace of its sender. -/
structure Admits (s : State) (sender : Nat × Nat) (l slot off total : Nat) (reg : Nat × MemKind × Nat × Nat) : Prop where
  isOpen : (winAt s l slot).isOpen = true
  closing : (winAt s l slot).closing = false
  region : winRegion s l slot = some reg
  fits : off + total ≤ reg.2.2.2
  token : (winsAt s l).transfers.length < 64
  fresh : ∀ x ∈ (winsAt s l).transfers, x.sender = sender → x.slot ≠ slot
  unserved : ∀ e ∈ (winsAt s l).served, e.1 ≠ sender

theorem takePut_admitted {s : State} {sender : Nat × Nat} {l slot off total : Nat} {reg : Nat × MemKind × Nat × Nat}
    (h : Admits s sender l slot off total reg) (k : Packet) (srank : Nat) (last : Bool) (bs : List Byte) :
    takePut s k sender l slot (winAt s l slot).gen off total srank true last bs =
      let t := admittedTransfer s k sender slot off total srank
      writeTransfer (admitState s k l t) l t off bs last := by
  have hw : winsAt (dropPacket s k.id) l = winsAt s l := rfl
  have hs : winAt (dropPacket s k.id) l slot = winAt s l slot := rfl
  have hreg : winRegion (dropPacket s k.id) l slot = some reg := h.region
  have ht : (winsAt s l).transfers.find? (fun t => t.sender == sender && t.slot == slot) = none := by
    simpa using h.fresh
  have hv : (winsAt s l).served.find? (fun e => e.1 == sender) = none := by
    simpa using h.unserved
  unfold takePut
  dsimp only
  rw [hw, hs, ht]
  dsimp only
  rw [if_neg (by simp), hv]
  dsimp only
  rw [if_neg (by simp [h.isOpen, h.closing]), hreg]
  dsimp only
  rw [if_neg (by have := h.fits; omega), if_neg (by have := h.token; omega)]
  rfl

/-- The entry of a transfer counts the bytes written; the others stay. -/
def Transfer.wrote (t : Transfer) (n now : Nat) (x : Transfer) : Transfer :=
  if x.sender = t.sender ∧ x.slot = t.slot then { x with written := n, lastSeen := now } else x

/-- The first data of a transfer enters its core, and its entry counts the bytes. -/
def writeFirst (s : State) (l p : Nat) (c : Core → Core) (t : Transfer) (n : Nat) : State :=
  modWins (modCore s p c) l fun w => { w with transfers := w.transfers.map (t.wrote n s.time) }

/-- The last data of a transfer gives its token back, counts it and answers its sender. -/
def completeTransfer (s : State) (l : Nat) (t : Transfer) : State :=
  let s := modWins s l fun w =>
    { w with transfers := w.transfers.filter fun x => !(x.sender == t.sender && x.slot == t.slot),
             served := ((t.sender, .ok) :: w.served).take 64 }
  let s := modWin s l t.slot fun w =>
    { w with done := satInc 32 w.done, doneInWait := w.doneInWait + if w.closing then 1 else 0 }
  tryAdvance (serveWaits (putAck s l t.sender t.srank t.urg .ok) l t.slot) l t.slot

theorem writeTransfer_first {s : State} {l : Nat} {t : Transfer} {p base len : Nat} {k : MemKind} (h0 : t.written = 0)
    (hr : winRegion s l t.slot = some (p, k, base, len)) (bs : List Byte) (last : Bool) :
    ∃ c, writeTransfer s l t t.base bs last =
      if last then completeTransfer (writeFirst s l p c t bs.length) l t else writeFirst s l p c t bs.length := by
  unfold writeTransfer
  dsimp only
  rw [if_neg (by omega), hr]
  dsimp only
  rw [h0, Nat.sub_self, Nat.zero_add, Nat.zero_max]
  cases last with
  | true => exact ⟨_, (if_pos ⟨rfl, rfl⟩).trans rfl⟩
  | false => exact ⟨_, (if_neg (by simp)).trans rfl⟩

theorem serveWaits_sameTransfers (s : State) (l slot : Nat) : SameTransfers l s (serveWaits s l slot) := by
  unfold serveWaits
  split
  · exact ⟨rfl, rfl⟩
  · dsimp only
    refine List.foldlRecOn (motive := fun x : State × Bool => SameTransfers l s x.1) _ _ ⟨rfl, rfl⟩ fun x hx t _ => ?_
    split
    · exact hx.trans ((modWin_sameTransfers x.1 l slot _).trans (.of_roster ((finishOk_roster ..).trans (met_roster ..))))
    · exact hx

theorem map_wrote_append {t : Transfer} {old : List Transfer} (h : ∀ x ∈ old, x.sender = t.sender → x.slot ≠ t.slot)
    (n now : Nat) : (old ++ [t]).map (t.wrote n now) = old ++ [{ t with written := n, lastSeen := now }] := by
  have hold : old.map (t.wrote n now) = old :=
    (List.map_congr_left fun x hx => if_neg fun e => h x hx e.1 e.2).trans (List.map_id old)
  rw [List.map_append, hold, List.map_singleton, Transfer.wrote, if_pos ⟨rfl, rfl⟩]

theorem filter_others_append {t : Transfer} {old : List Transfer} (h : ∀ x ∈ old, x.sender = t.sender → x.slot ≠ t.slot)
    (n now : Nat) :
    (old ++ [{ t with written := n, lastSeen := now }]).filter (fun x => !(x.sender == t.sender && x.slot == t.slot)) = old := by
  have hold : old.filter (fun x => !(x.sender == t.sender && x.slot == t.slot)) = old :=
    List.filter_eq_self.mpr fun x hx => by
      simpa [Decidable.imp_iff_not_or] using h x hx
  rw [List.filter_append, hold]
  simp

theorem winsAt_completeTransfer (s : State) (l : Nat) (t : Transfer) :
    (winsAt (completeTransfer s l t) l).transfers =
        (winsAt s l).transfers.filter (fun x => !(x.sender == t.sender && x.slot == t.slot)) ∧
      (winsAt (completeTransfer s l t) l).served = ((t.sender, .ok) :: (winsAt s l).served).take 64 := by
  unfold completeTransfer
  dsimp only
  rw [(tryAdvance_sameTransfers ..).transfers, (tryAdvance_sameTransfers ..).served, (serveWaits_sameTransfers ..).transfers,
    (serveWaits_sameTransfers ..).served, winsAt_congr (putAck_roster ..), (modWin_sameTransfers ..).transfers,
    (modWin_sameTransfers ..).served, winsAt_modWins_same]
  exact ⟨rfl, rfl⟩

/-- The transfers and outcomes of an owner after the first packet of a transfer that it admits. -/
theorem takePut_transfers {s : State} {sender : Nat × Nat} {l slot off total : Nat} {reg : Nat × MemKind × Nat × Nat}
    (h : Admits s sender l slot off total reg) (k : Packet) (srank : Nat) (last : Bool) (bs : List Byte) :
    let t := takePut s k sender l slot (winAt s l slot).gen off total srank true last bs
    let x := admittedTransfer s k sender slot off total srank
    (last = false → (winsAt t l).transfers = (winsAt s l).transfers ++ [{ x with written := bs.length }]) ∧
      (last = true → (winsAt t l).transfers = (winsAt s l).transfers ∧
        (winsAt t l).served = ((sender, .ok) :: (winsAt s l).served).take 64) := by
  intro t x
  obtain ⟨p, kind, base, len⟩ := reg
  obtain ⟨c, hc⟩ := writeTransfer_first (s := admitState s k l x) (t := x) rfl
    ((winRegion_admitState ..).trans h.region) bs last
  have ht : t = writeTransfer (admitState s k l x) l x x.base bs last := takePut_admitted h k srank last bs
  have hw : winsAt (writeFirst (admitState s k l x) l p c x bs.length) l =
      { winsAt s l with transfers := (winsAt s l).transfers ++ [{ x with written := bs.length }] } := by
    refine (winsAt_modWins_same ..).trans ?_
    rw [show winsAt (modCore (admitState s k l x) p c) l = _ from winsAt_admitState s k l x]
    exact congrArg (fun l' => { winsAt s l with transfers := l' }) (map_wrote_append (t := x) h.fresh bs.length s.time)
  rw [ht, hc]
  constructor <;> rintro rfl
  · rw [if_neg (by decide), hw]
  · obtain ⟨htransfers, hserved⟩ := winsAt_completeTransfer (writeFirst (admitState s k l x) l p c x bs.length) l x
    rw [if_pos rfl, htransfers, hserved, hw]
    exact ⟨filter_others_append h.fresh .., rfl⟩

end Sys2Proof.Machine
end

section
/-! The sender of a PUT: its outcome, and its transfer sent again (R213, R215, R216). -/

namespace Sys2Proof.Machine

/-! ## The sender's task -/

theorem find_modIf {α : Type} (q p : α → Bool) (f : α → α) (hf : ∀ x, p (f x) = p x) (l : List α) :
    (modIf q f l).find? p = (l.find? p).map fun x => if q x then f x else x := by
  have : (p ∘ fun x => if q x then f x else x) = p := by
    funext x
    dsimp only [Function.comp]
    split
    · exact hf x
    · rfl
  rw [modIf_eq_map, List.find?_map, this]

/-- An update of a task that leaves its number. -/
theorem taskOf_modTask {s : State} {p id : Nat} {u : Task} (h : taskOf (coreAt s p) id = some u) (f : Task → Task)
    (hf : ∀ t, (f t).id = t.id) : taskOf (coreAt (modTask s p id f) p) id = some (f u) := by
  have hid : u.id = id := by simpa using List.find?_some h
  have hfind := find_modIf (fun t : Task => t.id == id) (fun t => t.id == id) f (fun t => by rw [hf]) (coreAt s p).window
  rw [show (coreAt s p).window.find? (fun t => t.id == id) = some u from h, Option.map_some, if_pos (by simp [hid])] at hfind
  rw [modTask, modCore_eq, coreAt_setCore, if_pos rfl]
  exact hfind

/-- A task in another state of the same work: its number, its descriptor and whether it has finished. -/
structure SameWork (u v : Task) : Prop where
  id : v.id = u.id
  desc : v.desc = u.desc
  opcode : v.opcode = u.opcode
  finished : v.finished = u.finished

theorem SameWork.trans {a b c : Task} (h : SameWork a b) (k : SameWork b c) : SameWork a c :=
  ⟨k.id.trans h.id, k.desc.trans h.desc, k.opcode.trans h.opcode, k.finished.trans h.finished⟩

theorem endReqs_task {s : State} {p id : Nat} {u : Task} (h : taskOf (coreAt s p) id = some u) :
    ∃ v, taskOf (coreAt (endReqs s (.task p id)) p) id = some v ∧ SameWork u v := by
  unfold endReqs
  dsimp only
  cases s.reqs.any fun r => r.isOf (.task p id) && r.attempts == 2 with
  | false => exact ⟨u, h, rfl, rfl, rfl, rfl⟩
  | true =>
    dsimp only
    split
    · exact ⟨u, h, rfl, rfl, rfl, rfl⟩
    · exact ⟨_, taskOf_modTask (s := dropReqs s (.task p id)) h _ fun _ => rfl, rfl, rfl, rfl, rfl⟩

theorem met_task {s : State} {p id : Nat} {u : Task} (h : taskOf (coreAt s p) id = some u) :
    ∃ v, taskOf (coreAt (met s p id) p) id = some v ∧ SameWork u v := by
  unfold met
  rw [h]
  dsimp only
  split
  · exact ⟨_, taskOf_modTask h _ fun _ => rfl, rfl, rfl, rfl, rfl⟩
  · exact ⟨u, h, rfl, rfl, rfl, rfl⟩

/-- A task that has not finished ends OK. -/
theorem finishOk_task {s : State} {p id : Nat} {u : Task} (h : taskOf (coreAt s p) id = some u) (hf : u.finished = false)
    (hs : u.pendingStatus = none) (af : AFlags) (bs : List Byte) :
    ∃ v ∈ (coreAt (finishOk s p id af bs) p).window,
      v.id = u.id ∧ v.desc = u.desc ∧ v.finished = true ∧ v.status = .ok := by
  refine ⟨_, List.mem_of_find?_eq_some (taskOf_modTask h _ fun t => by split <;> rfl), ?_⟩
  rw [if_neg (by simp [hf])]
  exact ⟨rfl, rfl, rfl, by rw [hs]; rfl⟩

/-- The outcome OK ends a PUT (R213). -/
theorem takeAck_ok {s : State} {p id : Nat} {u : Task} (h : taskOf (coreAt s p) id = some u) (ho : u.opcode = 0x52)
    (hf : u.finished = false) :
    ∃ v ∈ (coreAt (takeAck s (p, id) .ok) p).window, v.id = u.id ∧ v.desc = u.desc ∧ v.finished = true ∧ v.status = .ok := by
  obtain ⟨v, hv, hwork⟩ := endReqs_task h
  have hstop : taskOf (coreAt (stopSending (endReqs s (.task p id)) (p, id)) p) id = some v := hv
  obtain ⟨w, hw, hmet⟩ := met_task hstop
  have hid : v.id = id := by simpa using List.find?_some hv
  obtain ⟨x, hx, hxid, hxdesc, hdone⟩ := finishOk_task (taskOf_modTask hw (fun t => { t with pendingStatus := none }) fun _ => rfl)
    ((hwork.trans hmet).finished.trans hf) rfl 0 []
  refine ⟨x, ?_, hxid.trans (hwork.trans hmet).id, hxdesc.trans (hwork.trans hmet).desc, hdone⟩
  unfold takeAck
  dsimp only
  rw [hstop]
  dsimp only
  rw [if_neg (by simp [hwork.opcode, hwork.finished, ho, hf]), if_neg (by decide), if_pos rfl, hid]
  exact hx

/-! ## A transfer sent again -/

/-- From s to t packets are added, and none is taken away; the requests stay. -/
structure Sends (s t : State) : Prop where
  packets : s.packets ⊆ t.packets
  reqs : t.reqs = s.reqs

theorem Sends.trans {a b c : State} (h : Sends a b) (k : Sends b c) : Sends a c :=
  ⟨List.Subset.trans h.packets k.packets, k.reqs.trans h.reqs⟩

theorem endAsker_sends (s : State) (who : Asker) (st : Status) : Sends s (endAsker s who st) := by
  unfold endAsker
  split
  · split <;> exact ⟨List.Subset.refl _, rfl⟩
  · exact ⟨List.Subset.refl _, rfl⟩
  · split <;> exact ⟨List.Subset.refl _, rfl⟩
  · exact ⟨List.Subset.refl _, rfl⟩

theorem launch_sends (s : State) (k : Packet) : Sends s (launch s k) := by
  unfold launch
  split
  · exact ⟨by simp, noteVc0_reqs ..⟩
  · split
    · exact endAsker_sends ..
    · exact ⟨List.Subset.refl _, rfl⟩

theorem enqueue_sends (s : State) (k : Packet) : Sends s (enqueue s k) := by
  unfold enqueue
  dsimp only
  split
  · obtain ⟨hp, hr⟩ := launch_sends { s with nextId := s.nextId + 1 } k
    exact ⟨hp, hr⟩
  · exact ⟨List.subset_append_left .., rfl⟩

theorem toPort_sends (s : State) (p : Nat) (f : Frame) (who : Asker) (urg : Bool) : Sends s (toPort s p f who urg) := by
  unfold toPort
  split
  · exact endAsker_sends ..
  · exact enqueue_sends ..

theorem request_sends (s : State) (p peer vc kind bytes id : Nat) (b : Body) : Sends s (request s p peer vc kind bytes id b) := by
  unfold request sendReq
  split
  · split
    · exact toPort_sends ..
    · exact enqueue_sends ..
  · exact ⟨List.Subset.refl _, rfl⟩

theorem each_sends {α : Type} {f : α → State → State} (hf : ∀ x s, Sends s (f x s)) (l : List α) (s : State) :
    Sends s (each l f s) :=
  each_invariant (P := Sends s) (fun x t ht => ht.trans (hf x t)) l ⟨List.Subset.refl _, rfl⟩

/-- While its route is in force, a packet is queued or injected under the next number. -/
theorem enqueue_number {s : State} {k : Packet} (hv : routeValid s (k.src / 512) (k.dst / 512) = true) :
    ∃ x ∈ (enqueue s k).packets, x.id = k.id := by
  unfold enqueue
  dsimp only
  split
  · rw [launch_of_valid (s := { s with nextId := s.nextId + 1 }) hv, noteVc0_packets]
    exact ⟨_, List.mem_append_right _ (List.mem_singleton_self _), rfl⟩
  · exact ⟨k, List.mem_append_right _ (List.mem_singleton_self _), rfl⟩

theorem pcoreCode_tile (p : Nat) : pcoreCode p / 512 = tileOf p := by
  unfold pcoreCode siteOf coreOf
  omega

/-- A request to a core of this panel that can be reached has a packet of the next number. -/
theorem request_number {s : State} {p peer : Nat} (hl : isRemote peer = false) (hr : reachable s p peer = true)
    (vc kind bytes id : Nat) (b : Body) : ∃ x ∈ (request s p peer vc kind bytes id b).packets, x.id = s.nextId := by
  have hv : routeValid s (tileOf p) (tileOf peer) = true := by simpa [reachable, hl] using hr
  unfold request sendReq
  rw [if_pos hr, hl, if_neg (by decide)]
  refine enqueue_number ?_
  show routeValid s (pcoreCode p / 512) (pcoreCode peer / 512) = true
  rw [pcoreCode_tile, pcoreCode_tile, hv]

theorem addReq_reqs {s : State} {packets : List Packet} {frames : List Frame} (h : packets ≠ [] ∨ frames ≠ []) (who : Asker) :
    ∃ r, (addReq s who packets frames).reqs = s.reqs ++ [r] ∧ r.who = who ∧ r.attempts = 1 := by
  unfold addReq
  rw [if_neg (by simpa [Decidable.imp_iff_not_or] using h)]
  exact ⟨_, rfl, rfl, rfl⟩

/-- A core without failing words reads without fault and finds no further failing word beside. -/
theorem accFail_of_sound {c : Core} (h : c.failing = []) (write : Bool) (l : List Acc) : accFail c write l = none := by
  simp [accFail, h, lowestWord]

/-- Accesses of a core without failing words are only presented to its scratchpads. -/
theorem seeAccesses_of_sound {s : State} {p : Nat} (h : (coreAt s p).failing = []) (id : Nat) (l : List Acc) :
    ∃ c, seeAccesses s p id l = setCore s p c ∧ c.failing = [] := by
  unfold seeAccesses
  have hs : besideReads (coreAt s p) (wordsRead l) = [] := by rw [besideReads, h, List.filter_nil]
  dsimp only
  rw [hs]
  refine ⟨_, rfl, Eq.trans ?_ h⟩
  dsimp only [serveStarved]
  unfold raceCheck
  dsimp only
  split <;> rfl

/-- Requests to a peer that can be reached, one after the other: the first has a packet when the peer is on this panel. -/
theorem each_request {s : State} {p peer : Nat} (hr : reachable s p peer = true) (vc id : Nat) (bytes : Body → Nat) (b : Body)
    (l : List Body) :
    let t := each (b :: l) (fun b s => request s p peer vc 0x09 (bytes b) id b) s
    t.reqs = s.reqs ∧ (isRemote peer = false → packetsFrom t s.nextId ≠ []) := by
  intro t
  have hall : Sends s t := each_sends (fun _ _ => request_sends ..) _ s
  have hrest : Sends (request s p peer vc 0x09 (bytes b) id b) t := each_sends (fun _ _ => request_sends ..) l _
  refine ⟨hall.reqs, fun hl => ?_⟩
  obtain ⟨x, hx, hid⟩ := request_number hl hr vc 0x09 (bytes b) id b
  exact List.ne_nil_of_mem (List.mem_filter.mpr ⟨hrest.packets hx, by simp [hid]⟩)

/-- A PUT of a core without failing words that finds its peer is one request of its task. -/
theorem sendPut_reqs {s : State} {p peer : Nat} {pl : Nat × Nat} {t : Task} (hpl : rankPlace s p (coreAt s p) (pRank t.desc) = some pl)
    (hpeer : placeCoreOf s pl = some peer) (hr : reachable s p peer = true) (hf : (coreAt s p).failing = [])
    (hb : 0 < pBytes t.desc) : ∃ r, (sendPut s p t).reqs = s.reqs ++ [r] ∧ r.who = .task p t.id ∧ r.attempts = 1 := by
  obtain ⟨c, hsee, hc⟩ := seeAccesses_of_sound hf t.id [byteAcc false (locAt t 0).kind (locAt t 0).word (pBytes t.desc)]
  obtain ⟨n, hn⟩ : ∃ n, ceilDiv (pBytes t.desc) 240 = n + 1 :=
    Nat.exists_eq_add_one.mpr (Nat.div_pos (by omega) (by decide))
  unfold sendPut
  dsimp only
  rw [hpl]
  dsimp only [Option.bind_some]
  rw [hpeer]
  dsimp only
  rw [hsee, show coreAt (setCore s p c) p = c by rw [coreAt_setCore, if_pos rfl], accFail_of_sound hc]
  dsimp only
  rw [hn, putBodies]
  obtain ⟨hreqs, hpackets⟩ := each_request (s := setCore s p c) hr (dTc t.desc) t.id _ _ _
  rw [← show (setCore s p c).reqs = s.reqs from rfl, ← hreqs]
  refine addReq_reqs ?_ _
  cases hl : isRemote peer with
  | true => exact .inr (by simp)
  | false => exact .inl (by simpa using hpackets hl)

/-- A PUT without a token is sent again. -/
theorem exec_putResendTimer {s : State} {p id : Nat} {u : Task} (hu : taskOf (coreAt s p) id = some u) (ho : u.opcode = 0x52)
    (hf : u.finished = false) (hs : u.pendingStatus = some .noResource) :
    exec (.putResendTimer p id) s = .next (sendPut (modTask s p id fun t => { t with pendingStatus := none }) p u) := by
  rw [exec, execPutResendTimer, hu]
  simp [ho, hf, hs]

theorem resend_reqs {s : State} {p id peer : Nat} {u : Task} (hu : taskOf (coreAt s p) id = some u)
    (hf : (coreAt s p).failing = []) (hb : 0 < pBytes u.desc)
    (hpeer : (rankPlace s p (coreAt s p) (pRank u.desc)).bind (placeCoreOf s) = some peer) (hr : reachable s p peer = true)
    (f : Task → Task) :
    ∃ r, (sendPut (modTask s p id f) p u).reqs = s.reqs ++ [r] ∧ r.who = .task p id ∧ r.attempts = 1 := by
  obtain ⟨pl, hpl, hplace⟩ := Option.bind_eq_some_iff.mp hpeer
  have hcore : coreAt (modTask s p id f) p = { coreAt s p with window := modIf (fun t => t.id == id) f (coreAt s p).window } := by
    rw [modTask, modCore_eq, coreAt_setCore, if_pos rfl]
  obtain rfl : u.id = id := by simpa using List.find?_some hu
  exact sendPut_reqs (s := modTask s p u.id f) (by rw [hcore]; exact hpl) hplace hr (by rw [hcore]; exact hf) hb

/-! ## The statement -/

theorem exec_putData {s : State} {id : Nat} {k : Packet} {sender : Nat × Nat} {l slot wgen off total srank : Nat}
    {first last : Bool} {bs : List Byte} (ha : arrived s id = some k)
    (hb : k.body = .putData sender l slot wgen off total srank first last bs) :
    exec (.putData id) s = .next (takePut s k sender l slot wgen off total srank first last bs) := by
  rw [exec, execPutData, ha]
  simp only [hb]

theorem exec_putAck {s : State} {id : Nat} {k : Packet} {sender : Nat × Nat} {st : Status} {srank : Nat}
    (ha : arrived s id = some k) (hb : k.body = .putAck sender st srank) :
    exec (.putAck id) s = .next (takeAck (dropPacket s id) sender st) := by
  rw [exec, execPutAck, ha]
  simp only [hb]

theorem exec_windowGenAdvance {s : State} {l slot : Nat} (h : (winAt s l slot).held = true) :
    exec (.windowGenAdvance l slot) s = .next (advanceGen s l slot) := by
  rw [exec, execWindowGenAdvance, if_pos h]

theorem exec_windowCloseWaitExpiry {s : State} {l slot : Nat} (hc : (winAt s l slot).closing = true)
    (hw : (winAt s l slot).closer.isSome = true) (ht : slotTransfers s l slot ≠ []) :
    exec (.windowCloseWaitExpiry l slot) s = .next (cutForClose s l slot .truncated false) := by
  rw [exec, execWindowCloseWaitExpiry]
  simp [hc, hw, ht]

/-- Settles O9: an admission is followed through the packet, the token and the data; a cut, an advance and an outcome are each one
operation on the owner's slot or the sender's task. -/
theorem windowTransfersAreAdmittedAndEnd : Obligations.WindowTransfersAreAdmittedAndEnd := by
  unfold Obligations.WindowTransfersAreAdmittedAndEnd
  intro s id k
  refine ⟨fun sender l slot off total srank bs last reg ha hb ho hc hreg hfit htok hfresh hserved => ?_,
    fun sender srank u ha hb hu ho hf => ?_, fun p u peer hu ho hf hs hfail hbytes hpeer hr => ?_,
    fun l src tag x h => execWindowTransferSilence_cut h, fun l slot h => ?_, fun l slot hc hw ht => ?_⟩
  · exact ⟨_, exec_putData ha hb, takePut_transfers ⟨ho, hc, hreg, hfit, htok, hfresh, hserved⟩ k srank last bs⟩
  · exact ⟨_, exec_putAck ha hb, takeAck_ok (s := dropPacket s id) hu ho hf⟩
  · exact ⟨_, exec_putResendTimer hu ho hf hs, resend_reqs hu hfail hbytes hpeer hr _⟩
  · refine ⟨_, exec_windowGenAdvance h, ?_⟩
    rw [winAt_advanceGen]
    exact ⟨rfl, rfl, rfl⟩
  · exact ⟨_, exec_windowCloseWaitExpiry hc hw ht, slotTransfers_cutForClose ..⟩

end Sys2Proof.Machine
end

section
/-! Commands that open and close windows, and that make and remove barrier groups (R209–R211, R219, R220). -/

namespace Sys2Proof.Machine

/-! ## The answer of a command -/

/-- Commands that begin leave the queues, the commands in flight and the time as they were but for what has started. -/
structure Ongoing (s u : State) (c : Cmd) (wait : CmdWait) : Prop where
  queues : u.queues = s.queues
  time : u.time = s.time
  here : u.cmds.find? (fun e => e.uid == c.uid) = some { c with started := true, wait := wait }
  noDisable : noDisable u.cmds

theorem Ongoing.of_begun {s u : State} {q : Nat} {c : Cmd} {mine : Cmd → Bool} (h : Begins s q c mine)
    (hc : u.cmds = (begun s c).cmds) (hq : u.queues = s.queues) (ht : u.time = s.time) : Ongoing s u c .none := by
  refine ⟨hq, ht, ?_, hc ▸ begun_noDisable h.quiet⟩
  rw [hc, begun_find h.cmds (nextStart_mem h.next).1, ← h.fresh]

/-- While no disable or destroy waits, a completion takes one command out of those in flight. -/
theorem completeOne_cmds {s : State} (h : noDisable s.cmds) (c : Cmd) (st : Status) (n r0 r1 r2 r3 : Nat) :
    (completeOne s c st n r0 r1 r2 r3).cmds = s.cmds.filter fun e => e.uid != c.uid := by
  unfold completeOne
  refine (List.map_congr_left fun e he => ?_).trans (List.map_id _)
  split
  next hw => exact absurd hw (h e (List.mem_filter.mp he).1 _ _ _ _)
  next => rfl

/-- A command that has started is answered by its completion, unless its record is to follow another's (R275). -/
theorem finish_answered {s u : State} {q : Nat} {c : Cmd} {mine : Cmd → Bool} {wait : CmdWait} (h : Begins s q c mine)
    (ho : Ongoing s u c wait) (hw : ∀ n, wait ≠ .abort n) (st : Status) (r0 r1 r2 r3 : Nat) :
    Answered s (finish u c.uid st r0 r1 r2 r3) c st r0 r1 r2 r3 := by
  have hcmds := completeOne_cmds ho.noDisable { c with started := true, wait := wait } st 1 r0 r1 r2 r3
  have hone : finish u c.uid st r0 r1 r2 r3 = completeOne u { c with started := true, wait := wait } st 1 r0 r1 r2 r3 := by
    unfold finish complete cmdOf
    rw [ho.here]
    exact settle_of_noDisable (by rw [hcmds]; exact filter_noDisable ho.noDisable _) _
  rw [hone]
  constructor
  · unfold completeOne
    rw [modQueue_eq, queueAt_setQueue, if_pos rfl]
    refine (passSilent_append _ _ _ (by simp [h.comp])).trans ?_
    -- the record follows no other (`hw`)
    simp only [h.comp, h.first, queueAt, ho.queues, ho.time]
    rfl
  · rw [hcmds]
    intro e he
    simpa using (List.mem_filter.mp he).2

/-! ## Windows (R209–R211) -/

theorem checked_of_none {c : Cmd} {checks : List (Bool × Status)} (h : firstOf checks = none) (act : State → State) (s : State) :
    checked c checks act s = act s := by
  rw [checked, h]

theorem openWindow_eq {s : State} {c : Cmd} (hl : wLcore c < 3072) (ho : (winAt s (wLcore c) (wSlot c)).isOpen = false)
    (hc : (winAt s (wLcore c) (wSlot c)).closing = false) (hb : boundOn s (wLcore c) (wHandle c) = true) :
    openWindow c s = finish (modWin s (wLcore c) (wSlot c) fun w => { w with isOpen := true, handle := wHandle c, done := 0 })
      c.uid .ok (winAt s (wLcore c) (wSlot c)).gen 0 0 0 := by
  unfold openWindow
  refine checked_of_none ?_ ..
  simp [woChecks, firstOf, ho, hc, hb]
  omega

/-- A close of either form that nothing refuses. -/
theorem wcChecks_none {s : State} {c : Cmd} (hl : wLcore c < 3072) (ho : (winAt s (wLcore c) (wSlot c)).isOpen = true)
    (hc : (if c.expert then (winAt s (wLcore c) (wSlot c)).expertCloser.isSome else (winAt s (wLcore c) (wSlot c)).closing) = false)
    (hg : wGen c = (winAt s (wLcore c) (wSlot c)).gen) : firstOf (wcChecks s c) = none := by
  simp [wcChecks, firstOf, ho, hc, hg]
  omega

/-- The slot of logical core l changes for a command, which waits for its close. -/
def closingFor (c : Cmd) (l slot : Nat) (f : Win → Win) (s : State) : State :=
  modCmd (modWin s l slot f) c.uid fun x => { x with wait := .window l slot }

theorem winAt_closingFor (c : Cmd) (l slot : Nat) (f : Win → Win) (s : State) :
    winAt (closingFor c l slot f s) l slot = f (winAt s l slot) := winAt_modWin_same ..

theorem slotTransfers_closingFor (c : Cmd) (l slot : Nat) (f : Win → Win) (s : State) :
    slotTransfers (closingFor c l slot f s) l slot = slotTransfers s l slot := (modWin_sameTransfers s l slot f).slot slot

/-- A slot is closed, in the generation after gen. -/
def ClosedAfter (gen : Nat) (w : Win) : Prop := w.isOpen = false ∧ w.closing = false ∧ w.gen = nextGen gen

/-- A slot that closes without transfers, and that has not advanced before, is closed at its next generation. -/
theorem tryAdvance_closes {s : State} {l slot : Nat} (hc : (winAt s l slot).closing = true) (he : slotTransfers s l slot = [])
    (hl : (winAt s l slot).lastAdvance = none) : ClosedAfter (winAt s l slot).gen (winAt (tryAdvance s l slot) l slot) := by
  rw [tryAdvance_of_empty hc he hl, winAt_advanceGen]
  exact ⟨rfl, rfl, rfl⟩

/-- The expert form cuts what the slot has admitted, and so finds it without transfers. -/
theorem cutForClose_closes {s : State} {l slot : Nat} (hc : (winAt s l slot).closing = true)
    (hl : (winAt s l slot).lastAdvance = none) (st : Status) :
    ClosedAfter (winAt s l slot).gen (winAt (cutForClose s l slot st true) l slot) := by
  let s1 := modWin (cutSlot s l slot st) l slot fun w => { w with cutByExpert := w.cutByExpert + (slotTransfers s l slot).length }
  have hw : winAt s1 l slot =
      { winAt s l slot with cutByExpert := (winAt s l slot).cutByExpert + (slotTransfers s l slot).length } := by
    rw [winAt_modWin_same, winAt_cutSlot]
  have he : slotTransfers s1 l slot = [] := by rw [(modWin_sameTransfers ..).slot, slotTransfers_cutSlot]
  have h := tryAdvance_closes (s := s1) (l := l) (slot := slot) (by rw [hw]; exact hc) he (by rw [hw]; exact hl)
  rw [hw] at h
  exact h

theorem exec_windowOpen {s : State} {q : Nat} {c : Cmd} (hb : Begins s q c (isFnAny 0x0202)) :
    exec (.windowOpen q) s = .next (openWindow c (begun s c)) :=
  congrArg Host.Outcome.next (startAs_begins hb _)

theorem exec_windowClose {s : State} {q : Nat} {c : Cmd} (hb : Begins s q c (isFn 0x0203 false)) :
    exec (.windowClose q) s = .next (closeWindow c (begun s c)) :=
  congrArg Host.Outcome.next (startAs_begins hb _)

theorem exec_windowCloseExpert {s : State} {q : Nat} {c : Cmd} (hb : Begins s q c (isFn 0x0203 true)) :
    exec (.windowCloseExpert q) s = .next (closeWindowExpert c (begun s c)) :=
  congrArg Host.Outcome.next (startAs_begins hb _)

/-- WINDOW_OPEN of a closed slot (R209). -/
theorem openWindow_opens {s : State} {q : Nat} {c : Cmd} (hb : Begins s q c (isFnAny 0x0202)) (hl : wLcore c < 3072)
    (ho : (winAt s (wLcore c) (wSlot c)).isOpen = false) (hc : (winAt s (wLcore c) (wSlot c)).closing = false)
    (hh : boundOn s (wLcore c) (wHandle c) = true) :
    Answered s (openWindow c (begun s c)) c .ok (winAt s (wLcore c) (wSlot c)).gen 0 0 0 ∧
      winAt (openWindow c (begun s c)) (wLcore c) (wSlot c) =
        { winAt s (wLcore c) (wSlot c) with isOpen := true, handle := wHandle c, done := 0 } := by
  have hw : winAt (begun s c) (wLcore c) (wSlot c) = winAt s (wLcore c) (wSlot c) := rfl
  rw [openWindow_eq (s := begun s c) hl ho hc hh, hw]
  generalize hu : (modWin (begun s c) (wLcore c) (wSlot c) fun w => { w with isOpen := true, handle := wHandle c, done := 0 }) = u
  have hon : Ongoing s u c .none := by
    subst hu
    exact .of_begun hb rfl rfl rfl
  refine ⟨finish_answered hb hon nofun .., ?_⟩
  rw [winAt_congr (finish_roster ..), ← hu, winAt_modWin_same, hw]

/-- The basic WINDOW_CLOSE of an open slot (R210). -/
theorem closeWindow_eq {s : State} {c : Cmd} (hx : c.expert = false) (hl : wLcore c < 3072)
    (ho : (winAt s (wLcore c) (wSlot c)).isOpen = true) (hc : (winAt s (wLcore c) (wSlot c)).closing = false)
    (hg : wGen c = (winAt s (wLcore c) (wSlot c)).gen) :
    closeWindow c s = tryAdvance (closingFor c (wLcore c) (wSlot c) (fun w => { w with closing := true, closer := some c.uid }) s)
      (wLcore c) (wSlot c) := by
  unfold closeWindow
  exact checked_of_none (wcChecks_none hl ho (by rw [hx]; exact hc) hg) ..

/-- The expert WINDOW_CLOSE of an open slot (R211). -/
theorem closeWindowExpert_eq {s : State} {c : Cmd} (hx : c.expert = true) (hl : wLcore c < 3072)
    (ho : (winAt s (wLcore c) (wSlot c)).isOpen = true) (hc : (winAt s (wLcore c) (wSlot c)).expertCloser = none)
    (hg : wGen c = (winAt s (wLcore c) (wSlot c)).gen) :
    closeWindowExpert c s = cutForClose
      (closingFor c (wLcore c) (wSlot c) (fun w => { w with closing := true, expertCloser := some c.uid }) s)
      (wLcore c) (wSlot c) .aborted true := by
  unfold closeWindowExpert
  exact checked_of_none (wcChecks_none hl ho (by rw [hx]; exact congrArg Option.isSome hc) hg) ..

/-- The close of a slot with transfers waits; the close of one without them takes place. -/
theorem closing_waits_or_closes (s : State) (c : Cmd) (l slot : Nat) {f : Win → Win} (hf : ∀ w, (f w).closing = true)
    (hl : ∀ w, (f w).lastAdvance = w.lastAdvance) (hg : ∀ w, (f w).gen = w.gen) :
    let t := tryAdvance (closingFor c l slot f s) l slot
    (slotTransfers s l slot ≠ [] → winAt t l slot = f (winAt s l slot)) ∧
      (slotTransfers s l slot = [] → (winAt s l slot).lastAdvance = none → ClosedAfter (winAt s l slot).gen (winAt t l slot)) := by
  intro t
  have hw := winAt_closingFor c l slot f s
  constructor
  · intro h
    rw [← slotTransfers_closingFor c l slot f] at h
    rw [show t = closingFor c l slot f s from tryAdvance_of_transfers h, hw]
  · intro he hn
    rw [← hg, ← hw]
    exact tryAdvance_closes (by rw [hw, hf]) (by rw [slotTransfers_closingFor, he]) (by rw [hw, hl, hn])

theorem cut_closes (s : State) (c : Cmd) (l slot : Nat) {f : Win → Win} (hf : ∀ w, (f w).closing = true)
    (hl : ∀ w, (f w).lastAdvance = w.lastAdvance) (hg : ∀ w, (f w).gen = w.gen) (st : Status)
    (hn : (winAt s l slot).lastAdvance = none) :
    ClosedAfter (winAt s l slot).gen (winAt (cutForClose (closingFor c l slot f s) l slot st true) l slot) := by
  have hw := winAt_closingFor c l slot f s
  rw [← hg, ← hw]
  exact cutForClose_closes (by rw [hw, hf]) (by rw [hw, hl, hn]) st

end Sys2Proof.Machine
end

section
/-! Barrier groups that are made and removed, and the statement of windows and groups (R209–R211, R219, R220). -/

namespace Sys2Proof.Machine

/-! ## The table of groups -/

theorem tblLook_tblPut_same {α : Type} (t : Tbl α) (k : Nat) (v : α) : tblLook (tblPut t k v) k = some v := by
  rw [tblLook_tblPut, if_pos rfl]

/-- Of a table in which nothing has a property, the entry that is put has it alone. -/
theorem filter_tblPut {α : Type} {p : Nat × α → Bool} {k : Nat} {v : α} (hv : p (k, v) = true) :
    ∀ {t : Tbl α}, (∀ e ∈ t, p e = false) → (tblPut t k v).filter p = [(k, v)]
  | [], _ => by simp [tblPut, hv]
  | (k', v') :: t, h => by
    have h0 : p (k', v') = false := h _ (List.mem_cons_self ..)
    have ht : ∀ e ∈ t, p e = false := fun e he => h e (List.mem_cons_of_mem _ he)
    have hnil : t.filter p = [] := List.filter_eq_nil_iff.mpr fun e he => by simp [ht e he]
    unfold tblPut
    split
    · simp [hv, h0, hnil]
    · split
      · simp [hv, hnil]
      · simp [h0, filter_tblPut hv ht]

theorem tblLook_filter_ne {α : Type} (t : Tbl α) (k : Nat) : tblLook (t.filter fun e => !(e.1 == k)) k = none := by
  induction t with
  | nil => rfl
  | cons e t ih =>
    rw [List.filter_cons]
    split
    next h => simpa [tblLook, ih] using h
    next => exact ih

theorem groupAt_congr {s t : State} (h : t.roster = s.roster) (key : Nat) : groupAt t key = groupAt s key :=
  (congrArg (fun r : Roster => tblLook r.groups key) h :)

/-! ## Creation (R219) -/

theorem bits_lt (x hi lo : Nat) : bits x hi lo < 2 ^ (hi - lo + 1) := Nat.mod_lt _ (Nat.two_pow_pos _)

theorem groupKey_mod (part : Nat) {g : Nat} (h : g < 64) : groupKey part g % 64 = g := by
  unfold groupKey
  omega

/-- The group that BARRIER_GROUP_CREATE makes. -/
def newGroup (c : Cmd) (l : List Nat) (tile : Nat) : Group :=
  { slot := fld c.pkt 99 96, first := fld c.pkt 159 128, members := l, rootTile := tile, expertRoot := fld c.pkt 111 104 != 0xFF,
    arrive := l.map fun _ => false, release := l.map fun _ => false, phase := false, seqs := l.map fun _ => 0, closing := none,
    inFlight := [] }

/-- The key that BARRIER_GROUP_CREATE gives. -/
def createKey (c : Cmd) : Nat := groupKey (fld c.pkt 83 80) (fld c.pkt 69 64)

/-- The tile of a new group's root. -/
def rootOf (s : State) (c : Cmd) (l : List Nat) : Nat :=
  if fld c.pkt 111 104 = 0xFF then cornerTile s l else fld c.pkt 111 104

theorem createGroup_of_members {s : State} {c : Cmd} {l : List Nat} (h : newMembers s c = some l) :
    ∃ span, createGroup c s = finish { s with groups := tblPut s.groups (createKey c) (newGroup c l (rootOf s c l)) } c.uid .ok
      (createKey c % 64) (rootOf s c l) span (ceilLog2 (fld c.pkt 191 160)) := by
  unfold createGroup
  rw [h]
  exact ⟨_, rfl⟩

theorem newMembers_eq {s : State} {c : Cmd} {l : List Nat} (hn : groupAt s (createKey c) = none)
    (hr : fld c.pkt 111 104 = 0xFF ∨
      (c.expert = true ∧ fld c.pkt 111 104 < 16 ∧ partOfTile s (fld c.pkt 111 104) = some (fld c.pkt 83 80)))
    (h1 : 1 ≤ fld c.pkt 191 160) (h2 : fld c.pkt 191 160 ≤ 3072)
    (hm : memberList s (fld c.pkt 83 80) (fld c.pkt 99 96) (fld c.pkt 159 128) (fld c.pkt 191 160) = some l) :
    newMembers s c = some l := by
  have hroot : (fld c.pkt 111 104 == 0xFF || (c.expert && partOfTile s (fld c.pkt 111 104) == some (fld c.pkt 83 80) &&
      decide (fld c.pkt 111 104 < 16))) = true := by
    rcases hr with hr | ⟨hx, h16, hp⟩
    · simp [hr]
    · simp [hx, h16, hp]
  unfold newMembers
  dsimp only
  rw [show groupAt s (groupKey (fld c.pkt 83 80) (fld c.pkt 69 64)) = none from hn, hroot, if_neg (by decide), if_pos ⟨h1, h2⟩, hm]

theorem exec_barrierGroupCreate {s : State} {q : Nat} {c : Cmd} (hb : Begins s q c (isFnAny 0x0300)) :
    exec (.barrierGroupCreate q) s = .next (createGroup c (begun s c)) :=
  congrArg Host.Outcome.next (startAs_begins hb _)

/-- A creation that names members is answered, and its group stands under its key. -/
theorem createGroup_answered {s : State} {q : Nat} {c : Cmd} {l : List Nat} (hb : Begins s q c (isFnAny 0x0300))
    (h : newMembers (begun s c) c = some l) :
    (∃ span, Answered s (createGroup c (begun s c)) c .ok (fld c.pkt 69 64) (rootOf s c l) span (ceilLog2 (fld c.pkt 191 160))) ∧
      groupAt (createGroup c (begun s c)) (createKey c) = some (newGroup c l (rootOf s c l)) := by
  obtain ⟨span, ht⟩ := createGroup_of_members h
  have hroot : rootOf (begun s c) c l = rootOf s c l := rfl
  have hkey : createKey c % 64 = fld c.pkt 69 64 := groupKey_mod _ (bits_lt ..)
  rw [hroot, hkey] at ht
  generalize hu : ({ begun s c with
    groups := tblPut (begun s c).groups (createKey c) (newGroup c l (rootOf s c l)) } : State) = u at ht
  have hon : Ongoing s u c .none := by
    subst hu
    exact .of_begun hb rfl rfl rfl
  rw [ht]
  refine ⟨⟨span, finish_answered hb hon nofun ..⟩, ?_⟩
  rw [groupAt_congr (finish_roster ..), ← hu]
  exact tblLook_tblPut_same ..

/-! ## Removal (R220) -/

theorem exec_barrierGroupDestroy {s : State} {q : Nat} {c : Cmd} (hb : Begins s q c (isFn 0x0301 false)) :
    exec (.barrierGroupDestroy q) s = .next (destroyGroup c (begun s c)) :=
  congrArg Host.Outcome.next (startAs_begins hb _)

theorem exec_barrierGroupDestroyExpert {s : State} {q : Nat} {c : Cmd} (hb : Begins s q c (isFn 0x0301 true)) :
    exec (.barrierGroupDestroyExpert q) s = .next (destroyGroupExpert c (begun s c)) :=
  congrArg Host.Outcome.next (startAs_begins hb _)

theorem groupAt_dropGroups (s : State) (key : Nat) : groupAt (dropGroups s fun k => k == key) key = none :=
  tblLook_filter_ne ..

/-- The command that begins waits. -/
def waiting (s : State) (c : Cmd) (wait : CmdWait) : State := modCmd (begun s c) c.uid fun x => { x with wait := wait }

theorem Ongoing.of_waiting {s u : State} {q : Nat} {c : Cmd} {mine : Cmd → Bool} {wait : CmdWait} (h : Begins s q c mine)
    (hw : ∀ t d x n, wait ≠ .queue t d x n) (hc : u.cmds = (waiting s c wait).cmds) (hq : u.queues = s.queues)
    (ht : u.time = s.time) : Ongoing s u c wait := by
  refine ⟨hq, ht, ?_, ?_⟩ <;> rw [hc, waiting, modCmd, modIf_eq_map]
  · rw [find_map_uid _ (fun x => by split <;> rfl), begun_find h.cmds (nextStart_mem h.next).1, Option.map_some,
      if_pos (beq_self_eq_true _)]
  · intro e he
    obtain ⟨x, hx, rfl⟩ := List.mem_map.mp he
    split
    · exact hw
    · exact begun_noDisable h.quiet x hx

/-- A group that a basic destroy removes once no collective of it is left. -/
def Group.closingFor (g : Group) (uid : Nat) (l : List (Bool × Nat)) : Group := { g with closing := some uid, inFlight := l }

/-- The table of groups changes, and the command waits for its group. -/
def destroying (s : State) (c : Cmd) (g : Group) : State :=
  { waiting s c (.group (destroyKey c)) with groups := tblPut s.groups (destroyKey c) (g.closingFor c.uid []) }

theorem destroyGroup_eq {s : State} {c : Cmd} {g : Group} (hg : groupAt s (destroyKey c) = some g) (hc : g.closing = none)
    (ht : groupTasks s (destroyKey c) = []) : destroyGroup c (begun s c) = settleGroups (destroying s c g) := by
  have hg' : groupAt (begun s c) (destroyKey c) = some g := hg
  have hfl : groupInFlight (begun s c) (destroyKey c) = [] := by
    rw [groupInFlight, show groupTasks (begun s c) (destroyKey c) = [] from ht]
    rfl
  unfold destroyGroup
  dsimp only
  rw [hg']
  dsimp only
  rw [if_neg (by simp [hc]), hfl, modGroup, show tblLook (begun s c).groups (destroyKey c) = some g from hg]
  rfl

/-- The one group that a destroy closes is removed at once when no collective of it is left. -/
theorem settleGroups_destroying {s : State} {c : Cmd} {g : Group} (hn : ∀ e ∈ s.groups, e.2.closing = none)
    (ht : groupTasks s (destroyKey c) = []) :
    settleGroups (destroying s c g) = finish (dropGroups (destroying s c g) fun k => k == destroyKey c) c.uid .ok 0 0 0 0 := by
  have hone : (destroying s c g).groups.filter (fun e => e.2.closing.isSome && (groupTasks (destroying s c g) e.1).isEmpty) =
      [(destroyKey c, g.closingFor c.uid [])] :=
    filter_tblPut (by simp [Group.closingFor, show groupTasks (destroying s c g) (destroyKey c) = [] from ht])
      fun e he => by simp [hn e he]
  unfold settleGroups
  rw [hone]
  rfl

/-- A basic destroy that finds no collective removes the group and is answered. -/
theorem destroyGroup_answered {s : State} {q : Nat} {c : Cmd} {g : Group} (hb : Begins s q c (isFn 0x0301 false))
    (hg : groupAt s (destroyKey c) = some g) (hn : ∀ e ∈ s.groups, e.2.closing = none) (ht : groupTasks s (destroyKey c) = []) :
    Answered s (destroyGroup c (begun s c)) c .ok 0 0 0 0 ∧ groupAt (destroyGroup c (begun s c)) (destroyKey c) = none := by
  rw [destroyGroup_eq hg (hn _ (tblLook_mem hg)) ht, settleGroups_destroying hn ht]
  generalize hu : dropGroups (destroying s c g) (fun k => k == destroyKey c) = u
  have hon : Ongoing s u c (.group (destroyKey c)) := by
    subst hu
    exact .of_waiting hb nofun rfl rfl rfl
  refine ⟨finish_answered hb hon nofun .., ?_⟩
  rw [groupAt_congr (finish_roster ..), ← hu, groupAt_dropGroups]

/-! ## The expert removal -/

/-- No disable waits for fingerprint feeds. -/
def noFeeds (l : List Cmd) : Prop := ∀ e ∈ l, ∀ n left, e.wait ≠ .feeds n left

theorem feedEnded_of_noFeeds {s : State} (h : noFeeds s.cmds) (gone : Nat × Nat → Bool) (done : Bool) :
    feedEnded s gone done = s := by
  have hend : endFeeds s = s := by
    refine List.foldlRecOn (motive := fun t => t = s) s.cmds _ rfl fun t ht e he => ?_
    dsimp only
    split
    next hw => exact absurd hw (h e he _ _)
    next => exact ht
  unfold feedEnded
  dsimp only
  rw [(List.map_congr_left fun e he => ?_).trans (List.map_id s.cmds)]
  · exact hend
  · split
    next hw => exact absurd hw (h e he _ _)
    next => rfl

/-- From s to t the commands in flight, the queues and the time stay. -/
structure SameCmds (s t : State) : Prop where
  cmds : t.cmds = s.cmds
  queues : t.queues = s.queues
  time : t.time = s.time

theorem failTask_sameCmds {s : State} (h : noFeeds s.cmds) (p id : Nat) (st : Status) : SameCmds s (failTask s p id st) := by
  unfold failTask
  dsimp only
  rw [feedEnded_of_noFeeds (by exact h)]
  exact ⟨rfl, rfl, rfl⟩

/-- The tasks of a group end, one after the other. -/
def failAll (l : List (Nat × Task)) (s : State) : State := each l (fun e s => failTask s e.1 e.2.id .aborted) s

theorem failAll_sameCmds {s : State} (h : noFeeds s.cmds) (l : List (Nat × Task)) : SameCmds s (failAll l s) :=
  each_invariant (P := SameCmds s) (fun e t ht => by
    obtain ⟨hc, hq, hm⟩ := failTask_sameCmds (ht.cmds ▸ h) e.1 e.2.id .aborted
    exact ⟨hc.trans ht.cmds, hq.trans ht.queues, hm.trans ht.time⟩) l ⟨rfl, rfl, rfl⟩

/-- The group's tasks have ended, and its streams, its collectives and the group itself are gone. -/
def removed (s : State) (key : Nat) : State :=
  let ts := groupTasks s key
  let gone := ts.map fun e => (e.1, e.2.id)
  let s := failAll ts s
  let s := { s with streams := s.streams.filter fun x => !(match x.root with
    | some r => gone.contains r
    | none => false) }
  dropGroups (dropCollectives s key) fun k => k == key

theorem destroyGroupExpert_eq {s : State} {c : Cmd} {g : Group} (hg : groupAt s (destroyKey c) = some g) (hc : g.closing = none) :
    destroyGroupExpert c s = finish (removed s (destroyKey c)) c.uid
      (if (groupTasks s (destroyKey c)).isEmpty then .ok else .aborted) (groupTasks s (destroyKey c)).length 0 0 0 := by
  unfold destroyGroupExpert
  dsimp only
  rw [hg]
  dsimp only
  rw [hc]
  rfl

theorem noFeeds_begun {s : State} (h : noFeeds s.cmds) (c : Cmd) : noFeeds (begun s c).cmds := by
  intro e he
  rw [begun_cmds] at he
  obtain ⟨x, hx, rfl⟩ := List.mem_map.mp he
  split
  · exact h x hx
  · exact h x hx

/-- The expert destroy removes the group, whatever it finds, and says how many tasks it ended. -/
theorem destroyGroupExpert_answered {s : State} {q : Nat} {c : Cmd} {g : Group} (hb : Begins s q c (isFn 0x0301 true))
    (hg : groupAt s (destroyKey c) = some g) (hc : g.closing = none) (hf : noFeeds s.cmds) :
    groupAt (destroyGroupExpert c (begun s c)) (destroyKey c) = none ∧
      Answered s (destroyGroupExpert c (begun s c)) c (if groupTasks s (destroyKey c) = [] then .ok else .aborted)
        (groupTasks s (destroyKey c)).length 0 0 0 := by
  have ht : groupTasks (begun s c) (destroyKey c) = groupTasks s (destroyKey c) := rfl
  obtain ⟨hcmds, hqueues, htime⟩ := failAll_sameCmds (noFeeds_begun hf c) (groupTasks (begun s c) (destroyKey c))
  rw [destroyGroupExpert_eq (s := begun s c) hg hc, ht]
  generalize hu : removed (begun s c) (destroyKey c) = u
  have hon : Ongoing s u c .none := by
    subst hu
    exact .of_begun hb hcmds hqueues htime
  constructor
  · rw [groupAt_congr (finish_roster ..), ← hu]
    exact groupAt_dropGroups ..
  · simp only [List.isEmpty_iff]
    exact finish_answered hb hon nofun ..

/-! ## The statement -/

theorem isFn_expert {fn : Nat} {x : Bool} {c : Cmd} (h : isFn fn x c = true) : c.expert = x := by
  simp only [isFn, Bool.and_eq_true, beq_iff_eq] at h
  exact h.2

/-- The basic WINDOW_CLOSE of an open slot (R210). -/
theorem closeWindow_closes {s : State} {c : Cmd} (hx : c.expert = false) (hl : wLcore c < 3072)
    (ho : (winAt s (wLcore c) (wSlot c)).isOpen = true) (hc : (winAt s (wLcore c) (wSlot c)).closing = false)
    (hg : wGen c = (winAt s (wLcore c) (wSlot c)).gen) :
    let l := wLcore c
    let slot := wSlot c
    let w := winAt s l slot
    let t := closeWindow c s
    (slotTransfers s l slot ≠ [] → winAt t l slot = { w with closing := true, closer := some c.uid }) ∧
      (slotTransfers s l slot = [] → w.lastAdvance = none → ClosedAfter w.gen (winAt t l slot)) := by
  intro l slot w t
  rw [show t = _ from closeWindow_eq hx hl ho hc hg]
  exact closing_waits_or_closes s c l slot (fun _ => rfl) (fun _ => rfl) fun _ => rfl

/-- The expert WINDOW_CLOSE of an open slot (R211). -/
theorem closeWindowExpert_closes {s : State} {c : Cmd} (hx : c.expert = true) (hl : wLcore c < 3072)
    (ho : (winAt s (wLcore c) (wSlot c)).isOpen = true) (hc : (winAt s (wLcore c) (wSlot c)).expertCloser = none)
    (hg : wGen c = (winAt s (wLcore c) (wSlot c)).gen) :
    let l := wLcore c
    let slot := wSlot c
    let w := winAt s l slot
    let t := closeWindowExpert c s
    slotTransfers t l slot = [] ∧ (w.lastAdvance = none → ClosedAfter w.gen (winAt t l slot)) := by
  intro l slot w t
  rw [show t = _ from closeWindowExpert_eq hx hl ho hc hg]
  exact ⟨slotTransfers_cutForClose .., fun hn => cut_closes s c l slot (f := fun w =>
    { w with closing := true, expertCloser := some c.uid }) (fun _ => rfl) (fun _ => rfl) (fun _ => rfl) .aborted hn⟩

/-- Settles O13: a command that begins is one operation on its slot or on the table of groups, and its completion is its answer. -/
theorem windowsAndGroupsAreMadeAndEnded : Obligations.WindowsAndGroupsAreMadeAndEnded := by
  unfold Obligations.WindowsAndGroupsAreMadeAndEnded
  constructor
  · intro s q c l slot w
    exact ⟨fun hb hl ho hc hh => ⟨_, exec_windowOpen hb, openWindow_opens hb hl ho hc hh⟩,
      fun hb hl ho hc hg => ⟨_, exec_windowClose hb, closeWindow_closes (s := begun s c) (isFn_expert hb.mine) hl ho hc hg⟩,
      fun hb hl ho hc hg =>
        ⟨_, exec_windowCloseExpert hb, closeWindowExpert_closes (s := begun s c) (isFn_expert hb.mine) hl ho hc hg⟩⟩
  · intro s q c part count root
    refine ⟨fun l hb hn hr h1 h2 hm => ?_, fun g hb hg hn ht => ⟨_, exec_barrierGroupDestroy hb, destroyGroup_answered hb hg hn ht⟩,
      fun g hb hg hc hf => ⟨_, exec_barrierGroupDestroyExpert hb, destroyGroupExpert_answered hb hg hc hf⟩⟩
    obtain ⟨hanswer, hgroup⟩ := createGroup_answered hb (newMembers_eq (s := begun s c) hn hr h1 h2 hm)
    exact ⟨_, exec_barrierGroupCreate hb, hanswer, _, hgroup, rfl, rfl, rfl, rfl, rfl, rfl, rfl, rfl⟩

end Sys2Proof.Machine
end

section
/-! The start's catalogue: what the placing of cores and the writing of routes leave, and where it ends (R20, R167, R196, R383). -/

namespace Sys2Proof.Machine

/-! ## What the start decides on -/

/-- Two updates that agree on the elements of a list, in the states that the second leads to. -/
theorem each_congr_of {α : Type} {P : State → Prop} {f g : α → State → State} (hP : ∀ x s, P s → P (g x s)) :
    ∀ {l : List α}, (∀ x ∈ l, ∀ s, P s → f x s = g x s) → ∀ {s}, P s → each l f s = each l g s
  | [], _, _, _ => rfl
  | x :: l, h, s, hs => by
    have hx : f x s = g x s := h x (List.mem_cons_self ..) s hs
    rw [each_cons, each_cons, hx, each_congr_of hP (fun y hy => h y (List.mem_cons_of_mem _ hy)) (hP x s hs)]

/-- The charter, the partitions, the clocks and supplies, the devices, the phase and the crossings of every tile. -/
structure Plan where
  charter : Charter
  parts : Tbl Part
  clk : Tbl ClkDom
  tpwr : Tbl TilePwr
  devices : Tbl Device
  ph : Nat
  links : Nat → Tbl NiLink

def State.plan (s : State) : Plan :=
  { charter := s.charter, parts := s.parts, clk := s.clk, tpwr := s.tpwr, devices := s.devices, ph := s.service.ph,
    links := fun n => (tileAt s n).links }

theorem each_plan {α : Type} {f : α → State → State} (hf : ∀ x t, (f x t).plan = t.plan) (l : List α) (s : State) :
    (each l f s).plan = s.plan :=
  each_invariant (P := fun t => t.plan = s.plan) (fun x t ht => (hf x t).trans ht) l rfl

section
variable {s t : State} (h : t.plan = s.plan)
include h

theorem cht_congr : cht t = cht s :=
  (congrArg (fun x : Plan => fun n => chtOf x.charter n) h :)

theorem chtPart_congr : chtPart t = chtPart s := by
  funext n
  rw [chtPart, cht_congr h, chtPart]

theorem partOfTile_congr : partOfTile t = partOfTile s := by
  funext n
  rw [partOfTile, chtPart_congr h, partOfTile]

theorem partTiles_congr : partTiles t = partTiles s := by
  funext n
  rw [partTiles, chtPart_congr h, partTiles]

theorem partAt_congr : partAt t = partAt s :=
  (congrArg (fun x : Plan => tblGet Part.init x.parts) h :)

theorem startParts_congr : startParts t = startParts s := by
  unfold startParts partDefined
  rw [chtPart_congr h, partAt_congr h]

theorem lcoresOf_congr : lcoresOf t = lcoresOf s := by
  funext n
  rw [lcoresOf, chtPart_congr h, lcoresOf]

theorem partDevices_congr : partDevices t = partDevices s := by
  funext n
  rw [partDevices, chtPart_congr h, partDevices]

theorem deviceAt_congr : deviceAt t = deviceAt s :=
  (congrArg (fun x : Plan => tblGet Device.init x.devices) h :)

theorem capped_congr : capped t = capped s := by
  have hclk : clkAt t = clkAt s := (congrArg (fun x : Plan => tblGet ClkDom.init x.clk) h :)
  funext p
  unfold capped domainPart partOfP
  rw [hclk, partOfTile_congr h, partAt_congr h]

theorem tileOut_congr : tileOut t = tileOut s :=
  (congrArg (fun x : Plan => fun n => (tblGet TilePwr.init x.tpwr n).dark) h :)

theorem mayCross_congr : mayCross t = mayCross s := by
  funext a b u
  unfold mayCross tileGone
  rw [tileOut_congr h, partOfTile_congr h, partAt_congr h]

theorem linkFailed_congr : linkFailed t = linkFailed s := by
  have hlinks : ∀ n, (tileAt t n).links = (tileAt s n).links := fun n => (congrArg (fun x : Plan => x.links n) h :)
  funext a c
  unfold linkFailed
  simp only [hlinks]

theorem routeClear_congr (ok : Nat → Bool) (a : Nat) (cs : List Nat) : routeClear t ok a cs = routeClear s ok a cs := by
  induction cs generalizing a with
  | nil => rfl
  | cons c cs ih =>
    unfold routeClear
    rw [linkFailed_congr h]
    split
    · rw [ih]
    · rfl

theorem routesOf_congr (ok : Nat → Bool) (b n a : Nat) : routesOf t ok b n a = routesOf s ok b n a := by
  induction n generalizing a with
  | zero => rfl
  | succ n ih =>
    unfold routesOf
    rw [linkFailed_congr h]
    simp only [ih]

theorem curatorRoute_congr : curatorRoute t = curatorRoute s := by
  have hbest : bestRoute t = bestRoute s := by
    funext ok a b
    unfold bestRoute
    simp only [routesOf_congr h]
  funext a b
  unfold curatorRoute
  simp only [tileOut_congr h, mayCross_congr h, routeClear_congr h, partOfTile_congr h, hbest]

theorem noRoute_congr : noRoute t = noRoute s := by
  funext n
  rw [noRoute, partTiles_congr h, curatorRoute_congr h, noRoute]

end

/-! ## The placing of cores -/

theorem pstateAt_setPstate (s : State) (p n : Nat) (v : PState) :
    pstateAt (setPstate s p v) n = if p = n then v else pstateAt s n := tblGet_tblSet ..

/-- A core that is placed: what the start decides on stays, and so does every other core's state. -/
structure PlacedCore (p : Nat) (s t : State) : Prop where
  plan : t.plan = s.plan
  others : ∀ n, n ≠ p → pstateAt t n = pstateAt s n

theorem PlacedCore.refl (p : Nat) (s : State) : PlacedCore p s s := ⟨rfl, fun _ _ => rfl⟩

theorem setPstate_placed (s : State) (p : Nat) (v : PState) : PlacedCore p s (setPstate s p v) :=
  ⟨rfl, fun n hn => by rw [pstateAt_setPstate, if_neg hn.symm]⟩

/-- Beside the states of the cores an update of the cores and of the records changes nothing that a start decides on. -/
theorem PlacedCore.of_eq {p : Nat} {s t u : State} (h : PlacedCore p s t) (hp : u.plan = t.plan) (hs : u.pstates = t.pstates) : PlacedCore p s u :=
  ⟨hp.trans h.plan, fun n hn => (congrArg (tblGet PState.dark · n) hs).trans (h.others n hn)⟩

theorem noteSpares_eq (s : State) (t : Nat) : ∃ v, noteSpares s t = { s with service := v } ∧ v.ph = s.service.ph := by
  unfold noteSpares
  split
  · exact ⟨_, rfl, rfl⟩
  · exact ⟨s.service, rfl, rfl⟩

theorem retireAs_placed (s : State) (p l : Nat) : PlacedCore p s (retireAs s p l) := by
  obtain ⟨v, hv, hph⟩ := noteSpares_eq (dropCore s p) (tileOf p)
  have hplan : (dropCore s p).plan = s.plan := rfl
  unfold retireAs
  rw [hv]
  refine (setPstate_placed s p .deaccessioned).of_eq ?_ rfl
  exact (congrArg (fun n => { s.plan with ph := n }) hph).trans hplan

theorem placeHome_placed (s : State) (p : Nat) : PlacedCore p s (placeHome s p) := by
  unfold placeHome
  split
  · exact .refl p s
  · split
    · exact retireAs_placed ..
    · split
      · exact (setPstate_placed s p .inService).of_eq rfl rfl
      · exact (setPstate_placed s p .spare).of_eq rfl rfl

/-- A home core under test that nothing caps enters service. -/
theorem placeHome_inService {s : State} {p : Nat} (hh : isHome p = true) (ht : pstateAt s p = .testing) (hc : capped s p = false) :
    pstateAt (placeHome s p) p = .inService := by
  unfold placeHome
  rw [if_neg (by simp [ht]), if_neg (by simp [hc]), if_pos (by simp [hh, ht])]
  have hset := (pstateAt_setPstate s p p .inService).trans (if_pos rfl)
  exact hset

/-- The cores of the tiles that start are placed. -/
def placeHomes (s : State) : State := each (upTo 3744 fun p => tileStarts s (tileOf p)) (fun p s => placeHome s p) s

theorem placeHomes_plan (s : State) : (placeHomes s).plan = s.plan := each_plan (fun p t => (placeHome_placed t p).plan) _ s

theorem placeHomes_inService {s : State} {p : Nat} (hp : p < 3744) (hstarts : tileStarts s (tileOf p) = true) (hh : isHome p = true)
    (ht : pstateAt s p = .testing) (hc : capped s p = false) : pstateAt (placeHomes s) p = .inService := by
  refine each_once (x := p) (A := fun t => t.plan = s.plan ∧ pstateAt t p = .testing) (B := fun t => pstateAt t p = .inService)
    (fun y t hy ht => ?_) (fun t ht => ?_) (fun y _ t hy ht => ?_) (upTo_nodup ..) (mem_upTo.mpr ⟨hp, hstarts⟩) ⟨rfl, ht⟩
  · exact ⟨(placeHome_placed t y).plan.trans ht.1, ((placeHome_placed t y).others p hy.symm).trans ht.2⟩
  · exact placeHome_inService hh ht.2 ((congrFun (capped_congr ht.1) p).trans hc)
  · exact ((placeHome_placed t y).others p hy.symm).trans ht

theorem siteOf_physNum (t : Nat) {d c : Nat} (hd : d < 13) (hc : c < 18) : siteOf (physNum t d c) = d := by
  have hdie : physNum t d c / 18 = t * 13 + d := by
    unfold physNum
    omega
  rw [siteOf, hdie]
  omega

theorem coreOf_physNum (t d : Nat) {c : Nat} (hc : c < 18) : coreOf (physNum t d c) = c := by
  unfold coreOf physNum
  omega

/-- The home core of a logical core is a home core of the numbering (R15). -/
theorem homePhys_home {l : Nat} (h : l < 3072) : homePhys l < 3744 ∧ isHome (homePhys l) = true := by
  have ht : homeTile l < 16 := by
    unfold homeTile
    omega
  have hd : homeSite l < 12 := by
    unfold homeSite
    omega
  have hc : homeCore l < 16 := by
    unfold homeCore
    omega
  constructor
  · unfold homePhys physNum
    omega
  · unfold isHome homePhys
    rw [siteOf_physNum _ (by omega) (by omega), coreOf_physNum _ _ (by omega)]
    exact decide_eq_true ⟨hd, hc⟩

/-! ## The routes -/

theorem buildRoutes_plan (s : State) : (buildRoutes s).plan = s.plan := by
  refine each_plan (fun a t => each_plan (fun b u => ?_) _ t) _ s
  have hlinks : ∀ n, (tileAt (modTile u a fun t => { t with rte := tblSet Rte.init t.rte b (curatorRoute u a b) }) n).links =
      (tileAt u n).links := by
    intro n
    rw [modTile_eq, tileAt_setTile]
    split
    next h => rw [h]
    next => rfl
  exact congrArg (fun l => { u.plan with links := l }) (funext hlinks)

theorem buildRoutes_roster (s : State) : (buildRoutes s).roster = s.roster :=
  each_roster s (fun _ t => each_roster t (by intros; rfl) _) _

/-! ## The catalogue's entries -/

theorem catAt_setCat (s : State) (l n : Nat) (v : CatEntry) : catAt (setCat s l v) n = if l = n then v else catAt s n :=
  tblGet_tblSet ..

/-- A logical core is entered under its home core. -/
def enterHome (l : Nat) (s : State) : State := setCat s l (catEntry l (homePhys l))

/-- A partition all of whose home cores serve and none of whose devices has failed. -/
structure Whole (s : State) (n : Nat) : Prop where
  homes : ∀ l ∈ lcoresOf s n, homeServes s l = true
  devices : ∀ d ∈ partDevices s n, (deviceAt s d).state ≠ .failed

theorem missingDevice_of_whole {s : State} {n : Nat} (h : Whole s n) : missingDevice s n = s := by
  unfold missingDevice
  dsimp only
  rw [List.filter_eq_nil_iff.mpr fun d hd => by simp [h.devices d hd]]

/-- An update of the catalogue alone leaves a partition whole. -/
theorem Whole.of_eq {s t : State} {n : Nat} (h : Whole s n) (hp : t.plan = s.plan) (hs : t.pstates = s.pstates) : Whole t n := by
  refine ⟨fun l hl => ?_, fun d hd => ?_⟩
  · rw [lcoresOf_congr hp] at hl
    exact (congrArg (tblGet PState.dark · (homePhys l) == .inService) hs).trans (h.homes l hl)
  · rw [partDevices_congr hp] at hd
    rw [deviceAt_congr hp]
    exact h.devices d hd

theorem each_enterHome (s : State) (l : List Nat) : ∃ c, each l enterHome s = { s with cat := c } :=
  each_invariant (P := fun t => ∃ c, t = { s with cat := c })
    (fun x t ht => by
      obtain ⟨c, rfl⟩ := ht
      exact ⟨_, rfl⟩) l ⟨s.cat, rfl⟩

/-- A whole partition has each of its logical cores entered under its home core, and nothing else happens. -/
theorem buildPart_of_whole {s : State} {n : Nat} (h : Whole s n) (failing : List Nat) :
    buildPart s n failing = each (lcoresOf s n) enterHome s := by
  have hcores : each (lcoresOf s n) (fun l s =>
      if homeServes s l then setCat s l (catEntry l (homePhys l)) else accessionAtStart s n l failing) s =
      each (lcoresOf s n) enterHome s := by
    refine each_congr_of (P := fun t => ∃ c, t = { s with cat := c }) (fun l t ht => ?_) (fun l hl t ht => ?_) ⟨s.cat, rfl⟩
    · obtain ⟨c, rfl⟩ := ht
      exact ⟨_, rfl⟩
    · obtain ⟨c, rfl⟩ := ht
      exact if_pos (h.homes l hl)
  obtain ⟨c, hc⟩ := each_enterHome s (lcoresOf s n)
  unfold buildPart
  dsimp only
  rw [hcores, hc]
  split
  · rfl
  · exact missingDevice_of_whole (h.of_eq rfl rfl)

/-- Entered once, a logical core stays under its home core. -/
theorem catAt_each_enterHome {l : Nat} {ls : List Nat} {s : State}
    (h : l ∈ ls ∨ catAt s l = catEntry l (homePhys l)) : catAt (each ls enterHome s) l = catEntry l (homePhys l) := by
  induction ls generalizing s with
  | nil => exact h.resolve_left List.not_mem_nil
  | cons x ls ih =>
    rw [each_cons]
    refine ih ?_
    rw [enterHome, catAt_setCat]
    split
    next hx => exact .inr (hx ▸ rfl)
    next hx => exact h.imp_left fun hm => (List.mem_cons.mp hm).resolve_left (Ne.symm hx)

/-- Whole partitions, one after the other. -/
theorem each_buildPart {s : State} {ns : List Nat} (h : ∀ n ∈ ns, Whole s n) (failing : List Nat) :
    each ns (fun n s => buildPart s n failing) s = each (ns.flatMap (lcoresOf s)) enterHome s := by
  have hparts : each ns (fun n s => buildPart s n failing) s = each ns (fun n t => each (lcoresOf s n) enterHome t) s := by
    refine each_congr_of (P := fun t => ∃ c, t = { s with cat := c }) (fun n t ht => ?_) (fun n hn t ht => ?_) ⟨s.cat, rfl⟩
    · obtain ⟨c, rfl⟩ := ht
      obtain ⟨c', hc'⟩ := each_enterHome { s with cat := c } (lcoresOf s n)
      exact ⟨c', hc'⟩
    · obtain ⟨c, rfl⟩ := ht
      have hl : lcoresOf { s with cat := c } n = lcoresOf s n := rfl
      have hw : Whole { s with cat := c } n := (h n hn).of_eq rfl rfl
      rw [buildPart_of_whole hw failing, hl]
  rw [hparts]
  unfold each
  rw [List.foldl_flatMap]

/-! ## The partitions enter service -/

/-- A partition enters service, and its cores follow its step. -/
def serve (n : Nat) (s : State) : State := retargetPart (modPart s n fun p => { p with state := .inService }) n

theorem serve_roster (n : Nat) (s : State) :
    (serve n s).roster = (modPart s n fun p => { p with state := .inService }).roster := retargetPart_roster ..

theorem partAt_modPart (s : State) (n k : Nat) (f : Part → Part) :
    partAt (modPart s n f) k = if n = k then f (partAt s n) else partAt s k := tblGet_tblSet ..

theorem partAt_of_roster {s t : State} (h : t.roster = s.roster) (k : Nat) : partAt t k = partAt s k :=
  (congrArg (fun r : Roster => tblGet Part.init r.parts k) h :)

theorem pstateAt_of_roster {s t : State} (h : t.roster = s.roster) (p : Nat) : pstateAt t p = pstateAt s p :=
  (congrArg (fun r : Roster => tblGet PState.dark r.pstates p) h :)

theorem partAt_serve (s : State) (n k : Nat) :
    partAt (serve n s) k = if n = k then { partAt s n with state := .inService } else partAt s k := by
  rw [partAt_of_roster (serve_roster n s), partAt_modPart]

/-- Once in service, a partition stays there while the others enter service. -/
theorem partAt_each_serve {n : Nat} {ns : List Nat} {s : State} (h : n ∈ ns ∨ (partAt s n).state = .inService) :
    (partAt (each ns serve s) n).state = .inService := by
  induction ns generalizing s with
  | nil => exact h.resolve_left List.not_mem_nil
  | cons x ns ih =>
    rw [each_cons]
    refine ih ?_
    rw [partAt_serve]
    split
    next => exact .inr rfl
    next hx => exact h.imp_left fun hm => (List.mem_cons.mp hm).resolve_left (Ne.symm hx)

/-- The roster but for the partitions. -/
def Roster.rest (r : Roster) : Roster := { r with parts := [] }

theorem serve_rest (n : Nat) (s : State) : (serve n s).roster.rest = s.roster.rest := by
  rw [serve_roster]
  rfl

theorem each_serve_rest (ns : List Nat) (s : State) : (each ns serve s).roster.rest = s.roster.rest :=
  each_invariant (P := fun t => t.roster.rest = s.roster.rest) (fun n t ht => (serve_rest n t).trans ht) ns rfl

theorem noteSpares_roster (s : State) (t : Nat) : (noteSpares s t).roster = s.roster := by
  obtain ⟨v, hv, hph⟩ := noteSpares_eq s t
  rw [hv]
  exact congrArg (fun n => { s.roster with ph := n }) hph

/-! ## The catalogue is built -/

/-- The state in which the partitions of a start are built: its cores are placed and its routes written. -/
def laidOut (s : State) : State := buildRoutes (placeHomes s)

/-- A start whose home cores and devices have all passed. -/
structure Passed (s : State) : Prop where
  routes : ∀ n ∈ startParts s, noRoute s n = false
  devices : ∀ n ∈ startParts s, ∀ d ∈ partDevices s n, (deviceAt s d).state ≠ .failed
  homes : ∀ n ∈ startParts s, ∀ l ∈ lcoresOf s n,
    pstateAt s (homePhys l) = .testing ∧ capped s (homePhys l) = false ∧ tileStarts s (tileOf (homePhys l)) = true

theorem laidOut_plan (s : State) : (laidOut s).plan = s.plan := (buildRoutes_plan _).trans (placeHomes_plan s)

theorem laidOut_inService {s : State} (h : Passed s) {n l : Nat} (hn : n ∈ startParts s) (hl : l ∈ lcoresOf s n) :
    pstateAt (laidOut s) (homePhys l) = .inService := by
  obtain ⟨ht, hc, hstarts⟩ := h.homes n hn l hl
  obtain ⟨hp, hhome⟩ := homePhys_home (mem_upTo.mp hl).1
  rw [laidOut, pstateAt_of_roster (buildRoutes_roster _), placeHomes_inService hp hstarts hhome ht hc]

theorem laidOut_whole {s : State} (h : Passed s) {n : Nat} (hn : n ∈ startParts s) : Whole (laidOut s) n := by
  constructor
  · intro l hl
    rw [lcoresOf_congr (laidOut_plan s)] at hl
    rw [homeServes, laidOut_inService h hn hl]
    rfl
  · intro d hd
    rw [partDevices_congr (laidOut_plan s)] at hd
    rw [deviceAt_congr (laidOut_plan s)]
    exact h.devices n hn d hd

/-- The catalogue is in its first version. -/
def versioned (s : State) : State := { s with catVersion := 1, catReady := true }

theorem versioned_plan (s : State) : (versioned s).plan = s.plan := rfl

/-- Every logical core of the partitions that start is entered. -/
def entered (s : State) : State := each ((startParts s).flatMap (lcoresOf s)) enterHome (laidOut s)

theorem entered_plan (s : State) : (entered s).plan = s.plan :=
  (each_plan (by intros; rfl) _ _).trans (laidOut_plan s)

theorem pstateAt_entered (s : State) (p : Nat) : pstateAt (entered s) p = pstateAt (laidOut s) p :=
  each_invariant (P := fun t => pstateAt t p = pstateAt (laidOut s) p) (f := enterHome) (fun _ _ ht => ht) _ rfl

theorem buildCatalogue_of_passed {s : State} (h : Passed s) (hph : s.service.ph ≠ 3) (failing : List Nat) :
    buildCatalogue s failing =
      setStage (each (List.range 16) (fun t s => noteSpares s t) (each (startParts s) serve (versioned (entered s)))) .catalogue := by
  have hparts : startParts (laidOut s) = startParts s := startParts_congr (laidOut_plan s)
  have hcut : (startParts (laidOut s)).filter (noRoute (laidOut s)) = [] := by
    rw [hparts, noRoute_congr (laidOut_plan s), List.filter_eq_nil_iff]
    intro n hn
    simp [h.routes n hn]
  have hbuild := each_buildPart (s := laidOut s) (ns := startParts s) (fun n hn => laidOut_whole h hn) failing
  rw [show lcoresOf (laidOut s) = lcoresOf s from lcoresOf_congr (laidOut_plan s)] at hbuild
  unfold buildCatalogue
  extract_lets s1 s2 cut s3 s4 s5 s6
  have h2 : s2 = laidOut s := rfl
  have h3 : s3 = laidOut s := by
    unfold s3
    rw [show cut = [] from hcut, each_nil, h2]
  have h4 : s4 = entered s := by
    unfold s4
    rw [h3, hparts, hbuild, entered]
  have h5 : s5 = versioned (entered s) := (show s5 = versioned s4 from rfl).trans (congrArg versioned h4)
  have h6 : s6 = each (startParts s) serve (versioned (entered s)) := by
    have hp : startParts (versioned (entered s)) = startParts s :=
      startParts_congr ((versioned_plan _).trans (entered_plan s))
    unfold s6
    rw [h5, hp]
    rfl
  have hph4 : s4.service.ph ≠ 3 := by
    rw [h4, show (entered s).service.ph = s.service.ph from (congrArg Plan.ph (entered_plan s) :)]
    exact hph
  rw [if_neg hph4, h6]

/-- The partitions that start are in service, and the rest of the roster is as the entries left it. -/
theorem buildCatalogue_roster {s : State} (h : Passed s) (hph : s.service.ph ≠ 3) (failing : List Nat) :
    let t := buildCatalogue s failing
    t.roster.rest = (versioned (entered s)).roster.rest ∧ (∀ n ∈ startParts s, (partAt t n).state = .inService) ∧
      t.start.stage = .catalogue := by
  intro t
  have ht : t.roster = (each (startParts s) serve (versioned (entered s))).roster := by
    rw [show t = _ from buildCatalogue_of_passed h hph failing]
    exact each_roster _ (fun _ _ => noteSpares_roster ..) _
  refine ⟨?_, fun n hn => ?_, ?_⟩
  · rw [ht, each_serve_rest]
  · rw [partAt_of_roster ht]
    exact partAt_each_serve (.inl hn)
  · rw [show t = _ from buildCatalogue_of_passed h hph failing]
    rfl

/-- The catalogue of a start that has passed. -/
theorem buildCatalogue_built {s : State} (h : Passed s) (hph : s.service.ph = 2) (failing : List Nat) :
    let t := buildCatalogue s failing
    t.catVersion = 1 ∧ t.catReady = true ∧ t.start.stage = .catalogue ∧ t.service.ph = 2 ∧
      ∀ n ∈ startParts s, (partAt t n).state = .inService ∧ ∀ l ∈ lcoresOf s n, catAt t l = catEntry l (homePhys l) ∧
        pstateAt t (homePhys l) = .inService := by
  intro t
  obtain ⟨hrest, hparts, hstage⟩ := buildCatalogue_roster h (by omega) failing
  have hcat : ∀ l, catAt t l = catAt (entered s) l := fun l =>
    (congrArg (fun r : Roster => tblGet CatEntry.init r.cat l) hrest :)
  have hstates : ∀ p, pstateAt t p = pstateAt (entered s) p := fun p =>
    (congrArg (fun r : Roster => tblGet PState.dark r.pstates p) hrest :)
  refine ⟨(congrArg Roster.catVersion hrest :), (congrArg Roster.catReady hrest :), hstage, ?_, fun n hn =>
    ⟨hparts n hn, fun l hl => ⟨?_, ?_⟩⟩⟩
  · have ht : t.service.ph = (entered s).service.ph := (congrArg Roster.ph hrest :)
    rw [ht, show (entered s).service.ph = s.service.ph from (congrArg Plan.ph (entered_plan s) :), hph]
  · rw [hcat]
    exact catAt_each_enterHome (.inl (List.mem_flatMap.mpr ⟨n, hn, hl⟩))
  · rw [hstates, pstateAt_entered, laidOut_inService h hn hl]

end Sys2Proof.Machine
end

section
/-! The release of the hosts, and the statement of the start's end (R196, R199, R383, R384, R386). -/

namespace Sys2Proof.Machine

/-! ## A host that is released -/

theorem ldWrite_charter (s : State) (a : Nat) (bs : List Byte) (alloc : Bool) : (ldWrite s a bs alloc).charter = s.charter :=
  (congrArg State.charter (ldWrite_onlyMem s a bs alloc).rest :)

theorem ldWrite_queues (s : State) (a : Nat) (bs : List Byte) (alloc : Bool) : (ldWrite s a bs alloc).queues = s.queues :=
  (congrArg State.queues (ldWrite_onlyMem s a bs alloc).rest :)

theorem ldWrite_cmds (s : State) (a : Nat) (bs : List Byte) (alloc : Bool) : (ldWrite s a bs alloc).cmds = s.cmds :=
  (congrArg State.cmds (ldWrite_onlyMem s a bs alloc).rest :)

/-- The admin queue and its context, from the charter alone. -/
theorem adminOf_congr {s t : State} (h : t.charter = s.charter) (k : Nat) :
    adminOf t k = adminOf s k ∧ adminQueue t k = adminQueue s k := by
  have hc : chtHost t = chtHost s := (congrArg (fun c => fun h r => if h < 4 then chtOf c (32 + 8 * h + r) else 0) h :)
  unfold adminOf adminQueue
  rw [hc]
  exact ⟨rfl, rfl⟩

theorem queueAt_congr {s t : State} (h : t.queues = s.queues) (n : Nat) : queueAt t n = queueAt s n :=
  (congrArg (tblGet Queue.init · n) h :)

theorem releaseHost_charter (s : State) (h : Nat) (image : List Byte) : (releaseHost s h image).charter = s.charter :=
  ldWrite_charter ..

theorem releaseHost_cmds (s : State) (h : Nat) (image : List Byte) : (releaseHost s h image).cmds = s.cmds := ldWrite_cmds ..

theorem queueAt_modHost (s : State) (h n : Nat) (f : HostDie → HostDie) : queueAt (modHost s h f) n = queueAt s n := rfl

theorem queueAt_releaseHost (s : State) (h : Nat) (image : List Byte) (n : Nat) :
    queueAt (releaseHost s h image) n = if n = adminQueue s h then adminOf s h else queueAt s n := by
  obtain ⟨hadmin, hqueue⟩ := adminOf_congr (ldWrite_charter s (carveEnd s h - 2 ^ 26) image true) h
  unfold releaseHost
  dsimp only
  rw [hadmin, hqueue, queueAt_modHost, queueAt_setQueue, queueAt_congr (ldWrite_queues ..)]

theorem hostAt_releaseHost (s : State) (h : Nat) (image : List Byte) (k : Nat) :
    hostAt (releaseHost s h image) k = if h = k then { hostAt s h with released := true } else hostAt s k := by
  have hh : ∀ n, hostAt (ldWrite s (carveEnd s h - 2 ^ 26) image true) n = hostAt s n := fun n =>
    (congrArg (tblGet HostDie.init · n) (ldWrite_hosts ..) :)
  unfold releaseHost
  dsimp only
  rw [modHost_eq]
  refine (hostAt_setHost ..).trans ?_
  rw [← hh h, ← hh k]
  rfl

/-! ## A host that is lost at the release -/

theorem SameDies.released {s t : State} (h : SameDies s t) (k : Nat) : (hostAt t k).released = (hostAt s k).released :=
  (congrArg HostDie.released (h.body k) : (hostAt t k).body.released = (hostAt s k).body.released)

theorem loseHost_released (s : State) (h k : Nat) : (hostAt (loseHost s h) k).released = (hostAt s k).released := by
  by_cases hh : 4 ≤ h
  · rw [loseHost_of_le hh]
  · cases hl : (hostAt s h).lost with
    | true => rw [loseHost_of_lost hl]
    | false =>
      rw [(loseHost_sameDies hl (by omega)).released, modHost_eq, hostAt_setHost]
      split
      next he => rw [he]
      next => rfl

/-- From s to t no command comes into flight, and the queues stay. -/
structure IdleQueues (s t : State) : Prop where
  cmds : t.cmds = []
  queues : t.queues = s.queues

theorem each_idleQueues {α : Type} {f : α → State → State} (hf : ∀ x s, s.cmds = [] → IdleQueues s (f x s)) (l : List α) {s : State}
    (hs : s.cmds = []) : IdleQueues s (each l f s) :=
  each_invariant (P := IdleQueues s) (fun x t ht => ⟨(hf x t ht.cmds).cmds, (hf x t ht.cmds).queues.trans ht.queues⟩) l ⟨hs, rfl⟩

theorem IdleQueues.trans {a b c : State} (h : IdleQueues a b) (k : IdleQueues b c) : IdleQueues a c :=
  ⟨k.cmds, k.queues.trans h.queues⟩

theorem modHost_idleQueues {s : State} (hs : s.cmds = []) (k : Nat) (f : HostDie → HostDie) : IdleQueues s (modHost s k f) :=
  ⟨hs, rfl⟩

theorem modMailbox_idleQueues {s : State} (hs : s.cmds = []) (k : Nat) (f : Mailbox → Mailbox) :
    IdleQueues s (modMailbox s k f) := ⟨hs, rfl⟩

theorem addProv_idleQueues {s : State} (hs : s.cmds = []) (e : Prov) : IdleQueues s (addProv s e) := ⟨hs, rfl⟩

theorem putFaults_idleQueues {s : State} (hs : s.cmds = []) (l : List FaultRec) (n : Nat) :
    IdleQueues s { s with faults := l, faultSeq := n } := ⟨hs, rfl⟩

theorem raiseCause_idleQueues {s : State} (hs : s.cmds = []) (b : Nat) : IdleQueues s (raiseCause s b) := ⟨hs, rfl⟩

theorem wakeFaultReads_of_idle {s : State} (hs : s.cmds = []) : wakeFaultReads s = s := by
  rw [wakeFaultReads, hs, each_nil]

/-- A fault record that no read of the log waits for leaves the queues. -/
theorem addFault_idleQueues {s : State} (hs : s.cmds = []) (r : FaultRec) : IdleQueues s (addFault s r) := by
  unfold addFault
  extract_lets r' all s1
  have h1 : IdleQueues s s1 :=
    each_idleQueues (fun _ _ ht => each_idleQueues (fun _ _ hu => modHost_idleQueues hu ..) _ ht) _ hs
  have h2 := h1.trans (putFaults_idleQueues h1.cmds (all.drop (all.length - 4096)) ((s1.faultSeq + 1) % 2 ^ 32))
  rw [wakeFaultReads_of_idle h2.cmds]
  exact h2

theorem addLasting_idleQueues {s : State} (hs : s.cmds = []) (r : FaultRec) : IdleQueues s (addLasting s r none) := by
  have h := addFault_idleQueues hs r
  unfold addLasting
  dsimp only
  exact h.trans (addProv_idleQueues h.cmds _)

/-- What the loss of a host die makes of a queue. -/
def Queue.heldFor (h : Nat) (x : Queue) : Queue := if x.owner = h ∧ x.state ≠ .free then { x with state := .held } else x

theorem tblGet_map {α : Type} (d : α) (f : α → α) (hd : f d = d) (t : Tbl α) (k : Nat) :
    tblGet d (t.map fun e => (e.1, f e.2)) k = f (tblGet d t k) := by
  induction t with
  | nil => exact hd.symm
  | cons e t ih =>
    rw [List.map_cons]
    unfold tblGet
    split
    · rfl
    · exact ih

theorem heldFor_init (h : Nat) : Queue.init.heldFor h = Queue.init := if_neg fun e => e.2 rfl

theorem loseHost_cmds {s : State} (hs : s.cmds = []) (h : Nat) : (loseHost s h).cmds = [] ∧
    ∀ n, (queueAt s n).owner ≠ h → queueAt (loseHost s h) n = queueAt s n := by
  unfold loseHost
  split
  · exact ⟨hs, fun _ _ => rfl⟩
  · extract_lets s1 held s2 s3
    have h3 : IdleQueues s2 s3 := each_idleQueues (fun _ _ hu => modMailbox_idleQueues hu ..) _ hs
    have h4 := h3.trans (raiseCause_idleQueues h3.cmds 5)
    have h5 := h4.trans (addLasting_idleQueues h4.cmds { FaultRec.blank 0x11 .hostDie with attempts := 2 })
    refine ⟨h5.cmds, fun n hn => ?_⟩
    rw [queueAt_congr h5.queues]
    refine (tblGet_map Queue.init (Queue.heldFor h) (heldFor_init h) s.queues n).trans ?_
    exact if_neg fun e => hn e.1

/-! ## The end of a start -/

/-- From s to t the host dies, the queues, the stage of the start and the mark of the release stay. -/
structure SameRelease (s t : State) : Prop where
  hosts : t.hosts = s.hosts
  queues : t.queues = s.queues
  stage : t.start.stage = s.start.stage
  marked : t.hostsReleased = s.hostsReleased

theorem SameRelease.refl (s : State) : SameRelease s s := ⟨rfl, rfl, rfl, rfl⟩

theorem SameRelease.trans {a b c : State} (h : SameRelease a b) (k : SameRelease b c) : SameRelease a c :=
  ⟨k.hosts.trans h.hosts, k.queues.trans h.queues, k.stage.trans h.stage, k.marked.trans h.marked⟩

theorem each_sameRelease {α : Type} {f : α → State → State} (hf : ∀ x s, SameRelease s (f x s)) (l : List α) (s : State) :
    SameRelease s (each l f s) :=
  each_invariant (P := SameRelease s) (fun x t ht => ht.trans (hf x t)) l (.refl s)

theorem modPart_sameRelease (s : State) (n : Nat) (f : Part → Part) : SameRelease s (modPart s n f) := ⟨rfl, rfl, rfl, rfl⟩

theorem trainPorts_sameRelease (s : State) : SameRelease s (trainPorts s) := by
  refine each_sameRelease (fun n t => ?_) _ s
  split
  · exact ⟨rfl, rfl, rfl, rfl⟩
  · exact .refl t

theorem raiseFloors_sameRelease (s : State) : SameRelease s (raiseFloors s) := by
  unfold raiseFloors
  extract_lets f good due
  split
  · exact .refl s
  · exact ⟨rfl, rfl, rfl, rfl⟩

theorem signBoot_sameRelease (s : State) : SameRelease s (signBoot s) := by
  unfold signBoot
  split
  · exact ⟨rfl, rfl, rfl, rfl⟩
  · exact .refl s

/-- The start ends in the stage of the release, with its mark. -/
theorem endStart_released (s : State) :
    (endStart s).hosts = s.hosts ∧ (endStart s).queues = s.queues ∧ (endStart s).start.stage = .released ∧
      (endStart s).hostsReleased = true := by
  unfold endStart
  extract_lets s1
  have h1 : SameRelease { s with hostsReleased := true, trainCache := some (newCache s) } s1 := signBoot_sameRelease _
  have hfloors := raiseFloors_sameRelease
    (setStage { s1 with start := { s1.start with duration := (s1.time - s1.start.origin) / 1000000 } } .released)
  exact ⟨hfloors.hosts.trans h1.hosts, hfloors.queues.trans h1.queues, hfloors.stage, hfloors.marked.trans h1.marked⟩

/-! ## The hosts are released (R384, R386) -/

/-- The host dies that the release finds with a working link. -/
def ableHosts (s : State) (ucieDown : BitVec 4) : List Nat :=
  (validHosts s).filter fun h => (bootImage s s.start.bf1Boot 4).isSome && (hostAt s h).linkUp && !ucieDown.getLsbD h

/-- The image of the hosts is imageMeasured before they are released. -/
def imageMeasured (s : State) : State :=
  match bootImage s s.start.bf1Boot 4 with
  | some (bs, old) => let s := extendChain s 4 (imagePayload bs); if old then recordOther s else s
  | none => s

theorem validHosts_congr {s t : State} (h : t.charter = s.charter) : validHosts t = validHosts s :=
  (congrArg (fun c => validHosts { s with charter := c }) h :)

theorem imageMeasured_rest (s : State) : (imageMeasured s).hosts = s.hosts ∧ (imageMeasured s).queues = s.queues ∧
    (imageMeasured s).cmds = s.cmds ∧ (imageMeasured s).charter = s.charter ∧ (imageMeasured s).service = s.service := by
  unfold imageMeasured
  split
  · dsimp only
    split <;> exact ⟨rfl, rfl, rfl, rfl, rfl⟩
  · exact ⟨rfl, rfl, rfl, rfl, rfl⟩

/-- Every host that can be released is; the others are lost. -/
def releaseAble (s : State) (able : List Nat) (image : List Byte) : State :=
  each ((validHosts s).filter fun h => !able.contains h) (fun h s => loseHost s h)
    (each able (fun h s => releaseHost s h image) (imageMeasured s))

theorem releaseHost_service (s : State) (h : Nat) (image : List Byte) : (releaseHost s h image).service = s.service :=
  (congrArg State.service (ldWrite_onlyMem s (carveEnd s h - 2 ^ 26) image true).rest :)

theorem ableHosts_imageMeasured (s : State) (ucieDown : BitVec 4) (image : Option (List Byte × Bool))
    (hi : image = bootImage s s.start.bf1Boot 4) :
    ((validHosts (imageMeasured s)).filter fun h =>
      image.isSome && (hostAt (imageMeasured s) h).linkUp && !ucieDown.getLsbD h) = ableHosts s ucieDown := by
  obtain ⟨hhosts, -, -, hcharter, -⟩ := imageMeasured_rest s
  rw [hi, validHosts_congr hcharter]
  unfold ableHosts hostAt
  rw [hhosts]

/-- Past the opening calls of a service phase, the release is that of every host that can be released, and the end of the start. -/
theorem releaseHosts_eq {s : State} (hph : s.service.ph = 2) (ucieDown : BitVec 4) :
    ∃ image u, releaseHosts s ucieDown = trainPorts (endStart u) ∧
      SameRelease (releaseAble s (ableHosts s ucieDown) image) u := by
  obtain ⟨-, -, -, hcharter, hservice⟩ := imageMeasured_rest s
  unfold releaseHosts
  extract_lets image s1 payload ok able chosen s2 s3 s4
  have hs1 : s1 = imageMeasured s := rfl
  have hable : able = ableHosts s ucieDown := ableHosts_imageMeasured s ucieDown image rfl
  have hph1 : s1.service.ph ≠ 3 := by rw [hs1, hservice, hph]; decide
  have hchosen : chosen = able := if_neg hph1
  have hs2 : s2 = each able (fun h s => releaseHost s h payload) (imageMeasured s) := by rw [← hchosen, ← hs1]
  obtain ⟨hservice2, hcharter2⟩ : s2.service = s1.service ∧ s2.charter = s1.charter :=
    each_invariant (P := fun t => t.service = s1.service ∧ t.charter = s1.charter)
      (fun h t ht => ⟨(releaseHost_service ..).trans ht.1, (releaseHost_charter ..).trans ht.2⟩) _ ⟨rfl, rfl⟩
  rw [if_neg (by rw [hservice2]; exact hph1)]
  refine ⟨payload, s4, rfl, ?_⟩
  have hs3 : s3 = releaseAble s (ableHosts s ucieDown) payload := by
    unfold releaseAble
    rw [← hable, ← hs2, ← validHosts_congr (hcharter2.trans hcharter)]
  rw [← hs3]
  exact each_sameRelease (fun n t => modPart_sameRelease ..) _ _

theorem validHosts_nodup (s : State) : (validHosts s).Nodup := upTo_nodup ..

/-- A host that is released stays so, whatever becomes of the others. -/
theorem releaseAble_released {s : State} {able : List Nat} {h : Nat} (hn : able.Nodup) (hm : h ∈ able) (image : List Byte) :
    (hostAt (releaseAble s able image) h).released = true := by
  refine each_invariant (P := fun t => (hostAt t h).released = true) (fun k t ht => (loseHost_released t k h).trans ht) _ ?_
  refine each_once (x := h) (A := fun _ => True)
    (B := fun t => (hostAt t h).released = true) (fun _ _ _ _ => trivial) (fun t _ => ?_) (fun k _ t hk ht => ?_) hn hm trivial
  · rw [hostAt_releaseHost, if_pos rfl]
  · rw [hostAt_releaseHost, if_neg hk, ht]

/-- A host that is released has its admin queue when no other host names the same one. -/
theorem releaseAble_admin {s : State} {able : List Nat} {h : Nat} (hn : able.Nodup) (hm : h ∈ able) (hs : s.cmds = [])
    (hu : ∀ k ∈ able, adminQueue s k = adminQueue s h → k = h) (image : List Byte) :
    queueAt (releaseAble s able image) (adminQueue s h) = adminOf s h := by
  obtain ⟨-, -, hcmds, hcharter, -⟩ := imageMeasured_rest s
  have hreleased : (each able (fun h s => releaseHost s h image) (imageMeasured s)).cmds = [] ∧
      queueAt (each able (fun h s => releaseHost s h image) (imageMeasured s)) (adminQueue s h) = adminOf s h := by
    have hall := each_once (f := fun h s => releaseHost s h image) (x := h) (A := fun t => t.cmds = [] ∧ t.charter = s.charter)
      (B := fun t => (t.cmds = [] ∧ t.charter = s.charter) ∧ queueAt t (adminQueue s h) = adminOf s h)
      (fun k t _ ht => ⟨(releaseHost_cmds ..).trans ht.1, (releaseHost_charter ..).trans ht.2⟩)
      (fun t ht => ⟨⟨(releaseHost_cmds ..).trans ht.1, (releaseHost_charter ..).trans ht.2⟩, ?_⟩)
      (fun k hk t hkh ht => ⟨⟨(releaseHost_cmds ..).trans ht.1.1, (releaseHost_charter ..).trans ht.1.2⟩, ?_⟩)
      hn hm (s := imageMeasured s) ⟨hcmds.trans hs, hcharter⟩
    · exact ⟨hall.1.1, hall.2⟩
    · rw [queueAt_releaseHost, (adminOf_congr ht.2 h).1, (adminOf_congr ht.2 h).2, if_pos rfl]
    · rw [queueAt_releaseHost, (adminOf_congr ht.1.2 k).2, if_neg fun e => hkh (hu k hk e.symm), ht.2]
  refine (List.foldlRecOn (motive := fun t => t.cmds = [] ∧ queueAt t (adminQueue s h) = adminOf s h) _ _ hreleased
    fun t ht k hk => ?_).2
  have hkh : h ≠ k := by
    rintro rfl
    simp [hm] at hk
  obtain ⟨hc, hq⟩ := loseHost_cmds ht.1 k
  exact ⟨hc, (hq _ (by rw [ht.2]; exact hkh)).trans ht.2⟩

theorem mem_ableHosts {s : State} {ucieDown : BitVec 4} {h : Nat} : h ∈ ableHosts s ucieDown ↔
    h ∈ validHosts s ∧ (bootImage s s.start.bf1Boot 4).isSome = true ∧ (hostAt s h).linkUp = true ∧ ucieDown.getLsbD h = false := by
  simp [ableHosts, and_assoc]

theorem ableHosts_nodup (s : State) (ucieDown : BitVec 4) : (ableHosts s ucieDown).Nodup := (validHosts_nodup s).filter _

/-- What the release makes of the host dies and the queues, and the mark it leaves. -/
theorem releaseHosts_released {s : State} (hph : s.service.ph = 2) (ucieDown : BitVec 4) :
    (releaseHosts s ucieDown).hostsReleased = true ∧ (releaseHosts s ucieDown).start.stage = .released ∧
      ∀ h ∈ ableHosts s ucieDown, (hostAt (releaseHosts s ucieDown) h).released = true ∧
        (s.cmds = [] → (∀ k ∈ validHosts s, adminQueue s k = adminQueue s h → k = h) →
          queueAt (releaseHosts s ucieDown) (adminQueue s h) = adminOf s h) := by
  obtain ⟨image, u, heq, hu⟩ := releaseHosts_eq hph ucieDown
  obtain ⟨hhosts, hqueues, hstage, hmark⟩ := endStart_released u
  have hp := trainPorts_sameRelease (endStart u)
  have hhosts' := (hp.hosts.trans hhosts).trans hu.hosts
  have hqueues' := (hp.queues.trans hqueues).trans hu.queues
  rw [heq]
  refine ⟨hp.marked.trans hmark, hp.stage.trans hstage, fun h hm => ⟨?_, fun hs huniq => ?_⟩⟩
  · rw [hostAt, hhosts']
    exact releaseAble_released (ableHosts_nodup ..) hm image
  · rw [queueAt_congr hqueues']
    exact releaseAble_admin (ableHosts_nodup ..) hm hs (fun k hk => huniq k (mem_ableHosts.mp hk).1) image

/-! ## The statement -/

theorem catalogueDue_phase {s : State} (h : catalogueDue s = true) : s.service.ph = 2 := by
  simp only [catalogueDue, Bool.and_eq_true, beq_iff_eq] at h
  exact h.1.1

theorem exec_catalogueBuild {s : State} (h : catalogueDue s = true) (failing : List Nat) :
    exec (.catalogueBuild failing) s = .next (buildCatalogue s failing) := by
  rw [exec, execCatalogueBuild, if_pos h]

theorem exec_hostRelease {s : State} (h : releaseDue s = true) (ucieDown : BitVec 4) :
    exec (.hostRelease ucieDown) s = .next (releaseHosts s ucieDown) := by
  rw [exec, execHostRelease, if_pos h]

/-- Settles O38: a partition that has passed keeps its home cores and its routes through the build, and a host that is released is
neither lost nor given another host's queue by the rest of the release. -/
theorem theStartBuildsAndReleases : Obligations.TheStartBuildsAndReleases := by
  unfold Obligations.TheStartBuildsAndReleases
  intro s
  refine ⟨fun failing hdue hroute hdevice hhome => ⟨_, exec_catalogueBuild hdue failing,
    buildCatalogue_built ⟨hroute, hdevice, hhome⟩ (catalogueDue_phase hdue) failing⟩, fun down hdue hph => ?_⟩
  obtain ⟨hmark, hstage, hhosts⟩ := releaseHosts_released hph down
  refine ⟨_, exec_hostRelease hdue down, hmark, hstage, fun h hvalid himage hlink hdown => ?_⟩
  obtain ⟨hreleased, hadmin⟩ := hhosts h (mem_ableHosts.mpr ⟨hvalid, himage, hlink, hdown⟩)
  refine ⟨hreleased, fun hs huniq => ?_⟩
  rw [hadmin hs huniq]
  exact ⟨rfl, rfl, rfl, rfl, rfl, rfl⟩

end Sys2Proof.Machine
end
